-- ==== Sys2Proof/Word.lean ====
section
/-! DEFINITION. The word types and their plainest arithmetic: 64-bit words, bytes, and the reading of a natural
number as a two's complement integer of a given width (spec/00_scope.md R6, R9). -/

namespace Sys2Proof

/-- A 64-bit register value (R62). -/
abbrev Word := BitVec 64

/-- One byte (R6: bytes are stored little-endian). -/
abbrev Byte := BitVec 8

/-- The two's complement value of the low `w` bits of `x` (R9 `sext`). -/
def signedOf (w x : Nat) : Int :=
  let v := x % 2 ^ w
  if 2 * v < 2 ^ w then (v : Int) else (v : Int) - (2 ^ w : Nat)

/-- The low `w` bits of an integer, as a natural number (R122: plain arithmetic wraps modulo 2^w). -/
def wrapTo (w : Nat) (x : Int) : Nat := (x % ((2 ^ w : Nat) : Int)).toNat

/-- `x` clamped to the range lo to hi (R9 `sat`). -/
def clampInt (lo hi x : Int) : Int := if x < lo then lo else if hi < x then hi else x

end Sys2Proof
end

