-- ==== Sys2Proof/Syntax.lean ====
section
/-! DEFINITION. The syntax: the operand types of the tail formats (R23, R36, R43) and the one inductive of
instructions and machine events, one constructor for each row of spec/opcode_table.json. Instruction rows carry
their operands; event rows carry what the outside world or the unit supplies. -/

namespace Sys2Proof

/-- The guard and yield fields of a head (R32): predicate number, sense (true: executes when the predicate is false), yield. -/
structure Guard where
  p   : BitVec 3
  neg : Bool
  y   : Bool
deriving DecidableEq, Repr

/-- Element types (R23, TY values 0 to 13 in order). -/
inductive Ty where
  | i8 | i16 | i32 | i64 | n8 | n16 | n32 | n64 | e4m3 | e5m2 | bf16 | f16 | f32 | f64
deriving DecidableEq, Repr

/-- The four scalar floating-point formats (R75, FN9 bits 1:0). -/
inductive FFmt where
  | f64 | f32 | f16 | bf16
deriving DecidableEq, Repr

/-- Rounding field RM (R23): five modes and the dynamic one. -/
inductive Rm where
  | rne | rtz | rup | rdn | rna | dyn
deriving DecidableEq, Repr

/-- Integer conditions (R66). -/
inductive Cond where
  | eq | ne | lt | ge | le | gt | ltn | gen | len | gtn
deriving DecidableEq, Repr

/-- Floating-point conditions (R80). -/
inductive FCond where
  | eq | ne | lt | le | un | ord
deriving DecidableEq, Repr

/-- Predicate and mask operations (R74, R150). -/
inductive PredOp where
  | and | or | xor | andn | not
deriving DecidableEq, Repr

/-- Scopes (R23, R190), SCP values 0 to 9 in order. -/
inductive Scope where
  | st | co | cl | di | pk | sh | dm | ho | io | sy
deriving DecidableEq, Repr

/-- The B operand of a T6-v instruction with its operand kind OK (R37, R137). -/
inductive BOp where
  | vec (r : BitVec 5)
  | scal (r : BitVec 5)
  | imm (i : BitVec 8)
deriving DecidableEq, Repr

/-- The operation of `vscan` (R158). -/
inductive ScanOp where
  | sum | max | min
deriving DecidableEq, Repr

/-- Message kinds between the protocol engines (R262), with a scatter-add on its way to its slice (R277) and word that a phase-free
access or addition has been abandoned (R98). -/
inductive MsgKind where
  | none | gets | getx | putd | push | claim | unc | inv | upd | data | ack | nack | add | quit
deriving DecidableEq, Repr

/-- A message in flight between a cluster's engine and a home (R262): its line, the cluster that raised the
transaction (16: the host, 17: another module, 18: a Bridle or multicast agent), the cluster it goes to, the bytes it carries as
(offset in the line, value), the fault it is marked with (R263 FLT; of a phase-free access, whether it writes), the writer it
stands for (R270), how often its home has refused it (R275), the type of a scatter-add (R277), whether a phase-free access goes
through a HOME page (R254), and whether its range check has been made (R258). -/
structure Msg where
  kind   : MsgKind
  line   : Nat
  req    : Nat
  dst    : Nat
  bytes  : List (Nat × Byte)
  flt    : Nat
  writer : Nat
  tries  : Nat := 0
  ty     : Option Ty := none
  own    : Bool := false
  checked : Bool := false
deriving DecidableEq, Repr

/-- The local events a cluster's engine raises itself (R262, codes 0 to 4). -/
inductive LocalEv where
  | load | store | pub | acq | evict
deriving DecidableEq, Repr

/-- What an access wants of a translation (R85, R281). -/
inductive Acc where
  | load | store | fetch
deriving DecidableEq, Repr

/-- A request packet of the stack protocol (R310): its header, the byte mask of a WRM, and the data of a WR or WRM. -/
structure StackReq where
  header : Word
  mask   : BitVec 32
  data   : List Byte
deriving DecidableEq, Repr

/-- A signed image (R346): its 256 header bytes and its body. -/
structure SignedImage where
  header : List Byte
  body   : List Byte
deriving DecidableEq, Repr

/-- What an error strikes in a register file (R105, R106 FILE). -/
inductive RegFile where
  | scalar | pred | vec | mask | accum
deriving DecidableEq, Repr

/-- A host access to device memory over CXL.mem or through a BAR, of 64 bits or, for an AtomicOp that is not `wide`, of 32 (R342), and
the host's acknowledgement of a back-invalidation (R343, R274). -/
inductive HostAccess where
  | read (off : Nat) (len : Nat)
  | write (off : Nat) (bytes : List Byte)
  | add (off : Nat) (wide : Bool) (v : Word)
  | swap (off : Nat) (wide : Bool) (v : Word)
  | cas (off : Nat) (wide : Bool) (old new : Word)
  | hostMemWrite (addr : Nat) (bytes : List Byte)
  | backInvAck (line : Nat)
deriving DecidableEq, Repr

/-- What every PTP message carries (R317, R318): its transport, its domain, and the port that sent it. -/
structure PtpHead where
  transport : BitVec 2
  domain    : BitVec 8
  source    : Word
deriving DecidableEq, Repr

/-- What a PTP delay response carries beside the request's own time (R317): when the request was received, and, between peers,
when the peer answered it. -/
structure PtpReply where
  received : Nat
  answered : Nat
deriving DecidableEq, Repr

/-- What an ATS answer says beside reading and writing (R285): execution, that the page is not to be snooped, and the address space
and cluster that it is for, when that is not the acting strand's. -/
structure AtsMore where
  x  : Bool
  nc : Bool
  target : Option (Nat × Nat) := none
deriving DecidableEq, Repr

/-- A request for measurements (R349): the index, and the slot whose key signs with the requester's nonce, if a signature is
asked for. -/
structure MeasurementAsk where
  index : Nat
  sign  : Option (Nat × BitVec 256)
deriving DecidableEq, Repr

/-- One member's part of a collective in another module, as its Bridle announces it (R368, R369). -/
structure PeerPart where
  rank  : Nat
  op    : Nat
  red   : Nat
  ty    : Nat
  root  : Nat
  len   : Nat
  data  : List Byte
  tag   : Nat := 0
deriving DecidableEq, Repr

/-- The instructions and machine events, one constructor per row of spec/opcode_table.json. -/
inductive Instr where
  -- === Instructions
  -- scalar integer (R63, R64)
  | add (g : Guard) (d a b : BitVec 5)
  | sub (g : Guard) (d a b : BitVec 5)
  | mul (g : Guard) (d a b : BitVec 5)
  | mulh (g : Guard) (d a b : BitVec 5)
  | mulhn (g : Guard) (d a b : BitVec 5)
  | div (g : Guard) (d a b : BitVec 5)
  | divn (g : Guard) (d a b : BitVec 5)
  | rem (g : Guard) (d a b : BitVec 5)
  | remn (g : Guard) (d a b : BitVec 5)
  | and (g : Guard) (d a b : BitVec 5)
  | or (g : Guard) (d a b : BitVec 5)
  | xor (g : Guard) (d a b : BitVec 5)
  | andn (g : Guard) (d a b : BitVec 5)
  | orn (g : Guard) (d a b : BitVec 5)
  | min (g : Guard) (d a b : BitVec 5)
  | max (g : Guard) (d a b : BitVec 5)
  | minn (g : Guard) (d a b : BitVec 5)
  | maxn (g : Guard) (d a b : BitVec 5)
  | shl (g : Guard) (d a b : BitVec 5)
  | shr (g : Guard) (d a b : BitVec 5)
  | sar (g : Guard) (d a b : BitVec 5)
  | rot (g : Guard) (d a b : BitVec 5)
  | clz (g : Guard) (d a : BitVec 5)
  | ctz (g : Guard) (d a : BitVec 5)
  | popc (g : Guard) (d a : BitVec 5)
  -- immediates, comparisons, fields (R65 to R74)
  | sel (g : Guard) (d a b : BitVec 5) (c : BitVec 3)
  | ext (g : Guard) (d a : BitVec 5) (ty : Ty)
  | bfx (g : Guard) (d a : BitVec 5) (pos len1 : BitVec 6) (sx : Bool)
  | bfi (g : Guard) (d a : BitVec 5) (pos len1 : BitVec 6)
  | lea (g : Guard) (d a b : BitVec 5) (sh : BitVec 3)
  | cmp (g : Guard) (cc : Cond) (d : BitVec 3) (a b : BitVec 5)
  | addi (g : Guard) (d a : BitVec 5) (imm : BitVec 22)
  | andi (g : Guard) (d a : BitVec 5) (imm : BitVec 22)
  | ori (g : Guard) (d a : BitVec 5) (imm : BitVec 22)
  | xori (g : Guard) (d a : BitVec 5) (imm : BitVec 22)
  | cmpi (g : Guard) (cc : Cond) (d : BitVec 3) (a : BitVec 5) (imm : BitVec 18)
  | li (g : Guard) (d : BitVec 5) (imm : Word)
  | lpc (g : Guard) (d : BitVec 5) (imm : BitVec 22)
  | pop (g : Guard) (op : PredOp) (d a b : BitVec 3)
  -- scalar floating point (R75 to R83)
  | fadd (g : Guard) (f : FFmt) (rm : Rm) (d a b : BitVec 5)
  | fsub (g : Guard) (f : FFmt) (rm : Rm) (d a b : BitVec 5)
  | fmul (g : Guard) (f : FFmt) (rm : Rm) (d a b : BitVec 5)
  | fma (g : Guard) (f : FFmt) (rm : Rm) (d a b c : BitVec 5)
  | fdiv (g : Guard) (f : FFmt) (rm : Rm) (d a b : BitVec 5)
  | fsqrt (g : Guard) (f : FFmt) (rm : Rm) (d a : BitVec 5)
  | fmin (g : Guard) (f : FFmt) (d a b : BitVec 5)
  | fmax (g : Guard) (f : FFmt) (d a b : BitVec 5)
  | fcmp (g : Guard) (f : FFmt) (cc : FCond) (d : BitVec 3) (a b : BitVec 5)
  | fcvt (g : Guard) (dty sty : Ty) (rm : Rm) (d a : BitVec 5)
  | fclass (g : Guard) (f : FFmt) (d a : BitVec 5)
  -- loads, stores, control, CSRs, system (R84 to R95)
  | ld (g : Guard) (ty : Ty) (d a : BitVec 5) (off : BitVec 24)
  | st (g : Guard) (ty : Ty) (d a : BitVec 5) (off : BitVec 24)
  | br (g : Guard) (dl : BitVec 24) (sl : BitVec 5)
  | jal (g : Guard) (dl : BitVec 24) (sl : BitVec 5)
  | jr (g : Guard) (d a : BitVec 5)
  | ret (g : Guard)
  | dbnz (g : Guard) (c : BitVec 3) (dl : BitVec 24) (sl : BitVec 5)
  | csrrd (g : Guard) (d : BitVec 5) (csr : BitVec 12)
  | csrwr (g : Guard) (d : BitVec 5) (csr : BitVec 12) (a : BitVec 5)
  | csrset (g : Guard) (d : BitVec 5) (csr : BitVec 12) (a : BitVec 5)
  | csrclr (g : Guard) (d : BitVec 5) (csr : BitVec 12) (a : BitVec 5)
  | sys (g : Guard) (imm : BitVec 22)
  | trap (g : Guard) (imm : BitVec 22)
  | eret (g : Guard)
  | park (g : Guard) (d a b : BitVec 5)
  | endStrand (g : Guard)
  | nop (g : Guard)
  | yield (g : Guard)
  | hint (g : Guard) (op : BitVec 3) (tl : BitVec 3) (tail : BitVec 96)
  -- vector configuration (R113 to R121)
  | vcfg (g : Guard) (d a : BitVec 5)
  | setvl (g : Guard) (d a : BitVec 5)
  | setvlW (g : Guard) (d a b : BitVec 5)
  -- vector integer (R141, R142)
  | vadd (g : Guard) (ty : Ty) (d a : BitVec 5) (b : BOp) (m : BitVec 3)
  | vsub (g : Guard) (ty : Ty) (d a : BitVec 5) (b : BOp) (m : BitVec 3)
  | vmul (g : Guard) (ty : Ty) (d a : BitVec 5) (b : BOp) (m : BitVec 3)
  | vmulh (g : Guard) (ty : Ty) (d a : BitVec 5) (b : BOp) (m : BitVec 3)
  | vmin (g : Guard) (ty : Ty) (d a : BitVec 5) (b : BOp) (m : BitVec 3)
  | vmax (g : Guard) (ty : Ty) (d a : BitVec 5) (b : BOp) (m : BitVec 3)
  | vand (g : Guard) (ty : Ty) (d a : BitVec 5) (b : BOp) (m : BitVec 3)
  | vor (g : Guard) (ty : Ty) (d a : BitVec 5) (b : BOp) (m : BitVec 3)
  | vxor (g : Guard) (ty : Ty) (d a : BitVec 5) (b : BOp) (m : BitVec 3)
  | vshl (g : Guard) (ty : Ty) (d a : BitVec 5) (b : BOp) (m : BitVec 3)
  | vshr (g : Guard) (ty : Ty) (d a : BitVec 5) (b : BOp) (m : BitVec 3)
  | vsar (g : Guard) (ty : Ty) (d a : BitVec 5) (b : BOp) (m : BitVec 3)
  | vadds (g : Guard) (ty : Ty) (d a : BitVec 5) (b : BOp) (m : BitVec 3)
  | vsubs (g : Guard) (ty : Ty) (d a : BitVec 5) (b : BOp) (m : BitVec 3)
  | vabs (g : Guard) (ty : Ty) (d a : BitVec 5) (m : BitVec 3)
  | vneg (g : Guard) (ty : Ty) (d a : BitVec 5) (m : BitVec 3)
  | vadc (g : Guard) (ty : Ty) (d a : BitVec 5) (b : BOp) (mo mi : BitVec 3)
  | vsbc (g : Guard) (ty : Ty) (d a : BitVec 5) (b : BOp) (mo mi : BitVec 3)
  -- vector floating point (R143 to R145)
  | vfadd (g : Guard) (ty : Ty) (rm : Rm) (d a : BitVec 5) (b : BOp) (m : BitVec 3)
  | vfsub (g : Guard) (ty : Ty) (rm : Rm) (d a : BitVec 5) (b : BOp) (m : BitVec 3)
  | vfmul (g : Guard) (ty : Ty) (rm : Rm) (d a : BitVec 5) (b : BOp) (m : BitVec 3)
  | vfma (g : Guard) (ty : Ty) (rm : Rm) (d a : BitVec 5) (b : BOp) (c : BitVec 5) (m : BitVec 3)
  | vfdiv (g : Guard) (ty : Ty) (rm : Rm) (d a : BitVec 5) (b : BOp) (m : BitVec 3)
  | vfsqrt (g : Guard) (ty : Ty) (rm : Rm) (d a : BitVec 5) (m : BitVec 3)
  | vfrcp (g : Guard) (ty : Ty) (rm : Rm) (d a : BitVec 5) (m : BitVec 3)
  | vfrsq (g : Guard) (ty : Ty) (rm : Rm) (d a : BitVec 5) (m : BitVec 3)
  | vfexp2 (g : Guard) (ty : Ty) (rm : Rm) (d a : BitVec 5) (m : BitVec 3)
  | vflog2 (g : Guard) (ty : Ty) (rm : Rm) (d a : BitVec 5) (m : BitVec 3)
  | vfmin (g : Guard) (ty : Ty) (d a : BitVec 5) (b : BOp) (m : BitVec 3)
  | vfmax (g : Guard) (ty : Ty) (d a : BitVec 5) (b : BOp) (m : BitVec 3)
  | vfclamp (g : Guard) (ty : Ty) (d a : BitVec 5) (scalars : Bool) (lo hi : BitVec 5) (m : BitVec 3)
  -- conversion and quantisation (R146 to R148)
  | vfcvt (g : Guard) (dty sty : Ty) (rm : Rm) (d a : BitVec 5) (m : BitVec 3)
  | vquant (g : Guard) (ty : Ty) (d a e : BitVec 5) (m : BitVec 3)
  | vdequant (g : Guard) (ty : Ty) (d a e : BitVec 5) (m : BitVec 3)
  -- comparisons and masks (R149 to R151)
  | vcmp (g : Guard) (cc : Cond) (ty : Ty) (d : BitVec 3) (a : BitVec 5) (b : BOp) (m : BitVec 3)
  | vfcmp (g : Guard) (cc : FCond) (ty : Ty) (d : BitVec 3) (a : BitVec 5) (b : BOp) (m : BitVec 3)
  | mop (g : Guard) (op : PredOp) (d a b : BitVec 3)
  | mpop (g : Guard) (d : BitVec 5) (a : BitVec 3)
  | mfirst (g : Guard) (d : BitVec 5) (a : BitVec 3)
  | mshup (g : Guard) (d a : BitVec 3) (b c : BitVec 5)
  | mshdn (g : Guard) (d a : BitVec 3) (b c : BitVec 5)
  -- permutations and moves (R152 to R154)
  | vslideUp (g : Guard) (ty : Ty) (d a : BitVec 5) (k : BOp) (m : BitVec 3)
  | vslideDown (g : Guard) (ty : Ty) (d a : BitVec 5) (k : BOp) (m : BitVec 3)
  | vperm (g : Guard) (ty : Ty) (d a b : BitVec 5) (m : BitVec 3)
  | vcompress (g : Guard) (ty : Ty) (d a : BitVec 5) (m : BitVec 3)
  | vexpand (g : Guard) (ty : Ty) (d a : BitVec 5) (m : BitVec 3)
  | vbcast (g : Guard) (ty : Ty) (d : BitVec 5) (b : BOp) (m : BitVec 3)
  | vid (g : Guard) (ty : Ty) (d : BitVec 5) (m : BitVec 3)
  | vmvs (g : Guard) (ty : Ty) (d a : BitVec 5) (i : BOp)
  | vsv (g : Guard) (ty : Ty) (d a : BitVec 5) (i : BOp)
  -- reductions, scan, softmax (R155 to R159)
  | vredsumF (g : Guard) (ty : Ty) (rm : Rm) (d a : BitVec 5) (start : Option (BitVec 5)) (m : BitVec 3)
  | vredsumC (g : Guard) (ty : Ty) (rm : Rm) (d a : BitVec 5) (start : Option (BitVec 5)) (m : BitVec 3)
  | vredsumCs (g : Guard) (ty : Ty) (rm : Rm) (d a : BitVec 5) (start : Option (BitVec 5)) (c : BitVec 5) (m : BitVec 3)
  | vredmax (g : Guard) (ty : Ty) (d a : BitVec 5) (start : Option (BitVec 5)) (m : BitVec 3)
  | vredmin (g : Guard) (ty : Ty) (d a : BitVec 5) (start : Option (BitVec 5)) (m : BitVec 3)
  | vredand (g : Guard) (ty : Ty) (d a : BitVec 5) (start : Option (BitVec 5)) (m : BitVec 3)
  | vredor (g : Guard) (ty : Ty) (d a : BitVec 5) (start : Option (BitVec 5)) (m : BitVec 3)
  | vscan (g : Guard) (op : ScanOp) (ty : Ty) (rm : Rm) (d a : BitVec 5) (start : Option (BitVec 5)) (m : BitVec 3)
  | vsmax (g : Guard) (d a sm sl sk : BitVec 5) (m : BitVec 3)
  -- vector memory (R160 to R170)
  | vld (g : Guard) (ty tyv : Ty) (d a : BitVec 5) (off : BitVec 24) (m : BitVec 3)
  | vlds (g : Guard) (ty tyv : Ty) (d a b : BitVec 5) (off : BitVec 24) (m : BitVec 3)
  | vldx (g : Guard) (ty tyv : Ty) (d a b : BitVec 5) (off : BitVec 24) (m : BitVec 3)
  | vldseg (g : Guard) (ty tyv : Ty) (d a : BitVec 5) (nf : BitVec 4) (off : BitVec 24) (m : BitVec 3)
  | vldff (g : Guard) (ty tyv : Ty) (d a : BitVec 5) (off : BitVec 24) (m : BitVec 3)
  | vst (g : Guard) (ty tyv : Ty) (d a : BitVec 5) (off : BitVec 24) (m : BitVec 3)
  | vsts (g : Guard) (ty tyv : Ty) (d a b : BitVec 5) (off : BitVec 24) (m : BitVec 3)
  | vstx (g : Guard) (ty tyv : Ty) (ord : Bool) (d a b : BitVec 5) (off : BitVec 24) (m : BitVec 3)
  | vstseg (g : Guard) (ty tyv : Ty) (d a : BitVec 5) (nf : BitVec 4) (off : BitVec 24) (m : BitVec 3)
  | vsadd (g : Guard) (ty : Ty) (sc : Scope) (ord : Bool) (d a b : BitVec 5) (off : BitVec 24) (m : BitVec 3)
  -- waits and fences (R171 to R174)
  | vwait (g : Guard) (d : BitVec 3) (a : BitVec 5) (b : BOp) (c : BitVec 5) (m : BitVec 3)
  | vfenceSv (g : Guard)
  | vfenceVs (g : Guard)
  | vfenceAll (g : Guard)
  -- accumulators (R175 to R180); e4m3 selects FN8 = 1
  | vop (g : Guard) (e4m3 : Bool) (d : BitVec 2) (a b : BitVec 5) (r1 : BitVec 8)
  | vopm (g : Guard) (e4m3 : Bool) (d : BitVec 2) (a b c : BitVec 5) (r1 : BitVec 8)
  | vopz (g : Guard) (d : BitVec 2)
  | vopr (g : Guard) (d : BitVec 5) (a : BitVec 2) (row : BOp) (mo m : BitVec 3)
  | mkiv (g : Guard) (d : BitVec 2) (a : BitVec 5)
  -- lookup (R206 to R228)
  | tshape (g : Guard) (d a : BitVec 5)
  | cbload (g : Guard) (a : BitVec 5)
  | tbuild (g : Guard) (nogate : Bool) (a b c : BitVec 5)
  | lkaccOw (g : Guard) (d a b c : BitVec 5)
  | lkaccAcc (g : Guard) (d a b c : BitVec 5)
  | lkaccDrn (g : Guard) (d a : BitVec 5) (fc : BitVec 5) (ncon1 : BitVec 3)
  | vdrn (g : Guard) (d c : BitVec 5)
  | lkwait (g : Guard) (d a : BitVec 5)
  -- Reel, claims, tethers, barrier, slabs, job sequencer (R229 to R252, R200)
  | cpwait (g : Guard) (sc : Scope) (d a : BitVec 5) (ch : BitVec 2)
  | claim (g : Guard) (d a b : BitVec 5)
  | pubh (g : Guard) (a b : BitVec 5)
  | barCl (g : Guard)
  | slabgrow (g : Guard) (d a b : BitVec 5) (z : BitVec 6) (ch : BitVec 2)
  | slabgrowRetire (g : Guard) (d a : BitVec 5)
  | slabst (g : Guard) (d a : BitVec 5)
  -- memory model (R187 to R198)
  | phase (g : Guard) (sc : Scope)
  | rel (g : Guard) (sc : Scope)
  | acq (g : Guard) (sc : Scope)
  | amoadd (g : Guard) (ty : Ty) (sc : Scope) (acq rel : Bool) (d a b : BitVec 5) (off : BitVec 24)
  | amofadd (g : Guard) (ty : Ty) (sc : Scope) (acq rel : Bool) (d a b : BitVec 5) (off : BitVec 24)
  | amomin (g : Guard) (ty : Ty) (sc : Scope) (acq rel : Bool) (d a b : BitVec 5) (off : BitVec 24)
  | amomax (g : Guard) (ty : Ty) (sc : Scope) (acq rel : Bool) (d a b : BitVec 5) (off : BitVec 24)
  | amoand (g : Guard) (ty : Ty) (sc : Scope) (acq rel : Bool) (d a b : BitVec 5) (off : BitVec 24)
  | amoor (g : Guard) (ty : Ty) (sc : Scope) (acq rel : Bool) (d a b : BitVec 5) (off : BitVec 24)
  | amoxor (g : Guard) (ty : Ty) (sc : Scope) (acq rel : Bool) (d a b : BitVec 5) (off : BitVec 24)
  | amoswap (g : Guard) (ty : Ty) (sc : Scope) (acq rel : Bool) (d a b : BitVec 5) (off : BitVec 24)
  | amocas (g : Guard) (ty : Ty) (sc : Scope) (acq rel : Bool) (d a b : BitVec 5) (off : BitVec 24)
  | ldfeKeep (g : Guard) (ty : Ty) (d a : BitVec 5) (off : BitVec 24)
  | ldfeClr (g : Guard) (ty : Ty) (d a : BitVec 5) (off : BitVec 24)
  | stfeFill (g : Guard) (ty : Ty) (d a : BitVec 5) (off : BitVec 24)
  | stfeWait (g : Guard) (ty : Ty) (d a : BitVec 5) (off : BitVec 24)
  | bankrole (g : Guard) (d a b : BitVec 5)
  -- coherence (R256 to R277)
  | rangeset (g : Guard) (d a b c : BitVec 5) (slot : BitVec 3) (v hc : Bool)
  | rangesetQ (g : Guard) (d a b c : BitVec 5) (slot : BitVec 3) (v hc : Bool)
  | rangerd (g : Guard) (d a : BitVec 5)
  | prtload (g : Guard) (d a b : BitVec 5)
  -- translation, launch, scheduling, context (R281 to R302)
  | tlbinv (g : Guard) (d a b : BitVec 5)
  | launch (g : Guard) (d a b : BitVec 5)
  | ctxsave (g : Guard) (d a : BitVec 5)
  | ctxload (g : Guard) (d a : BitVec 5)
  -- Windsock (R317 to R337)
  | strmset (g : Guard) (d a b : BitVec 5)
  | stappend (g : Guard) (d a b : BitVec 5)
  | tickarm (g : Guard) (d a b : BitVec 5)
  | tickoff (g : Guard) (d a : BitVec 5)
  -- fabric (R356 to R375)
  | mcst (g : Guard) (ty : Ty) (d a b : BitVec 5) (off : BitVec 24)
  | rld (g : Guard) (ty : Ty) (d a b : BitVec 5) (off : BitVec 24)
  | colwait (g : Guard) (sc : Scope) (d a : BitVec 5)
  -- === Events that the units of the module raise
  -- strand machinery (R19, R97, R98, R103, R94)
  | vqEnqueue (head : BitVec 16) (tail : BitVec 96)
  | scalarTrap (cause : BitVec 8) (val xpc : Word)
  | vqTrap (cause : BitVec 8) (val : Word) (elem : Nat)
  | pageFaultIntercept (va : Word) (acc : Acc) (fromVq : Bool) (elem : Nat)
  -- lookup (R206 to R228)
  | lkJobStart (cl : Nat)
  | lkSegment (cl : Nat)
  | lkJobComplete (cl : Nat)
  | lkJobSuspend (cl : Nat)
  | lkJobCancel (cl : Nat)
  -- Reel, claims, tethers, barrier, slabs, job sequencer (R229 to R252, R200)
  | reelStep (cl ch : Nat)
  | reelComplete (cl ch : Nat)
  | reelCancel (cl ch : Nat)
  | barrierGeneration (crew : Nat)
  | slabMoveStep (cl pair : Nat)
  | jobSequencerDispatch (cl : Nat)
  -- coherence (R256 to R277)
  | clusterInv (m : Msg)
  | clusterUpd (m : Msg)
  | clusterData (m : Msg)
  | clusterAck (m : Msg)
  | clusterNack (m : Msg)
  | nackBackoffRetry (cl line : Nat) (ev : LocalEv)
  | homeGets (m : Msg)
  | homeGetx (m : Msg)
  | homePutd (m : Msg)
  | homePush (m : Msg)
  | homeClaim (m : Msg)
  | homeUnc (m : Msg)
  | homeInvAck (m : Msg)
  | homeMem (line : Nat)
  | scatterAddChainClose (addr : Nat)
  -- translation, launch, scheduling, context (R281 to R302)
  | pageWalk (va : Word) (acc : Acc)
  | teardownComplete (q : Nat)
  | lqRecordIntake (q : Nat)
  | flightReady (f : Nat)
  | bindCrew (f : Nat)
  | quantumExpiry (crew : Nat)
  | recall (crew : Nat)
  | flightComplete (f : Nat)
  -- the Borben stack (R310 to R314)
  | stackReply (stack port tag : Nat)
  -- Windsock (R317 to R337)
  | tickDue (stream : Nat)
  | tickSigmaDeadline (stream : Nat)
  -- fabric (R356 to R375)
  | collectiveCheck (cl id : Nat) (peers : List PeerPart)
  | collectiveGranule (cl id : Nat) (granule : Nat)
  | collectiveComplete (cl id : Nat)
  | collectiveFail (cl id : Nat) (ecause : BitVec 4)
  -- === Events that come from outside, or that only an explicit schedule names
  -- strand machinery (R19, R97, R98, R103, R94)
  | waitYield
  | waitPollTimer
  -- loads, stores, control, CSRs, system (R84 to R95)
  | parkWake
  -- vector configuration (R113 to R121)
  | vcfgGrantWait
  | setvlWWake
  -- waits and fences (R171 to R174)
  | vwaitWake
  | vwaitTimeout
  -- lookup (R206 to R228)
  | sequencerPatch (img : SignedImage)
  -- memory model (R187 to R198)
  | fullEmptyWake
  -- translation, launch, scheduling, context (R281 to R302)
  | atsInvalidation (pasid base len : Nat)
  | atsInvalidationTimeout
  | priResponse (tag : Nat) (success : Bool)
  | faultRecordPost
  | frespWrite (v : Word)
  | lqtailWrite (q : Nat) (v : Word)
  | lqEnable (q : Nat) (v : Word)
  | queueTeardown (q : Nat)
  | queueReset (q : Nat)
  | registerWrite (off : Nat) (v : Word)
  -- the Borben stack (R310 to R314)
  | stackRd (stack : Nat) (r : StackReq)
  | stackWr (stack : Nat) (r : StackReq)
  | stackWrm (stack : Nat) (r : StackReq)
  | scrubUnit (stack : Nat) (unit : Nat)
  -- Windsock (R317 to R337)
  | ptpAnnounce (h : PtpHead) (priority1 clockClass clockAccuracy : BitVec 8) (variance : BitVec 16) (priority2 : BitVec 8) (gm : Word)
  | ptpSync (h : PtpHead) (twoStep : Bool) (seq : BitVec 16) (origin : Nat)
  | ptpDelayResponse (h : PtpHead) (sent : Nat) (reply : PtpReply)
  | ptmDialogue (master : Nat)
  | lockTimeout
  | ppsInEdge
  | ppsOutEdge
  | wsctlWrite (v : Word)
  | wsirtailWrite (v : Word)
  | ingestEntry
  -- package (R338 to R354)
  | shardGroupEnable (v : Word)
  | ucieLinkDown (link : Nat)
  | hostCxlMemAccess (x : HostAccess)
  | expanderLinkDown (port : Nat)
  | moduleReset (mooring sequencer spool : SignedImage)
  | clusterReset (cl : Nat)
  | spdmGetVersion
  | spdmGetCapabilities
  | spdmNegotiateAlgorithms (baseAsym baseHash : BitVec 32)
  | spdmGetDigests
  | spdmGetCertificate (slot offset length : Nat)
  | spdmChallenge (slot : Nat) (nonce : BitVec 256)
  | spdmGetMeasurements (ask : MeasurementAsk)
  | testModeEntry
  | powerMeasurement (watts : BitVec 12)
  | thermalThrottle
  | thermalTrip
  -- fabric (R356 to R375)
  | flitNak (port : Nat)
  | spoolLinkDown (port : Nat)
  | spgselWrite (v : Word)
  | groupInstall (v : Word)
  | groupInstallComplete
  | thermalThrottleEnd
  | ucieLinkTrained (link umod : Nat)
  | ptpFollowUp (h : PtpHead) (seq : BitVec 16) (origin : Nat)
  | atsTranslationCompletion (va : Word) (granted : Bool) (hostPage : Nat) (r w : Bool) (more : AtsMore)
  | registerFileUpset (file : RegFile) (reg : BitVec 5) (elem : Nat)
  | memoryDataError (key : Nat) (correctable : Bool) (table : Option (Nat × Nat × Nat × Nat))
  | reelLaunch (d : BitVec 5) (ch : BitVec 2)
  | scatterAddArrive (addr : Nat) (ty : Ty) (v : Word)
  | priorityAgeing (f : Nat)
  | remoteTimeout (module : Nat)
  | bridleLaunch (d : BitVec 5)
deriving DecidableEq, Repr

end Sys2Proof
end

