-- ==== Sys2Proof/WellFormed.lean ====
section
/-! DEFINITION. What a well-formed instruction is: the operand values that the tail formats and the sub-function
tables admit (R33, R43, R82, R136, R146, R156 to R160, R169, R196). Events are well formed as they stand. -/

namespace Sys2Proof

/-- Class int of R136. -/
def Ty.isInt : Ty → Bool
  | .i8 | .i16 | .i32 | .i64 | .n8 | .n16 | .n32 | .n64 => true
  | _ => false

/-- Class fp of R136. -/
def Ty.isFp : Ty → Bool
  | .bf16 | .f16 | .f32 | .f64 => true
  | _ => false

/-- Class any of R152: every type but e4m3 and e5m2. -/
def Ty.isAny (t : Ty) : Bool := t.isInt || t.isFp

/-- The signed integer types. -/
def Ty.isSigned : Ty → Bool
  | .i8 | .i16 | .i32 | .i64 => true
  | _ => false

/-- The width of an element in bits (R118, R123). -/
def Ty.width : Ty → Nat
  | .i8 | .n8 | .e4m3 | .e5m2 => 8
  | .i16 | .n16 | .bf16 | .f16 => 16
  | .i32 | .n32 | .f32 => 32
  | .i64 | .n64 | .f64 => 64

/-- The width of an element in bytes. -/
def Ty.bytes (t : Ty) : Nat := t.width / 8

/-- The types of the atomics other than `amofadd` (R196). -/
def Ty.isAmo : Ty → Bool
  | .i32 | .i64 | .n32 | .n64 => true
  | _ => false

/-- The types of `amofadd` (R196). -/
def Ty.isAmoF : Ty → Bool
  | .f32 | .f64 => true
  | _ => false

/-- The assigned pairs of `fcvt` (R82): destination, source. -/
def fcvtPair (d s : Ty) : Bool :=
  (!d.isInt && !s.isInt && d != s) || (d.isFp && s.isAmo) || (d.isAmo && s.isFp)

/-- The assigned pairs of `vfcvt` (R146): destination, source. -/
def vfcvtPair (d s : Ty) : Bool :=
  (!d.isInt && !s.isInt && d != s) || (d.isFp && s.isInt) || (d.isInt && s.isFp) || (d.isInt && s.isInt && d != s)

/-- The pairs of a vector memory access (R161). -/
def memPair (ty tyv : Ty) : Bool := ty == tyv || vfcvtPair ty tyv

/-- G = 0 with GS = 1 is no guard (R33 step 1). -/
def Guard.ok (g : Guard) : Bool := !(g.p == 0#3 && g.neg)

/-- The B operand is not an immediate. -/
def BOp.noImm : BOp → Bool
  | .imm _ => false
  | _ => true

/-- The B operand is a scalar register or an immediate. -/
def BOp.noVec : BOp → Bool
  | .vec _ => false
  | _ => true

/-- The scopes of an atomic: 1 to 9 (R196). -/
def Scope.notSt : Scope → Bool
  | .st => false
  | _ => true

/-- The scopes of `cpwait` and `colwait`: 2 to 9 (R238, R371). -/
def Scope.fromCl : Scope → Bool
  | .st | .co => false
  | _ => true

/-- The scopes of `vsadd`: 3 to 6 (R160). -/
def Scope.diToDm : Scope → Bool
  | .di | .pk | .sh | .dm => true
  | _ => false

/-- An integer operation has no rounding mode (R140). -/
def rmFor (ty : Ty) (rm : Rm) : Bool := !ty.isInt || rm == Rm.rne

/-- Three registers that must be pairwise different unless they are s0 (R159). -/
def distinctOrZero (a b : BitVec 5) : Bool := a != b || a == 0#5

/-- The field conditions of an instruction: the value of every operand lies among those its definition assigns. -/
def wellFormed : Instr → Bool
  | .add g _ _ _ | .sub g _ _ _ | .mul g _ _ _ | .mulh g _ _ _ | .mulhn g _ _ _ | .div g _ _ _ | .divn g _ _ _
  | .rem g _ _ _ | .remn g _ _ _ | .and g _ _ _ | .or g _ _ _ | .xor g _ _ _ | .andn g _ _ _ | .orn g _ _ _
  | .min g _ _ _ | .max g _ _ _ | .minn g _ _ _ | .maxn g _ _ _ | .shl g _ _ _ | .shr g _ _ _ | .sar g _ _ _
  | .rot g _ _ _ | .clz g _ _ | .ctz g _ _ | .popc g _ _ | .sel g _ _ _ _ | .lea g _ _ _ _ | .cmp g _ _ _ _
  | .addi g _ _ _ | .andi g _ _ _ | .ori g _ _ _ | .xori g _ _ _ | .cmpi g _ _ _ _ | .li g _ _ | .lpc g _ _
  | .fadd g _ _ _ _ _ | .fsub g _ _ _ _ _ | .fmul g _ _ _ _ _ | .fma g _ _ _ _ _ _ | .fdiv g _ _ _ _ _
  | .fsqrt g _ _ _ _ | .fmin g _ _ _ _ | .fmax g _ _ _ _ | .fcmp g _ _ _ _ _ | .fclass g _ _ _
  | .br g _ _ | .jal g _ _ | .jr g _ _ | .ret g | .dbnz g _ _ _ | .csrwr g _ _ _ | .csrset g _ _ _ | .csrclr g _ _ _
  | .csrrd g _ _ | .sys g _ | .trap g _ | .eret g | .park g _ _ _ | .endStrand g | .vcfg g _ _ | .setvl g _ _
  | .setvlW g _ _ _ | .mpop g _ _ | .mfirst g _ _ | .mshup g _ _ _ _ | .mshdn g _ _ _ _
  | .vfenceSv g | .vfenceVs g | .vfenceAll g | .vop g _ _ _ _ _ | .vopm g _ _ _ _ _ _ | .vopz g _ | .mkiv g _ _
  | .tshape g _ _ | .cbload g _ | .tbuild g _ _ _ _ | .lkaccOw g _ _ _ _ | .lkaccAcc g _ _ _ _ | .lkaccDrn g _ _ _ _
  | .vdrn g _ _ | .lkwait g _ _ | .claim g _ _ _ | .pubh g _ _ | .barCl g | .slabgrow g _ _ _ _ _ | .slabgrowRetire g _ _
  | .slabst g _ _ | .phase g _ | .rel g _ | .acq g _ | .bankrole g _ _ _ | .rangeset g _ _ _ _ _ _ _
  | .rangesetQ g _ _ _ _ _ _ _ | .rangerd g _ _ | .prtload g _ _ _ | .tlbinv g _ _ _ | .launch g _ _ _ | .ctxsave g _ _
  | .ctxload g _ _ | .strmset g _ _ _ | .stappend g _ _ _ | .tickarm g _ _ _ | .tickoff g _ _ => g.ok
  | .ext g _ _ ty => g.ok && (ty.isInt && ty != .i64 && ty != .n64)
  | .bfx g _ _ pos len1 _ | .bfi g _ _ pos len1 => g.ok && decide (pos.toNat + len1.toNat + 1 ≤ 64)
  | .pop g op _ _ b | .mop g op _ _ b => g.ok && (op != .not || b == 0#3)
  | .fcvt g d s _ _ _ => g.ok && fcvtPair d s
  | .ld g ty _ _ _ | .st g ty _ _ _ | .ldfeKeep g ty _ _ _ | .ldfeClr g ty _ _ _ | .stfeFill g ty _ _ _
  | .stfeWait g ty _ _ _ | .mcst g ty _ _ _ _ => g.ok && ty.isInt
  | .rld g ty _ _ _ _ => g.ok && (ty.isAmo || ty == .f32)
  | .nop g => g.ok && !g.y
  | .yield g => g.ok && g.y
  | .hint g op tl tail => g.ok && tl != 7#3 && !(op == 0#3 && tl == 0#3) && decide (tail.toNat < 2 ^ (16 * tl.toNat))
  | .vadd g ty _ _ _ _ | .vsub g ty _ _ _ _ | .vmul g ty _ _ _ _ | .vmulh g ty _ _ _ _ | .vmin g ty _ _ _ _
  | .vmax g ty _ _ _ _ | .vand g ty _ _ _ _ | .vor g ty _ _ _ _ | .vxor g ty _ _ _ _ | .vshl g ty _ _ _ _
  | .vshr g ty _ _ _ _ | .vsar g ty _ _ _ _ | .vadds g ty _ _ _ _ | .vsubs g ty _ _ _ _ | .vabs g ty _ _ _
  | .vneg g ty _ _ _ | .vadc g ty _ _ _ _ _ | .vsbc g ty _ _ _ _ _ | .vcmp g _ ty _ _ _ _ | .vid g ty _ _
  | .vredand g ty _ _ _ _ | .vredor g ty _ _ _ _ => g.ok && ty.isInt
  | .vfadd g ty _ _ _ b _ | .vfsub g ty _ _ _ b _ | .vfmul g ty _ _ _ b _ | .vfma g ty _ _ _ b _ _
  | .vfdiv g ty _ _ _ b _ | .vfmin g ty _ _ b _ | .vfmax g ty _ _ b _ | .vfcmp g _ ty _ _ b _ => g.ok && ty.isFp && b.noImm
  | .vfsqrt g ty _ _ _ _ | .vfrcp g ty _ _ _ _ | .vfrsq g ty _ _ _ _ | .vfexp2 g ty _ _ _ _ | .vflog2 g ty _ _ _ _
  | .vfclamp g ty _ _ _ _ _ _ => g.ok && ty.isFp
  | .vfcvt g dty sty rm d a _ =>
    g.ok && vfcvtPair dty sty && (!(dty.isInt && sty.isInt) || rm == Rm.rne) && (dty.width == sty.width || d != a)
  | .vquant g ty d a e _ => g.ok && (ty == .f32 || ty == .bf16) && d != a && d != e && a != e
  | .vdequant g ty d a e _ => g.ok && (ty == .f32 || ty == .bf16) && d != a && d != e
  | .vslideUp g ty d a k _ | .vslideDown g ty d a k _ => g.ok && ty.isAny && k.noVec && d != a
  | .vperm g ty d a b _ => g.ok && ty.isAny && d != a && d != b
  | .vcompress g ty d a _ | .vexpand g ty d a _ => g.ok && ty.isAny && d != a
  | .vbcast g ty _ b _ => g.ok && ty.isAny && b.noVec && (b.noImm || ty.isInt)
  | .vmvs g _ _ _ i | .vsv g _ _ _ i => g.ok && i.noVec
  | .vredsumF g ty rm _ _ _ _ | .vredsumC g ty rm _ _ _ _ => g.ok && ty.isAny && rmFor ty rm
  | .vredsumCs g ty _ _ _ _ _ _ => g.ok && ty.isFp
  | .vredmax g ty _ _ _ _ | .vredmin g ty _ _ _ _ => g.ok && ty.isAny
  | .vscan g op ty rm _ _ _ _ => g.ok && ty.isAny && ((op == .sum && ty.isFp) || rm == Rm.rne)
  | .vsmax g _ _ sm sl sk _ => g.ok && distinctOrZero sm sl && distinctOrZero sm sk && distinctOrZero sl sk
  | .vld g ty tyv _ _ _ _ | .vldff g ty tyv _ _ _ _ | .vlds g ty tyv _ _ _ _ _ | .vldx g ty tyv _ _ _ _ _ =>
    g.ok && memPair tyv ty
  | .vst g ty tyv _ _ _ _ | .vsts g ty tyv _ _ _ _ _ | .vstx g ty tyv _ _ _ _ _ _ => g.ok && memPair ty tyv
  | .vldseg g ty tyv _ _ nf _ _ => g.ok && memPair tyv ty && decide (2 ≤ nf.toNat ∧ nf.toNat ≤ 8)
  | .vstseg g ty tyv _ _ nf _ _ => g.ok && memPair ty tyv && decide (2 ≤ nf.toNat ∧ nf.toNat ≤ 8)
  | .vsadd g ty sc _ _ _ _ _ _ => g.ok && (ty.isAmo || ty.isAmoF) && sc.diToDm
  | .vwait g _ _ b _ _ => g.ok && b.noImm
  | .vopr g _ _ row _ _ => g.ok && row.noVec
  | .cpwait g sc _ _ _ | .colwait g sc _ _ => g.ok && sc.fromCl
  | .amoadd g ty sc _ _ _ _ _ _ | .amomin g ty sc _ _ _ _ _ _ | .amomax g ty sc _ _ _ _ _ _ | .amoand g ty sc _ _ _ _ _ _
  | .amoor g ty sc _ _ _ _ _ _ | .amoxor g ty sc _ _ _ _ _ _ | .amoswap g ty sc _ _ _ _ _ _
  | .amocas g ty sc _ _ _ _ _ _ => g.ok && ty.isAmo && sc.notSt
  | .amofadd g ty sc _ _ _ _ _ _ => g.ok && ty.isAmoF && sc.notSt
  | _ => true

end Sys2Proof
end

