-- ==== Sys2Proof/Decode.lean ====
section
/-! DEFINITION. The decoder: total on any head and tail, refusing by name (R32, R33, R36 to R43), and the encoder, written
from the same encoding tables. A word decodes to an instruction when its fields parse, the instruction is well formed,
and the encoding of that instruction is the word itself, so that every reserved field is zero (R33, R8). -/

namespace Sys2Proof

/-- Why a head or a tail is refused. -/
inductive DecodeError where
  /-- R33 step 1, R40: the opcode is not assigned. -/
  | unassignedOpcode
  /-- R33 step 1: TL is not that of the opcode's format. -/
  | wrongTailLength
  /-- R33 step 1: G = 0 with GS = 1. -/
  | badGuard
  /-- R33 step 2, R37: a field holds a value that its definition does not assign. -/
  | reservedValue
  /-- R33 step 2, R8: a reserved field is not zero. -/
  | reservedField
deriving DecidableEq, Repr

-- ## Codes of the small types (R23, R43, R66, R80)

/-- TY codes (R23). -/
def tyCode : Ty → BitVec 4
  | .i8 => 0 | .i16 => 1 | .i32 => 2 | .i64 => 3 | .n8 => 4 | .n16 => 5 | .n32 => 6 | .n64 => 7
  | .e4m3 => 8 | .e5m2 => 9 | .bf16 => 10 | .f16 => 11 | .f32 => 12 | .f64 => 13

/-- The type a TY code names (R23); 14 and 15 are reserved. -/
def tyOf (c : BitVec 4) : Option Ty :=
  match c.toNat with
  | 0 => some .i8 | 1 => some .i16 | 2 => some .i32 | 3 => some .i64 | 4 => some .n8 | 5 => some .n16
  | 6 => some .n32 | 7 => some .n64 | 8 => some .e4m3 | 9 => some .e5m2 | 10 => some .bf16 | 11 => some .f16
  | 12 => some .f32 | 13 => some .f64 | _ => none

/-- RM codes (R23). -/
def rmCode : Rm → BitVec 3
  | .rne => 0 | .rtz => 1 | .rup => 2 | .rdn => 3 | .rna => 4 | .dyn => 7

/-- The mode an RM code names (R23); 5 and 6 are reserved. -/
def rmOf (c : BitVec 3) : Option Rm :=
  match c.toNat with
  | 0 => some .rne | 1 => some .rtz | 2 => some .rup | 3 => some .rdn | 4 => some .rna | 7 => some .dyn | _ => none

/-- SCP codes (R23). -/
def scopeCode : Scope → BitVec 4
  | .st => 0 | .co => 1 | .cl => 2 | .di => 3 | .pk => 4 | .sh => 5 | .dm => 6 | .ho => 7 | .io => 8 | .sy => 9

/-- The scope an SCP code names (R23); 10 to 15 are reserved. -/
def scopeOf (c : BitVec 4) : Option Scope :=
  match c.toNat with
  | 0 => some .st | 1 => some .co | 2 => some .cl | 3 => some .di | 4 => some .pk | 5 => some .sh | 6 => some .dm
  | 7 => some .ho | 8 => some .io | 9 => some .sy | _ => none

/-- Integer condition codes (R66). -/
def condCode : Cond → Nat
  | .eq => 0 | .ne => 1 | .lt => 2 | .ge => 3 | .le => 4 | .gt => 5 | .ltn => 6 | .gen => 7 | .len => 8 | .gtn => 9

/-- The condition a code names (R66). -/
def condOf : Nat → Option Cond
  | 0 => some .eq | 1 => some .ne | 2 => some .lt | 3 => some .ge | 4 => some .le | 5 => some .gt | 6 => some .ltn
  | 7 => some .gen | 8 => some .len | 9 => some .gtn | _ => none

/-- Floating-point condition codes (R80). -/
def fcondCode : FCond → Nat
  | .eq => 0 | .ne => 1 | .lt => 2 | .le => 3 | .un => 4 | .ord => 5

/-- The floating-point condition a code names (R80). -/
def fcondOf : Nat → Option FCond
  | 0 => some .eq | 1 => some .ne | 2 => some .lt | 3 => some .le | 4 => some .un | 5 => some .ord | _ => none

/-- Predicate operation codes (R74). -/
def predOpCode : PredOp → Nat
  | .and => 0 | .or => 1 | .xor => 2 | .andn => 3 | .not => 4

/-- The predicate operation a code names (R74). -/
def predOpOf : Nat → Option PredOp
  | 0 => some .and | 1 => some .or | 2 => some .xor | 3 => some .andn | 4 => some .not | _ => none

/-- Format codes of the scalar floating-point instructions (R75). -/
def ffmtCode : FFmt → Nat
  | .f64 => 0 | .f32 => 1 | .f16 => 2 | .bf16 => 3

/-- The format a code names (R75). -/
def ffmtOf : Nat → Option FFmt
  | 0 => some .f64 | 1 => some .f32 | 2 => some .f16 | 3 => some .bf16 | _ => none

/-- Scan operation codes (R158). -/
def scanCode : ScanOp → Nat
  | .sum => 0 | .max => 1 | .min => 2

/-- The scan operation a code names (R158). -/
def scanOf : Nat → Option ScanOp
  | 0 => some .sum | 1 => some .max | 2 => some .min | _ => none

-- ## The tail formats (R36)

/-- T2-rrr. -/
def packT2 (d a b : BitVec 5) (x : BitVec 1) : BitVec 16 := x ++ b ++ a ++ d
/-- T4-rri. -/
def packRri (d a : BitVec 5) (imm : BitVec 22) : BitVec 32 := imm ++ a ++ d
/-- T4-br. -/
def packBr (dl : BitVec 24) (sl : BitVec 5) (f3 : BitVec 3) : BitVec 32 := f3 ++ sl ++ dl
/-- T4-rrrf. -/
def packRrrf (d a b c : BitVec 5) (rm : BitVec 3) (fn9 : BitVec 9) : BitVec 32 := fn9 ++ rm ++ c ++ b ++ a ++ d
/-- T6-v. -/
def packV (d a b c : BitVec 5) (m : BitVec 3) (ty : BitVec 4) (rm : BitVec 3) (ok : BitVec 2) (fn8 imm8 : BitVec 8) :
    BitVec 48 := imm8 ++ fn8 ++ ok ++ rm ++ ty ++ m ++ c ++ b ++ a ++ d
/-- T8-vm. -/
def packVm (d a b : BitVec 5) (m : BitVec 3) (ty tyv scp : BitVec 4) (ord : BitVec 2) (fn4 nf : BitVec 4)
    (off : BitVec 24) : BitVec 64 := off ++ nf ++ fn4 ++ ord ++ scp ++ tyv ++ ty ++ m ++ b ++ a ++ d
/-- T10-li. -/
def packLi (d : BitVec 5) (imm : Word) : BitVec 80 := imm ++ (0#11 : BitVec 11) ++ d
/-- T12-eng. -/
def packEng (d a b c : BitVec 5) (m : BitVec 3) (scp : BitVec 4) (fn5 : BitVec 5) (i0 i1 : BitVec 32) : BitVec 96 :=
  i1 ++ i0 ++ fn5 ++ scp ++ m ++ c ++ b ++ a ++ d

-- ## Encoding

/-- The head (R32). -/
def encHead (op : Nat) (tl : BitVec 3) (g : Guard) : BitVec 16 :=
  tl ++ BitVec.ofNat 8 op ++ g.p ++ BitVec.ofBool g.neg ++ BitVec.ofBool g.y

/-- The words of an instruction: its head, and its tail extended with zeros to 96 bits. -/
abbrev Words := BitVec 16 × BitVec 96

/-- A T0 instruction. -/
def eT0 (op : Nat) (g : Guard) : Option Words := some (encHead op 0 g, 0)
/-- A T2-rrr instruction. -/
def eT2 (op : Nat) (g : Guard) (d a b : BitVec 5) (x : BitVec 1) : Option Words :=
  some (encHead op 1 g, (packT2 d a b x).setWidth 96)
/-- A T4-rri instruction. -/
def eRri (op : Nat) (g : Guard) (d a : BitVec 5) (imm : BitVec 22) : Option Words :=
  some (encHead op 2 g, (packRri d a imm).setWidth 96)
/-- A T4-br instruction. -/
def eBr (op : Nat) (g : Guard) (dl : BitVec 24) (sl : BitVec 5) (f3 : BitVec 3) : Option Words :=
  some (encHead op 2 g, (packBr dl sl f3).setWidth 96)
/-- A T4-rrrf instruction. -/
def eRrrf (op : Nat) (g : Guard) (d a b c : BitVec 5) (rm : BitVec 3) (fn9 : Nat) : Option Words :=
  some (encHead op 2 g, (packRrrf d a b c rm (BitVec.ofNat 9 fn9)).setWidth 96)
/-- A T6-v instruction. -/
def eV (op : Nat) (g : Guard) (d a b c : BitVec 5) (m : BitVec 3) (ty : BitVec 4) (rm : BitVec 3) (ok : BitVec 2)
    (fn8 : Nat) (imm8 : BitVec 8) : Option Words :=
  some (encHead op 3 g, (packV d a b c m ty rm ok (BitVec.ofNat 8 fn8) imm8).setWidth 96)
/-- A T8-vm instruction. -/
def eVm (op : Nat) (g : Guard) (d a b : BitVec 5) (m : BitVec 3) (ty tyv scp : BitVec 4) (ord : BitVec 2)
    (fn4 nf : BitVec 4) (off : BitVec 24) : Option Words :=
  some (encHead op 4 g, (packVm d a b m ty tyv scp ord fn4 nf off).setWidth 96)
/-- The T10-li instruction. -/
def eLi (op : Nat) (g : Guard) (d : BitVec 5) (imm : Word) : Option Words :=
  some (encHead op 5 g, (packLi d imm).setWidth 96)
/-- A T12-eng instruction. -/
def eEng (op : Nat) (g : Guard) (d a b c : BitVec 5) (fn5 : BitVec 5) (i0 i1 : BitVec 32) : Option Words :=
  some (encHead op 6 g, packEng d a b c 0 0 fn5 i0 i1)

/-- A predicate or mask number as a 5-bit register field. -/
def reg3 (r : BitVec 3) : BitVec 5 := r.setWidth 5
/-- An accumulator number as a 5-bit register field. -/
def reg2 (r : BitVec 2) : BitVec 5 := r.setWidth 5

/-- The B field of a B operand (R137). -/
def bField : BOp → BitVec 5
  | .vec r => r | .scal r => r | .imm _ => 0
/-- The OK field of a B operand (R37). -/
def bKind : BOp → BitVec 2
  | .vec _ => 0 | .scal _ => 1 | .imm _ => 2
/-- The IMM8 field of a B operand (R37). -/
def bImm : BOp → BitVec 8
  | .imm i => i | _ => 0
/-- The B field of an optional start value (R155). -/
def startField : Option (BitVec 5) → BitVec 5
  | some r => r | none => 0
/-- The OK field of an optional start value (R155). -/
def startKind : Option (BitVec 5) → BitVec 2
  | some _ => 1 | none => 0
/-- ORD (R37). -/
def ordCode (o : Bool) : BitVec 2 := if o then 1 else 0

/-- A T6-v instruction with a B operand. -/
def eVB (op : Nat) (g : Guard) (d a : BitVec 5) (b : BOp) (c : BitVec 5) (m : BitVec 3) (ty : BitVec 4) (rm : BitVec 3)
    (fn8 : Nat) : Option Words := eV op g d a (bField b) c m ty rm (bKind b) fn8 (bImm b)

/-- An atomic (R196). -/
def eAmo (op : Nat) (g : Guard) (ty : Ty) (sc : Scope) (acq rel : Bool) (d a b : BitVec 5) (off : BitVec 24) :
    Option Words :=
  eVm op g d a b 0 (tyCode ty) 0 (scopeCode sc) 0 ((0#2 : BitVec 2) ++ BitVec.ofBool rel ++ BitVec.ofBool acq) 0 off

/-- The I0 field of `rangeset` (R256). -/
def rangeAttr (slot : BitVec 3) (v hc : Bool) : BitVec 32 :=
  (0#27 : BitVec 27) ++ BitVec.ofBool hc ++ BitVec.ofBool v ++ slot

/-- The encoder: the words of an instruction, from the encoding tables (R36, R39, R43 and the definitions); events have
none. -/
def encode : Instr → Option Words
  | .add g d a b => eT2 0x01 g d a b 0
  | .sub g d a b => eT2 0x02 g d a b 0
  | .mul g d a b => eT2 0x03 g d a b 0
  | .mulh g d a b => eT2 0x04 g d a b 0
  | .mulhn g d a b => eT2 0x05 g d a b 0
  | .div g d a b => eT2 0x06 g d a b 0
  | .divn g d a b => eT2 0x07 g d a b 0
  | .rem g d a b => eT2 0x08 g d a b 0
  | .remn g d a b => eT2 0x09 g d a b 0
  | .and g d a b => eT2 0x0A g d a b 0
  | .or g d a b => eT2 0x0B g d a b 0
  | .xor g d a b => eT2 0x0C g d a b 0
  | .andn g d a b => eT2 0x0D g d a b 0
  | .orn g d a b => eT2 0x0E g d a b 0
  | .min g d a b => eT2 0x0F g d a b 0
  | .max g d a b => eT2 0x10 g d a b 0
  | .minn g d a b => eT2 0x11 g d a b 0
  | .maxn g d a b => eT2 0x12 g d a b 0
  | .shl g d a b => eT2 0x13 g d a b 0
  | .shr g d a b => eT2 0x14 g d a b 0
  | .sar g d a b => eT2 0x15 g d a b 0
  | .rot g d a b => eT2 0x16 g d a b 0
  | .clz g d a => eT2 0x17 g d a 0 0
  | .ctz g d a => eT2 0x18 g d a 0 0
  | .popc g d a => eT2 0x19 g d a 0 0
  | .sel g d a b c => eRrrf 0x1A g d a b (reg3 c) 0 0
  | .ext g d a ty => eRri 0x1B g d a ((tyCode ty).setWidth 22)
  | .bfx g d a pos len1 sx => eRri 0x1C g d a ((0#9 : BitVec 9) ++ BitVec.ofBool sx ++ len1 ++ pos)
  | .bfi g d a pos len1 => eRri 0x1D g d a ((0#10 : BitVec 10) ++ len1 ++ pos)
  | .lea g d a b sh => eRrrf 0x1E g d a b 0 0 sh.toNat
  | .cmp g cc d a b => eRrrf 0x1F g (reg3 d) a b 0 0 (condCode cc)
  | .addi g d a imm => eRri 0x20 g d a imm
  | .andi g d a imm => eRri 0x21 g d a imm
  | .ori g d a imm => eRri 0x22 g d a imm
  | .xori g d a imm => eRri 0x23 g d a imm
  | .cmpi g cc d a imm => eRri 0x24 g (reg3 d) a (imm ++ BitVec.ofNat 4 (condCode cc))
  | .li g d imm => eLi 0x25 g d imm
  | .lpc g d imm => eRri 0x26 g d 0 imm
  | .pop g op d a b => eRrrf 0x27 g (reg3 d) (reg3 a) (reg3 b) 0 0 (predOpCode op)
  | .fadd g f rm d a b => eRrrf 0x28 g d a b 0 (rmCode rm) (ffmtCode f)
  | .fsub g f rm d a b => eRrrf 0x29 g d a b 0 (rmCode rm) (ffmtCode f)
  | .fmul g f rm d a b => eRrrf 0x2A g d a b 0 (rmCode rm) (ffmtCode f)
  | .fma g f rm d a b c => eRrrf 0x2B g d a b c (rmCode rm) (ffmtCode f)
  | .fdiv g f rm d a b => eRrrf 0x2C g d a b 0 (rmCode rm) (ffmtCode f)
  | .fsqrt g f rm d a => eRrrf 0x2D g d a 0 0 (rmCode rm) (ffmtCode f)
  | .fmin g f d a b => eRrrf 0x2E g d a b 0 0 (ffmtCode f)
  | .fmax g f d a b => eRrrf 0x2F g d a b 0 0 (ffmtCode f)
  | .fcmp g f cc d a b => eRrrf 0x30 g (reg3 d) a b 0 0 (fcondCode cc * 4 + ffmtCode f)
  | .fcvt g dty sty rm d a => eRrrf 0x31 g d a 0 0 (rmCode rm) ((tyCode sty).toNat * 16 + (tyCode dty).toNat)
  | .fclass g f d a => eRrrf 0x32 g d a 0 0 0 (ffmtCode f)
  | .ld g ty d a off => eVm 0x33 g d a 0 0 (tyCode ty) 0 0 0 0 0 off
  | .st g ty d a off => eVm 0x34 g d a 0 0 (tyCode ty) 0 0 0 0 0 off
  | .br g dl sl => eBr 0x35 g dl sl 0
  | .jal g dl sl => eBr 0x36 g dl sl 0
  | .jr g d a => eT2 0x37 g d a 0 0
  | .ret g => eT0 0x38 g
  | .dbnz g c dl sl => eBr 0x39 g dl sl c
  | .csrrd g d csr => eRri 0x3A g d 0 (csr.setWidth 22)
  | .csrwr g d csr a => eRri 0x3B g d a (csr.setWidth 22)
  | .csrset g d csr a => eRri 0x3C g d a (csr.setWidth 22)
  | .csrclr g d csr a => eRri 0x3D g d a (csr.setWidth 22)
  | .sys g imm => eRri 0xD0 g 0 0 imm
  | .trap g imm => eRri 0xD1 g 0 0 imm
  | .eret g => eT0 0xD2 g
  | .park g d a b => eT2 0xD3 g d a b 0
  | .endStrand g => eT0 0xD4 g
  | .nop g => eT0 0xF0 g
  | .yield g => eT0 0xF0 g
  | .hint g op tl tail => some (encHead (0xF0 + op.toNat) tl g, tail)
  | .vcfg g d a => eT2 0x40 g d a 0 0
  | .setvl g d a => eT2 0x41 g d a 0 0
  | .setvlW g d a b => eT2 0x41 g d a b 1
  | .vadd g ty d a b m => eVB 0x42 g d a b 0 m (tyCode ty) 0 0
  | .vsub g ty d a b m => eVB 0x43 g d a b 0 m (tyCode ty) 0 0
  | .vmul g ty d a b m => eVB 0x44 g d a b 0 m (tyCode ty) 0 0
  | .vmulh g ty d a b m => eVB 0x45 g d a b 0 m (tyCode ty) 0 0
  | .vmin g ty d a b m => eVB 0x46 g d a b 0 m (tyCode ty) 0 0
  | .vmax g ty d a b m => eVB 0x47 g d a b 0 m (tyCode ty) 0 0
  | .vand g ty d a b m => eVB 0x48 g d a b 0 m (tyCode ty) 0 0
  | .vor g ty d a b m => eVB 0x49 g d a b 0 m (tyCode ty) 0 0
  | .vxor g ty d a b m => eVB 0x4A g d a b 0 m (tyCode ty) 0 0
  | .vshl g ty d a b m => eVB 0x4B g d a b 0 m (tyCode ty) 0 0
  | .vshr g ty d a b m => eVB 0x4C g d a b 0 m (tyCode ty) 0 0
  | .vsar g ty d a b m => eVB 0x4D g d a b 0 m (tyCode ty) 0 0
  | .vadds g ty d a b m => eVB 0x4E g d a b 0 m (tyCode ty) 0 0
  | .vsubs g ty d a b m => eVB 0x4F g d a b 0 m (tyCode ty) 0 0
  | .vabs g ty d a m => eV 0x50 g d a 0 0 m (tyCode ty) 0 0 0 0
  | .vneg g ty d a m => eV 0x51 g d a 0 0 m (tyCode ty) 0 0 0 0
  | .vadc g ty d a b mo mi => eVB 0x52 g d a b (reg3 mo) mi (tyCode ty) 0 0
  | .vsbc g ty d a b mo mi => eVB 0x53 g d a b (reg3 mo) mi (tyCode ty) 0 0
  | .vfadd g ty rm d a b m => eVB 0x54 g d a b 0 m (tyCode ty) (rmCode rm) 0
  | .vfsub g ty rm d a b m => eVB 0x55 g d a b 0 m (tyCode ty) (rmCode rm) 0
  | .vfmul g ty rm d a b m => eVB 0x56 g d a b 0 m (tyCode ty) (rmCode rm) 0
  | .vfma g ty rm d a b c m => eVB 0x57 g d a b c m (tyCode ty) (rmCode rm) 0
  | .vfdiv g ty rm d a b m => eVB 0x58 g d a b 0 m (tyCode ty) (rmCode rm) 0
  | .vfsqrt g ty rm d a m => eV 0x59 g d a 0 0 m (tyCode ty) (rmCode rm) 0 0 0
  | .vfrcp g ty rm d a m => eV 0x5A g d a 0 0 m (tyCode ty) (rmCode rm) 0 0 0
  | .vfrsq g ty rm d a m => eV 0x5B g d a 0 0 m (tyCode ty) (rmCode rm) 0 0 0
  | .vfexp2 g ty rm d a m => eV 0x5C g d a 0 0 m (tyCode ty) (rmCode rm) 0 0 0
  | .vflog2 g ty rm d a m => eV 0x5D g d a 0 0 m (tyCode ty) (rmCode rm) 0 0 0
  | .vfmin g ty d a b m => eVB 0x5E g d a b 0 m (tyCode ty) 0 0
  | .vfmax g ty d a b m => eVB 0x5F g d a b 0 m (tyCode ty) 0 0
  | .vfclamp g ty d a sc lo hi m => eV 0x60 g d a lo hi m (tyCode ty) 0 (ordCode sc) 0 0
  | .vfcvt g dty sty rm d a m => eV 0x61 g d a 0 0 m (tyCode dty) (rmCode rm) 0 (tyCode sty).toNat 0
  | .vquant g ty d a e m => eV 0x62 g d a 0 e m (tyCode ty) 0 0 0 0
  | .vdequant g ty d a e m => eV 0x63 g d a 0 e m (tyCode ty) 0 0 0 0
  | .vcmp g cc ty d a b m => eVB 0x64 g (reg3 d) a b 0 m (tyCode ty) 0 (condCode cc)
  | .vfcmp g cc ty d a b m => eVB 0x65 g (reg3 d) a b 0 m (tyCode ty) 0 (fcondCode cc)
  | .mop g op d a b => eV 0x66 g (reg3 d) (reg3 a) (reg3 b) 0 0 0 0 0 (predOpCode op) 0
  | .mshup g d a b c => eV 0x67 g (reg3 d) (reg3 a) b c 0 0 0 1 0 0
  | .mshdn g d a b c => eV 0x68 g (reg3 d) (reg3 a) b c 0 0 0 1 0 0
  | .mpop g d a => eV 0x69 g d (reg3 a) 0 0 0 0 0 0 0 0
  | .mfirst g d a => eV 0x6A g d (reg3 a) 0 0 0 0 0 0 0 0
  | .vslideUp g ty d a k m => eVB 0x6B g d a k 0 m (tyCode ty) 0 0
  | .vslideDown g ty d a k m => eVB 0x6B g d a k 0 m (tyCode ty) 0 1
  | .vperm g ty d a b m => eV 0x6C g d a b 0 m (tyCode ty) 0 0 0 0
  | .vcompress g ty d a m => eV 0x6D g d a 0 0 m (tyCode ty) 0 0 0 0
  | .vexpand g ty d a m => eV 0x6E g d a 0 0 m (tyCode ty) 0 0 0 0
  | .vbcast g ty d b m => eVB 0x6F g d 0 b 0 m (tyCode ty) 0 0
  | .vmvs g ty d a i => eVB 0x70 g d a i 0 0 (tyCode ty) 0 0
  | .vsv g ty d a i => eVB 0x71 g d a i 0 0 (tyCode ty) 0 0
  | .vid g ty d m => eV 0x72 g d 0 0 0 m (tyCode ty) 0 0 0 0
  | .vredsumF g ty rm d a st m => eV 0x73 g d a (startField st) 0 m (tyCode ty) (rmCode rm) (startKind st) 0 0
  | .vredsumC g ty rm d a st m => eV 0x73 g d a (startField st) 0 m (tyCode ty) (rmCode rm) (startKind st) 1 0
  | .vredsumCs g ty rm d a st c m => eV 0x73 g d a (startField st) c m (tyCode ty) (rmCode rm) (startKind st) 2 0
  | .vredmax g ty d a st m => eV 0x74 g d a (startField st) 0 m (tyCode ty) 0 (startKind st) 0 0
  | .vredmin g ty d a st m => eV 0x75 g d a (startField st) 0 m (tyCode ty) 0 (startKind st) 0 0
  | .vredand g ty d a st m => eV 0x76 g d a (startField st) 0 m (tyCode ty) 0 (startKind st) 0 0
  | .vredor g ty d a st m => eV 0x77 g d a (startField st) 0 m (tyCode ty) 0 (startKind st) 0 0
  | .vscan g op ty rm d a st m => eV 0x78 g d a (startField st) 0 m (tyCode ty) (rmCode rm) (startKind st) (scanCode op) 0
  | .vsmax g d a sm sl sk m => eV 0x79 g d a sm sl m (tyCode .f32) 0 1 0 (sk.setWidth 8)
  | .vld g ty tyv d a off m => eVm 0x80 g d a 0 m (tyCode ty) (tyCode tyv) 0 0 0 0 off
  | .vlds g ty tyv d a b off m => eVm 0x81 g d a b m (tyCode ty) (tyCode tyv) 0 0 0 0 off
  | .vldx g ty tyv d a b off m => eVm 0x82 g d a b m (tyCode ty) (tyCode tyv) 0 0 0 0 off
  | .vldseg g ty tyv d a nf off m => eVm 0x83 g d a 0 m (tyCode ty) (tyCode tyv) 0 0 0 nf off
  | .vldff g ty tyv d a off m => eVm 0x84 g d a 0 m (tyCode ty) (tyCode tyv) 0 0 0 0 off
  | .vst g ty tyv d a off m => eVm 0x85 g d a 0 m (tyCode ty) (tyCode tyv) 0 0 0 0 off
  | .vsts g ty tyv d a b off m => eVm 0x86 g d a b m (tyCode ty) (tyCode tyv) 0 0 0 0 off
  | .vstx g ty tyv o d a b off m => eVm 0x87 g d a b m (tyCode ty) (tyCode tyv) 0 (ordCode o) 0 0 off
  | .vstseg g ty tyv d a nf off m => eVm 0x88 g d a 0 m (tyCode ty) (tyCode tyv) 0 0 0 nf off
  | .vsadd g ty sc o d a b off m => eVm 0x89 g d a b m (tyCode ty) (tyCode ty) (scopeCode sc) (ordCode o) 0 0 off
  | .vwait g d a b c m => eVB 0x8A g (reg3 d) a b c m (tyCode .n64) 0 0
  | .vfenceSv g => eRrrf 0x8B g 0 0 0 0 0 1
  | .vfenceVs g => eRrrf 0x8B g 0 0 0 0 0 2
  | .vfenceAll g => eRrrf 0x8B g 0 0 0 0 0 3
  | .vop g f d a b r1 => eV 0x90 g (reg2 d) a b 0 0 0 0 0 (if f then 1 else 0) r1
  | .vopm g f d a b c r1 => eV 0x91 g (reg2 d) a b c 0 0 0 0 (if f then 1 else 0) r1
  | .vopz g d => eV 0x92 g (reg2 d) 0 0 0 0 0 0 0 0 0
  | .vopr g d a row mo m => eVB 0x93 g d (reg2 a) row (reg3 mo) m (tyCode .f32) 0 0
  | .mkiv g d a => eV 0x94 g (reg2 d) a 0 0 0 0 0 0 0 0
  | .tshape g d a => eT2 0xA0 g d a 0 0
  | .cbload g a => eT2 0xA1 g 0 a 0 0
  | .tbuild g ng a b c => eEng 0xA2 g 0 a b c 0 (if ng then 1 else 0) 0
  | .lkaccOw g d a b c => eEng 0xA3 g d a b c 0 0 0
  | .lkaccAcc g d a b c => eEng 0xA3 g d a b c 0 1 0
  | .lkaccDrn g d a fc n => eEng 0xA3 g d a 0 0 0 2 ((0#24 : BitVec 24) ++ n ++ fc)
  | .vdrn g d c => eV 0xA4 g d 0 0 c 0 (tyCode .f32) 0 0 0 0
  | .lkwait g d a => eT2 0xA5 g d a 0 0
  | .cpwait g sc d a ch => eVm 0xA8 g d a 0 0 0 0 (scopeCode sc) 0 0 0 (ch.setWidth 24)
  | .claim g d a b => eT2 0xA9 g d a b 0
  | .pubh g a b => eT2 0xAA g 0 a b 0
  | .barCl g => eT0 0xAB g
  | .slabgrow g d a b z ch => eEng 0xAC g d a b 0 0 ((0#22 : BitVec 22) ++ ch ++ (0#2 : BitVec 2) ++ z) 0
  | .slabgrowRetire g d a => eEng 0xAC g d a 0 0 0 64 0
  | .slabst g d a => eT2 0xAD g d a 0 0
  | .phase g sc => eVm 0xC0 g 0 0 0 0 0 0 (scopeCode sc) 0 0 0 0
  | .rel g sc => eVm 0xC1 g 0 0 0 0 0 0 (scopeCode sc) 0 0 0 0
  | .acq g sc => eVm 0xC2 g 0 0 0 0 0 0 (scopeCode sc) 0 0 0 0
  | .amoadd g ty sc q r d a b off => eAmo 0xC3 g ty sc q r d a b off
  | .amofadd g ty sc q r d a b off => eAmo 0xC4 g ty sc q r d a b off
  | .amomin g ty sc q r d a b off => eAmo 0xC5 g ty sc q r d a b off
  | .amomax g ty sc q r d a b off => eAmo 0xC6 g ty sc q r d a b off
  | .amoand g ty sc q r d a b off => eAmo 0xC7 g ty sc q r d a b off
  | .amoor g ty sc q r d a b off => eAmo 0xC8 g ty sc q r d a b off
  | .amoxor g ty sc q r d a b off => eAmo 0xC9 g ty sc q r d a b off
  | .amoswap g ty sc q r d a b off => eAmo 0xCA g ty sc q r d a b off
  | .amocas g ty sc q r d a b off => eAmo 0xCB g ty sc q r d a b off
  | .ldfeKeep g ty d a off => eVm 0xCC g d a 0 0 (tyCode ty) 0 0 0 0 0 off
  | .ldfeClr g ty d a off => eVm 0xCC g d a 0 0 (tyCode ty) 0 0 0 1 0 off
  | .stfeFill g ty d a off => eVm 0xCD g d a 0 0 (tyCode ty) 0 0 0 0 0 off
  | .stfeWait g ty d a off => eVm 0xCD g d a 0 0 (tyCode ty) 0 0 0 1 0 off
  | .bankrole g d a b => eT2 0xCE g d a b 0
  | .launch g d a b => eT2 0xD5 g d a b 0
  | .tlbinv g d a b => eT2 0xD6 g d a b 0
  | .ctxsave g d a => eT2 0xD7 g d a 0 0
  | .ctxload g d a => eT2 0xD8 g d a 0 0
  | .rangeset g d a b c slot v hc => eEng 0xD9 g d a b c 0 (rangeAttr slot v hc) 0
  | .rangesetQ g d a b c slot v hc => eEng 0xD9 g d a b c 1 (rangeAttr slot v hc) 0
  | .rangerd g d a => eT2 0xDA g d a 0 0
  | .prtload g d a b => eT2 0xDB g d a b 0
  | .strmset g d a b => eT2 0xE0 g d a b 0
  | .stappend g d a b => eT2 0xE1 g d a b 0
  | .tickarm g d a b => eT2 0xE2 g d a b 0
  | .tickoff g d a => eT2 0xE3 g d a 0 0
  | .mcst g ty d a b off => eVm 0xE8 g d a b 0 (tyCode ty) 0 0 0 0 0 off
  | .rld g ty d a b off => eVm 0xE9 g d a b 0 (tyCode ty) 0 0 0 0 0 off
  | .colwait g sc d a => eVm 0xEA g d a 0 0 0 0 (scopeCode sc) 0 0 0 0
  | _ => none

-- ## Decoding

/-- The tail length TL of each assigned opcode (R39); hints take 0 to 6 and answer none here. -/
def opTl (op : Nat) : Option Nat :=
  if op = 0x1A || op = 0x1E || op = 0x1F || (0x27 ≤ op && op ≤ 0x32) then some 2
  else if 0x01 ≤ op && op ≤ 0x19 || op = 0x37 then some 1
  else if 0x1B ≤ op && op ≤ 0x1D || (0x20 ≤ op && op ≤ 0x24) || op = 0x26 then some 2
  else if op = 0x25 then some 5
  else if op = 0x33 || op = 0x34 then some 4
  else if op = 0x35 || op = 0x36 || op = 0x39 then some 2
  else if op = 0x38 then some 0
  else if 0x3A ≤ op && op ≤ 0x3D then some 2
  else if op = 0x40 || op = 0x41 then some 1
  else if 0x42 ≤ op && op ≤ 0x79 then some 3
  else if 0x80 ≤ op && op ≤ 0x89 then some 4
  else if op = 0x8A then some 3
  else if op = 0x8B then some 2
  else if 0x90 ≤ op && op ≤ 0x94 then some 3
  else if op = 0xA0 || op = 0xA1 || op = 0xA5 then some 1
  else if op = 0xA2 || op = 0xA3 then some 6
  else if op = 0xA4 then some 3
  else if op = 0xA8 then some 4
  else if op = 0xA9 || op = 0xAA || op = 0xAD then some 1
  else if op = 0xAB then some 0
  else if op = 0xAC then some 6
  else if 0xC0 ≤ op && op ≤ 0xCD then some 4
  else if op = 0xCE then some 1
  else if op = 0xD0 || op = 0xD1 then some 2
  else if op = 0xD2 || op = 0xD4 then some 0
  else if op = 0xD3 || (0xD5 ≤ op && op ≤ 0xD8) || op = 0xDA || op = 0xDB then some 1
  else if op = 0xD9 then some 6
  else if 0xE0 ≤ op && op ≤ 0xE3 then some 1
  else if 0xE8 ≤ op && op ≤ 0xEA then some 4
  else none

/-- The opcode of a head (R32). -/
def headOp (h : BitVec 16) : Nat := (h.extractLsb' 5 8).toNat
/-- The tail length field of a head (R32). -/
def headTl (h : BitVec 16) : Nat := (h.extractLsb' 13 3).toNat
/-- The guard fields of a head (R32). -/
def headGuard (h : BitVec 16) : Guard := ⟨h.extractLsb' 2 3, h.getLsbD 1, h.getLsbD 0⟩
/-- VQ-class heads (R19). -/
def opIsVq (op : Nat) : Bool := decide (0x40 ≤ op) && decide (op ≤ 0xBF)

/-- R33 step 1, with R40 and R41. -/
def headCheck (h : BitVec 16) : Except DecodeError Unit :=
  let op := headOp h
  if 0xF0 ≤ op ∧ op ≤ 0xF7 then
    if headTl h = 7 then .error .wrongTailLength else if (headGuard h).ok then .ok () else .error .badGuard
  else
    match opTl op with
    | none => .error .unassignedOpcode
    | some tl =>
      if headTl h ≠ tl then .error .wrongTailLength else if (headGuard h).ok then .ok () else .error .badGuard

/-- The D field. -/
def fD (t : BitVec 96) : BitVec 5 := t.extractLsb' 0 5
/-- The A field. -/
def fA (t : BitVec 96) : BitVec 5 := t.extractLsb' 5 5
/-- The B field. -/
def fB (t : BitVec 96) : BitVec 5 := t.extractLsb' 10 5
/-- The C field. -/
def fC (t : BitVec 96) : BitVec 5 := t.extractLsb' 15 5
/-- D as a predicate or mask number. -/
def fD3 (t : BitVec 96) : BitVec 3 := t.extractLsb' 0 3
/-- A as a predicate or mask number. -/
def fA3 (t : BitVec 96) : BitVec 3 := t.extractLsb' 5 3
/-- B as a predicate number. -/
def fB3 (t : BitVec 96) : BitVec 3 := t.extractLsb' 10 3
/-- C as a predicate or mask number. -/
def fC3 (t : BitVec 96) : BitVec 3 := t.extractLsb' 15 3
/-- IMM22 of T4-rri. -/
def fImm22 (t : BitVec 96) : BitVec 22 := t.extractLsb' 10 22
/-- DL of T4-br. -/
def fDl (t : BitVec 96) : BitVec 24 := t.extractLsb' 0 24
/-- SL of T4-br. -/
def fSl (t : BitVec 96) : BitVec 5 := t.extractLsb' 24 5
/-- F3 of T4-br. -/
def fF3 (t : BitVec 96) : BitVec 3 := t.extractLsb' 29 3
/-- RM of T4-rrrf. -/
def fRm4 (t : BitVec 96) : Option Rm := rmOf (t.extractLsb' 20 3)
/-- FN9 of T4-rrrf. -/
def fFn9 (t : BitVec 96) : Nat := (t.extractLsb' 23 9).toNat
/-- M of T6-v. -/
def fM6 (t : BitVec 96) : BitVec 3 := t.extractLsb' 20 3
/-- TY of T6-v. -/
def fTy6 (t : BitVec 96) : Option Ty := tyOf (t.extractLsb' 23 4)
/-- RM of T6-v. -/
def fRm6 (t : BitVec 96) : Option Rm := rmOf (t.extractLsb' 27 3)
/-- OK of T6-v. -/
def fOk (t : BitVec 96) : Nat := (t.extractLsb' 30 2).toNat
/-- FN8 of T6-v. -/
def fFn8 (t : BitVec 96) : Nat := (t.extractLsb' 32 8).toNat
/-- IMM8 of T6-v. -/
def fImm8 (t : BitVec 96) : BitVec 8 := t.extractLsb' 40 8
/-- M of T8-vm. -/
def fM8 (t : BitVec 96) : BitVec 3 := t.extractLsb' 15 3
/-- TY of T8-vm. -/
def fTy8 (t : BitVec 96) : Option Ty := tyOf (t.extractLsb' 18 4)
/-- TYV of T8-vm. -/
def fTyv (t : BitVec 96) : Option Ty := tyOf (t.extractLsb' 22 4)
/-- SCP of T8-vm. -/
def fScp8 (t : BitVec 96) : Option Scope := scopeOf (t.extractLsb' 26 4)
/-- ORD of T8-vm. -/
def fOrd (t : BitVec 96) : Option Bool :=
  match (t.extractLsb' 30 2).toNat with | 0 => some false | 1 => some true | _ => none
/-- FN4 of T8-vm. -/
def fFn4 (t : BitVec 96) : BitVec 4 := t.extractLsb' 32 4
/-- NF of T8-vm. -/
def fNf (t : BitVec 96) : BitVec 4 := t.extractLsb' 36 4
/-- OFF24 of T8-vm. -/
def fOff (t : BitVec 96) : BitVec 24 := t.extractLsb' 40 24
/-- FN5 of T12-eng. -/
def fFn5 (t : BitVec 96) : Nat := (t.extractLsb' 27 5).toNat
/-- I0 of T12-eng. -/
def fI0 (t : BitVec 96) : BitVec 32 := t.extractLsb' 32 32
/-- I1 of T12-eng. -/
def fI1 (t : BitVec 96) : BitVec 32 := t.extractLsb' 64 32

/-- The B operand of T6-v (R37, R137). -/
def fBop (t : BitVec 96) : Option BOp :=
  match fOk t with
  | 0 => some (.vec (fB t)) | 1 => some (.scal (fB t)) | 2 => some (.imm (fImm8 t)) | _ => none
/-- The optional start value of a reduction (R155). -/
def fStart (t : BitVec 96) : Option (Option (BitVec 5)) :=
  match fOk t with
  | 0 => some none | 1 => some (some (fB t)) | _ => none

/-- Integer binary form of T6-v (R141). -/
def pBin (k : Guard → Ty → BitVec 5 → BitVec 5 → BOp → BitVec 3 → Instr) (g : Guard) (t : BitVec 96) : Option Instr :=
  (fTy6 t).bind fun ty => (fBop t).map fun b => k g ty (fD t) (fA t) b (fM6 t)
/-- Carry form of T6-v (R142). -/
def pCarry (k : Guard → Ty → BitVec 5 → BitVec 5 → BOp → BitVec 3 → BitVec 3 → Instr) (g : Guard) (t : BitVec 96) :
    Option Instr :=
  (fTy6 t).bind fun ty => (fBop t).map fun b => k g ty (fD t) (fA t) b (fC3 t) (fM6 t)
/-- Rounding binary form of T6-v (R143). -/
def pFbin (k : Guard → Ty → Rm → BitVec 5 → BitVec 5 → BOp → BitVec 3 → Instr) (g : Guard) (t : BitVec 96) :
    Option Instr :=
  (fTy6 t).bind fun ty => (fRm6 t).bind fun rm => (fBop t).map fun b => k g ty rm (fD t) (fA t) b (fM6 t)
/-- Rounding unary form of T6-v (R143). -/
def pFun (k : Guard → Ty → Rm → BitVec 5 → BitVec 5 → BitVec 3 → Instr) (g : Guard) (t : BitVec 96) : Option Instr :=
  (fTy6 t).bind fun ty => (fRm6 t).map fun rm => k g ty rm (fD t) (fA t) (fM6 t)
/-- Unary form of T6-v. -/
def pUn (k : Guard → Ty → BitVec 5 → BitVec 5 → BitVec 3 → Instr) (g : Guard) (t : BitVec 96) : Option Instr :=
  (fTy6 t).map fun ty => k g ty (fD t) (fA t) (fM6 t)
/-- Reduction form of T6-v without rounding (R157). -/
def pRed (k : Guard → Ty → BitVec 5 → BitVec 5 → Option (BitVec 5) → BitVec 3 → Instr) (g : Guard) (t : BitVec 96) :
    Option Instr :=
  (fTy6 t).bind fun ty => (fStart t).map fun st => k g ty (fD t) (fA t) st (fM6 t)
/-- Load or store form of T8-vm without B (R160). -/
def pMem (k : Guard → Ty → Ty → BitVec 5 → BitVec 5 → BitVec 24 → BitVec 3 → Instr) (g : Guard) (t : BitVec 96) :
    Option Instr :=
  (fTy8 t).bind fun ty => (fTyv t).map fun tyv => k g ty tyv (fD t) (fA t) (fOff t) (fM8 t)
/-- Load or store form of T8-vm with B (R160). -/
def pMemB (k : Guard → Ty → Ty → BitVec 5 → BitVec 5 → BitVec 5 → BitVec 24 → BitVec 3 → Instr) (g : Guard)
    (t : BitVec 96) : Option Instr :=
  (fTy8 t).bind fun ty => (fTyv t).map fun tyv => k g ty tyv (fD t) (fA t) (fB t) (fOff t) (fM8 t)
/-- Segment form of T8-vm (R167). -/
def pSeg (k : Guard → Ty → Ty → BitVec 5 → BitVec 5 → BitVec 4 → BitVec 24 → BitVec 3 → Instr) (g : Guard)
    (t : BitVec 96) : Option Instr :=
  (fTy8 t).bind fun ty => (fTyv t).map fun tyv => k g ty tyv (fD t) (fA t) (fNf t) (fOff t) (fM8 t)
/-- Scalar memory form of T8-vm (R84, R187). -/
def pLdSt (k : Guard → Ty → BitVec 5 → BitVec 5 → BitVec 24 → Instr) (g : Guard) (t : BitVec 96) : Option Instr :=
  (fTy8 t).map fun ty => k g ty (fD t) (fA t) (fOff t)
/-- Atomic form of T8-vm (R196). -/
def pAmo (k : Guard → Ty → Scope → Bool → Bool → BitVec 5 → BitVec 5 → BitVec 5 → BitVec 24 → Instr) (g : Guard)
    (t : BitVec 96) : Option Instr :=
  (fTy8 t).bind fun ty => (fScp8 t).map fun sc => k g ty sc (t.getLsbD 32) (t.getLsbD 33) (fD t) (fA t) (fB t) (fOff t)
/-- Rounding form of T4-rrrf (R78). -/
def pF3 (k : Guard → FFmt → Rm → BitVec 5 → BitVec 5 → BitVec 5 → Instr) (g : Guard) (t : BitVec 96) : Option Instr :=
  (ffmtOf (fFn9 t)).bind fun f => (fRm4 t).map fun rm => k g f rm (fD t) (fA t) (fB t)

/-- The scalar-class opcodes 0x01 to 0x3D: the operands read from the tail. -/
def parseScalar (op : Nat) (g : Guard) (t : BitVec 96) : Option Instr :=
  match op with
  | 0x01 => some (.add g (fD t) (fA t) (fB t))
  | 0x02 => some (.sub g (fD t) (fA t) (fB t))
  | 0x03 => some (.mul g (fD t) (fA t) (fB t))
  | 0x04 => some (.mulh g (fD t) (fA t) (fB t))
  | 0x05 => some (.mulhn g (fD t) (fA t) (fB t))
  | 0x06 => some (.div g (fD t) (fA t) (fB t))
  | 0x07 => some (.divn g (fD t) (fA t) (fB t))
  | 0x08 => some (.rem g (fD t) (fA t) (fB t))
  | 0x09 => some (.remn g (fD t) (fA t) (fB t))
  | 0x0A => some (.and g (fD t) (fA t) (fB t))
  | 0x0B => some (.or g (fD t) (fA t) (fB t))
  | 0x0C => some (.xor g (fD t) (fA t) (fB t))
  | 0x0D => some (.andn g (fD t) (fA t) (fB t))
  | 0x0E => some (.orn g (fD t) (fA t) (fB t))
  | 0x0F => some (.min g (fD t) (fA t) (fB t))
  | 0x10 => some (.max g (fD t) (fA t) (fB t))
  | 0x11 => some (.minn g (fD t) (fA t) (fB t))
  | 0x12 => some (.maxn g (fD t) (fA t) (fB t))
  | 0x13 => some (.shl g (fD t) (fA t) (fB t))
  | 0x14 => some (.shr g (fD t) (fA t) (fB t))
  | 0x15 => some (.sar g (fD t) (fA t) (fB t))
  | 0x16 => some (.rot g (fD t) (fA t) (fB t))
  | 0x17 => some (.clz g (fD t) (fA t))
  | 0x18 => some (.ctz g (fD t) (fA t))
  | 0x19 => some (.popc g (fD t) (fA t))
  | 0x1A => some (.sel g (fD t) (fA t) (fB t) (fC3 t))
  | 0x1B => (tyOf ((0#1 : BitVec 1) ++ t.extractLsb' 10 3)).map fun ty => .ext g (fD t) (fA t) ty
  | 0x1C => some (.bfx g (fD t) (fA t) (t.extractLsb' 10 6) (t.extractLsb' 16 6) (t.getLsbD 22))
  | 0x1D => some (.bfi g (fD t) (fA t) (t.extractLsb' 10 6) (t.extractLsb' 16 6))
  | 0x1E => some (.lea g (fD t) (fA t) (fB t) (t.extractLsb' 23 3))
  | 0x1F => (condOf (fFn9 t)).map fun cc => .cmp g cc (fD3 t) (fA t) (fB t)
  | 0x20 => some (.addi g (fD t) (fA t) (fImm22 t))
  | 0x21 => some (.andi g (fD t) (fA t) (fImm22 t))
  | 0x22 => some (.ori g (fD t) (fA t) (fImm22 t))
  | 0x23 => some (.xori g (fD t) (fA t) (fImm22 t))
  | 0x24 => (condOf (t.extractLsb' 10 4).toNat).map fun cc => .cmpi g cc (fD3 t) (fA t) (t.extractLsb' 14 18)
  | 0x25 => some (.li g (fD t) (t.extractLsb' 16 64))
  | 0x26 => some (.lpc g (fD t) (fImm22 t))
  | 0x27 => (predOpOf (fFn9 t)).map fun op => .pop g op (fD3 t) (fA3 t) (fB3 t)
  | 0x28 => pF3 Instr.fadd g t
  | 0x29 => pF3 Instr.fsub g t
  | 0x2A => pF3 Instr.fmul g t
  | 0x2B => pF3 (fun g f rm d a b => .fma g f rm d a b (fC t)) g t
  | 0x2C => pF3 Instr.fdiv g t
  | 0x2D => pF3 (fun g f rm d a _ => .fsqrt g f rm d a) g t
  | 0x2E => (ffmtOf (fFn9 t)).map fun f => .fmin g f (fD t) (fA t) (fB t)
  | 0x2F => (ffmtOf (fFn9 t)).map fun f => .fmax g f (fD t) (fA t) (fB t)
  | 0x30 => (ffmtOf (fFn9 t % 4)).bind fun f => (fcondOf (fFn9 t / 4)).map fun cc => .fcmp g f cc (fD3 t) (fA t) (fB t)
  | 0x31 => (tyOf (t.extractLsb' 23 4)).bind fun dty => (tyOf (t.extractLsb' 27 4)).bind fun sty =>
      (fRm4 t).map fun rm => .fcvt g dty sty rm (fD t) (fA t)
  | 0x32 => (ffmtOf (fFn9 t)).map fun f => .fclass g f (fD t) (fA t)
  | 0x33 => pLdSt Instr.ld g t
  | 0x34 => pLdSt Instr.st g t
  | 0x35 => some (.br g (fDl t) (fSl t))
  | 0x36 => some (.jal g (fDl t) (fSl t))
  | 0x37 => some (.jr g (fD t) (fA t))
  | 0x38 => some (.ret g)
  | 0x39 => some (.dbnz g (fF3 t) (fDl t) (fSl t))
  | 0x3A => some (.csrrd g (fD t) (t.extractLsb' 10 12))
  | 0x3B => some (.csrwr g (fD t) (t.extractLsb' 10 12) (fA t))
  | 0x3C => some (.csrset g (fD t) (t.extractLsb' 10 12) (fA t))
  | 0x3D => some (.csrclr g (fD t) (t.extractLsb' 10 12) (fA t))
  | _ => none

/-- The vector compute opcodes 0x40 to 0x79. -/
def parseVector (op : Nat) (g : Guard) (t : BitVec 96) : Option Instr :=
  match op with
  | 0x40 => some (.vcfg g (fD t) (fA t))
  | 0x41 => if t.getLsbD 15 then some (.setvlW g (fD t) (fA t) (fB t)) else some (.setvl g (fD t) (fA t))
  | 0x42 => pBin Instr.vadd g t
  | 0x43 => pBin Instr.vsub g t
  | 0x44 => pBin Instr.vmul g t
  | 0x45 => pBin Instr.vmulh g t
  | 0x46 => pBin Instr.vmin g t
  | 0x47 => pBin Instr.vmax g t
  | 0x48 => pBin Instr.vand g t
  | 0x49 => pBin Instr.vor g t
  | 0x4A => pBin Instr.vxor g t
  | 0x4B => pBin Instr.vshl g t
  | 0x4C => pBin Instr.vshr g t
  | 0x4D => pBin Instr.vsar g t
  | 0x4E => pBin Instr.vadds g t
  | 0x4F => pBin Instr.vsubs g t
  | 0x50 => pUn Instr.vabs g t
  | 0x51 => pUn Instr.vneg g t
  | 0x52 => pCarry Instr.vadc g t
  | 0x53 => pCarry Instr.vsbc g t
  | 0x54 => pFbin Instr.vfadd g t
  | 0x55 => pFbin Instr.vfsub g t
  | 0x56 => pFbin Instr.vfmul g t
  | 0x57 => pFbin (fun g ty rm d a b m => .vfma g ty rm d a b (fC t) m) g t
  | 0x58 => pFbin Instr.vfdiv g t
  | 0x59 => pFun Instr.vfsqrt g t
  | 0x5A => pFun Instr.vfrcp g t
  | 0x5B => pFun Instr.vfrsq g t
  | 0x5C => pFun Instr.vfexp2 g t
  | 0x5D => pFun Instr.vflog2 g t
  | 0x5E => pBin Instr.vfmin g t
  | 0x5F => pBin Instr.vfmax g t
  | 0x60 => (fTy6 t).bind fun ty => (match fOk t with | 0 => some false | 1 => some true | _ => none).map fun sc =>
      .vfclamp g ty (fD t) (fA t) sc (fB t) (fC t) (fM6 t)
  | 0x61 => (fTy6 t).bind fun dty => (if fFn8 t < 16 then tyOf (BitVec.ofNat 4 (fFn8 t)) else none).bind fun sty =>
      (fRm6 t).map fun rm => .vfcvt g dty sty rm (fD t) (fA t) (fM6 t)
  | 0x62 => (fTy6 t).map fun ty => .vquant g ty (fD t) (fA t) (fC t) (fM6 t)
  | 0x63 => (fTy6 t).map fun ty => .vdequant g ty (fD t) (fA t) (fC t) (fM6 t)
  | 0x64 => (condOf (fFn8 t)).bind fun cc => (fTy6 t).bind fun ty => (fBop t).map fun b =>
      .vcmp g cc ty (fD3 t) (fA t) b (fM6 t)
  | 0x65 => (fcondOf (fFn8 t)).bind fun cc => (fTy6 t).bind fun ty => (fBop t).map fun b =>
      .vfcmp g cc ty (fD3 t) (fA t) b (fM6 t)
  | 0x66 => (predOpOf (fFn8 t)).map fun op => .mop g op (fD3 t) (fA3 t) (fB3 t)
  | 0x67 => some (.mshup g (fD3 t) (fA3 t) (fB t) (fC t))
  | 0x68 => some (.mshdn g (fD3 t) (fA3 t) (fB t) (fC t))
  | 0x69 => some (.mpop g (fD t) (fA3 t))
  | 0x6A => some (.mfirst g (fD t) (fA3 t))
  | 0x6B => match fFn8 t with
      | 0 => pBin Instr.vslideUp g t
      | 1 => pBin Instr.vslideDown g t
      | _ => none
  | 0x6C => (fTy6 t).map fun ty => .vperm g ty (fD t) (fA t) (fB t) (fM6 t)
  | 0x6D => pUn Instr.vcompress g t
  | 0x6E => pUn Instr.vexpand g t
  | 0x6F => (fTy6 t).bind fun ty => (fBop t).map fun b => .vbcast g ty (fD t) b (fM6 t)
  | 0x70 => (fTy6 t).bind fun ty => (fBop t).map fun b => .vmvs g ty (fD t) (fA t) b
  | 0x71 => (fTy6 t).bind fun ty => (fBop t).map fun b => .vsv g ty (fD t) (fA t) b
  | 0x72 => (fTy6 t).map fun ty => .vid g ty (fD t) (fM6 t)
  | 0x73 => (fTy6 t).bind fun ty => (fRm6 t).bind fun rm => (fStart t).bind fun st =>
      match fFn8 t with
      | 0 => some (.vredsumF g ty rm (fD t) (fA t) st (fM6 t))
      | 1 => some (.vredsumC g ty rm (fD t) (fA t) st (fM6 t))
      | 2 => some (.vredsumCs g ty rm (fD t) (fA t) st (fC t) (fM6 t))
      | _ => none
  | 0x74 => pRed Instr.vredmax g t
  | 0x75 => pRed Instr.vredmin g t
  | 0x76 => pRed Instr.vredand g t
  | 0x77 => pRed Instr.vredor g t
  | 0x78 => (scanOf (fFn8 t)).bind fun op => (fTy6 t).bind fun ty => (fRm6 t).bind fun rm => (fStart t).map fun st =>
      .vscan g op ty rm (fD t) (fA t) st (fM6 t)
  | 0x79 => some (.vsmax g (fD t) (fA t) (fB t) (fC t) (t.extractLsb' 40 5) (fM6 t))
  | _ => none

/-- The vector memory, lookup and engine opcodes 0x80 to 0xAD. -/
def parseMemory (op : Nat) (g : Guard) (t : BitVec 96) : Option Instr :=
  match op with
  | 0x80 => pMem Instr.vld g t
  | 0x81 => pMemB Instr.vlds g t
  | 0x82 => pMemB Instr.vldx g t
  | 0x83 => pSeg Instr.vldseg g t
  | 0x84 => pMem Instr.vldff g t
  | 0x85 => pMem Instr.vst g t
  | 0x86 => pMemB Instr.vsts g t
  | 0x87 => (fOrd t).bind fun o => pMemB (fun g ty tyv d a b off m => .vstx g ty tyv o d a b off m) g t
  | 0x88 => pSeg Instr.vstseg g t
  | 0x89 => (fOrd t).bind fun o => (fTy8 t).bind fun ty => (fScp8 t).map fun sc =>
      .vsadd g ty sc o (fD t) (fA t) (fB t) (fOff t) (fM8 t)
  | 0x8A => (fBop t).map fun b => .vwait g (fD3 t) (fA t) b (fC t) (fM6 t)
  | 0x8B => match fFn9 t with
      | 1 => some (.vfenceSv g)
      | 2 => some (.vfenceVs g)
      | 3 => some (.vfenceAll g)
      | _ => none
  | 0x90 => match fFn8 t with
      | 0 => some (.vop g false (t.extractLsb' 0 2) (fA t) (fB t) (fImm8 t))
      | 1 => some (.vop g true (t.extractLsb' 0 2) (fA t) (fB t) (fImm8 t))
      | _ => none
  | 0x91 => match fFn8 t with
      | 0 => some (.vopm g false (t.extractLsb' 0 2) (fA t) (fB t) (fC t) (fImm8 t))
      | 1 => some (.vopm g true (t.extractLsb' 0 2) (fA t) (fB t) (fC t) (fImm8 t))
      | _ => none
  | 0x92 => some (.vopz g (t.extractLsb' 0 2))
  | 0x93 => (fBop t).map fun row => .vopr g (fD t) (t.extractLsb' 5 2) row (fC3 t) (fM6 t)
  | 0x94 => some (.mkiv g (t.extractLsb' 0 2) (fA t))
  | 0xA0 => some (.tshape g (fD t) (fA t))
  | 0xA1 => some (.cbload g (fA t))
  | 0xA2 => some (.tbuild g (t.getLsbD 32) (fA t) (fB t) (fC t))
  | 0xA3 => match (t.extractLsb' 32 2).toNat with
      | 0 => some (.lkaccOw g (fD t) (fA t) (fB t) (fC t))
      | 1 => some (.lkaccAcc g (fD t) (fA t) (fB t) (fC t))
      | 2 => some (.lkaccDrn g (fD t) (fA t) (t.extractLsb' 64 5) (t.extractLsb' 69 3))
      | _ => none
  | 0xA4 => some (.vdrn g (fD t) (fC t))
  | 0xA5 => some (.lkwait g (fD t) (fA t))
  | 0xA8 => (fScp8 t).map fun sc => .cpwait g sc (fD t) (fA t) (t.extractLsb' 40 2)
  | 0xA9 => some (.claim g (fD t) (fA t) (fB t))
  | 0xAA => some (.pubh g (fA t) (fB t))
  | 0xAB => some (.barCl g)
  | 0xAC => match (t.extractLsb' 38 2).toNat with
      | 0 => some (.slabgrow g (fD t) (fA t) (fB t) (t.extractLsb' 32 6) (t.extractLsb' 40 2))
      | 1 => some (.slabgrowRetire g (fD t) (fA t))
      | _ => none
  | 0xAD => some (.slabst g (fD t) (fA t))
  | _ => none

/-- The memory-model, system, coherence, stream and fabric opcodes 0xC0 to 0xEA. -/
def parseSystem (op : Nat) (g : Guard) (t : BitVec 96) : Option Instr :=
  match op with
  | 0xC0 => (fScp8 t).map fun sc => .phase g sc
  | 0xC1 => (fScp8 t).map fun sc => .rel g sc
  | 0xC2 => (fScp8 t).map fun sc => .acq g sc
  | 0xC3 => pAmo Instr.amoadd g t
  | 0xC4 => pAmo Instr.amofadd g t
  | 0xC5 => pAmo Instr.amomin g t
  | 0xC6 => pAmo Instr.amomax g t
  | 0xC7 => pAmo Instr.amoand g t
  | 0xC8 => pAmo Instr.amoor g t
  | 0xC9 => pAmo Instr.amoxor g t
  | 0xCA => pAmo Instr.amoswap g t
  | 0xCB => pAmo Instr.amocas g t
  | 0xCC => match (fFn4 t).toNat with
      | 0 => pLdSt Instr.ldfeKeep g t
      | 1 => pLdSt Instr.ldfeClr g t
      | _ => none
  | 0xCD => match (fFn4 t).toNat with
      | 0 => pLdSt Instr.stfeFill g t
      | 1 => pLdSt Instr.stfeWait g t
      | _ => none
  | 0xCE => some (.bankrole g (fD t) (fA t) (fB t))
  | 0xD0 => some (.sys g (fImm22 t))
  | 0xD1 => some (.trap g (fImm22 t))
  | 0xD2 => some (.eret g)
  | 0xD3 => some (.park g (fD t) (fA t) (fB t))
  | 0xD4 => some (.endStrand g)
  | 0xD5 => some (.launch g (fD t) (fA t) (fB t))
  | 0xD6 => some (.tlbinv g (fD t) (fA t) (fB t))
  | 0xD7 => some (.ctxsave g (fD t) (fA t))
  | 0xD8 => some (.ctxload g (fD t) (fA t))
  | 0xD9 => match fFn5 t with
      | 0 => some (.rangeset g (fD t) (fA t) (fB t) (fC t) (t.extractLsb' 32 3) (t.getLsbD 35) (t.getLsbD 36))
      | 1 => some (.rangesetQ g (fD t) (fA t) (fB t) (fC t) (t.extractLsb' 32 3) (t.getLsbD 35) (t.getLsbD 36))
      | _ => none
  | 0xDA => some (.rangerd g (fD t) (fA t))
  | 0xDB => some (.prtload g (fD t) (fA t) (fB t))
  | 0xE0 => some (.strmset g (fD t) (fA t) (fB t))
  | 0xE1 => some (.stappend g (fD t) (fA t) (fB t))
  | 0xE2 => some (.tickarm g (fD t) (fA t) (fB t))
  | 0xE3 => some (.tickoff g (fD t) (fA t))
  | 0xE8 => (fTy8 t).map fun ty => .mcst g ty (fD t) (fA t) (fB t) (fOff t)
  | 0xE9 => (fTy8 t).map fun ty => .rld g ty (fD t) (fA t) (fB t) (fOff t)
  | 0xEA => (fScp8 t).map fun sc => .colwait g sc (fD t) (fA t)
  | _ => none

/-- The operands of any assigned opcode. -/
def parse (op : Nat) (g : Guard) (t : BitVec 96) : Option Instr :=
  if op < 0x40 then parseScalar op g t
  else if op < 0x80 then parseVector op g t
  else if op < 0xC0 then parseMemory op g t
  else parseSystem op g t

/-- A head of the hint space (R41): its tail is not decoded. -/
def decodeHint (h : BitVec 16) (t : BitVec 96) : Instr :=
  if headOp h = 0xF0 ∧ headTl h = 0 then (if (headGuard h).y then .yield (headGuard h) else .nop (headGuard h))
  else .hint (headGuard h) (BitVec.ofNat 3 (headOp h)) (BitVec.ofNat 3 (headTl h)) t

/-- The whole decode of a head and its tail (R33 steps 1 and 2; for a VQ-class head the tail check is the one made at
VCP). The tail is extended with zeros to 96 bits. -/
def decode (h : BitVec 16) (t : BitVec 96) : Except DecodeError Instr :=
  match headCheck h with
  | .error e => .error e
  | .ok _ =>
    if 0xF0 ≤ headOp h then .ok (decodeHint h t)
    else
      match parse (headOp h) (headGuard h) t with
      | none => .error .reservedValue
      | some i =>
        if encode i = some (h, t) then (if wellFormed i then .ok i else .error .reservedValue)
        else .error .reservedField

/-- The decoder as an option, for the table's words. -/
def decode? (h : BitVec 16) (t : BitVec 96) : Option Instr :=
  match decode h t with
  | .ok i => some i
  | .error _ => none

/-- The head of a table word: the opcode table writes a T0 head as a 16-bit number and a T2-rrr instruction as a 32-bit
number with the head in bits 31:16 and the tail in bits 15:0 (log 6). -/
def tableHead (nbits w : Nat) : BitVec 16 :=
  if nbits ≤ 16 then BitVec.ofNat 16 w else BitVec.ofNat 16 (w / 2 ^ (nbits - 16))

/-- The tail of a table word (log 6). -/
def tableTail (nbits w : Nat) : BitVec 96 :=
  if nbits ≤ 16 then 0 else BitVec.ofNat 96 (w % 2 ^ (nbits - 16))

/-- What the decoder reads from a word numbered as the opcode table numbers it. -/
def decodeTableWord (nbits w : Nat) : Option Instr := decode? (tableHead nbits w) (tableTail nbits w)

end Sys2Proof
end

