-- ==== Sys2Proof/Config.lean ====
section
/-! DEFINITION. What the module fixes, and the values that the spec leaves open. A free value is an opaque constant:
nothing can evaluate it, and a statement about it holds whatever it is. -/

namespace Sys2Proof.Config

/-- Cycles of a Dalino die's clock that pass during step `n` (R16 `CYCLE`; log 4). Free. -/
opaque cyclesOf : Nat → Nat

/-- Units of 2^-16 ns, but one, that step `n` lasts (R317; log 4). Free. -/
opaque elapsedOf : Nat → Nat

/-- How far the local oscillator is off during step `n`, in parts per 10^9 (R319; log 4). Free within ±10 ppm. -/
opaque driftOf : Nat → Int

/-- By how much Windsock slews its clock toward the source during step `n`, in parts per 10^9 (R319; log 4). Free up to 500
ppm. -/
opaque slewOf : Nat → Nat

/-- The order in which the fast form of `vredsum` pairs its operands (R156; log 8): for a list of `n` operands left,
given VL, VLMAX, `VCFG` and the mask, the index of the pair added next. Free. -/
opaque fastTree : (vl vlmax vcfg mask n : Nat) → Nat

/-- Whether byte `k` of a write that timed out or was abandoned took effect (R359, R285; log 14). Free. -/
opaque writeTookEffect : (stepNo k : Nat) → Bool

/-- Whether pending store `k` of a discarded strand is published (R301, R380; log 15). Free. -/
opaque discardedPublished : (stepNo k : Nat) → Bool

/-- A byte the spec leaves undefined at step `n`, index `k` (log 16). Free. -/
opaque freeByte : (stepNo k : Nat) → Byte

/-- Which of `n` candidates is served first where the spec defines no order (R166, R169, R188; log 17). Free. -/
opaque pick : (stepNo n : Nat) → Nat

/-- The step from which agent `a` sees a byte of word `word` stored in step `made` that nothing orders before its loads: a store
of another agent that it has not taken in (R192), or, as a vector access, a scalar store of its own (R22; log 7). Free. -/
opaque seenFrom : (made word a : Nat) → Nat

/-- The protocol slot that the home module's range table gives a line of another module, as a reply received in step `n` carries
it (R273; log 9). Free. -/
opaque remoteSlot : (stepNo line : Nat) → Nat

/-- The set of a die directory's slice in which a region has its ways (R271; log 11). Free. -/
opaque dirSet : (region : Nat) → Nat

/-- The members of a group in another domain, as that domain's table gives them in step `n`; none where it holds no such group (R374;
log 94). Free. -/
opaque domainGroup : (stepNo dom group : Nat) → Option (BitVec 512)

/-- How long the chosen grandmaster may send no Announce before another of the domain is taken, in units of 2^-16 ns of the clock: the
announce receipt time-out of IEEE 1588 (R317; log 92). -/
opaque announceTimeout : Nat

/-- The SHA-512 digest of a byte string (R346, R349; log 18). Uninterpreted. -/
opaque sha512 : List Byte → BitVec 512

/-- Whether an ECDSA P-521 signature over a digest verifies under a key (R346; log 18). Uninterpreted. -/
opaque ecdsaVerifies : (key signature : List Byte) → (digest : BitVec 512) → Bool

/-- The module's ECDSA signature over a digest with the key of a certificate slot: 0 the identity key, 1 the alias key, which the
measurements of the boot give (R348, R349; log 18). Uninterpreted. -/
opaque ecdsaSign : (slot : Nat) → (measured : List (BitVec 512)) → (digest : BitVec 512) → List Byte

/-- The bytes of Onacy's manufacturing command that raises the fused minimum security version of an image kind (R346; log 18).
Uninterpreted. -/
opaque svnCommand : (kind svn : Nat) → List Byte

/-- Whether LPDDR6 is fitted on the module (R344 form 1). -/
opaque hasLpddr : Bool

/-- The capacity in bytes of the expander at a CXL root port (R344). -/
opaque expanderBytes : (port : Nat) → Nat

/-- The minimum security version of an image kind that is fused at manufacture (R346). -/
opaque svnMin : (kind : Nat) → Nat

/-- The Onacy key that the fuses name (R346). -/
opaque onacyKey : List Byte

/-- The measurement of the boot ROM (R349). -/
opaque romMeasurement : BitVec 512

/-- A certificate chain of the security block, which for the alias chain depends on the measurements (R348, R349). -/
opaque certChain : (slot : Nat) → (measured : List (BitVec 512)) → List Byte

/-- What the body of a Spool tables image gives `SPID` (R356). -/
opaque tablesSpid : (body : List Byte) → BitVec 13

/-- The modules to which a Spool tables image holds a route (R356). -/
opaque tablesRoutes : (body : List Byte) → BitVec 512

end Sys2Proof.Config
end

