-- ==== Sys2Proof/Machine/State.lean ====
section
/-! DEFINITION. The state of the module: strands, cores, clusters, the coherence engine, Mooring, the Windsock, the
package and the fabric. All of it is plain data. -/

namespace Sys2Proof.Machine

/-- The trap causes (R102). -/
inductive Cause where
  | illegal | badTarget | badLine | privileged | misaligned | loadFault | storeFault | protection | writeOnce
  | noFullEmpty | fpTrap | dataError | lookupError | codebook | protocolCheck | protocolInUse | remote | breakpoint
  | systemCall | timeOut
deriving DecidableEq, Repr

/-- The code of a cause (R102). -/
def causeCode : Cause → Nat
  | .illegal => 1 | .badTarget => 2 | .badLine => 3 | .privileged => 4 | .misaligned => 5 | .loadFault => 6
  | .storeFault => 7 | .protection => 8 | .writeOnce => 9 | .noFullEmpty => 10 | .fpTrap => 11 | .dataError => 12
  | .lookupError => 13 | .codebook => 14 | .protocolCheck => 15 | .protocolInUse => 16 | .remote => 17
  | .breakpoint => 18 | .systemCall => 19 | .timeOut => 20

/-- Why a stream of a strand waits. -/
inductive WaitKind where
  /-- A register that an older VQ entry writes (R20). -/
  | interlock
  /-- The VQ must be empty (R91, R95, R189), or an older entry must have committed (R194). -/
  | drain
  /-- The VQ holds 64 entries (R19). -/
  | vqFull
  /-- A scalar memory access behind `vfence.vs` (R171). -/
  | fence
  /-- `park` (R94), `setvl.w` (R121) or `vwait` (R173) watching memory. -/
  | watch
  /-- `vcfg` with WAIT = 1 (R114). -/
  | grant
  /-- A full/empty granule (R187). -/
  | granule
  /-- A release that is not complete (R191). -/
  | release
  /-- A line whose transaction is under way (R275). -/
  | line
  /-- A lookup, Reel or Bridle job, or the job sequencer (R200). -/
  | engine
  /-- A crew barrier (R245). -/
  | barrier
  /-- A translation through ATS (R285). -/
  | ats
deriving DecidableEq, Repr

/-- A wait in progress: its kind, how often the condition was read again, and PTIME at its start in ns (R94, R173). -/
structure Wait where
  kind    : WaitKind
  polls   : Nat
  since   : Nat
  expired : Bool
deriving DecidableEq, Repr

/-- An entry of the vector queue with its captured operands (R20). `guardOff`: a guarded-off `vfence` or `bar.cl` (R34).
`lines`: the ONCE lines it has claimed (R270). `arrived`: the barrier generation it waits for (R246). `age`: the step in which
it entered the VQ (R109). `done`: an active element of a `vldff` has completed (R168). -/
structure VqEntry where
  pc       : Word
  head     : BitVec 16
  tail     : BitVec 96
  a        : Word
  b        : Word
  c        : Word
  d        : Word
  frm      : BitVec 3
  tether   : Word
  guardOff : Bool
  lines    : List Nat
  arrived  : Option Nat
  age      : Nat := 0
  done     : Bool := false
deriving DecidableEq, Repr

/-- An outer-product accumulator (R175): 32 x 32 binary32 values, row by row, the interval record, key base and mode. -/
structure Accum where
  data      : BitVec 32768
  intervals : Vector Word 4
  base      : Word
  masked    : Bool
deriving DecidableEq, Repr

/-- An accumulator at its claim (R114, R175). -/
def Accum.fresh : Accum := { data := 0, intervals := Vector.replicate 4 0, base := 0, masked := false }

/-- The version of a code line that the current pass uses (R31). -/
structure Pass where
  base  : Word
  bytes : BitVec 512
deriving DecidableEq, Repr

/-- A page fault with Mooring (R103, R286), noted at the strand that met it. -/
structure PageFault where
  va     : Word
  acc    : Acc
  fromVq : Bool
  elem   : Nat
  tag    : Nat
deriving DecidableEq, Repr

/-- Who met a page fault that Mooring resolves (R286). -/
inductive FaultOf where
  | strand
  /-- The Reel channel `ch` of cluster `cl` (R239). -/
  | reel (cl ch : Nat)
  /-- A Bridle operation of cluster `cl` (R372). -/
  | bridle (cl id : Nat)
deriving DecidableEq, Repr

/-- A page fault outstanding at Mooring (R286): the fields of its fault record, whether it goes to the host as a page request,
and whether the record or request has been posted. -/
structure FaultRec where
  tag    : Nat
  va     : Word
  asid   : Nat
  acc    : Acc
  strand : Nat
  who    : FaultOf
  host   : Bool
  posted : Bool
deriving DecidableEq, Repr

/-- A scalar trap that waits for the VQ to drain (R97), or for the line of its handler (R30): cause, value, address of the
instruction for XPC, and the flags that the instruction delivers when the trap is taken (R101). -/
structure PendTrap where
  cause : Cause
  val   : Word
  xpc   : Word
  flags : BitVec 6 := 0
deriving DecidableEq, Repr

/-- A VQ trap that waits for the line of its handler (R30): cause, value, faulting element. -/
structure VqTrap where
  cause : Cause
  val   : Word
  elem  : Nat
deriving DecidableEq, Repr

/-- A register-file error (R105): file, register, and where in it: the first corrupted bit of a vector register, the element
of a mask or an accumulator, 0 for a scalar register or a predicate. -/
structure Upset where
  file : RegFile
  reg  : Nat
  elem : Nat
deriving DecidableEq, Repr

/-- A set of Reel shadow registers with the set fields of `CPCTL` (R229, R231, R232). -/
structure CopySet where
  src  : Word
  dst  : Word
  ext  : Word
  sstr : Word
  dstr : Word
  esz  : Nat
  fe   : Bool
  cscp : Nat
deriving DecidableEq, Repr

/-- A shadow set at bind (R231, R232). -/
def CopySet.bind : CopySet :=
  { src := 0, dst := 0, ext := 0x0000000100010001, sstr := 0, dstr := 0, esz := 0, fe := false, cscp := 2 }

/-- A table source (R211). -/
structure TableSrc where
  qb   : Word
  eb   : Word
  qs   : Nat
  es   : Nat
  gate : Bool
deriving DecidableEq, Repr


/-- A strided block of memory: rows of `len` bytes, three outer dimensions of extents and strides (R200, R236). -/
structure Foot where
  base : Word
  len  : Nat
  ext  : Nat × Nat × Nat
  str  : Word × Word × Word
deriving DecidableEq, Repr

/-- What the job sequencer keeps of a job (R200): its place in the order of receipt, address space, footprints, and whether it
has been dispatched. -/
structure SeqInfo where
  order  : Nat
  asid   : Nat
  reads  : List Foot
  writes : List Foot
  disp   : Bool
deriving DecidableEq, Repr

/-- The state a strand owns (R11, R16), with the record of its binding (R293). `watch`: the watch entries its `vwait` has
armed, `armedAt`: PTIME then (R173). `yielded`: a wait has yielded the slot (R94). `lost`: its context is lost (R380). `place`:
the place of its `bankrole` in the cluster's job sequencer (R189). `ids`: what `STRANDID`, `CREWXYZ`, `CREWIDX` and `STAGE`
read after a context has been loaded (R300). `returning`: an `eret` has changed the mode and waits for the VQ to drain, with
the line it goes to and the status before it (R93). `replay`: the saved queue holds the entries of an intercepted page fault, which
go back to the VQ when it ends (R103, R107). -/
structure Strand where
  bound    : Bool
  stopped  : Bool
  id       : BitVec 18
  xyz      : BitVec 48
  idx      : BitVec 5
  stage    : BitVec 3
  queue    : Nat
  flight   : Nat
  crew     : Nat
  prio     : Nat
  csa      : Nat
  quant    : Nat
  wb       : Nat
  wn       : Nat
  pc       : Word
  pass     : Option Pass
  sregs    : Vector Word 32
  pregs    : Vector Bool 8
  vregs    : Vector (BitVec 262144) 32
  masks    : Vector (BitVec 4096) 8
  accs     : List Accum
  vq       : List VqEntry
  saved    : List VqEntry
  fflags   : BitVec 6
  frm      : BitVec 3
  status   : Word
  xpc      : Word
  xvcp     : Word
  xcause   : Word
  xval     : Word
  xscratch : Word
  xvec     : Word
  timefr   : BitVec 16
  vl       : Nat
  vlmax    : Nat
  nreg     : Nat
  ew       : Nat
  ext      : Nat
  base     : Nat
  vstart   : Nat
  tether   : Word
  scalarWait : Option Wait
  vqWait   : Option Wait
  pendTrap : Option PendTrap
  vqTrap   : Option VqTrap
  returning : Option (Pass × Word)
  fault    : Option PageFault
  upsets   : List Upset
  lost     : Bool
  watch    : Nat
  armedAt  : Nat
  yielded  : Bool
  cps      : Vector CopySet 4
  ch       : BitVec 2
  cperr    : Word
  cperra   : Word
  tsh      : Word
  tsrc     : Option TableSrc
  lkst     : Word
  lkNext   : BitVec 32
  colsrc   : Word
  coldst   : Word
  colgrp   : Word
  colctl   : Word
  colerr   : Word
  mcerr    : Word
  refused  : Option PageFault
  bindPc   : Word
  resumed  : Bool
  place    : Option SeqInfo
  ids      : Option (Vector Word 4)
  replay   : Bool := false
deriving DecidableEq, Repr

/-- An event that a DEFER word holds (R263): its code, the bytes, fault mark and writer it brings. -/
structure HeldEv where
  ev     : Nat
  bytes  : List (Nat × Byte)
  flt    : Nat
  writer : Nat
deriving DecidableEq, Repr

/-- A line in a cluster's engine (R261, R262): its state, the copy's bytes, the state before a request that may be refused, the
local event that sent it, events held by DEFER, the back-off of its retries in ns and how often it has been refused (R275), the
agents whose loads wait on the line, and one-shot results for the operations that wait on it (`served`: the agents whose loads
take the data; `granted`: the writers whose stores are answered, with the fault of R263, 0 for none; `flt`: the fault of a load).
`asker`: the writer whose STORE sent the request. `cores`: the cores of the cluster whose core stores hold a copy of the line,
as the filter marks them (R271). -/
structure CLine where
  cl      : Nat
  line    : Nat
  state   : Nat
  data    : BitVec 512
  prev    : Nat
  lastEv  : LocalEv
  held    : List HeldEv
  backoff : Nat
  tries   : Nat
  loads   : List Nat
  served  : List Nat
  granted : List (Nat × Nat)
  asker   : Nat
  flt     : Nat
  cores   : BitVec 8
deriving DecidableEq, Repr

/-- A line at its home (R268, R275): state, busy bit, acknowledgement counter, the request in service, the requests queued
at it, and whether a phase-free access has been granted and not yet performed. -/
structure HLine where
  line  : Nat
  state : Nat
  busy  : Bool
  acks  : Nat
  cur   : Option Msg
  queue : List Msg
  perf  : Bool
deriving DecidableEq, Repr

/-- A region entry of the die directory (R271): region number, 16-bit cluster vector, HOST bit, and its state: in use, or
displaced and to be freed when the transactions of its lines have ended (R272). -/
structure Region where
  region : Nat
  vec    : BitVec 16
  host   : Bool
  going  : Bool := false
deriving DecidableEq, Repr

/-- An entry of the range table (R255, R259). -/
structure RangeEntry where
  base  : Nat
  limit : Nat
  slot  : Nat
  v     : Bool
  hc    : Bool
  pend  : Bool
deriving DecidableEq, Repr

/-- An installed protocol table (R261): words by 12 * state + event; a word that is not listed is UNX. -/
structure Proto where
  loaded : Bool
  id     : Nat
  nsh    : Nat
  nsc    : Nat
  hstab  : BitVec 16
  cstab  : BitVec 16
  cattr  : List Nat
  home   : List (Nat × Word)
  clus   : List (Nat × Word)
deriving DecidableEq, Repr

/-- A scatter-add chain of a slice (R277): the address, and the values that have joined with their types. -/
structure Chain where
  addr : Nat
  vals : List (Ty × Word)
deriving DecidableEq, Repr

/-- An entry of a TLB (R280, R283): its page, the walk's answer, and whether it came from ATS. -/
structure TlbEntry where
  asid : Nat
  glob : Bool
  host : Bool
  page : Nat
  size : Nat
  pa   : Nat
  perm : BitVec 5
  attr : Nat
deriving DecidableEq, Repr

/-- An entry of a walk cache (R283): the table that a pointer names. -/
structure WalkEntry where
  asid   : Nat
  level  : Nat
  index  : Nat
  table  : Nat
deriving DecidableEq, Repr

/-- The registers of a launch queue (R288, R306). -/
structure LaunchQueue where
  base  : Word
  ctl   : Word
  pt    : Word
  stk   : Word
  stksz : Word
  xvec  : Word
  bank  : Word
  head  : BitVec 32
  tail  : BitVec 32
deriving DecidableEq, Repr

/-- A launch queue after reset (R288). -/
def LaunchQueue.reset : LaunchQueue :=
  { base := 0, ctl := 0, pt := 0, stk := 0, stksz := 0, xvec := 0, bank := 0, head := 0, tail := 0 }

/-- A flight (R289 to R291): its number, queue, address space, record (eight words), the counters it waits on as address and
value, the registers s4 to s7 of a tick-fired flight (R332) with its stream, whether it is ready, its current priority (R296
ageing) of its crews not yet bound, the crews bound so far, whether it was refused or cancelled and binds nothing more, its
status, its context save areas, and when it became ready or last rose in priority, in ns. -/
structure Flight where
  no     : Nat
  queue  : Nat
  words  : Vector Word 8
  waits  : List (Nat × Nat)
  tick   : Option (Nat × Vector Word 4)
  ready  : Bool
  prio   : Nat
  bound  : Nat
  shut   : Bool
  status : Nat
  csas   : List Nat
  readyAt : Nat
deriving DecidableEq, Repr

/-- A bound or recalled crew (R378, R294): its number, flight, crew coordinate index, cluster, window (first bank, S banks, F
banks), strands, strands that have ended, whether its context was lost, current priority, and its barrier: generation and the
arrivals in it (R245, R246), when it was bound, and when, recalled, it became ready or last rose in priority, in ns (R296). -/
structure Crew where
  id     : Nat
  flight : Nat
  idx    : Nat
  cl     : Nat
  wb     : Nat
  ws     : Nat
  wf     : Nat
  size   : Nat
  ended  : List Nat
  lost   : Bool
  prio   : Nat
  gen    : Nat
  here   : List Nat
  boundAt : Nat
  readyAt : Nat
deriving DecidableEq, Repr

/-- The registers of Mooring outside the queues (R288). -/
structure MooringRegs where
  csaBase : Word
  csaCnt  : BitVec 16
  fqBase  : Word
  fqCtl   : BitVec 16
  fqTail  : BitVec 32
  fqHead  : BitVec 32
deriving DecidableEq, Repr

/-- Who issued a job and in what context its accesses are made: queue, mode, window, flight, crew, strand index, die. -/
structure Issuer where
  queue  : Nat
  sup    : Bool
  wb     : Nat
  wn     : Nat
  flight : Nat
  crew   : Nat
  idx    : Nat
  strand : Nat
deriving DecidableEq, Repr

/-- Where an address leads. -/
inductive Space where
  /-- Memory of the domain, with its page attribute. -/
  | dev (attr : Nat)
  /-- A device register, reached through an NC page (R287). -/
  | reg
  /-- The cluster scratch window, with the bank (R279). -/
  | clScratch (bank : Nat)
  /-- The core scratch window (R279). -/
  | coScratch
  /-- Host memory (R285); `nc`: the host's translation says the page is not to be snooped. -/
  | host (nc : Bool)
deriving DecidableEq, Repr

/-- A translated address: its key and where it leads. -/
structure Place where
  key   : Nat
  space : Space
deriving DecidableEq, Repr

/-- An element that a step of a transfer has read and not yet written (R234): where it goes, its bytes, its address, and whether
its source was uncorrectable, with the source's address (R239). -/
structure ReelWrite where
  place : Place
  bytes : List Byte
  va    : Word
  bad   : Option Word
deriving DecidableEq, Repr

/-- A Reel transfer (R233, R234): ID, captured set, count l0, issuer, next step, first error with its address (R239), the tag of
a page fault being resolved, whether it is cancelled (R241) and whether it goes no further, the ONCE lines it has claimed
(R270), the forwarding pair it moves (R248), and the step in progress: what it has read and not yet written, whether it has read
all of it, and whether the range check of the element being read has passed. `started`: the transfer has taken in what was
published before it started (R199). -/
structure ReelJob where
  id     : BitVec 32
  set    : CopySet
  l0     : Nat
  by_    : Issuer
  seq    : SeqInfo
  step   : Nat
  ecause : Nat
  eaddr  : Word
  wait   : Option Nat
  cancel : Bool
  stop   : Bool
  lines  : List Nat
  pair   : Option Nat
  todo   : List ReelWrite := []
  full   : Bool := false
  passed : Bool := false
  started : Bool := false
deriving DecidableEq, Repr

/-- A Reel channel (R233, R237): next ID, and the transfers not complete, oldest first. -/
structure Channel where
  next : BitVec 32
  jobs : List ReelJob
deriving DecidableEq, Repr

/-- A channel after reset (R233). -/
def Channel.reset : Channel := { next := 1, jobs := [] }

/-- A partial sum or result of a lookup job: its bits, the flags raised in computing it, and whether it is a poison value that
the job created (R218, R225). -/
structure LkVal where
  val    : Nat
  flags  : BitVec 6
  poison : Bool
deriving DecidableEq, Repr

/-- A row handed to a drain stream: row number, consumer, next column, values left (R219, R221). -/
structure DrainRow where
  row  : Nat
  cons : Nat
  col  : Nat
  vals : List LkVal
deriving DecidableEq, Repr

/-- An error met in a pass: pseudo-channel, bank, column, cause (R223). -/
structure LkErr where
  pc    : Nat
  bank  : Nat
  col   : Nat
  cause : Nat
deriving DecidableEq, Repr

/-- Where a lookup job stands (R226 STATE). -/
inductive LkState where
  | queued | running | suspended | complete
deriving DecidableEq, Repr

/-- A lookup job (R216, R226): latched operands, progress, partial sums of the pass, rows handed to consumers, errors of the
pass, the job's first error (LKST bits 26:0) with its pass, flags not yet delivered, reports made, and whether it is cancelled.
`swept`: every pass has been delivered. `noted`: the errors of the pass that the record in `LKST` stands for (R223). `words`: the 32-byte words of index and scale data that the pass has read and goes on
using, with whether they are uncorrectable (R307). -/
structure LkJob where
  id     : BitVec 32
  by_    : Issuer
  seq    : SeqInfo
  desc   : BitVec 256
  tsh    : Word
  book   : Vector (BitVec 16) 16
  src    : TableSrc
  cb     : Word
  cs     : Nat
  mode   : Nat
  fc     : Nat
  ncon   : Nat
  state  : LkState
  pass   : Nat
  seg    : Nat
  acc    : List LkVal
  rows   : List DrainRow
  errs   : List LkErr
  err    : BitVec 27
  flags  : BitVec 6
  repc   : BitVec 8
  repi   : Bool
  cancel : Bool
  swept  : Bool
  errPass : Nat := 0
  noted   : List LkErr := []
  words  : List (Nat × BitVec 256 × Bool) := []
deriving DecidableEq, Repr

/-- The state of a forwarding pair (R247, R251 STATE). -/
inductive PairState where
  | free | moving | forwarding | failed
deriving DecidableEq, Repr

/-- A forwarding pair (R247). -/
structure Pair where
  old    : Word
  new    : Word
  z      : Nat
  ch     : Nat
  id     : BitVec 32
  wm     : Nat
  state  : PairState
  flight : Nat
deriving DecidableEq, Repr

/-- A free pair. -/
def Pair.free : Pair := { old := 0, new := 0, z := 0, ch := 0, id := 0, wm := 0, state := .free, flight := 0 }

/-- The codebook register after reset (R132). -/
def resetBook : Vector (BitVec 16) 16 :=
  #v[0x4000, 0x0000, 0x0400, 0x0600, 0x0800, 0x0A10, 0x0C00, 0x0E20, 0x9000, 0x8000, 0x8400, 0x8600, 0x8800, 0x8A10,
    0x8C00, 0x8E20]

/-- A Bridle operation (R368): ID, issuer, place in the sequencer, the shadow registers captured, the members' global numbers by
rank, the parts announced by the peers once they have been checked (R369), the granules written, the first error, and whether
it is cancelled. -/
structure BridleOp where
  id      : BitVec 32
  by_     : Issuer
  seq     : SeqInfo
  src     : Word
  dst     : Word
  grp     : Word
  ctl     : Word
  members : List Nat
  peers   : Option (List PeerPart)
  written : List Nat
  ecause  : Nat
  stop    : Bool
  lines   : List Nat
  wait    : Option Nat
  cancel  : Bool
deriving DecidableEq, Repr

/-- A group's entry (R361): member bits and the fields of `SPGCTL` below GO. -/
structure Group where
  mem : BitVec 512
  ctl : BitVec 18
deriving DecidableEq, Repr

/-- A reply of a stack's base die (R310): stack, port, header, and the data of an RD. -/
structure StackRep where
  stack : Nat
  port  : Nat
  header : Word
  data  : List Byte
deriving DecidableEq, Repr

/-- A grandmaster: the data that the best master clock algorithm compares, in its order, and the port by which it is reached
(R317). -/
structure Master where
  priority1 : BitVec 8
  clockClass : BitVec 8
  accuracy  : BitVec 8
  variance  : BitVec 16
  priority2 : BitVec 8
  identity  : Word
  source    : Word
deriving DecidableEq, Repr

/-- Windsock (R317 to R322, R330): its registers, LOCK, STEPS, consecutive good measurements, the time of the last measurement
and the path delay in units of 2^-16 ns, a two-step Sync that awaits its Follow_Up, the times of the last Sync, the chosen
grandmaster and when it was last heard, the offset that slewing takes away (0: the clock runs on the local oscillator), the edges of
1PPS out, and those that the clock has passed and not yet given (R319). -/
structure Windsock where
  ctl    : BitVec 14
  ofs    : Word
  pps    : Word
  irBase : Word
  irCtl  : BitVec 6
  irHead : BitVec 32
  irTail : BitVec 32
  lock   : Bool
  steps  : BitVec 16
  good   : Nat
  last   : Nat
  delay  : Int
  twoStep : Option (BitVec 16 × Nat)
  sync   : Option (Nat × Nat)
  master : Option Master
  heard  : Nat := 0
  slew   : Int
  ppsOut : List Nat
  ppsDue : List Nat
deriving DecidableEq, Repr

/-- Windsock after module reset (R318, R320). -/
def Windsock.reset : Windsock :=
  { ctl := 0, ofs := 0, pps := 0, irBase := 0, irCtl := 0, irHead := 0, irTail := 0, lock := false, steps := 0, good := 0,
    last := 0, delay := 0, twoStep := none, sync := none, master := none, slew := 0, ppsOut := [], ppsDue := [] }

/-- A stream (R323, R328, R331 to R334): descriptor, NEWEST, arming, NEXT, cnt from NEXT on, template, whether tick NEXT waits
under WAIT or is deferred, late tokens admitted and ticks closed since the last firing. -/
structure Stream where
  desc     : Vector Word 8
  newest   : Option Nat
  armed    : Bool
  next     : Nat
  cnts     : List Nat
  tmpl     : Vector Word 8
  waiting  : Bool
  deferred : Bool
  ladm     : Nat
  skp      : Nat
deriving DecidableEq, Repr

/-- A count of stream events that has not been made yet (R327): the stream, its queue, the counter's address and offset, and the
amount. -/
structure CountReq where
  stream : Nat
  queue  : Nat
  va     : Word
  off    : Nat
  n      : Nat
deriving DecidableEq, Repr

/-- The answers of the module as an SPDM Responder (R349). -/
inductive SpdmReply where
  | version (versions : List (BitVec 8))
  | capabilities (flags : BitVec 32)
  | algorithms (baseAsym baseHash : BitVec 32)
  | digests (chains : List (BitVec 512))
  | certificate (slot : Nat) (portion : List Byte) (remainder : Nat)
  | challengeAuth (slot : Nat) (chain : BitVec 512) (signature : List Byte)
  | measurements (count : Nat) (blocks : List (Nat × BitVec 512)) (signature : List Byte)
  | error
deriving DecidableEq, Repr

/-- The package registers and the security block (R338 to R354): shard registers, power registers, `BOOTST`, the five
measurements, those of the boot, from which the alias key is derived (R348), what the fused minimum security versions have been
raised to by image kind (R346), patches held, how far an SPDM dialogue has come and its replies, expanders whose link is down,
what host reads returned, Spool ports that are up, and failed replays in a row by port. -/
structure Package where
  sgctl   : BitVec 5
  sgmem   : BitVec 36
  sglink  : BitVec 12
  pwrcap  : BitVec 13
  pwrst   : BitVec 25
  bootst  : BitVec 8
  meas    : Vector (BitVec 512) 5
  alias_  : Vector (BitVec 512) 5
  svn     : Vector Nat 5
  patches : List (BitVec 512)
  spdm    : Nat
  replies : List SpdmReply
  expDown : List Nat
  hostOut : List (Option (List Byte))
  ports   : BitVec 16
  naks    : List (Nat × Nat)
deriving DecidableEq, Repr

/-- The package after reset (R338, R347, R351). -/
def Package.reset : Package :=
  { sgctl := 0, sgmem := 0, sglink := 0, pwrcap := 0x15DC, pwrst := 0x708000, bootst := 0, meas := Vector.replicate 5 0,
    alias_ := Vector.replicate 5 0, svn := Vector.replicate 5 0, patches := [], spdm := 0, replies := [],
    expDown := [], hostOut := [], ports := 0xFFFF, naks := [] }

/-- The roles of a core-store bank (R111). -/
inductive CoreBank where
  | c | s | v (slot : Nat)
deriving DecidableEq, Repr

/-- A core (R109 to R111): its banks. -/
structure CoreState where
  banks : Vector CoreBank 16
  l1tlb : List TlbEntry
deriving DecidableEq, Repr

/-- The roles of a cluster-store bank (R183). -/
inductive ClBank where
  | c | s | f
deriving DecidableEq, Repr

/-- A bank's table store (R213, R308): the active half and the loading half, 16 KiB each, entry k of the layout of R213 at
bits 24k + 23 to 24k. -/
structure TableStore where
  active  : BitVec 131072
  loading : BitVec 131072
deriving DecidableEq, Repr

/-- A table store that no table has been written to. -/
def TableStore.blank : TableStore := { active := 0, loading := 0 }

/-- A cluster: the roles of its banks, the full granules of its scratch window by number (R183, R186), the Reel's channels, the
count of jobs its sequencer has received (R200), the lookup queue, codebook register, bank base and limit (R210, R216, R305),
the table stores of the banks of its half that hold a table, by 48 x pseudo-channel + bank (R213), table-store errors that
strike the next table of a pseudo-channel, block and row (R315), and forwarding pairs (R247). -/
structure ClusterState where
  banks : Vector ClBank 48
  full  : List Nat
  l2tlb : List TlbEntry
  reel  : Vector Channel 4
  order : Nat
  lk    : List LkJob
  book  : Vector (BitVec 16) 16
  bbase : BitVec 16
  blim  : BitVec 16
  tables : List (Nat × TableStore)
  tblErr : List (Nat × Nat × Nat)
  pairs : Vector Pair 16
  ops   : List BridleOp
  opNext : BitVec 32
deriving DecidableEq, Repr

/-- A stored byte that a cluster holds outside the protocol (R260): its key, its agent with core and cluster, the level it
is published at (0 `st`, 1 `co`, 2 `cl`, 3 on its way to the home), the agents whose acquires have taken it in (R191, R192),
the step in which it was stored, and whether it is a scalar store that nothing has ordered before the strand's vector accesses
yet (R22). In the list of them a byte stands before those that come earlier in the store order. -/
structure PStore where
  key    : Nat
  byte   : Byte
  owner  : Nat
  core   : Nat
  cl     : Nat
  lvl    : Nat
  takers : List Nat
  made   : Nat := 0
  scal   : Bool := false
deriving DecidableEq, Repr

/-- A byte as it was before Windsock wrote a slot in step `made`, and the agents that may still read it so: the strands that were bound
then and have made no acquire at `pk` or wider since (R355). -/
structure Stale where
  key    : Nat
  byte   : Byte
  made   : Nat
  agents : List Nat
deriving DecidableEq, Repr

/-- One turn of the schedule: what happens next, where the spec fixes no order. -/
inductive Turn where
  /-- An event, or an input from outside. -/
  | event (i : Instr)
  /-- Make bound strand `k` of the waiting ones the acting one. -/
  | strand (k : Nat)
  /-- The scalar stream of the acting strand issues. -/
  | scalar
  /-- The head entry of the acting strand's VQ executes. -/
  | vq
  /-- A cluster replaces its copy of a line (R262 EVICT). -/
  | evict (cl line : Nat)
  /-- The die directory displaces a region entry (R272). -/
  | displace (region : Nat)
  /-- A replay of a Spool port has succeeded (R357). -/
  | replayed (port : Nat)
  /-- An install of a group by another module of the domain reaches this module's router (R362). -/
  | groupInstalled (group : Nat) (entry : Group)
  /-- Onacy's signed manufacturing command that raises a fused minimum security version (R346). -/
  | raiseSvn (kind svn : Nat) (signature : List Byte)
  /-- A power cycle, with the images that the module then starts from (R347, R354). -/
  | powerCycle (mooring sequencer spool : SignedImage)
deriving DecidableEq, Repr

/-- Why the machine stops with a fault. -/
inductive Fault where
  /-- Raised by every step but a power cycle after `THERMAL_TRIP` cut the module's power (R354): nothing happens until then. Safe. -/
  | poweredOff
deriving DecidableEq, Repr

/-- Why an instruction has no meaning. -/
inductive Refusal where
  /-- Raised by `exec` for an instruction whose arm has no meaning yet. Safe. -/
  | notModelled (mnemonic : String)
deriving DecidableEq, Repr

/-- Memory as a list of cells, addresses strictly rising, no cell 0; an unlisted byte reads 0 (log 2). -/
abbrev Memory := List Host.Cell

/-- The canonical form of memory. -/
def Memory.wf : Memory → Bool
  | [] => true
  | [(_, b)] => b != 0
  | (a, b) :: (a', b') :: m => b != 0 && decide (a < a') && Memory.wf ((a', b') :: m)

/-- The module. `added`: scatter-adds that their slice has answered and whose instruction has not looked yet, by writer, with the
fault (R270, R277). `starved`: the requests refused at least 8 times, oldest first, as requester, line and writer (R275). `parts`:
what the accesses of one look have answered so far, by agent (log 3). `stale`: the bytes that Windsock's appends have replaced (R355). -/
structure State where
  strand   : Strand
  others   : List Strand
  parked   : List Strand
  cores    : List (Nat × CoreState)
  clusters : List (Nat × ClusterState)
  mem      : Memory
  poison   : List Nat
  stores   : List PStore
  cycle    : Vector Word 2
  clines   : List CLine
  hlines   : List HLine
  regions  : List Region
  ranges   : Vector RangeEntry 64
  slots    : List Proto
  rslots   : List (Nat × Nat)
  lock     : Option Nat
  lockq    : List Nat
  net      : List Msg
  hostq    : List HostAccess
  chains   : List Chain
  aflags   : Vector (BitVec 5) 64
  walks    : List (Nat × WalkEntry)
  queues   : Vector LaunchQueue 16
  errlog   : List (Nat × Nat × Word)
  regq     : List (Nat × Word × BitVec 8)
  spid     : Word
  routes   : BitVec 512
  faultNo  : Nat
  faultq   : List FaultRec
  ptime    : Nat
  flights  : List Flight
  crews    : List Crew
  nextFlight : Nat
  mooring  : MooringRegs
  tearing  : List (Nat × Nat)
  vault    : List (List Nat × List Nat)
  msix     : List Nat
  pri      : List Nat
  shard    : List Nat
  groups   : List (Nat × Group)
  spgSel   : Word
  spgMem   : Vector Word 8
  spgCtl   : Word
  gate     : List (Nat × Nat)
  added    : List (Nat × Nat)
  starved  : List (Nat × Nat × Nat)
  parts    : List (Nat × List Nat)
  stale    : List Stale
  softErr  : List Nat
  corrected : List (Nat × Nat)
  stackq   : List StackRep
  stackOut : List StackRep
  ws       : Windsock
  streams  : List (Nat × Stream)
  countq   : List CountReq
  pk       : Package
  silent   : List Nat
  stepNo   : Nat
  slice    : Nat
  engineTurn : Bool
  eager    : Bool
  sched    : List Turn
  powered  : Bool
deriving DecidableEq, Repr

/-- The fields of an action word (R263). `next` is NEXT with NV. -/
structure ActionWord where
  next  : Option Nat
  msg   : MsgKind
  dest  : Nat
  shv   : Nat
  carry : Bool
  write : Bool
  cnt   : Bool
  rdm   : Bool
  flt   : Nat
  setb  : Bool
  clrb  : Bool
  perf  : Bool
  defer : Bool
  unx   : Bool
deriving DecidableEq, Repr

/-- The message kind codes (R262). -/
def msgCode : MsgKind → Nat
  | .none => 0 | .gets => 1 | .getx => 2 | .putd => 3 | .push => 4 | .claim => 5 | .inv => 6 | .upd => 7 | .data => 8
  | .ack => 9 | .nack => 10 | .unc => 11 | .add => 12 | .quit => 13

/-- A word with nothing set. -/
def ActionWord.nil : ActionWord :=
  { next := none, msg := .none, dest := 0, shv := 0, carry := false, write := false, cnt := false, rdm := false, flt := 0,
    setb := false, clrb := false, perf := false, defer := false, unx := false }

/-- The 64-bit form of a word (R263). -/
def ActionWord.pack (w : ActionWord) : Word :=
  BitVec.ofNat 64 ((w.next.getD 0) + (if w.next.isSome then 2 ^ 4 else 0) + msgCode w.msg * 2 ^ 5 + w.dest * 2 ^ 9
    + w.shv * 2 ^ 11 + (if w.carry then 2 ^ 14 else 0) + (if w.write then 2 ^ 15 else 0) + (if w.cnt then 2 ^ 16 else 0)
    + (if w.rdm then 2 ^ 17 else 0) + w.flt * 2 ^ 18 + (if w.setb then 2 ^ 20 else 0) + (if w.clrb then 2 ^ 21 else 0)
    + (if w.perf then 2 ^ 22 else 0) + (if w.defer then 2 ^ 23 else 0) + (if w.unx then 2 ^ 24 else 0))

-- The words of the shipped protocols (R267 to R269).
/-- PERF with no other action. -/
def wDash : ActionWord := { ActionWord.nil with perf := true }
/-- DEFER. -/
def wDefer : ActionWord := { ActionWord.nil with defer := true }
/-- Enter a state. -/
def wGo (n : Nat) : ActionWord := { ActionWord.nil with next := some n }
/-- ACK to the home. -/
def wAck : ActionWord := { ActionWord.nil with msg := .ack }
/-- ACK to the home and enter a state. -/
def wAckGo (n : Nat) : ActionWord := { wAck with next := some n }
/-- Send a request to the home and enter a state. -/
def wSend (k : MsgKind) (n : Nat) : ActionWord := { ActionWord.nil with msg := k, next := some n }
/-- Send the published bytes and enter a state. -/
def wPub (k : MsgKind) (n : Nat) : ActionWord := { wSend k n with carry := true }
/-- Write the copy, send the published bytes and enter a state. -/
def wPubCopy (k : MsgKind) (n : Nat) : ActionWord := { wPub k n with write := true }
/-- Serve and enter a state. -/
def wServe (n : Nat) : ActionWord := { wDash with next := some n }
/-- Write the copy, serve and enter a state. -/
def wFill (n : Nat) : ActionWord := { wServe n with write := true }

/-- A row of cluster words from event 0 on; none is UNX. -/
def wRow (s : Nat) (l : List (Option ActionWord)) : List (Nat × Word) :=
  (l.zipIdx).filterMap fun x => x.1.map fun w => (12 * s + x.2, w.pack)

/-- The cluster half of INV (R267), with the request of a LOAD in I and the message of a PUB. -/
def invCluster (load pub : MsgKind) : List (Nat × Word) :=
  wRow 0 [some (wSend load 2), some wDash, some (wPub pub 5), some wDash, some wDash, some wAck] ++
  wRow 1 [some wDash, some wDash, some (wPubCopy pub 4), some wDash, some (wGo 0), some (wAckGo 0)] ++
  wRow 2 [some wDefer, some wDash, some wDefer, some wDash, some wDefer, some (wAckGo 3), none, some (wFill 1), none,
    some (wGo 0)] ++
  wRow 3 [some wDefer, some wDash, some wDefer, some wDash, some wDefer, some wAck, none, some (wServe 0), none,
    some (wGo 0)] ++
  wRow 4 [some wDash, some wDash, some wDefer, some wDash, some wDefer, some (wAckGo 5), none, none, some (wGo 1),
    some (wGo 1)] ++
  wRow 5 [some wDefer, some wDash, some wDefer, some wDash, some wDash, some wAck, none, none, some (wGo 0), some (wGo 0)]

/-- Busy, read memory. -/
def wRead (n : Nat) : ActionWord := { wGo n with setb := true, rdm := true }
/-- Busy, INV or UPD to sharers (`dest` 2 others, 3 all), count, with the sharer-vector operation given. -/
def wProbe (k : MsgKind) (dest shv n : Nat) : ActionWord :=
  { wGo n with setb := true, msg := k, dest := dest, cnt := true, shv := shv }
/-- DATA with the line to the requester, the sharer-vector operation given, clear busy. -/
def wReply (shv n : Nat) : ActionWord := { wGo n with msg := .data, dest := 1, carry := true, shv := shv, clrb := true }
/-- ACK to the requester, clear busy. -/
def wDone (n : Nat) : ActionWord := { wGo n with msg := .ack, dest := 1, clrb := true }
/-- Perform, clear busy. -/
def wPerform (n : Nat) : ActionWord := { wGo n with perf := true, clrb := true }
/-- Nothing, stay. -/
def wStay : ActionWord := ActionWord.nil

/-- The home words of one stable state `v` with its busy states `br`, `bw`, `bu` (R268). Events: 0 GETS, 1 GETX, 2 PUTD,
3 PUSH, 4 CLAIM, 5 UNC, 6 INV_ACK, 7 LAST_ACK, 8 MEM, 9 RECALL, 10 EVICT_DIR. -/
def invHome (v br bw bu : Nat) (claim : Option ActionWord) : List (Nat × Word) :=
  wRow v [some (wRead br), none, some { wProbe .inv 2 3 bw with write := true }, none, claim, some (wProbe .inv 3 4 bu), none,
    none, none, some (wProbe .inv 3 4 bu), some (wProbe .inv 3 4 bu)] ++
  wRow br [none, none, none, none, none, none, none, none, some (wReply 1 v)] ++
  wRow bw [none, none, none, none, none, none, some wStay, some (wDone v)] ++
  wRow bu [none, none, none, none, none, none, some wStay, some (wPerform v)]

/-- Replace or add words. -/
def patch (l : List (Nat × Word)) (s e : Nat) (w : Option ActionWord) : List (Nat × Word) :=
  let l' := l.filter fun x => x.1 != 12 * s + e
  match w with
  | some w => l' ++ [(12 * s + e, w.pack)]
  | none => l'

/-- INV, slot 0 (R267, R268). -/
def protoInv : Proto :=
  { loaded := true, id := 0, nsh := 4, nsc := 6, hstab := 1, cstab := 3, cattr := [0, 1, 0, 0, 3, 2],
    home := invHome 0 1 2 3 none, clus := invCluster .gets .putd }

/-- UPD, slot 1 (R269). -/
def protoUpd : Proto :=
  let upd : ActionWord := { wAck with write := true }
  let c := patch (patch (patch (patch (patch (invCluster .gets .push) 1 6 (some upd)) 4 6 (some upd)) 0 6 (some wAck)) 5 6
    (some wAck)) 2 6 (some (wAckGo 3))
  let h := patch (patch (invHome 0 1 2 3 none) 0 3
    (some { wProbe .upd 2 0 2 with write := true, carry := true })) 0 2 none
  { protoInv with id := 1, home := h, clus := c }

/-- MIG, slot 2 (R269). -/
def protoMig : Proto :=
  let h := patch (invHome 0 1 2 3 none) 0 0 none
  let h := patch h 0 1 (some (wProbe .inv 2 3 4))
  let h := h ++ wRow 4 [none, none, none, none, none, none, some wStay, some { wGo 1 with rdm := true }]
  { protoInv with id := 2, nsh := 5, home := h, clus := invCluster .getx .putd }

/-- ONCE, slot 3 (R269): the cluster states IC and SC, the written home state W and its busy states. -/
def protoOnce : Proto :=
  let c := patch (patch (invCluster .gets .putd) 0 1 (some (wSend .claim 6))) 1 1 (some (wSend .claim 7))
  let c := c ++
    wRow 6 [some wDefer, some wDefer, some wDefer, some wDash, some wDefer, some wAck, none, none, some (wServe 0),
      some (wGo 0)] ++
    wRow 7 [some wDefer, some wDefer, some wDefer, some wDash, some wDefer, some (wAckGo 6), none, none, some (wServe 1),
      some (wGo 1)]
  let ok : ActionWord := { ActionWord.nil with msg := .ack, dest := 1, next := some 5 }
  let bad : ActionWord := { ActionWord.nil with msg := .ack, dest := 1, flt := 2 }
  { protoInv with
    id := 3, nsh := 9, nsc := 8, hstab := 33, cattr := [0, 1, 0, 0, 3, 2, 0, 1],
    home := invHome 0 1 2 3 (some ok) ++ invHome 5 6 7 8 (some bad), clus := c }

/-- HOME, slot 4 (R269). -/
def protoHome : Proto :=
  { loaded := true, id := 4, nsh := 2, nsc := 2, hstab := 1, cstab := 1, cattr := [0, 0],
    home := wRow 0 [none, none, none, none, none, some wDash], clus := [] }

/-- RO, slot 5 (R269). -/
def protoRo : Proto :=
  let fault : ActionWord := { ActionWord.nil with flt := 1 }
  let c := (List.range 6).foldl (fun c s => patch (patch c s 1 (some fault)) s 2 none) (invCluster .gets .putd)
  let h := patch (invHome 0 1 2 3 none) 1 8 (some (wReply 0 0))
  let h := patch h 0 5 (some { wDash with flt := 1, msg := .ack, dest := 1 })
  { protoInv with id := 5, home := h, clus := c }

/-- An empty loadable slot (R259). -/
def protoEmpty : Proto :=
  { loaded := false, id := 0, nsh := 0, nsc := 0, hstab := 0, cstab := 0, cattr := [], home := [], clus := [] }

/-- The eight protocol slots after reset (R259, R267 to R269). -/
def shippedProtos : List Proto :=
  [protoInv, protoUpd, protoMig, protoOnce, protoHome, protoRo, protoEmpty, protoEmpty]
/-- A strand slot with nothing bound (R18; log 1). -/
def Strand.unbound : Strand :=
  { bound := false, stopped := false, id := 0, xyz := 0, idx := 0, stage := 0, queue := 0, flight := 0, crew := 0, prio := 0,
    csa := 0, quant := 0, wb := 0, wn := 0, pc := 0, pass := none, sregs := Vector.replicate 32 0,
    pregs := Vector.replicate 8 false, vregs := Vector.replicate 32 0, masks := Vector.replicate 8 0, accs := [],
    vq := [], saved := [], fflags := 0, frm := 0, status := 0, xpc := 0, xvcp := 0, xcause := 0, xval := 0, xscratch := 0,
    xvec := 0, timefr := 0, vl := 0, vlmax := 2048, nreg := 8, ew := 8, ext := 0, base := 16384, vstart := 0, tether := 0,
    scalarWait := none, vqWait := none, pendTrap := none, vqTrap := none, returning := none, fault := none, upsets := [],
    lost := false, watch := 0, armedAt := 0, yielded := false
    , cps := Vector.replicate 4 CopySet.bind, ch := 0, cperr := 0, cperra := 0, tsh := 0, tsrc := none, lkst := 0x8000000
    , lkNext := 1
    , colsrc := 0, coldst := 0, colgrp := 0, colctl := 0, colerr := 0, mcerr := 0, refused := none
    , bindPc := 0, resumed := false, place := none, ids := none
  }

/-- A core after reset (R111): banks 0 to 11 in role C, 12 to 15 in role S. -/
def CoreState.reset : CoreState :=
  { banks := Vector.ofFn fun k => if k.val < 12 then .c else .s
    , l1tlb := []
  }

/-- A cluster after reset (R132, R183). -/
def ClusterState.reset : ClusterState :=
  { banks := Vector.replicate 48 .c, full := []
    , l2tlb := []
    , reel := Vector.replicate 4 Channel.reset, order := 0, lk := [], book := resetBook, bbase := 0, blim := 0, tables := []
    , tblErr := []
    , pairs := Vector.replicate 16 Pair.free
    , ops := [], opNext := 1
  }

/-- The module after reset. -/
def State.reset : State :=
  { strand := Strand.unbound, others := [], parked := [], cores := [], clusters := [], mem := [], poison := [], stores := [],
    cycle := Vector.replicate 2 0,
    clines := [], hlines := [], regions := [],
    ranges := Vector.replicate 64 { base := 0, limit := 0, slot := 0, v := false, hc := false, pend := false },
    slots := shippedProtos, lock := none, lockq := [], rslots := [], hostq := [],
    net := [], chains := [], aflags := Vector.replicate 64 0, walks := [],
    queues := Vector.replicate 16 LaunchQueue.reset, errlog := [],
    regq := [],
    spid := 0, routes := 0, faultNo := 0, faultq := [], ptime := 0,
    flights := [], crews := [], nextFlight := 0,
    mooring := { csaBase := 0, csaCnt := 0, fqBase := 0, fqCtl := 0, fqTail := 0, fqHead := 0 },
    tearing := [], vault := [], msix := [], pri := [],
    shard := [],
    groups := [], spgSel := 0, spgMem := Vector.replicate 8 0, spgCtl := 0,
    gate := [], added := [], starved := [], parts := [], stale := [],
    softErr := [], corrected := [], stackq := [], stackOut := [],
    ws := Windsock.reset, streams := [], countq := [], pk := Package.reset, silent := [],
    stepNo := 0, slice := 0, engineTurn := false, eager := true, sched := [], powered := true }

end Sys2Proof.Machine
end

