-- ==== Sys2Proof/Machine/Basic.lean ====
section
/-! DEFINITION. The plainest operations on the state: keyed lists, registers, raw memory, the identity of a strand, and
the result type of an instruction's own work. -/

namespace Sys2Proof.Machine

-- ## Keyed lists

/-- The value at a key, or the default. -/
def findD {α : Type} (l : List (Nat × α)) (k : Nat) (d : α) : α :=
  match l with
  | [] => d
  | (k', v) :: r => if k' = k then v else findD r k d

/-- Put a value at a key, keys rising. -/
def putK {α : Type} (l : List (Nat × α)) (k : Nat) (v : α) : List (Nat × α) :=
  match l with
  | [] => [(k, v)]
  | (k', v') :: r => if k' = k then (k, v) :: r else if k < k' then (k, v) :: (k', v') :: r else (k', v') :: putK r k v

/-- Insert a number in a rising list without repeats. -/
def insertN (l : List Nat) (k : Nat) : List Nat :=
  match l with
  | [] => [k]
  | x :: r => if x = k then x :: r else if k < x then k :: x :: r else x :: insertN r k

/-- The element at an index of a list, or the default. -/
def nthD {α : Type} (l : List α) (n : Nat) (d : α) : α := (l[n]?).getD d

/-- A list with the element at an index replaced. -/
def setNth {α : Type} (l : List α) (n : Nat) (v : α) : List α := l.set n v

-- ## Bit fields of natural numbers and words

/-- Bits h down to l of a number (R6). -/
def bits (x h l : Nat) : Nat := x / 2 ^ l % 2 ^ (h - l + 1)

/-- Bit i of a number, as a truth value. -/
def bit (x i : Nat) : Bool := x / 2 ^ i % 2 == 1

/-- One for true, zero for false. -/
def b2n (b : Bool) : Nat := if b then 1 else 0

/-- The field of width w at position p replaced by v. -/
def setField (x p w v : Nat) : Nat :=
  x ^^^ ((((x >>> p) % 2 ^ w) ^^^ (v % 2 ^ w)) <<< p)

/-- The least k with n ≤ 2^k, for n up to 2^64. -/
def ceilLog2 (n : Nat) : Nat := if n ≤ 1 then 0 else Nat.log2 (n - 1) + 1

/-- n divided by d, rounded up. -/
def ceilDiv (n d : Nat) : Nat := (n + d - 1) / d

-- ## Raw memory

/-- The byte at a key; 0 where nothing is listed (log 2). -/
def memByte (m : Memory) (a : Nat) : Byte :=
  match m with
  | [] => 0
  | (a', b) :: r => if a' = a then b else memByte r a

/-- Bytes as cells from an address up, zeros left out. -/
def cellsOf (a : Nat) (bs : List Byte) : Memory :=
  match bs with
  | [] => []
  | b :: r => if b = 0 then cellsOf (a + 1) r else (a, b) :: cellsOf (a + 1) r

/-- Write bytes from an address up. -/
def memWrite (m : Memory) (a : Nat) (bs : List Byte) : Memory :=
  m.filter (fun c => c.1 < a) ++ cellsOf a bs ++ m.filter (fun c => a + bs.length ≤ c.1)

/-- The bytes from an address up. -/
def memBytes (m : Memory) (a n : Nat) : List Byte := (List.range n).map fun k => memByte m (a + k)

/-- Bytes as a little-endian number (R6). -/
def leNat : List Byte → Nat
  | [] => 0
  | b :: r => b.toNat + 256 * leNat r

/-- The low n bytes of a number, least significant first (R6). -/
def leBytes : Nat → Nat → List Byte
  | 0, _ => []
  | n + 1, x => BitVec.ofNat 8 x :: leBytes n (x / 256)

/-- A little-endian number of n bytes in memory. -/
def memNat (m : Memory) (a n : Nat) : Nat := leNat (memBytes m a n)

-- ## Where keys lie (log 19)

/-- The first key of cluster scratch. -/
def clScratchBase : Nat := 2 ^ 53
/-- The first key of core scratch. -/
def coScratchBase : Nat := 2 ^ 54
/-- The first key of host memory. -/
def hostBase : Nat := 2 ^ 64
/-- The key of offset `off` of the scratch window of cluster `cl`. -/
def clKey (cl off : Nat) : Nat := clScratchBase + cl * 2 ^ 25 + off
/-- The key of offset `off` of the core scratch window of core `co`. -/
def coKey (co off : Nat) : Nat := coScratchBase + co * 2 ^ 18 + off

-- ## Strands, cores, clusters

/-- Change the acting strand. -/
def mapStrand (f : Strand → Strand) (s : State) : State := { s with strand := f s.strand }

/-- The core of a strand number, 0 to 127 (R3). -/
def coreOf (id : BitVec 18) : Nat := bits id.toNat 8 2
/-- The cluster of a strand number, 0 to 15 (R3). -/
def clusterOf (id : BitVec 18) : Nat := bits id.toNat 8 5
/-- The die of a strand number (R3). -/
def dieOf (id : BitVec 18) : Nat := bits id.toNat 8 8
/-- The slot of a strand number (R3). -/
def slotOf (id : BitVec 18) : Nat := bits id.toNat 1 0

/-- The acting strand's cluster. -/
def myCluster (s : State) : Nat := clusterOf s.strand.id
/-- The acting strand's core. -/
def myCore (s : State) : Nat := coreOf s.strand.id
/-- The acting strand as an agent: its number. -/
def me (s : State) : Nat := s.strand.id.toNat

/-- A core's state. -/
def coreAt (s : State) (k : Nat) : CoreState := findD s.cores k CoreState.reset
/-- Put a core's state. -/
def putCore (s : State) (k : Nat) (c : CoreState) : State := { s with cores := putK s.cores k c }
/-- A cluster's state. -/
def clusterAt (s : State) (k : Nat) : ClusterState := findD s.clusters k ClusterState.reset
/-- Put a cluster's state. -/
def putCluster (s : State) (k : Nat) (c : ClusterState) : State := { s with clusters := putK s.clusters k c }
/-- Change a cluster's state. -/
def mapCluster (k : Nat) (f : ClusterState → ClusterState) (s : State) : State := putCluster s k (f (clusterAt s k))

/-- All bound strands. -/
def boundStrands (s : State) : List Strand := (s.strand :: s.others).filter fun t => t.bound

/-- The configuration of the launch queue of the acting strand (R288). -/
def queueAt (s : State) (q : Nat) : LaunchQueue := if h : q < 16 then s.queues[q] else LaunchQueue.reset
/-- The address space of a queue (R288 `LQCTL`.ASID). -/
def asidOf (q : LaunchQueue) : Nat := bits q.ctl.toNat 17 6

/-- The module number that the fabric gives this module (R356). -/
def myModule (s : State) : Nat := bits s.spid.toNat 8 0

/-- The 64-bit value a register shows. -/
def word (n : Nat) : Word := BitVec.ofNat 64 n

/-- The supervisor mode bit (R17). -/
def priv (t : Strand) : Bool := t.status.getLsbD 8
/-- The saved mode bit (R17). -/
def ppriv (t : Strand) : Bool := t.status.getLsbD 9
/-- The wait trap enable bit (R17). -/
def wte (t : Strand) : Bool := t.status.getLsbD 6
/-- A status word with its mode bits replaced. -/
def withModes (st : Word) (p pp : Bool) : Word :=
  (st &&& 0x7F#64) ||| word (b2n p * 2 ^ 8 + b2n pp * 2 ^ 9)

/-- The identity CSRs: those of the binding, or those of the context that `ctxload` has loaded (R16, R300). -/
def identity (t : Strand) : Vector Word 4 :=
  t.ids.getD #v[t.id.setWidth 64, t.xyz.setWidth 64, t.idx.setWidth 64, t.stage.setWidth 64]

-- ## Registers

/-- A scalar register; s0 reads zero (R11). -/
def getS (t : Strand) (r : BitVec 5) : Word := if r = 0 then 0 else t.sregs[r.toNat]
/-- The errors left after a write of the places `lo` to `hi` − 1 of a register (R105). -/
def mendIn (f : RegFile) (r lo hi : Nat) (l : List Upset) : List Upset :=
  l.filter fun u => !(u.file == f && u.reg == r && decide (lo ≤ u.elem) && decide (u.elem < hi))
/-- The errors left after a write of an element (R105). -/
def mend (f : RegFile) (r e : Nat) (l : List Upset) : List Upset := mendIn f r e (e + 1) l
/-- Write a scalar register; a write to s0 is discarded (R11, R62). -/
def setS (t : Strand) (r : BitVec 5) (v : Word) : Strand :=
  if r = 0 then t else { t with sregs := t.sregs.set r.toNat v, upsets := mend .scalar r.toNat 0 t.upsets }
/-- A predicate; p0 reads true (R11). -/
def getP (t : Strand) (r : BitVec 3) : Bool := if r = 0 then true else t.pregs[r.toNat]
/-- Write a predicate; a write to p0 is discarded (R11, R62). -/
def setP (t : Strand) (r : BitVec 3) (v : Bool) : Strand :=
  if r = 0 then t else { t with pregs := t.pregs.set r.toNat v, upsets := mend .pred r.toNat 0 t.upsets }
/-- A vector register (R118). -/
def getV (t : Strand) (r : BitVec 5) : BitVec 262144 := t.vregs[r.toNat]
/-- Write a vector register. -/
def setV (t : Strand) (r : BitVec 5) (v : BitVec 262144) : Strand := { t with vregs := t.vregs.set r.toNat v }
/-- A mask register; m0 reads all-true (R11). -/
def getM (t : Strand) (r : BitVec 3) : BitVec 4096 := if r = 0 then BitVec.allOnes 4096 else t.masks[r.toNat]
/-- Write a mask register; a write to m0 is discarded (R11). -/
def setM (t : Strand) (r : BitVec 3) (v : BitVec 4096) : Strand :=
  if r = 0 then t else { t with masks := t.masks.set r.toNat v }

/-- Element e of a register image at width w (R118). -/
def elemOf (v : BitVec 262144) (w e : Nat) : Nat := (v.toNat >>> (e * w)) % 2 ^ w
/-- A register image with element e at width w replaced (R118). -/
def setElem (v : BitVec 262144) (w e x : Nat) : BitVec 262144 := BitVec.ofNat 262144 (setField v.toNat (e * w) w x)
/-- Element e of vector register r. -/
def velem (t : Strand) (r : BitVec 5) (w e : Nat) : Nat := elemOf (getV t r) w e
/-- Write element e of vector register r. -/
def putElem (t : Strand) (r : BitVec 5) (w e x : Nat) : Strand :=
  { setV t r (setElem (getV t r) w e x) with upsets := mendIn .vec r.toNat (e * w) (e * w + w) t.upsets }
/-- Mask bit e. -/
def maskBit (t : Strand) (r : BitVec 3) (e : Nat) : Bool := (getM t r).getLsbD e
/-- Write mask bit e. -/
def putMask (t : Strand) (r : BitVec 3) (e : Nat) (b : Bool) : Strand :=
  { setM t r (BitVec.ofNat 4096 (setField (getM t r).toNat e 1 (b2n b))) with
    upsets := mend .mask r.toNat e t.upsets }

-- ## The result of an instruction's own work

/-- Why an instruction's work stops short: a trap with its cause and value, or a wait. -/
inductive Stop where
  | trap (c : Cause) (v : Word)
  | wait (k : WaitKind)
deriving DecidableEq, Repr

/-- The work of an instruction: it changes the state and answers, or stops. -/
abbrev M (α : Type) := EStateM Stop State α

/-- Read from the state. -/
def ask {α : Type} (f : State → α) : M α := fun s => .ok (f s) s
/-- Change the state. -/
def change (f : State → State) : M Unit := fun s => .ok () (f s)
/-- Change the acting strand. -/
def onStrand (f : Strand → Strand) : M Unit := change (mapStrand f)
/-- Raise a trap (R9 `raise`). -/
def raise {α : Type} (c : Cause) (v : Word) : M α := fun s => .error (.trap c v) s
/-- Wait. -/
def waitFor {α : Type} (k : WaitKind) : M α := fun s => .error (.wait k) s
/-- Raise a trap when a condition holds. -/
def trapIf (b : Bool) (c : Cause) (v : Word) : M Unit := fun s => if b then .error (.trap c v) s else .ok () s
/-- Wait while a condition holds. -/
def waitIf (b : Bool) (k : WaitKind) : M Unit := fun s => if b then .error (.wait k) s else .ok () s
/-- Write a scalar register. -/
def wrS (r : BitVec 5) (v : Word) : M Unit := onStrand fun t => setS t r v
/-- Write a predicate. -/
def wrP (r : BitVec 3) (v : Bool) : M Unit := onStrand fun t => setP t r v
/-- OR flags into `FFLAGS` (R77, R127). -/
def addFlags (f : BitVec 6) : M Unit := onStrand fun t => { t with fflags := t.fflags ||| f }

/-- Do the same for every number of a list, in order. -/
def forEach (l : List Nat) (f : Nat → M Unit) : M Unit :=
  match l with
  | [] => fun s => .ok () s
  | x :: r => fun s =>
    match f x s with
    | .ok _ s' => forEach r f s'
    | .error e s' => .error e s'

/-- The numbers from a up to b - 1. -/
def span (a b : Nat) : List Nat := (List.range (b - a)).map (a + ·)

/-- The time of the Windsock clock in ns is kept with 16 fraction bits; log an error in the module error log (R286). -/
def logError (kind a : Nat) (v : Word) (s : State) : State := { s with errlog := s.errlog ++ [(kind, a, v)] }

end Sys2Proof.Machine
end

