-- ==== Sys2Proof/Machine/Flags.lean ====
section
/-! DEFINITION. The floating-point flags: their bits and how scalar and vector instructions deliver them (R77, R126, R127). -/

namespace Sys2Proof.Machine

/-- No flag. -/
def flNone : BitVec 6 := 0
/-- NX, inexact (R126). -/
def flNX : BitVec 6 := 1
/-- UF, underflow (R126). -/
def flUF : BitVec 6 := 2
/-- OF, overflow (R126). -/
def flOF : BitVec 6 := 4
/-- DZ, division by zero (R126). -/
def flDZ : BitVec 6 := 8
/-- NV, invalid operation (R126). -/
def flNV : BitVec 6 := 16
/-- LKOV, lookup scale overflow (R126). -/
def flLKOV : BitVec 6 := 32

/-- The trap-enable bits (R17 FTE). -/
def fte (t : Strand) : BitVec 6 := t.status.extractLsb' 0 6

/-- Some raised flag is enabled to trap (R77, R127). -/
def flagTraps (t : Strand) (f : BitVec 6) : Bool := f &&& fte t != 0

/-- A scalar instruction delivers its flags (R77): they are ORed into FFLAGS; an enabled one raises *FP trap*. -/
def deliverScalar (f : BitVec 6) : M Unit := fun s =>
  let s1 := mapStrand (fun t => { t with fflags := t.fflags ||| f }) s
  if flagTraps s.strand f then .error (.trap .fpTrap (f.setWidth 64)) s1 else .ok () s1

/-- An element of a vector instruction, or a whole instruction, delivers its flags (R127): as for a scalar instruction. -/
def deliverVector (f : BitVec 6) : M Unit := deliverScalar f

end Sys2Proof.Machine
end

