-- ==== Sys2Proof/Machine/Fp.lean ====
section
/-! DEFINITION. Number formats and arithmetic: exact values, one rounding, conversions, and the correctly rounded
functions (R75 to R83, R122 to R129, R143 to R146). A value is held as its bit pattern, a natural number. -/

namespace Sys2Proof.Machine

/-- A floating-point format (R123): width, fraction bits, bias; `e4`: e4m3, which has no infinity. -/
structure FpFmt where
  w    : Nat
  f    : Nat
  bias : Nat
  e4   : Bool
deriving DecidableEq, Repr

/-- The format of a type (R123); integer types have none and answer binary64. -/
def fmtOf : Ty → FpFmt
  | .f32 => ⟨32, 23, 127, false⟩
  | .f16 => ⟨16, 10, 15, false⟩
  | .bf16 => ⟨16, 7, 127, false⟩
  | .e5m2 => ⟨8, 2, 15, false⟩
  | .e4m3 => ⟨8, 3, 7, true⟩
  | _ => ⟨64, 52, 1023, false⟩

/-- The type of a scalar format (R75). -/
def ffmtTy : FFmt → Ty
  | .f64 => .f64 | .f32 => .f32 | .f16 => .f16 | .bf16 => .bf16

/-- The largest exponent field. -/
def topExp (k : FpFmt) : Nat := 2 ^ (k.w - 1 - k.f) - 1

/-- The exact value of a bit pattern: a NaN, an infinity, or (−1)^s × m × 2^e. -/
inductive FpVal where
  | nan (signalling : Bool)
  | inf (s : Bool)
  | fin (s : Bool) (m : Nat) (e : Int)
deriving DecidableEq, Repr

/-- Read a bit pattern (R123). -/
def fpRead (k : FpFmt) (x : Nat) : FpVal :=
  let s := bit x (k.w - 1)
  let ex := bits x (k.w - 2) k.f
  let fr := x % 2 ^ k.f
  if k.e4 then
    if ex = topExp k && fr = 7 then .nan false
    else if ex = 0 then .fin s fr (1 - (k.bias : Int) - k.f)
    else .fin s (fr + 2 ^ k.f) ((ex : Int) - k.bias - k.f)
  else if ex = topExp k then (if fr = 0 then .inf s else .nan (!bit fr (k.f - 1)))
  else if ex = 0 then .fin s fr (1 - (k.bias : Int) - k.f)
  else .fin s (fr + 2 ^ k.f) ((ex : Int) - k.bias - k.f)

/-- The canonical quiet NaN (R76). -/
def fpNan (k : FpFmt) : Nat :=
  if k.e4 then 0x7F else topExp k * 2 ^ k.f + 2 ^ (k.f - 1)
/-- A signed zero. -/
def fpZero (k : FpFmt) (s : Bool) : Nat := b2n s * 2 ^ (k.w - 1)
/-- A signed infinity; e4m3 has none and answers its largest finite value. -/
def fpInf (k : FpFmt) (s : Bool) : Nat :=
  b2n s * 2 ^ (k.w - 1) + (if k.e4 then 0x7E else topExp k * 2 ^ k.f)
/-- The signed largest finite value (R123). -/
def fpMax (k : FpFmt) (s : Bool) : Nat :=
  b2n s * 2 ^ (k.w - 1) + (if k.e4 then 0x7E else topExp k * 2 ^ k.f - 1)
/-- One. -/
def fpOne (k : FpFmt) : Nat := k.bias * 2 ^ k.f

/-- A result: its bits and the flags raised. -/
abbrev FpRes := Nat × BitVec 6

/-- The mode after the dynamic choice (R23, R125); none when `FRM` selects no mode. -/
def rmode (rm : Rm) (frm : BitVec 3) : Option Rm :=
  match rm with
  | .dyn => (rmOf frm).bind fun r => if r = .dyn then none else some r
  | r => some r

/-- Whether rounding a magnitude goes up (R124): quotient odd, remainder compared with half, anything left. -/
def roundsUp (rm : Rm) (s odd : Bool) (cmpHalf : Ordering) (exactHalf inexact : Bool) : Bool :=
  match rm with
  | .rne => cmpHalf == .gt || (cmpHalf == .eq && (!exactHalf || odd))
  | .rna => cmpHalf == .gt || cmpHalf == .eq
  | .rtz => false
  | .rup => inexact && !s
  | .rdn => inexact && s
  | .dyn => false

/-- Round the magnitude m × 2^e, plus something smaller than any bit shown when `sticky`, to a multiple of 2^q: the multiple
and whether it is inexact (R124). -/
def roundAt (rm : Rm) (s : Bool) (m : Nat) (e q : Int) (sticky : Bool) : Nat × Bool :=
  if q ≤ e then
    let m' := m <<< (e - q).toNat
    (if sticky && roundsUp rm s (m' % 2 == 1) .lt false true then m' + 1 else m', sticky)
  else
    let sh := (q - e).toNat
    let m' := m >>> sh
    let r := m % 2 ^ sh
    let half := 2 ^ (sh - 1)
    let inexact := r != 0 || sticky
    (if roundsUp rm s (m' % 2 == 1) (compare r half) (!sticky) inexact then m' + 1 else m', inexact)

/-- Round an exact value once to a format (R76, R83, R124). The value is (−1)^s × m × 2^e, plus a tail when `sticky`. -/
def fpRound (k : FpFmt) (rm : Rm) (s : Bool) (m : Nat) (e : Int) (sticky : Bool) : FpRes :=
  if m = 0 then (fpZero k s, flNone)
  else
    let top : Int := (Nat.log2 m : Int) + e
    let emin : Int := 1 - (k.bias : Int)
    let emax : Int := (topExp k : Int) - k.bias - (if k.e4 then 0 else 1)
    let q : Int := (if top < emin then emin else top) - k.f
    let (r, inexact) := roundAt rm s m e q sticky
    let rtop : Int := (Nat.log2 r : Int) + q
    let beyond := if k.e4 then decide (r ≠ 0) && (decide (emax < rtop) || (decide (rtop = emax) && decide (r * 2 ^ 3 > 14 * 2 ^ Nat.log2 r)))
                else decide (r ≠ 0) && decide (emax < rtop)
    if beyond then
      let toInf := match rm with | .rne | .rna => true | .rup => !s | .rdn => s | _ => false
      (if k.e4 then fpMax k s else if toInf then fpInf k s else fpMax k s, flOF ||| flNX)
    else
      let tiny := decide (top < emin) &&
        (let (r2, _) := roundAt rm s m e (top - k.f) sticky
         decide ((Nat.log2 r2 : Int) + (top - k.f) < emin))
      let fl := (if inexact then flNX else flNone) ||| (if tiny && inexact then flUF else flNone)
      if r = 0 then (fpZero k s, fl)
      else if rtop < emin then (b2n s * 2 ^ (k.w - 1) + r, fl)
      else
        let frac := (r <<< k.f) >>> Nat.log2 r
        (b2n s * 2 ^ (k.w - 1) + (rtop + k.bias).toNat * 2 ^ k.f + (frac - 2 ^ k.f), fl)

/-- A canonical NaN with NV when asked. -/
def fpBad (k : FpFmt) (nv : Bool) : FpRes := (fpNan k, if nv then flNV else flNone)

/-- A signalling NaN (R76). -/
def isSnan : FpVal → Bool
  | .nan sg => sg
  | _ => false
/-- A NaN. -/
def isNan : FpVal → Bool
  | .nan _ => true
  | _ => false

/-- The exact sum of two finite values rounded once; an exact zero takes its sign from R76. -/
def finAdd (k : FpFmt) (rm : Rm) (s1 : Bool) (m1 : Nat) (e1 : Int) (s2 : Bool) (m2 : Nat) (e2 : Int) : FpRes :=
  let e := if e1 < e2 then e1 else e2
  let a : Int := (if s1 then -1 else 1) * ((m1 <<< (e1 - e).toNat : Nat) : Int)
  let b : Int := (if s2 then -1 else 1) * ((m2 <<< (e2 - e).toNat : Nat) : Int)
  let c := a + b
  if c = 0 then (fpZero k (if m1 = 0 && m2 = 0 && s1 == s2 then s1 else rm == .rdn), flNone)
  else fpRound k rm (decide (c < 0)) c.natAbs e false

/-- Addition of values (R76, R78). -/
def valAdd (k : FpFmt) (rm : Rm) (x y : FpVal) : FpRes :=
  match x, y with
  | .nan a, v => fpBad k (a || isSnan v)
  | v, .nan b => fpBad k (b || isSnan v)
  | .inf a, .inf b => if a == b then (fpInf k a, flNone) else fpBad k true
  | .inf a, .fin _ _ _ => (fpInf k a, flNone)
  | .fin _ _ _, .inf b => (fpInf k b, flNone)
  | .fin s1 m1 e1, .fin s2 m2 e2 => finAdd k rm s1 m1 e1 s2 m2 e2

/-- The value with its sign turned. -/
def valNeg : FpVal → FpVal
  | .nan a => .nan a
  | .inf s => .inf (!s)
  | .fin s m e => .fin (!s) m e

/-- The exact product, with NV for 0 × ∞ (R76). -/
def valMulExact (x y : FpVal) : FpVal × Bool :=
  match x, y with
  | .nan a, v => (.nan a, a || isSnan v)
  | v, .nan b => (.nan b, b || isSnan v)
  | .inf a, .inf b => (.inf (a != b), false)
  | .inf a, .fin s m _ => if m = 0 then (.nan false, true) else (.inf (a != s), false)
  | .fin s m _, .inf b => if m = 0 then (.nan false, true) else (.inf (s != b), false)
  | .fin s1 m1 e1, .fin s2 m2 e2 => (.fin (s1 != s2) (m1 * m2) (e1 + e2), false)

/-- Round a value to a format. -/
def valRound (k : FpFmt) (rm : Rm) : FpVal → FpRes
  | .nan a => fpBad k a
  | .inf s => (fpInf k s, flNone)
  | .fin s m e => fpRound k rm s m e false

/-- a + b (R78). -/
def fpAdd (k : FpFmt) (rm : Rm) (a b : Nat) : FpRes := valAdd k rm (fpRead k a) (fpRead k b)
/-- a − b, the sum of a and −b (R76). -/
def fpSub (k : FpFmt) (rm : Rm) (a b : Nat) : FpRes := valAdd k rm (fpRead k a) (valNeg (fpRead k b))
/-- a × b (R78). -/
def fpMul (k : FpFmt) (rm : Rm) (a b : Nat) : FpRes :=
  let (v, nv) := valMulExact (fpRead k a) (fpRead k b)
  if isNan v then fpBad k nv else valRound k rm v
/-- A product of values plus a value, rounded once, with NV for 0 × ∞ whatever the addend (R76, R143). -/
def valFma (k : FpFmt) (rm : Rm) (x y z : FpVal) : FpRes :=
  let (v, nv) := valMulExact x y
  if isNan v then fpBad k (nv || isSnan z)
  else
    let (r, f) := valAdd k rm v z
    (r, f)
/-- a × b + c, rounded once (R78). -/
def fpFma (k : FpFmt) (rm : Rm) (a b c : Nat) : FpRes := valFma k rm (fpRead k a) (fpRead k b) (fpRead k c)

/-- a ÷ b of values (R78): DZ for a finite nonzero value over zero. -/
def valDiv (k : FpFmt) (rm : Rm) (x y : FpVal) : FpRes :=
  match x, y with
  | .nan a, v => fpBad k (a || isSnan v)
  | v, .nan b => fpBad k (b || isSnan v)
  | .inf _, .inf _ => fpBad k true
  | .inf a, .fin s _ _ => (fpInf k (a != s), flNone)
  | .fin s _ _, .inf b => (fpZero k (s != b), flNone)
  | .fin s1 m1 e1, .fin s2 m2 e2 =>
    if m2 = 0 then (if m1 = 0 then fpBad k true else (fpInf k (s1 != s2), flDZ))
    else if m1 = 0 then (fpZero k (s1 != s2), flNone)
    else
      let sh := k.f + 4 + Nat.log2 m2
      let n := m1 <<< sh
      fpRound k rm (s1 != s2) (n / m2) (e1 - e2 - sh) (n % m2 != 0)
/-- a ÷ b (R78). -/
def fpDiv (k : FpFmt) (rm : Rm) (a b : Nat) : FpRes := valDiv k rm (fpRead k a) (fpRead k b)

/-- The integer square root, bit by bit from bit n − 1 down. -/
def isqrtN : Nat → Nat → Nat → Nat
  | 0, _, r => r
  | n + 1, x, r => isqrtN n x (if (r + 2 ^ n) * (r + 2 ^ n) ≤ x then r + 2 ^ n else r)

/-- The integer square root. -/
def isqrt (x : Nat) : Nat := isqrtN (Nat.log2 x / 2 + 1) x 0

/-- √a (R78). -/
def fpSqrt (k : FpFmt) (rm : Rm) (a : Nat) : FpRes :=
  match fpRead k a with
  | .nan sg => fpBad k sg
  | .inf s => if s then fpBad k true else (fpInf k false, flNone)
  | .fin s m e =>
    if m = 0 then (fpZero k s, flNone)
    else if s then fpBad k true
    else
      let odd := e % 2 ≠ 0
      let m1 := if odd then 2 * m else m
      let e1 := if odd then e - 1 else e
      let sh := k.f + 4
      let x := m1 <<< (2 * sh)
      let r := isqrt x
      fpRound k rm false r (e1 / 2 - sh) (r * r != x)

/-- 1 ÷ a (R144). -/
def fpRcp (k : FpFmt) (rm : Rm) (a : Nat) : FpRes := fpDiv k rm (fpOne k) a

/-- 1 ÷ √a (R144). -/
def fpRsq (k : FpFmt) (rm : Rm) (a : Nat) : FpRes :=
  match fpRead k a with
  | .nan sg => fpBad k sg
  | .inf s => if s then fpBad k true else (fpZero k false, flNone)
  | .fin s m e =>
    if m = 0 then (fpInf k s, flDZ)
    else if s then fpBad k true
    else
      let odd := e % 2 ≠ 0
      let m1 := if odd then 2 * m else m
      let e1 := if odd then e - 1 else e
      let sh := k.f + 6 + Nat.log2 m1
      let q := isqrt (2 ^ (2 * sh) / m1)
      fpRound k rm false q (-(e1 / 2) - sh) (q * q * m1 != 2 ^ (2 * sh))

-- ## Functions by fixed-point intervals (R143, R159): numbers in units of 2^-n

/-- Sum of z^(2j+1)/(2j+1) for j from j0, in units of 2^-n: `p` is z^(2j+1) and `z2` is z². -/
def atanhN (n : Nat) (z2 : Int) : Nat → Nat → Int → Int → Int
  | 0, _, _, acc => acc
  | fuel + 1, j, p, acc => atanhN n z2 fuel (j + 1) (p * z2 / 2 ^ n) (acc + p / (2 * j + 1))

/-- ln 2 in units of 2^-n: 2 atanh(1/3). -/
def ln2N (n : Nat) : Int :=
  let z : Int := 2 ^ n / 3
  2 * atanhN n (z * z / 2 ^ n) (n / 3 + 4) 0 z 0

/-- exp(x) for 0 ≤ x < 1 in units of 2^-n, by its series: `t` is x^j/j!. -/
def expN (n : Nat) (x : Int) : Nat → Nat → Int → Int → Int
  | 0, _, _, acc => acc
  | fuel + 1, j, t, acc => expN n x fuel (j + 1) (t * x / (2 ^ n * (j + 1))) (acc + t)

/-- The number of terms that exp needs at n bits. -/
def expTerms (n : Nat) : Nat := n / 3 + 20

/-- Round the interval from lo to hi in units of 2^(e): the result when both ends round alike. -/
def roundBetween (k : FpFmt) (rm : Rm) (s : Bool) (lo hi : Nat) (e : Int) : Option FpRes :=
  let a := fpRound k rm s lo e true
  let b := fpRound k rm s (hi - 1) e true
  if a = b then some a else none

/-- A magnitude just above 1 (`up`) or just below it, by less than any bit a format shows. -/
def nearOne (k : FpFmt) (rm : Rm) (up : Bool) : FpRes :=
  let n := k.f + 20
  if up then fpRound k rm false (2 ^ n) (-(n : Int)) true else fpRound k rm false (2 ^ n - 1) (-(n : Int)) true

/-- 2^x for x = v in units of 2^-n, v = j × 2^n + y with 0 ≤ y < 2^n; precision rises until the rounding is decided. -/
def exp2Try (k : FpFmt) (rm : Rm) (s : Bool) (m : Nat) (e : Int) : Nat → Nat → FpRes
  | 0, _ => fpBad k true
  | fuel + 1, n =>
    let v : Int := (if s then -1 else 1) * (if 0 ≤ e + n then ((m <<< (e + n).toNat : Nat) : Int) else ((m >>> (-(e + n)).toNat : Nat) : Int))
    let j := v / 2 ^ n
    let y := v % 2 ^ n
    let r := expN n (y * ln2N n / 2 ^ n) (expTerms n) 0 (2 ^ n) 0
    match roundBetween k rm false (r - 2 ^ 12).toNat (r + 2 ^ 12).toNat (j - n) with
    | some a => a
    | none => exp2Try k rm s m e fuel (2 * n)

/-- 2^a (R144). -/
def fpExp2 (k : FpFmt) (rm : Rm) (a : Nat) : FpRes :=
  match fpRead k a with
  | .nan sg => fpBad k sg
  | .inf s => (if s then fpZero k false else fpInf k false, flNone)
  | .fin s m e =>
    if m = 0 then (fpOne k, flNone)
    else
      let top : Int := (Nat.log2 m : Int) + e
      if 16 < top then fpRound k rm false 1 (if s then -70000 else 70000) false
      else if top < -((k.f : Int) + 8) then nearOne k rm (!s)
      else if 0 ≤ e || m % 2 ^ (-e).toNat = 0 then
        let j : Int := if 0 ≤ e then ((m <<< e.toNat : Nat) : Int) else ((m >>> (-e).toNat : Nat) : Int)
        fpRound k rm false 1 (if s then -j else j) false
      else exp2Try k rm s m e 4 (k.f + 80)

/-- e^x, precision rising until the rounding is decided. -/
def expTry (k : FpFmt) (rm : Rm) (s : Bool) (m : Nat) (e : Int) : Nat → Nat → FpRes
  | 0, _ => fpBad k true
  | fuel + 1, n =>
    let v : Int := (if s then -1 else 1) * (if 0 ≤ e + n then ((m <<< (e + n).toNat : Nat) : Int) else ((m >>> (-(e + n)).toNat : Nat) : Int))
    let l := ln2N n
    let j := v / l
    let r := expN n (v - j * l) (expTerms n) 0 (2 ^ n) 0
    match roundBetween k rm false (r - 2 ^ 24).toNat (r + 2 ^ 24).toNat (j - n) with
    | some a => a
    | none => expTry k rm s m e fuel (2 * n)

/-- The natural exponential of a value, correctly rounded (R159). -/
def valExp (k : FpFmt) (rm : Rm) (v : FpVal) : FpRes :=
  match v with
  | .nan sg => fpBad k sg
  | .inf s => (if s then fpZero k false else fpInf k false, flNone)
  | .fin s m e =>
    if m = 0 then (fpOne k, flNone)
    else
      let top : Int := (Nat.log2 m : Int) + e
      if 12 < top then fpRound k rm false 1 (if s then -70000 else 70000) false
      else if top < -((k.f : Int) + 8) then nearOne k rm (!s)
      else expTry k rm s m e 4 (k.f + 100)

/-- log2 of m × 2^e in units of 2^-n, m scaled to lie in [3/4, 3/2). -/
def log2Try (k : FpFmt) (rm : Rm) (m : Nat) (e : Int) : Nat → Nat → FpRes
  | 0, _ => fpBad k true
  | fuel + 1, n =>
    let b := Nat.log2 m
    -- m = x × 2^b with 1 ≤ x < 2; use x / 2 when x ≥ 3/2
    let big := decide (3 * 2 ^ b ≤ 2 * m)
    let sh : Nat := if big then b + 1 else b
    let j : Int := e + sh
    let z : Int := (((m : Int) - (2 ^ sh : Nat)) * 2 ^ n) / ((m : Int) + (2 ^ sh : Nat))
    let ln := 2 * atanhN n (z * z / 2 ^ n) (n / 3 + 4) 0 z 0
    let v : Int := j * 2 ^ n + ln * 2 ^ n / ln2N n
    let s := decide (v < 0)
    match roundBetween k rm s (v.natAbs - 2 ^ 14) (v.natAbs + 2 ^ 14) (-(n : Int)) with
    | some a => a
    | none => log2Try k rm m e fuel (2 * n)

/-- log2 a (R144). -/
def fpLog2 (k : FpFmt) (rm : Rm) (a : Nat) : FpRes :=
  match fpRead k a with
  | .nan sg => fpBad k sg
  | .inf s => if s then fpBad k true else (fpInf k false, flNone)
  | .fin s m e =>
    if m = 0 then (fpInf k true, flDZ)
    else if s then fpBad k true
    else if m = 2 ^ Nat.log2 m then
      let j := (Nat.log2 m : Int) + e
      if j = 0 then (fpZero k false, flNone) else fpRound k rm (decide (j < 0)) j.natAbs 0 false
    else log2Try k rm m e 4 (2 * k.f + 100)

-- ## Comparison, minimum, maximum, class

/-- The order of two values that are not NaNs; −0 and +0 compare equal (R80). -/
def valCmp (x y : FpVal) : Ordering :=
  let key : FpVal → Int × Nat × Int := fun v =>
    match v with
    | .inf s => (if s then -2 else 2, 0, 0)
    | .fin s m e => (if m = 0 then 0 else if s then -1 else 1, m, e)
    | .nan _ => (0, 0, 0)
  let (c1, m1, e1) := key x
  let (c2, m2, e2) := key y
  if c1 ≠ c2 then compare c1 c2
  else if c1 = 0 ∨ c1 = 2 ∨ c1 = -2 then .eq
  else
    let e := if e1 < e2 then e1 else e2
    let o := compare (m1 <<< (e1 - e).toNat) (m2 <<< (e2 - e).toNat)
    if c1 = 1 then o else o.swap

/-- The sign of a value. -/
def valSign : FpVal → Bool
  | .inf s => s
  | .fin s _ _ => s
  | .nan _ => false

/-- minimumNumber and maximumNumber (R79). -/
def fpPick (k : FpFmt) (wantMax : Bool) (a b : Nat) : FpRes :=
  let x := fpRead k a
  let y := fpRead k b
  let fl := if isSnan x || isSnan y then flNV else flNone
  if isNan x && isNan y then (fpNan k, fl)
  else if isNan x then (b, fl)
  else if isNan y then (a, fl)
  else
    match valCmp x y with
    | .lt => (if wantMax then b else a, fl)
    | .gt => (if wantMax then a else b, fl)
    | .eq => (if valSign x == wantMax then b else a, fl)
/-- minimumNumber (R79). -/
def fpMin (k : FpFmt) (a b : Nat) : FpRes := fpPick k false a b
/-- maximumNumber (R79). -/
def fpMaxN (k : FpFmt) (a b : Nat) : FpRes := fpPick k true a b

/-- A floating-point condition and its NV (R80). -/
def fpCond (k : FpFmt) (cc : FCond) (a b : Nat) : Bool × BitVec 6 :=
  let x := fpRead k a
  let y := fpRead k b
  let un := isNan x || isNan y
  let sn := isSnan x || isSnan y
  let o := valCmp x y
  let quiet := if sn then flNV else flNone
  match cc with
  | .eq => (!un && o == .eq, quiet)
  | .ne => (un || o != .eq, quiet)
  | .lt => (!un && o == .lt, if un then flNV else flNone)
  | .le => (!un && o != .gt, if un then flNV else flNone)
  | .un => (un, quiet)
  | .ord => (!un, quiet)

/-- The class mask (R81). -/
def fpClass (k : FpFmt) (a : Nat) : Nat :=
  match fpRead k a with
  | .inf s => if s then 2 ^ 0 else 2 ^ 7
  | .nan sg => if sg then 2 ^ 8 else 2 ^ 9
  | .fin s m _ =>
    if m = 0 then (if s then 2 ^ 3 else 2 ^ 4)
    else if m < 2 ^ k.f then (if s then 2 ^ 2 else 2 ^ 5)
    else if s then 2 ^ 1 else 2 ^ 6

-- ## Conversions (R82, R83, R146)

/-- The least value of an integer type (R122). -/
def intMin (ty : Ty) : Int := if ty.isSigned then -(2 ^ (ty.width - 1) : Int) else 0
/-- The greatest value of an integer type (R122). -/
def intMax (ty : Ty) : Int := if ty.isSigned then (2 ^ (ty.width - 1) : Int) - 1 else (2 ^ ty.width : Int) - 1
/-- The integer an element of an integer type stands for. -/
def intOf (ty : Ty) (x : Nat) : Int := if ty.isSigned then signedOf ty.width x else ((x % 2 ^ ty.width : Nat) : Int)

/-- A floating-point value to an integer type (R83): the element's bits. -/
def fpToInt (k : FpFmt) (rm : Rm) (ty : Ty) (a : Nat) : FpRes :=
  let out (v : Int) : Nat := wrapTo ty.width v
  match fpRead k a with
  | .nan _ => (0, flNV)
  | .inf s => (out (if s then intMin ty else intMax ty), flNV)
  | .fin s m e =>
    let (r, inexact) := roundAt rm s m e 0 false
    let v : Int := if s then -(r : Int) else r
    if v < intMin ty then (out (intMin ty), flNV)
    else if intMax ty < v then (out (intMax ty), flNV)
    else (out v, if inexact then flNX else flNone)

/-- An integer to a floating-point format (R83). -/
def intToFp (k : FpFmt) (rm : Rm) (v : Int) : FpRes :=
  if v = 0 then (fpZero k false, flNone) else fpRound k rm (decide (v < 0)) v.natAbs 0 false

/-- A floating-point value to another format (R83): into e4m3 an infinity is invalid. -/
def fpToFp (kd ks : FpFmt) (rm : Rm) (a : Nat) : FpRes :=
  match fpRead ks a with
  | .nan sg => fpBad kd sg
  | .inf s => if kd.e4 then (fpNan kd, flNV) else (fpInf kd s, flNone)
  | .fin s m e => fpRound kd rm s m e false

/-- A conversion between element types (R82, R146): destination, source. -/
def convert (rm : Rm) (d s : Ty) (x : Nat) : FpRes :=
  if d = s then (x, flNone)
  else if d.isInt then
    if s.isInt then (wrapTo d.width (clampInt (intMin d) (intMax d) (intOf s x)), flNone) else fpToInt (fmtOf s) rm d x
  else if s.isInt then intToFp (fmtOf d) rm (intOf s x)
  else fpToFp (fmtOf d) (fmtOf s) rm x

end Sys2Proof.Machine
end

