-- ==== Sys2Proof/Machine/Coherence.lean ====
section
/-! DEFINITION. The table-driven coherence engine: action words, the cluster half, the home half, the messages between
them, and the operations that memory accesses ask of it (R253 to R277). -/

namespace Sys2Proof.Machine

-- ## Words and tables

/-- The message kind of a code (R262). -/
def msgOfCode : Nat → MsgKind
  | 1 => .gets | 2 => .getx | 3 => .putd | 4 => .push | 5 => .claim | 6 => .inv | 7 => .upd | 8 => .data | 9 => .ack
  | 10 => .nack | _ => .none

/-- The fields of a 64-bit action word (R263). -/
def unpackWord (x : Word) : ActionWord :=
  let n := x.toNat
  { next := if bit n 4 then some (bits n 3 0) else none, msg := msgOfCode (bits n 8 5), dest := bits n 10 9,
    shv := bits n 13 11, carry := bit n 14, write := bit n 15, cnt := bit n 16, rdm := bit n 17, flt := bits n 19 18,
    setb := bit n 20, clrb := bit n 21, perf := bit n 22, defer := bit n 23, unx := bit n 24 }

/-- The word of a state and an event; none for UNX (R263). -/
def wordOf (l : List (Nat × Word)) (st ev : Nat) : Option ActionWord :=
  match l.find? (fun x => x.1 == 12 * st + ev) with
  | some x => if (unpackWord x.2).unx then none else some (unpackWord x.2)
  | none => none

/-- The protocol in a slot. -/
def protoAt (s : State) (slot : Nat) : Proto := nthD s.slots slot protoEmpty

/-- The module offset of an address (bits 42:0). -/
def moduleOffset (pa : Nat) : Nat := pa % 2 ^ 43

/-- Stack memory (R287). -/
def inStack (off : Nat) : Bool := decide (off < 0x6000000000)

/-- The home die of a device address (R253). -/
def homeDie (key : Nat) : Nat :=
  let a := moduleOffset key
  if inStack a then (if a / 0xC00000000 < 4 then 0 else 1) else (b2n (bit a 12) + b2n (bit a 21)) % 2

/-- The home slice of a device address (R253). -/
def homeSlice (key : Nat) : Nat :=
  let a := moduleOffset key
  bits a 13 9 ^^^ bits a 18 14 ^^^ bits a 23 19 ^^^ bits a 28 24 ^^^ bits a 33 29 ^^^ bits a 38 34 ^^^ bits a 42 39

/-- The slice of an address among the 64 of a module (R253, R287). -/
def sliceIndex (key : Nat) : Nat := 32 * homeDie key + homeSlice key

/-- A line of another module (R273). -/
def remoteLine (s : State) (line : Nat) : Bool := line / 2 ^ 37 != myModule s

/-- The poison marks that bytes lie under: 32-byte units of device memory; in scratch and host memory, single bytes (log 22). -/
def poisonMarks (key n : Nat) : List Nat :=
  if 2 ^ 52 ≤ key then span key (key + n) else span (key / 32) ((key + n - 1) / 32 + 1)

/-- The bank of a unit, for its count of corrected errors (R312). -/
def bankOfKey (key : Nat) : Nat := key / 0x2000000

/-- A corrected error is counted with its bank, and the unit is rewritten (R312). -/
def correctUnit (u : Nat) (s : State) : State :=
  let b := bankOfKey (32 * u)
  { s with softErr := s.softErr.filter fun x => x != u, corrected := putK s.corrected b (findD s.corrected b 0 + 1) }

/-- The units of device memory in which bytes lie. -/
def unitsOf (key n : Nat) : List Nat := if 2 ^ 52 ≤ key then [] else span (key / 32) ((key + n - 1) / 32 + 1)

/-- The units that a home or a walker reads have their single errors corrected and counted (R312). -/
def readUnits (key n : Nat) (s : State) : State :=
  if s.softErr.isEmpty then s
  else (unitsOf key n).foldl (fun s u => if s.softErr.contains u && !s.poison.contains u then correctUnit u s else s) s

/-- Bytes have been written at their home after an append of Windsock: nobody reads what the append replaced (R355). -/
def unstale (keys : List Nat) (s : State) : State :=
  if s.stale.isEmpty then s else { s with stale := s.stale.filter fun x => !keys.contains x.key }

/-- Bytes written to memory with their ECC (R311 to R313, R345): a write that supplies every byte of a unit, 32 bytes or in bulk
memory 64, clears its errors; of another it corrects and counts a single error, and logs an uncorrectable one, which stays. -/
def healPoison (keys : List Nat) (s0 : State) : State :=
  let s := unstale keys s0
  if s.poison.isEmpty && s.softErr.isEmpty then s
  else
    let whole (u : Nat) : Bool := (List.range 32).all fun k => keys.contains (32 * u + k)
    let bulk (u : Nat) : Bool := decide (32 * u < 2 ^ 52) && decide (0x10000000000 ≤ moduleOffset (32 * u))
    let full (u : Nat) : Bool := whole u && (!bulk u || whole (if u % 2 = 0 then u + 1 else u - 1))
    let us := ((keys.filter fun k => decide (k < 2 ^ 52)).map fun k => k / 32).eraseDups
    us.foldl (fun s u =>
        if full u then { s with poison := s.poison.erase u, softErr := s.softErr.erase u }
        else if s.poison.contains u then logError 5 (moduleOffset (32 * u) / 0xC00000000) (word (32 * u)) s
        else if s.softErr.contains u then correctUnit u s
        else s)
      { s with poison := s.poison.filter fun u => !(decide (2 ^ 52 ≤ u) && keys.contains u) }

/-- The expander port that holds a byte of bulk memory, if an expander does (R344). -/
def expanderOf (off : Nat) : Option Nat :=
  let o := off - 0x10000000000 - (if Config.hasLpddr then 2 ^ 41 else 0)
  if off < 0x10000000000 + (if Config.hasLpddr then 2 ^ 41 else 0) then none
  else if Config.expanderBytes 0 = Config.expanderBytes 1 then some (o / 4096 % 2)
  else some (if o < Config.expanderBytes 0 then 0 else 1)

/-- Bulk memory of a module (R287). -/
def inBulk (off : Nat) : Bool := decide (0x10000000000 ≤ off) && decide (off < 0x50000000000)

/-- The memory behind a key of this module is lost with its expander's link (R345). -/
def expanderLost (s : State) (key : Nat) : Bool :=
  !s.pk.expDown.isEmpty && key / 2 ^ 43 == myModule s && inBulk (moduleOffset key) &&
    ((expanderOf (moduleOffset key)).map fun p => s.pk.expDown.contains p).getD false

/-- Whether bytes lie in a 32-byte unit with an uncorrectable error, or behind a lost link (R312, R315, R345). -/
def badUnit (s : State) (key n : Nat) : Bool :=
  (!s.poison.isEmpty && (poisonMarks key n).any fun u => s.poison.contains u) || expanderLost s key

/-- Whether a reader of bytes meets an uncorrectable error (R313, R345): a line of device memory is poisoned when either of its
units is. -/
def poisoned (s : State) (key n : Nat) : Bool :=
  if 2 ^ 52 ≤ key then badUnit s key n else badUnit s (key / 64 * 64) (((key + n - 1) / 64 + 1 - key / 64) * 64)

/-- The key of a line in what a cluster's die has learnt of the slots of other modules (R273). -/
def slotKey (cl line : Nat) : Nat := 2 * line + cl / 8 % 2

/-- The protocol slot under which an agent of cluster `cl` accesses a line (R254): HOME pages use slot 4; a line of another module
has the slot that its home's reply has brought to the cluster's die (R273); otherwise the valid range entry that holds the line;
else slot 0. -/
def slotOfLine (s : State) (cl line attr : Nat) : Nat :=
  if attr = 1 then 4
  else if remoteLine s line then findD s.rslots (slotKey cl line) 0
  else
    match s.ranges.toList.find? (fun r => r.v && decide (r.base ≤ moduleOffset (64 * line))
      && decide (moduleOffset (64 * line) < r.limit)) with
    | some r => r.slot
    | none => 0

/-- The reply to a first read of a line of another module brings its slot to the die (R273; log 9). -/
def learnSlot (cl line : Nat) (s : State) : State :=
  if remoteLine s line && !s.rslots.any (fun x => x.1 == slotKey cl line) then
    { s with rslots := putK s.rslots (slotKey cl line) (Config.remoteSlot s.stepNo line % 6) }
  else s

/-- The slot against which a write is checked where it is performed, if its line's range is under ONCE or RO: an NC write at the
completer, a HOME access at the home, whatever the page attribute (R254, R270; log 72). -/
def ruledSlot (s : State) (cl line : Nat) : Option Nat :=
  let k := slotOfLine s cl line 0
  if k = 3 ∨ k = 5 then some k else none

/-- A range change is under way for the line (R258); it does not reach lines of other modules (R273). -/
def linePending (s : State) (line : Nat) : Bool :=
  !remoteLine s line && s.gate.any fun r => decide (r.1 ≤ moduleOffset (64 * line)) && decide (moduleOffset (64 * line) < r.2)

-- ## Lines

/-- A line that a cluster has not touched. -/
def CLine.fresh (cl line : Nat) : CLine :=
  { cl := cl, line := line, state := 0, data := 0, prev := 0, lastEv := .load, held := [], backoff := 0, tries := 0,
    loads := [], served := [], granted := [], asker := 0, flt := 0, cores := 0 }

/-- A line that no agent has touched at its home. -/
def HLine.fresh (line : Nat) : HLine :=
  { line := line, state := 0, busy := false, acks := 0, cur := none, queue := [], perf := false }

/-- A cluster's line. -/
def clineAt (s : State) (cl line : Nat) : CLine :=
  (s.clines.find? fun c => c.cl == cl && c.line == line).getD (CLine.fresh cl line)

/-- Put a cluster's line; one back in its first state is not listed. -/
def putCline (s : State) (c : CLine) : State :=
  let rest := s.clines.filter fun x => !(x.cl == c.cl && x.line == c.line)
  { s with clines := if c = CLine.fresh c.cl c.line then rest else c :: rest }

/-- A line at its home. -/
def hlineAt (s : State) (line : Nat) : HLine := (s.hlines.find? fun h => h.line == line).getD (HLine.fresh line)

/-- Put a line at its home; one back in its first state is not listed. -/
def putHline (s : State) (h : HLine) : State :=
  let rest := s.hlines.filter fun x => x.line != h.line
  { s with hlines := if h = HLine.fresh h.line then rest else h :: rest }

/-- The sharers of the region of a line (R271). -/
def regionAt (s : State) (line : Nat) : Region :=
  (s.regions.find? fun r => r.region == line / 8).getD { region := line / 8, vec := 0, host := false }

/-- Put a region entry; one without sharers is freed, unless it is being displaced (R272). -/
def putRegion (s : State) (r : Region) : State :=
  let rest := s.regions.filter fun x => x.region != r.region
  { s with regions := if r.vec = 0 && !r.host && !r.going then rest else r :: rest }

/-- The line's bytes in memory. -/
def lineData (s : State) (line : Nat) : BitVec 512 := BitVec.ofNat 512 (memNat s.mem (64 * line) 64)

/-- The bytes of a line as offset and value. -/
def lineCells (d : BitVec 512) : List (Nat × Byte) :=
  (List.range 64).map fun k => (k, d.extractLsb' (8 * k) 8)

/-- A line image with bytes replaced. -/
def patchLine (d : BitVec 512) (bs : List (Nat × Byte)) : BitVec 512 :=
  bs.foldl (fun d x => BitVec.ofNat 512 (setField d.toNat (8 * x.1) 8 x.2.toNat)) d

/-- A stored byte comes before byte `q` in the store order (R192): published at `cl` in the cluster of `q`, at `co` in its core, or
taken in by the agent of `q`, and behind it in the list. -/
def olderThan (p q : PStore) : Bool :=
  p.key == q.key && decide (p.lvl < 3) &&
    ((p.lvl == 2 && p.cl == q.cl) || (p.lvl == 1 && p.core == q.core && p.cl == q.cl) || p.takers.contains q.owner)

/-- Drop the stored bytes that are older in the store order than bytes which have just reached their home (R192). `seen`: the
bytes met so far that have reached it. A byte held elsewhere comes later in the store order than what is at the home. -/
def dropOlder (arrived : PStore → Bool) (seen : List PStore) : List PStore → List PStore
  | [] => []
  | p :: r =>
    if arrived p then p :: dropOlder arrived (p :: seen) r
    else if seen.any (olderThan p) then dropOlder arrived seen r
    else p :: dropOlder arrived seen r

/-- Raise the level of stored bytes that a release publishes (R191, R192): what is first published now comes last in the store
order, ahead in the list; what was published at a narrower scope keeps its place behind a newer byte that went the same way. -/
def raiseStores (lvl : Nat) (sel : PStore → Bool) (seen : List (Nat × Nat)) : List PStore → List PStore × List PStore
  | [] => ([], [])
  | p :: r =>
    if sel p && decide (p.lvl < lvl) then
      let x := raiseStores lvl sel seen r
      if p.lvl == 2 || (p.lvl == 1 && seen.contains (p.key, p.core)) then (x.1, { p with lvl := lvl } :: x.2)
      else ({ p with lvl := lvl } :: x.1, x.2)
    else
      let x := raiseStores lvl sel (if 2 ≤ p.lvl then (p.key, p.core) :: seen else seen) r
      (x.1, p :: x.2)

/-- The list after `raiseStores`. -/
def raised (lvl : Nat) (sel : PStore → Bool) (l : List PStore) : List PStore :=
  (raiseStores lvl sel [] l).1 ++ (raiseStores lvl sel [] l).2

/-- Write bytes of a line at its home (R276). `cl` is the cluster whose sent bytes these are. -/
def homeWrite (s : State) (cl line : Nat) (bs : List (Nat × Byte)) : State :=
  healPoison (bs.map fun x => 64 * line + x.1) { s with
    mem := bs.foldl (fun m x => memWrite m (64 * line + x.1) [x.2]) s.mem
    stores := dropOlder (fun p => p.cl == cl && p.lvl == 3 && bs.any fun x => p.key == 64 * line + x.1) [] s.stores }

/-- Send a message. -/
def post (m : Msg) (s : State) : State := { s with net := s.net ++ [m] }

/-- The destination code of a home. -/
def atHome : Nat := 32

/-- Log a machine error of a slice or cluster (R264). -/
def machineError (where_ line : Nat) (s : State) : State := logError 1 where_ (word line) s

-- ## The cluster half

/-- The event code of a local event (R262). -/
def localCode : LocalEv → Nat
  | .load => 0 | .store => 1 | .pub => 2 | .acq => 3 | .evict => 4

/-- The local event of a code, as the sender of a request (R262). -/
def localOf (ev : Nat) (d : LocalEv) : LocalEv :=
  match ev with
  | 0 => .load | 1 => .store | 2 => .pub | 3 => .acq | 4 => .evict | _ => d

/-- What a cluster word does to the line (R263, R264), with the bytes that a PUB publishes or that a message brings. PERF or a fault
ends the waiting operation: the store whose STORE event this is, or whose request the message answers; else the loads that wait on
the line. Data that are served go to every one of these (R267). -/
def clusterApply (w : ActionWord) (ev : Nat) (bs : List (Nat × Byte)) (flt writer : Nat) (c : CLine) : CLine × List Msg :=
  let asks := w.msg != .none && w.msg != .ack
  let answer := decide (5 ≤ ev)
  let store := if ev = 1 then some writer else if answer && c.lastEv == .store then some c.asker else none
  let mark := if w.flt ≠ 0 then w.flt else if ev = 8 || ev = 9 then flt else 0
  let ends := (w.perf || mark != 0) && store.isSome
  let serves := w.perf && mark == 0 && (ev == 7 || (store.isNone && (answer || ev == 0)))
  let c1 := { c with
    data := if w.write || (serves && ev == 7) then patchLine c.data bs else c.data
    served := if serves then c.served ++ c.loads.filter (fun a => !c.served.contains a) else c.served
    loads := if serves then [] else c.loads
    lastEv := if asks then localOf ev c.lastEv else if ends && answer then .load else c.lastEv
    asker := if asks && ev = 1 then writer else c.asker
    granted := if ends then c.granted ++ [(store.getD 0, mark)] else c.granted
    flt := if mark ≠ 0 && store.isNone then mark else c.flt
    prev := if asks then c.state else c.prev
    state := w.next.getD c.state }
  let out : Msg :=
    { kind := w.msg, line := c.line, req := c.cl, dst := atHome, bytes := if w.carry then bs else [], flt := 0,
      writer := writer, tries := c.tries }
  (c1, if w.msg = .none then [] else [out])

/-- The stores of a line that its cluster had sent are at the home (R276). -/
def dropSent (cl line : Nat) (l : List PStore) : List PStore :=
  l.filter fun p => !(p.cl == cl && p.lvl == 3 && p.key / 64 == line)

/-- The filter after an event (R271): where no copy that serves loads is left, no core holds the line. -/
def filtered (p : Proto) (c : CLine) : CLine := if nthD p.cattr c.state 0 % 2 == 1 then c else { c with cores := 0 }

/-- A write awaits its acknowledgement in a cluster state (R261 CATTR bit 1). -/
def waitState (p : Proto) (st : Nat) : Bool := nthD p.cattr st 0 / 2 % 2 == 1

/-- An event at a cluster's line (R262): one under DEFER is held; the line's part of a release ends when the line leaves WAIT
through ACK (R265). -/
def raiseOnce (slot cl line : Nat) (h : HeldEv) (s : State) : State :=
  let p := protoAt s slot
  let c := clineAt s cl line
  match wordOf p.clus c.state h.ev with
  | none => machineError cl line s
  | some w =>
    if w.defer then
      (if h.ev = 0 && c.held.any (fun x => x.ev == 0) then s else putCline s { c with held := c.held ++ [h] })
    else
      let (c1, ms) := clusterApply w h.ev h.bytes h.flt h.writer c
      let ended := h.ev == 8 && waitState p c.state && !waitState p c1.state
      putCline (ms.foldl (fun s m => post m s) { s with stores := if ended then dropSent cl line s.stores else s.stores }) (filtered p c1)

/-- The held events are raised again, oldest first, those that the present state still defers left where they are (R263). -/
def reraise (slot cl line : Nat) : Nat → State → State
  | 0, s => s
  | n + 1, s =>
    let c := clineAt s cl line
    match c.held.find? (fun h => !((wordOf (protoAt s slot).clus c.state h.ev).any fun w => w.defer)) with
    | none => s
    | some h => reraise slot cl line n (raiseOnce slot cl line h (putCline s { c with held := c.held.erase h }))

/-- Held events are raised again once the line's state has changed from `st` (R263). -/
def afterChange (slot cl line st : Nat) (s : State) : State :=
  if (clineAt s cl line).state = st then s else reraise slot cl line 64 s

/-- An event at a cluster's line: code, bytes, fault mark and writer (R262, R263). -/
def clusterRaise (slot cl line ev : Nat) (bs : List (Nat × Byte)) (flt writer : Nat) (s : State) : State :=
  afterChange slot cl line (clineAt s cl line).state
    (raiseOnce slot cl line { ev := ev, bytes := bs, flt := flt, writer := writer } s)

/-- A cluster's copy of a line goes, as under INV, without an answer. -/
def dropCopy (slot cl line : Nat) (s : State) : State :=
  let c := clineAt s cl line
  match wordOf (protoAt s slot).clus c.state 5 with
  | some w => afterChange slot cl line c.state (putCline s (filtered (protoAt s slot) (clusterApply w 5 [] 0 0 c).1))
  | none => s

/-- Every copy of a line in the module goes, as under an INV to all clusters. -/
def dropCopies (line : Nat) (s : State) : State :=
  (s.clines.filter fun c => c.line == line).foldl (fun s c => dropCopy (slotOfLine s c.cl line 0) c.cl line s) s

/-- A cluster's copies of the other lines of a region go: the home's sharer operations act on the vector of the whole region, so a
cluster that leaves it holds no copy that the home would have to reach (R271, R276; log 70). -/
def dropNeighbours (cl line : Nat) (s : State) : State :=
  (s.clines.filter fun c => c.cl == cl && c.line / 8 == line / 8 && c.line != line).foldl
    (fun s c => dropCopy (slotOfLine s cl c.line 0) cl c.line s) s

/-- The copies of the clusters that have left the vector of a line's region. -/
def dropLeft (line : Nat) (gone : BitVec 16) (s : State) : State :=
  ((List.range 16).filter fun k => gone.getLsbD k).foldl (fun s k => dropNeighbours k line s) s

/-- A write of a line of another module reaches its home: the module's other copies go (R273, R276; log 70). `keep`: the cluster
whose copy the write has gone through. -/
def dropFar (line : Nat) (keep : Option Nat) (s : State) : State :=
  (s.clines.filter fun c => c.line == line && some c.cl != keep).foldl
    (fun s c => dropCopy (slotOfLine s c.cl line 0) c.cl line s) s

-- ## The home half

/-- The bit of a requester in the cluster vector; other agents have none (R271). -/
def reqBit (r : Nat) : BitVec 16 := if r < 16 then BitVec.ofNat 16 (2 ^ r) else 0

/-- The sharer-vector operation SHV (R263). -/
def shvApply (op : Nat) (v req : BitVec 16) : BitVec 16 :=
  match op with
  | 1 => v ||| req | 2 => v &&& ~~~req | 3 => v &&& req | 4 => 0 | _ => v

/-- The targets of a home word: the requester, or sharers, the host counting as one (R263, R274). -/
def homeTargets (w : ActionWord) (req : Nat) (r : Region) : List Nat :=
  let sharers := (List.range 16).filter fun k => r.vec.getLsbD k
  let host := if r.host then [16] else []
  match w.dest with
  | 1 => [req]
  | 2 => (sharers.filter fun k => k != req) ++ (if req = 16 then [] else host)
  | _ => sharers ++ host

/-- The writer of a phase-free access that has been abandoned (R98): nobody waits for it. -/
def noWriter : Nat := 2 ^ 60

/-- No request of the line can be dispatched: its busy bit is set, by a word or by an open chain (R275, R277), or a phase-free
access that it has granted is being performed. -/
def blocked (h : HLine) : Bool := h.busy || h.perf

/-- The home's state of a line as a table sees it: HOME has one state, whatever the range's table has left (R254, R269). -/
def homeState (slot : Nat) (h : HLine) : Nat := if slot = 4 then 0 else h.state

/-- What a home word does (R263, R264): write data, send, sharers, counter, memory read, busy bit, grant of a phase-free
access. `m` is the request in service. A line of another module has no entry in the directory (R273). Answers also whether the
counter is set with no target. -/
def homeApply (w : ActionWord) (m : Msg) (s : State) : State × Bool :=
  let line := m.line
  let isUnc := m.kind == .unc
  let far := remoteLine s line
  let s0 := if w.write then homeWrite s m.req line m.bytes else s
  let s1 := if far && w.write then dropFar line (some m.req) s0
            else if far && isUnc && m.flt != 0 then dropFar line none s0 else s0
  let h := hlineAt s1 line
  let r := if far then { region := line / 8, vec := 0, host := false } else regionAt s1 line
  let ts := homeTargets w m.req r
  let faulted := isUnc && w.flt != 0 && m.flt != 0 && !m.checked
  let out : Nat → Msg := fun t =>
    { kind := w.msg, line := line, req := m.req, dst := t,
      bytes := if w.carry then lineCells (lineData s1 line) else [],
      flt := if isUnc then 0 else w.flt, writer := m.writer }
  let sends := if w.msg = .none || (isUnc && w.dest = 1) then [] else ts.map out
  let s2 := sends.foldl (fun s x => post x s) s1
  let vec := shvApply w.shv r.vec (reqBit m.req)
  let s3 := if far then s2 else
    dropLeft line (r.vec &&& ~~~vec) (putRegion s2
      { r with
        vec := vec
        host := if (w.shv = 4 || (w.shv = 3 && m.req ≠ 16)) then false else (r.host || (w.shv = 1 && m.req = 16)) })
  let h1 := { h with
    state := w.next.getD h.state
    busy := (h.busy || w.setb) && !w.clrb
    acks := if w.cnt then ts.length else h.acks
    cur := some { m with flt := if faulted then w.flt + 8 else m.flt }
    perf := h.perf || (isUnc && m.writer != noWriter && (w.perf || faulted)) }
  let s4 := putHline s3 (if blocked h1 then h1 else { h1 with cur := none })
  let s5 := if w.rdm then post { m with kind := .none, dst := atHome } (readUnits (64 * line) 64 s4) else s4
  (s5, w.cnt && ts.isEmpty)

/-- A home word, with the LAST_ACK that follows at once when a counted message has no target (R264). -/
def homeWord (slot : Nat) : Nat → ActionWord → Msg → State → State
  | 0, w, m, s => (homeApply w m s).1
  | n + 1, w, m, s =>
    let (s1, last) := homeApply w m s
    if last then
      match wordOf (protoAt s1 slot).home (homeState slot (hlineAt s1 m.line)) 7 with
      | none => machineError (16 + m.req) m.line s1
      | some w' => homeWord slot n w' m s1
    else s1

/-- A message that stands for a home's own event. -/
def ownMsg (line : Nat) : Msg := { kind := .none, line := line, req := 18, dst := atHome, bytes := [], flt := 0, writer := 0 }

/-- A transaction of a line of the region is under way. -/
def regionBusy (s : State) (region : Nat) : Bool := s.hlines.any fun h => blocked h && h.line / 8 == region

/-- A displaced entry is freed when the transactions of its lines have ended (R272). -/
def freeEntry (region : Nat) (s : State) : State :=
  match s.regions.find? fun r => r.region == region with
  | some r => if r.going && !regionBusy s region then putRegion s { r with going := false } else s
  | none => s

/-- A region entry is displaced (R272): EVICT_DIR at each line of the region, each with the sharers that the entry held. -/
def displaceRegion (slot region : Nat) (s : State) : State :=
  let r := regionAt s (8 * region)
  freeEntry region (((List.range 8).map fun k => 8 * region + k).foldl (fun s l =>
    match wordOf (protoAt s slot).home (homeState slot (hlineAt s l)) 10 with
    | some w => homeWord slot 4 w (ownMsg l) (putRegion s { r with going := true })
    | none => s) s)

/-- The region entries in use that share the ways of a region's set (R271). -/
def waysOf (s : State) (region : Nat) : List Region :=
  s.regions.filter fun r => !r.going && sliceIndex (512 * r.region) == sliceIndex (512 * region) &&
    Config.dirSet r.region % 2048 == Config.dirSet region % 2048

/-- The entries of a set that may be displaced for a region: no transaction of theirs is under way. -/
def displaceable (s : State) (region : Nat) : List Region :=
  (waysOf s region).filter fun r => r.region != region && !regionBusy s r.region

/-- Region entries are displaced while a region's set has more than 12 in use (R271, R272); which ones is free (log 11). -/
def makeRoomN (region : Nat) : Nat → State → State
  | 0, s => s
  | n + 1, s =>
    if (waysOf s region).length ≤ 12 then s
    else
      let l := displaceable s region
      match l[Config.pick s.stepNo l.length % l.length]? with
      | some r => makeRoomN region n (displaceRegion (slotOfLine s 0 (8 * r.region) 0) r.region s)
      | none => s

/-- Room for a region's entry among the 12 ways of its set (R271, R272). -/
def makeRoom (region : Nat) (s : State) : State := if s.regions.length ≤ 12 then s else makeRoomN region s.regions.length s

-- ## Scatter-adds at their slice (R277)

/-- The agent behind a writer: the vector queue of a strand writes under a number of its own. -/
def agentOf (writer : Nat) : Nat := if 2 ^ 18 ≤ writer ∧ writer < 2 ^ 19 then writer - 2 ^ 18 else writer

/-- The stored bytes of an agent in a range that it has not sent to their home. -/
def ownByte (a key n : Nat) (p : PStore) : Bool :=
  p.owner == a && decide (key ≤ p.key) && decide (p.key < key + n) && decide (p.lvl < 3)

/-- Write out an agent's own stored bytes before a phase-free access touches them (R379), or before its younger scatter-add to
them (R165). What the agent has taken in before them goes: it is older in the store order (R192). -/
def flushOwn (a key n : Nat) (s : State) : State :=
  let own := s.stores.filter (ownByte a key n)
  unstale (own.map fun p => p.key) { s with
    mem := own.foldr (fun p m => memWrite m p.key [p.byte]) s.mem
    stores := (dropOlder (ownByte a key n) [] s.stores).filter fun p => !ownByte a key n p
    poison := s.poison.filter fun u => !(decide (2 ^ 52 ≤ u) && own.any fun p => p.key == u) }

/-- The address of an addition. -/
def addKey (m : Msg) : Nat := 64 * m.line + (m.bytes.head?.map fun x => x.1).getD 0
/-- The value of an addition with its type. -/
def addVal (m : Msg) : Ty × Word := (m.ty.getD .n64, word (leNat (m.bytes.map fun x => x.2)))

/-- The slice has a chain left of its 256 (R277). -/
def chainFree (s : State) (key : Nat) : Bool := decide ((s.chains.filter fun c => sliceIndex c.addr == sliceIndex key).length < 256)

/-- The home's mark for a write, or the fault that refuses it (R270): RO refuses; otherwise the CLAIM word applies in the same
step. -/
def claimMark (slot line : Nat) (s : State) : Except Nat State :=
  if slot = 5 then .error 1
  else
    let h := hlineAt s line
    match wordOf (protoAt s slot).home (homeState slot h) 4 with
    | none => .ok s
    | some w => if w.flt ≠ 0 then .error w.flt else .ok (putHline s { h with state := w.next.getD h.state })

/-- The check of an addition where it is performed, unless it has been made (R270). -/
def addCheck (slot : Nat) (m : Msg) (s : State) : Except Nat State := if m.checked then .ok s else claimMark slot m.line s

/-- The answer to an addition of a strand (R170). -/
def addAnswer (m : Msg) (flt : Nat) (s : State) : State :=
  if m.writer < 2 ^ 19 then { s with added := s.added ++ [(m.writer, flt)] } else s

/-- An addition may join a chain of its address now (R277): there is one with room, no addition to the address is queued before it,
and no stored bytes of its own agent have to go first. -/
def canJoin (m : Msg) (s : State) : Bool :=
  (s.chains.any fun c => c.addr == addKey m && decide (c.vals.length < 64)) &&
    !((hlineAt s m.line).queue.any fun x => x.kind == .add && addKey x == addKey m) &&
    !s.stores.any (ownByte (agentOf m.writer) (addKey m) (addVal m).1.bytes)

/-- An addition joins the chain of its address (R277). -/
def joinAdd (slot : Nat) (m : Msg) (s : State) : State :=
  match addCheck slot m s with
  | .error f => addAnswer m f s
  | .ok s1 =>
    addAnswer m 0 { s1 with chains := s1.chains.map fun c => if c.addr = addKey m then { c with vals := c.vals ++ [addVal m] } else c }

/-- An addition opens a chain (R277): the line is busy from here on, and no copy of it is left (log 70). -/
def openChain (slot : Nat) (m : Msg) (s : State) : State :=
  match addCheck slot m s with
  | .error f => addAnswer m f s
  | .ok s1 =>
    let s2 := dropCopies m.line (flushOwn (agentOf m.writer) (addKey m) (addVal m).1.bytes s1)
    addAnswer m 0 { putHline s2 { hlineAt s2 m.line with busy := true } with
      chains := s2.chains ++ [{ addr := addKey m, vals := [addVal m] }] }

-- ## Dispatch (R275)

/-- The slot under which a message's line stands (R254): as its requester finds it; HOME for an access through a HOME page. -/
def msgSlot (s : State) (m : Msg) : Nat := if m.own then 4 else slotOfLine s m.req m.line 0

/-- The slot against which an addition is checked: that of its line's range, whatever the page attribute (R270). -/
def addSlot (s : State) (m : Msg) : Nat := (ruledSlot s m.req m.line).getD (msgSlot s m)

/-- A request is dispatched to the table of its line. -/
def homeDispatch (slot ev : Nat) (m : Msg) (s : State) : State :=
  match wordOf (protoAt s slot).home (homeState slot (hlineAt s m.line)) ev with
  | none => machineError (16 + m.req) m.line s
  | some w => makeRoom (m.line / 8) (homeWord slot 4 w m s)

/-- The home event code of a message kind (R262). -/
def homeCode : MsgKind → Nat
  | .gets => 0 | .getx => 1 | .putd => 2 | .push => 3 | .claim => 4 | .unc => 5 | _ => 6

/-- The heads of a line's queue are dispatched while the line is free; an addition needs a free chain (R275, R277). -/
def homeRun : Nat → Nat → State → State
  | 0, _, s => s
  | n + 1, line, s =>
    let h := hlineAt s line
    if blocked h || linePending s line then s
    else
      match h.queue with
      | [] => s
      | m :: q =>
        if m.kind = .add && !chainFree s (addKey m) then s
        else
          let s1 := putHline s { h with queue := q }
          homeRun n line (if m.kind = .add then openChain (addSlot s m) m s1 else homeDispatch (msgSlot s m) (homeCode m.kind) m s1)

/-- A transaction has ended or moved on: what the line has queued is dispatched, and a displaced region is freed (R272, R275). -/
def homeNext (line : Nat) (s : State) : State :=
  freeEntry (line / 8) (homeRun ((hlineAt s line).queue.length + 1) line s)

/-- An event at a line's home (R262). -/
def homeRaise (slot ev : Nat) (m : Msg) (s : State) : State := homeNext m.line (homeDispatch slot ev m s)

/-- The nodes of the pool of a line's slice that are taken; requests held by a range change use none (R258, R275). -/
def queuedNodes (s : State) (line : Nat) : Nat :=
  (s.hlines.map fun h =>
    if sliceIndex (64 * h.line) = sliceIndex (64 * line) ∧ linePending s h.line = false then h.queue.length else 0).sum

/-- What tells a refused request from others. -/
def nameOf (m : Msg) : Nat × Nat × Nat := (m.req, m.line, m.writer)

/-- The requests of a slice that have been refused at least 8 times, oldest first (R275). -/
def starvedAt (s : State) (line : Nat) : List (Nat × Nat × Nat) :=
  s.starved.filter fun x => sliceIndex (64 * x.2.1) == sliceIndex (64 * line)

/-- A request gets a node of the slice's pool of 4,096 (R275): the last 32 are kept for requests refused at least 8 times, and a
freed node goes first to the oldest of these. -/
def nodeFree (s : State) (m : Msg) : Bool :=
  let used := queuedNodes s m.line
  let l := starvedAt s m.line
  if l.contains (nameOf m) then decide (used + l.idxOf (nameOf m) < 4096) else decide (used + l.length + 32 < 4096)

/-- A request is no longer refused. -/
def admitted (m : Msg) (s : State) : State := { s with starved := s.starved.filter fun x => x != nameOf m }

/-- A request is refused: at its eighth refusal it takes its place among the starved (R275). A phase-free access and a scatter-add
are tried again invisibly. -/
def refuse (m : Msg) (s0 : State) : State :=
  let s := if 7 ≤ m.tries && !s0.starved.contains (nameOf m) then { s0 with starved := s0.starved ++ [nameOf m] } else s0
  if m.kind = .unc ∨ m.kind = .add then post { m with tries := m.tries + 1 } s
  else if m.req < 16 then post { m with kind := .nack, dst := m.req } s
  else s

/-- A request joins its line's queue (R275). -/
def enqueue (m : Msg) (s : State) : State :=
  let h := hlineAt s m.line
  admitted m (putHline s { h with queue := h.queue ++ [m] })

/-- A request reaches its home (R275): dispatched, queued at a line that is busy or has others queued, held by a range change, or
refused when the pool is empty. -/
def homeRequest (m : Msg) (s : State) : State :=
  let h := hlineAt s m.line
  if linePending s m.line then enqueue m s
  else if m.kind = .add && canJoin m s then admitted m (joinAdd (addSlot s m) m s)
  else if blocked h || !h.queue.isEmpty || (m.kind = .add && !chainFree s (addKey m)) then
    (if nodeFree s m then enqueue m s else refuse m s)
  else if m.kind = .add then admitted m (homeNext m.line (openChain (addSlot s m) m s))
  else admitted m (homeRaise (msgSlot s m) (homeCode m.kind) m s)

/-- An acknowledgement reaches the home: INV_ACK, then LAST_ACK when the counter reaches 0 (R264). INV_ACK carries none of the
bytes of the request in service. -/
def homeAck (slot : Nat) (m : Msg) (s : State) : State :=
  let h := hlineAt s m.line
  match h.cur with
  | none => machineError (16 + m.req) m.line s
  | some cur =>
    match wordOf (protoAt s slot).home (homeState slot h) 6 with
    | none => machineError (16 + m.req) m.line s
    | some w =>
      let s1 := homeWord slot 4 w { cur with bytes := [] } (putHline s { h with acks := h.acks - 1 })
      let h1 := hlineAt s1 m.line
      let s2 := putHline s1 { h1 with cur := h1.cur.map fun x => { x with bytes := cur.bytes } }
      if h.acks = 1 && h1.acks = 0 && h1.cur.isSome then
        match wordOf (protoAt s slot).home (homeState slot h1) 7 with
        | none => machineError (16 + m.req) m.line s2
        | some w' => homeNext m.line (homeWord slot 4 w' { cur with flt := (h1.cur.map fun x => x.flt).getD 0 } s2)
      else homeNext m.line s2

/-- A memory read returned at the home (R262 MEM). -/
def homeMemReturn (slot line : Nat) (s : State) : State :=
  let h := hlineAt s line
  match h.cur with
  | none => machineError 16 line s
  | some cur =>
    match wordOf (protoAt s slot).home (homeState slot h) 8 with
    | none => machineError 16 line s
    | some w => homeNext line (makeRoom (line / 8) (homeWord slot 4 w cur s))

/-- A phase-free access has been performed, or its grant is given back: the line is free for the next request, unless its word left
it busy (R263, R275). -/
def endGrant (line : Nat) (s : State) : State :=
  let h := hlineAt s line
  homeNext line (putHline s { h with perf := false, cur := if h.busy then h.cur else none })

/-- A message belongs to an access of a writer (R98). -/
def isOf (writer : Nat) (m : Msg) : Bool := m.writer == writer && (m.kind == .unc || m.kind == .add)

/-- An abandoned access leaves its home (R98): its place in the queue, its grant, or its place in service. -/
def homeQuit (m : Msg) (s : State) : State :=
  let h0 := hlineAt s m.line
  let h := { h0 with queue := h0.queue.filter fun x => !isOf m.writer x }
  if (h.cur.map (isOf m.writer)).getD false then
    (if h.perf then endGrant m.line (putHline s h)
    else putHline s { h with cur := h.cur.map fun x => { x with writer := noWriter } })
  else homeNext m.line (putHline s h)

-- ## Delivery

/-- An answered request ends the back-off of its line (R275). -/
def noBackoff (cl line : Nat) (s : State) : State := putCline s { clineAt s cl line with backoff := 0, tries := 0 }

/-- A message arrives. -/
def deliver (m : Msg) (s : State) : State :=
  let slot := msgSlot s m
  match m.kind with
  | .gets | .getx | .putd | .push | .claim | .unc | .add => homeRequest m s
  | .quit => homeQuit m s
  | .none => homeMemReturn slot m.line s
  | .inv =>
    if m.dst = 16 then post { m with kind := .ack, dst := atHome } s
    else clusterRaise (slotOfLine s m.dst m.line 0) m.dst m.line 5 [] 0 m.writer s
  | .upd =>
    if m.dst = 16 then post { m with kind := .ack, dst := atHome } s
    else clusterRaise (slotOfLine s m.dst m.line 0) m.dst m.line 6 m.bytes 0 m.writer s
  | .data => if m.dst < 16 then noBackoff m.dst m.line (clusterRaise slot m.dst m.line 7 m.bytes 0 m.writer s) else s
  | .ack =>
    if m.dst = atHome then homeAck slot m s
    else if m.dst < 16 then noBackoff m.dst m.line (clusterRaise slot m.dst m.line 8 [] m.flt m.writer s) else s
  | .nack =>
    if m.dst < 16 then
      let s1 := clusterRaise slot m.dst m.line 9 [] m.flt m.writer s
      let c := clineAt s1 m.dst m.line
      putCline s1 { c with backoff := if c.backoff = 0 then 64 else Nat.min 4096 (2 * c.backoff), tries := c.tries + 1 }
    else s

/-- Remove the first copy of a message from the net. -/
def takeMsg (m : Msg) (s : State) : State := { s with net := s.net.erase m }

/-- Deliver messages, oldest first, until none is left or the fuel is spent. -/
def settleN : Nat → State → State
  | 0, s => s
  | n + 1, s =>
    match s.net with
    | [] => s
    | m :: r => settleN n (deliver m { s with net := r })

/-- How many messages one access may set in motion before it waits. -/
def settleFuel : Nat := 64

/-- Run the engine when messages are delivered eagerly (log 3). -/
def settle (s : State) : State := if s.eager then settleN settleFuel s else s

-- ## What accesses ask of the engine

/-- The copy of a cluster serves loads (R261 CATTR bit 0). -/
def copyReadable (s : State) (slot cl line : Nat) : Bool :=
  nthD (protoAt s slot).cattr (clineAt s cl line).state 0 % 2 == 1

/-- A write of the line awaits its acknowledgement (R261 CATTR bit 1). -/
def copyWaits (s : State) (slot cl line : Nat) : Bool :=
  waitState (protoAt s slot) (clineAt s cl line).state

/-- The cause of a fault mark FLT (R263). -/
def fltCause : Nat → Cause
  | 2 => .writeOnce
  | _ => .protection

/-- Agent `a` no longer waits for data of a line. -/
def forgetLoad (a cl line : Nat) (s : State) : State :=
  let c := clineAt s cl line
  if c.loads.contains a || c.served.contains a then
    putCline s { c with loads := c.loads.erase a, served := c.served.erase a }
  else s

/-- Agent `a` waits for data of a line. -/
def noteLoad (a cl line : Nat) (s : State) : State :=
  let c := clineAt s cl line
  if c.loads.contains a then s else putCline s { c with loads := a :: c.loads }

/-- A cluster replaces a copy (R262 EVICT). -/
def evictCopy (cl line : Nat) (s : State) : State := clusterRaise (slotOfLine s cl line 0) cl line 4 [] 0 0 s

/-- Copies of a cluster live in its C-role banks of 8,192 lines each; when they are full one is replaced, which one is free (log
11). -/
def copyRoom (cl : Nat) (s : State) : State :=
  if s.clines.length ≤ 65536 then s
  else
    let l := s.clines.filter fun c => c.cl == cl && copyReadable s (slotOfLine s cl c.line 0) cl c.line
    if l.length ≤ 8192 * ((clusterAt s cl).banks.toList.filter fun b => b == .c).length then s
    else
      match l[Config.pick s.stepNo l.length % l.length]? with
      | some c => evictCopy cl c.line s
      | none => s

/-- A core has a bank that holds copies (R111). -/
def cachesLines (s : State) (core : Nat) : Bool := (coreAt s core).banks.toList.any fun b => b == .c

/-- The core of a strand that loads a line holds a copy in its core store then, and the filter marks the core (R271). A core copy
follows the protocol of its line through the filter: its bytes are those of the cluster's copy. -/
def markCore (a slot cl line : Nat) (s : State) : State :=
  let c := clineAt s cl line
  let m := if a < 2 ^ 18 && cachesLines s (a / 4 % 128) then c.cores ||| BitVec.ofNat 8 (2 ^ (a / 4 % 8)) else c.cores
  if !copyReadable s slot cl line || m == c.cores then s else putCline s { c with cores := m }

/-- The copies of a core go, when one of its banks leaves role C (R111, R271). -/
def unmarkCore (core : Nat) (s : State) : State :=
  { s with clines := s.clines.map fun c =>
      if c.cl = core / 8 then { c with cores := c.cores &&& ~~~BitVec.ofNat 8 (2 ^ (core % 8)) } else c }

/-- What a load of agent `a` finds at its line, if it need not wait: a readable copy, data served to it, or the fault that ended
its request (R263, R264). -/
def loadAnswer (a slot cl line : Nat) (va : Word) (s : State) : Option (EStateM.Result Stop State (BitVec 512)) :=
  let c := clineAt s cl line
  if copyReadable s slot cl line || c.served.contains a then
    some (.ok c.data (markCore a slot cl line (forgetLoad a cl line s)))
  else if c.flt ≠ 0 then some (.error (.trap (fltCause c.flt) va) (putCline s { c with flt := 0 }))
  else none

/-- The line's data for a load of agent `a` in a cluster (R260, R262 LOAD): its readable copy, or data just served; otherwise
the miss is raised, and the load waits while it is under way. -/
def fetchLine (a slot cl line : Nat) (va : Word) : M (BitVec 512) := fun s =>
  match loadAnswer a slot cl line va s with
  | some r => r
  | none =>
    let s1 := settle (clusterRaise slot cl line 0 [] 0 0 (noteLoad a cl line s))
    match loadAnswer a slot cl line va s1 with
    | some (.ok d s2) => .ok d (copyRoom cl s2)
    | some r => r
    | none => .error (.wait .line) s1

/-- The answer to a writer's STORE at a line, taken from it. -/
def takeGrant (writer : Nat) (c : CLine) : Option (Nat × CLine) :=
  (c.granted.find? fun x => x.1 == writer).map fun x => (x.2, { c with granted := c.granted.erase x })

/-- The write of the line proceeds or ends with its fault, if its STORE has been answered (R263). -/
def storeAnswer (cl line writer : Nat) (va : Word) (s : State) : Option (EStateM.Result Stop State Unit) :=
  (takeGrant writer (clineAt s cl line)).map fun x =>
    if x.1 = 0 then .ok () (putCline s x.2) else .error (.trap (fltCause x.1) va) (putCline s x.2)

/-- A write of the line is checked when it executes (R262 STORE, R270): it proceeds, faults with XVAL = `va`, or waits for the
home's answer to a CLAIM. `writer` identifies the write. -/
def storeCheck (slot cl line writer : Nat) (va : Word) : M Unit := fun s =>
  match storeAnswer cl line writer va s with
  | some r => r
  | none =>
    match wordOf (protoAt s slot).clus (clineAt s cl line).state 1 with
    | none => if slot = 4 then .ok () s else .ok () (machineError cl line s)
    | some w =>
      if w.flt ≠ 0 then .error (.trap (fltCause w.flt) va) s
      else if w = wDash then .ok () s
      else if w.defer then .error (.wait .line) (settle s)
      else
        let s1 := settle (clusterRaise slot cl line 1 [] 0 writer s)
        (storeAnswer cl line writer va s1).getD (.error (.wait .line) s1)

/-- The fault that a write of the line would meet as things stand (R270), found without making the write. -/
def writeFault (slot cl line : Nat) (s : State) : Option Cause :=
  match wordOf (protoAt s slot).clus (clineAt s cl line).state 1 with
  | none => none
  | some w =>
    if w.flt ≠ 0 then some (fltCause w.flt)
    else if w.msg = .none then none
    else
      match wordOf (protoAt s slot).home (homeState slot (hlineAt s line)) (homeCode w.msg) with
      | some v => if v.flt ≠ 0 then some (fltCause v.flt) else none
      | none => none

/-- The fault that a phase-free write of the line would meet as things stand at the home (R264, R270). -/
def homeFault (slot line : Nat) (s : State) : Option Cause :=
  let word (ev : Nat) : Option ActionWord := wordOf (protoAt s slot).home (homeState slot (hlineAt s line)) ev
  match word 5, word 4 with
  | some w, v => if w.flt ≠ 0 then some (fltCause w.flt) else (v.filter fun v => v.flt != 0).map fun v => fltCause v.flt
  | none, v => (v.filter fun v => v.flt != 0).map fun v => fltCause v.flt

/-- The home marks a write of a line that it performs, or refuses it (R270). -/
def homeClaim (slot line : Nat) (va : Word) : M Unit := fun s =>
  match claimMark slot line s with
  | .ok s1 => .ok () s1
  | .error f => .error (.trap (fltCause f) va) s

/-- Publish bytes of a line (R260 PUB): the message goes out and the bytes count as sent; a PUB under DEFER stays to be
raised again. -/
def publishLine (slot cl line : Nat) (bs : List (Nat × Byte)) (mine : PStore → Bool) (s : State) : State :=
  match wordOf (protoAt s slot).clus (clineAt s cl line).state 2 with
  | none => machineError cl line s
  | some w =>
    if w.defer then s
    else
      let s1 := { s with stores := raised 3 (fun p => mine p && p.key / 64 == line) s.stores }
      settle (clusterRaise slot cl line 2 bs 0 0 s1)

/-- The request of a phase-free access. -/
def uncMsg (slot req line : Nat) (wr : Bool) (writer : Nat) : Msg :=
  { kind := .unc, line := line, req := req, dst := atHome, bytes := [], flt := b2n wr, writer := writer, own := slot == 4 }

/-- A request of a writer for the line is on its way, queued or in service. -/
def underWay (s : State) (line writer : Nat) : Bool :=
  s.net.any (fun m => isOf writer m && m.line == line) || (hlineAt s line).queue.any (isOf writer) ||
    ((hlineAt s line).cur.map (isOf writer)).getD false

/-- The request of a writer that the line has granted. -/
def grantOf (s : State) (line writer : Nat) : Option Msg :=
  let h := hlineAt s line
  if h.perf then h.cur.filter (isOf writer) else none

/-- A grant is taken: its fault ends the access; otherwise, whether its range check has been made. -/
def takeUnc (line : Nat) (m : Msg) (va : Word) : M Bool := fun s =>
  if 8 ≤ m.flt then .error (.trap (fltCause (m.flt - 8)) va) (endGrant line s) else .ok m.checked s

/-- A phase-free access asks the home for the line (R260 UNC): once it is granted, the caller performs it and calls
`uncDone`. `wr`: the access writes. `req`: the cluster, or 16 and above for other agents. -/
def uncBegin (slot req line : Nat) (wr : Bool) (writer : Nat) (va : Word) : M Bool := fun s =>
  match grantOf s line writer with
  | some m => takeUnc line m va s
  | none =>
    let s1 := settle (if underWay s line writer then s else post (uncMsg slot req line wr writer) s)
    match grantOf s1 line writer with
    | some m => takeUnc line m va s1
    | none => .error (.wait .line) s1

/-- The phase-free access has been performed (R275). -/
def uncDone (line : Nat) (s : State) : State :=
  let s1 := endGrant line s
  if s1.net.isEmpty then s1 else settle s1

/-- What a writer had under way is abandoned (R98): requests on their way go, their homes hear of the others, and what its look had
gathered is forgotten. -/
def dropUnc (writer : Nat) (s : State) : State :=
  if s.net.isEmpty && s.hlines.isEmpty && s.added.isEmpty && s.parts.isEmpty then s
  else
    let ls := (s.hlines.filter fun h => h.queue.any (isOf writer) || (h.cur.map (isOf writer)).getD false).map fun h => h.line
    { s with
      net := (s.net.filter fun m => !isOf writer m) ++ ls.map fun l => { uncMsg 0 0 l false writer with kind := .quit }
      added := s.added.filter fun x => x.1 != writer
      starved := s.starved.filter fun x => x.2.2 != writer
      parts := s.parts.filter fun x => x.1 != writer }

/-- What a look had gathered is forgotten. -/
def clearParts (writer : Nat) (s : State) : State :=
  if s.parts.isEmpty then s else { s with parts := s.parts.filter fun x => x.1 != writer }

/-- Do the accesses of one look, in order: those that an earlier look has done are not done again, and what they answered is kept
while a later one waits (log 3). Each is given the answers of those before it. -/
def eachFrom (writer : Nat) (f : List Nat → Nat → M Nat) (done : List Nat) : List Nat → M (List Nat)
  | [] => fun s => .ok done (clearParts writer s)
  | k :: r => fun s =>
    match f done k s with
    | .ok x s1 => eachFrom writer f (done ++ [x]) r s1
    | .error (.wait z) s1 => .error (.wait z) { s1 with parts := putK s1.parts writer done }
    | .error (.trap c v) s1 => .error (.trap c v) (clearParts writer s1)

/-- Do `n` accesses of one look, each given the answers of those before it. -/
def eachWith (writer n : Nat) (f : List Nat → Nat → M Nat) : M (List Nat) := fun s =>
  let done := findD s.parts writer []
  eachFrom writer f done (span done.length n) s

/-- Do `n` accesses of one look. -/
def eachOnce (writer n : Nat) (f : Nat → M Nat) : M (List Nat) := eachWith writer n fun _ k => f k

end Sys2Proof.Machine
end

