-- ==== Sys2Proof/Machine/Chains.lean ====
section
/-! DEFINITION. The scatter-add units of the slices: chains, the sticky atomic flags, and the accesses that wait behind an open
chain (R169, R170, R198, R277). -/

namespace Sys2Proof.Machine

/-- OR flags into the sticky atomic-flag register of the slice that performs an addition (R198); a slice of another module has
its register there. -/
def addSliceFlags (key : Nat) (f : BitVec 6) (s : State) : State :=
  if key / 2 ^ 43 ≠ myModule s then s
  else
    let old := (s.aflags[sliceIndex key]?).getD 0
    { s with aflags := s.aflags.setIfInBounds (sliceIndex key) (old ||| (f.setWidth 5 &&& 0x17#5)) }

/-- One addition (R169): the new value and the flags. -/
def scatterSum (ty : Ty) (old v : Nat) : FpRes :=
  if ty.isFp then fpAdd (fmtOf ty) .rne old v else ((old + v) % 2 ^ ty.width, flNone)

/-- Additions that wait for a chain of a slice are dispatched (R275, R277). -/
def chainsFreed (key : Nat) (s : State) : State :=
  ((s.hlines.filter fun h => sliceIndex (64 * h.line) == sliceIndex key && (h.queue.head?.map fun m => m.kind == .add).getD false).map
    fun h => h.line).foldl (fun s l => homeNext l s) s

/-- What a chain makes of the value at its address (R277): its additions in order of joining, with their flags. -/
def chainSum (c : Chain) (old : List Byte) : List Byte × BitVec 6 :=
  c.vals.foldl (fun x v =>
    let n := v.1.bytes
    let y := scatterSum v.1 (leNat (x.1.take n)) v.2.toNat
    (leBytes n y.1 ++ x.1.drop n, x.2 ||| y.2)) (old, flNone)

/-- The bytes that a chain's additions cover. -/
def chainBytes (c : Chain) : Nat := c.vals.foldl (fun n v => Nat.max n v.1.bytes) 0

/-- A chain closes (R277): the value is fetched, its additions are made, the result is written once, and the line is free. The fetch
and the write treat the unit's errors as every read and write of a home does (R312, R313). -/
def closeChain (c : Chain) (s0 : State) : State :=
  let n := chainBytes c
  let s := readUnits c.addr n s0
  let r := chainSum c (memBytes s.mem c.addr n)
  let s1 := healPoison (span c.addr (c.addr + n)) { s with mem := memWrite s.mem c.addr r.1, chains := s.chains.erase c }
  let s2 := homeNext (c.addr / 64) (putHline s1 { hlineAt s1 (c.addr / 64) with busy := false })
  let s3 := chainsFreed c.addr (addSliceFlags c.addr r.2 s2)
  if s3.net.isEmpty then s3 else settle s3

/-- Close chains, and those that open in their stead, while fuel lasts. -/
def closeAll : Nat → State → State
  | 0, s => s
  | n + 1, s =>
    match s.chains with
    | [] => s
    | c :: _ => closeAll n (closeChain c s)

/-- With an eager engine a chain closes at once (log 3). -/
def closeEager (s : State) : State := if s.eager && !s.chains.isEmpty then closeAll 4096 s else s

/-- An access that does not go through the home's queue waits behind the open chains of its lines: they close first (R170,
R277). -/
def behindChains (key n : Nat) (s : State) : State :=
  if s.chains.isEmpty then s
  else (s.chains.filter fun c => decide (key / 64 ≤ c.addr / 64) && decide (c.addr / 64 ≤ (key + n - 1) / 64)).foldl
    (fun s c => closeChain c s) s

/-- A little-endian number at its home, as an access that arrives there now finds it: behind the open chains (R277). -/
def homeNat (s : State) (key n : Nat) : Nat :=
  memNat ((s.chains.filter fun c => decide (key / 64 ≤ c.addr / 64) && decide (c.addr / 64 ≤ (key + n - 1) / 64)).foldl
    (fun m c => memWrite m c.addr (chainSum c (memBytes m c.addr (chainBytes c))).1) s.mem) key n

/-- A write performed at the home by an agent outside the clusters: it takes its place in the store order there, and no copy
outlives it. -/
def homePoke (key : Nat) (bs : List Byte) (s0 : State) : State :=
  let s := behindChains key bs.length s0
  let s1 := healPoison (span key (key + bs.length)) { s with mem := memWrite s.mem key bs }
  if 2 ^ 52 ≤ key then s1
  else (span (key / 64) ((key + bs.length - 1) / 64 + 1)).foldl (fun s l => dropCopies l s) s1

/-- The scatter-add of an agent of a cluster: to the line through a page of slot `slot`, `checked`: its write-once check is made. -/
def addMsg (req writer key slot : Nat) (ty : Ty) (v : Word) (checked : Bool) : Msg :=
  { kind := .add, line := key / 64, req := req, dst := atHome, flt := 1, writer := writer, ty := some ty, own := slot == 4,
    bytes := ((leBytes ty.bytes v.toNat).zipIdx).map fun x => (key % 64 + x.2, x.1), checked := checked }

/-- The slice's answer to an addition of a writer is taken (R170, R270). -/
def takeAdded (writer : Nat) (va : Word) (s : State) : Option (EStateM.Result Stop State Unit) :=
  (s.added.find? fun x => x.1 == writer).map fun x =>
    let s1 := { s with added := s.added.erase x }
    if x.2 = 0 then .ok () s1 else .error (.trap (fltCause x.2) va) s1

/-- An addition goes to its slice and has been accepted there (R170, R277), or waits. -/
def arriveAdd (m : Msg) (va : Word) : M Unit := fun s =>
  match takeAdded m.writer va s with
  | some r => r
  | none =>
    let s1 := settle (if underWay s m.line m.writer then s else post m s)
    (takeAdded m.writer va s1).getD (.error (.wait .line) s1)

end Sys2Proof.Machine
end

