-- ==== Sys2Proof/Machine/Translate.lean ====
section
/-! DEFINITION. Translation: the local windows, the device page table, the TLBs, host pages through ATS, the module's
physical map (R278 to R287). -/

namespace Sys2Proof.Machine

/-- For whom an access is made: its cluster and core (128 and above: an engine), its queue, whether supervisor rights apply, its
crew window, whether forwarding pairs redirect it (R247), and whether it is a vector access of a strand (R22). -/
structure Who where
  cl    : Nat
  co    : Nat
  queue : Nat
  sup   : Bool
  wb    : Nat
  wn    : Nat
  redir : Bool
  vec   : Bool := false
deriving DecidableEq, Repr

/-- The acting strand as the maker of an access. -/
def whoAmI (s : State) : Who :=
  { cl := myCluster s, co := myCore s, queue := s.strand.queue, sup := priv s.strand, wb := s.strand.wb, wn := s.strand.wn,
    redir := true }

/-- The acting strand as the maker of a vector access. -/
def vecWho (s : State) : Who := { whoAmI s with vec := true }

/-- The core number under which a cluster's Bridle part makes its accesses: an agent of scope `pk` (R199). -/
def bridleSide : Nat := 254

/-- The cluster whose published stores an agent sees before they reach their home: none for the Bridle (R192, R199). -/
def sideOf (w : Who) : Nat := if w.co = bridleSide then 16 else w.cl

/-- The page-fault cause of an access (R281). -/
def faultCause : Acc → Cause
  | .store => .storeFault
  | _ => .loadFault

/-- The local window region (R278). -/
def inLocal (va : Nat) : Bool := decide (0x00FFFFFF00000000 ≤ va) && decide (va < 0x0100000000000000)

/-- A leaf of the page table: its page size as log2, its base, R W X U D from bit 0, the attribute and G. -/
structure Leaf where
  size : Nat
  pa   : Nat
  perm : BitVec 5
  attr : Nat
  glob : Bool
deriving DecidableEq, Repr

/-- Check a leaf entry (R280, R281). -/
def leafOf (level : Nat) (va e : Nat) : Option Leaf :=
  let ppn := bits e 51 12
  let attr := bits e 11 8
  let c := bit e 52
  let mk (size : Nat) : Option Leaf :=
    some { size := size, pa := ppn * 4096 / 2 ^ size * 2 ^ size,
           perm := BitVec.ofNat 5 (bits e 4 1 + b2n (bit e 7) * 16), attr := attr, glob := bit e 5 }
  if bit e 6 = false then none
  else if attr = 2 && !inStack (moduleOffset (ppn * 4096)) then none
  else if level = 2 then (if c || ppn % 2 ^ 18 ≠ 0 then none else mk 30)
  else if level = 3 then (if c || ppn % 2 ^ 9 ≠ 0 then none else mk 21)
  else if level = 4 then
    if c then (if ppn % 16 ≠ bits va 15 12 then none else mk 16) else mk 12
  else none

/-- The index bits of a level (R280). -/
def levelIndex (va level : Nat) : Nat := va / 2 ^ (48 - 9 * level) % 512

/-- Ordinary memory of a module: stack or bulk (R287; the bulk memory fitted is 4 TiB, R344). -/
def isMemory (off : Nat) : Bool :=
  inStack off || (decide (0x10000000000 ≤ off) && decide (off < 0x50000000000))

/-- The walk from a table down; answers the leaf and the pointers read (R280, R281). A pointer to a reserved offset ends it
(R287). -/
def walkFrom (m : Memory) (va : Nat) : (fuel level table : Nat) → List (Nat × Nat) → Option Leaf × List (Nat × Nat)
  | 0, _, _, ps => (none, ps)
  | fuel + 1, level, table, ps =>
    let e := memNat m (table + 8 * levelIndex va level) 8
    if bit e 0 = false || bits e 63 53 ≠ 0 || bits e 11 8 ≥ 4 then (none, ps)
    else if bits e 3 1 = 0 then
      if level ≥ 4 || bit e 52 then (none, ps)
      else if !isMemory (moduleOffset (bits e 51 12 * 4096)) then (none, ps ++ [(level + 1, bits e 51 12 * 4096)])
      else walkFrom m va fuel (level + 1) (bits e 51 12 * 4096) (ps ++ [(level + 1, bits e 51 12 * 4096)])
    else (leafOf level va e, ps)

/-- The deepest table of a walk that the die's walk cache holds (R283). -/
def cachedTable (s : State) (die asid va : Nat) : Option (Nat × Nat) :=
  let hit (level : Nat) : Option (Nat × Nat) :=
    (s.walks.find? fun x => x.1 == die && x.2.asid == asid && x.2.level == level
      && x.2.index == va / 2 ^ (57 - 9 * level)).map fun x => (level, x.2.table)
  match hit 4 with
  | some r => some r
  | none => match hit 3 with
    | some r => some r
    | none => match hit 2 with
      | some r => some r
      | none => hit 1

/-- A pointer names a reserved offset (R287). -/
def reservedTable (p : Nat × Nat) : Bool := !isMemory (moduleOffset p.2)

/-- The entries a walk leaves in the die's walk cache. -/
def walkEntries (die asid va : Nat) (ps : List (Nat × Nat)) : List (Nat × WalkEntry) :=
  (ps.filter fun p => !reservedTable p).map fun p => (die, { asid := asid, level := p.1, index := va / 2 ^ (57 - 9 * p.1), table := p.2 })

/-- A TLB entry serves an address. -/
def tlbHit (asid va : Nat) (host : Bool) (e : TlbEntry) : Bool :=
  (e.asid == asid || e.glob) && e.host == host && e.page == va / 2 ^ e.size

/-- The leaf a TLB entry stands for. -/
def tlbLeaf (e : TlbEntry) : Leaf :=
  { size := e.size, pa := e.pa, perm := e.perm, attr := e.attr, glob := e.glob }

/-- Keep the newest entries of a TLB (log 10). -/
def tlbAdd (cap : Nat) (e : TlbEntry) (l : List TlbEntry) : List TlbEntry := (e :: l).take cap

/-- An agent outside the clusters, Mooring or Windsock: it walks without a TLB of its own (R283). -/
def outside : Nat := 256

/-- Put an entry in the L1 TLB of a core and the L2 TLB of its cluster (R283). -/
def tlbInsert (w : Who) (e : TlbEntry) (s : State) : State :=
  let s1 := if w.co < 128 then putCore s w.co { coreAt s w.co with l1tlb := tlbAdd 64 e (coreAt s w.co).l1tlb } else s
  if w.co = outside then s1 else mapCluster w.cl (fun c => { c with l2tlb := tlbAdd 2048 e c.l2tlb }) s1

/-- The TLB entry that serves an address: L1, then L2; for an agent outside the clusters, any host entry of the module. -/
def tlbFind (s : State) (w : Who) (asid va : Nat) (host : Bool) : Option TlbEntry :=
  if w.co = outside then
    (if host then s.clusters.findSome? fun c => c.2.l2tlb.find? (tlbHit asid va true) else none)
  else
    match (coreAt s w.co).l1tlb.find? (tlbHit asid va host) with
    | some e => some e
    | none => (clusterAt s w.cl).l2tlb.find? (tlbHit asid va host)

/-- A write needs D (R281). -/
def leafServes (acc : Acc) (l : Leaf) : Bool := acc != .store || l.perm.getLsbD 4

/-- The leaf for an address with bit 56 clear: from a TLB, or from a walk of the queue's page table, whose failures are page
faults (R281, R283); an uncorrectable entry is met by its reader (R313). -/
def deviceLeaf (w : Who) (va : Nat) (acc : Acc) : M Leaf := fun s =>
  let q := queueAt s w.queue
  let asid := asidOf q
  let die := w.cl / 8
  match (tlbFind s w asid va false).filter (fun e => leafServes acc (tlbLeaf e)) with
  | some e => .ok (tlbLeaf e) s
  | none =>
    let start := (cachedTable s die asid va).getD (0, bits q.pt.toNat 51 12 * 4096)
    let (r, ps) := walkFrom s.mem va 5 start.1 start.2 []
    let entries := (start :: ps).map fun p => p.2 + 8 * levelIndex va p.1
    if entries.any fun k => poisoned s k 8 then .error (.trap .dataError (word va)) s
    else
    let s1 := entries.foldl (fun s k => readUnits k 8 s) { s with walks := (walkEntries die asid va ps ++ s.walks).take 1024 }
    match r with
    | none => .error (.trap (if ps.any reservedTable then .protection else faultCause acc) (word va)) s1
    | some l =>
      if leafServes acc l then
        .ok l (tlbInsert w { asid := asid, glob := l.glob, host := false, page := va / 2 ^ l.size, size := l.size,
                             pa := l.pa, perm := l.perm, attr := l.attr } s1)
      else .error (.trap (faultCause acc) (word va)) s1

/-- The permission an access needs (R85): R, W or X, and U in user mode. -/
def permitted (acc : Acc) (sup : Bool) (l : Leaf) : Bool :=
  (match acc with
   | .load => l.perm.getLsbD 0
   | .store => l.perm.getLsbD 1
   | .fetch => l.perm.getLsbD 2) && (sup || l.perm.getLsbD 3)

/-- A device register's offset (R287). -/
def isRegister (off : Nat) : Bool :=
  decide (0x7F000000000 ≤ off) &&
    (decide (off < 0x7F000005000) || (decide (0x7F000021000 ≤ off) && decide (off < 0x7F000025000))
      || (decide (0x7F000010000 ≤ off) && decide (off < 0x7F000011000))
      || (decide (0x7F000100000 ≤ off) && decide (off < 0x7F000140000)))

/-- A cluster-store slot that an access may reach: an S or F bank of its crew window (R184, R279). -/
def clSlotOk (s : State) (w : Who) (bank : Nat) : Bool :=
  decide (w.wb ≤ bank) && decide (bank < w.wb + w.wn) &&
    (if h : bank < 48 then (clusterAt s w.cl).banks[bank] != .c else false)

/-- A core-store bank in role S (R279). -/
def coSlotOk (s : State) (w : Who) (bank : Nat) : Bool :=
  if h : bank < 16 then decide (w.co < 128) && (coreAt s w.co).banks[bank] == .s else false

/-- The local windows (R279). -/
def localPlace (w : Who) (va : Nat) (acc : Acc) : M Place := fun s =>
  let off := va - 0x00FFFFFF00000000
  if acc = .fetch then .error (.trap .protection (word va)) s
  else if off < 0x1800000 then
    if clSlotOk s w (off / 0x80000) then .ok ⟨clKey w.cl off, .clScratch (off / 0x80000)⟩ s
    else .error (.trap .protection (word va)) s
  else if 0x40000000 ≤ off ∧ off < 0x40040000 then
    let o := off - 0x40000000
    if coSlotOk s w (o / 0x4000) then .ok ⟨coKey w.co o, .coScratch⟩ s
    else .error (.trap .protection (word va)) s
  else .error (.trap .protection (word va)) s

/-- A host page (R285): with PASID disabled every access is a protection fault; without a host entry the access waits for the
translation to be fetched through ATS; a page that the host does not translate is a page fault (R286), and one that it
translates without the permission the access needs is a protection fault (R29, R85). DESIGN CHOICE: a host page has no U bit,
and the model checks R, W and X alone, in either mode (log 71). -/
def hostPlace (w : Who) (va : Nat) (acc : Acc) : M Place := fun s =>
  let q := queueAt s w.queue
  if !q.ctl.getLsbD 40 then .error (.trap .protection (word va)) s
  else
    match tlbFind s w (asidOf q) va true with
    | none => .error (.wait .ats) s
    | some e =>
      if e.attr = 15 then .error (.trap (faultCause acc) (word va)) s
      else if permitted acc true (tlbLeaf e) then
        .ok ⟨hostBase + e.pa + va % 2 ^ e.size, .host (e.attr == 3)⟩ s
      else .error (.trap .protection (word va)) s

/-- Where a forwarding pair in use sends an address, if it covers it (R247). -/
def pairSends (p : Pair) (va : Nat) : Option Nat :=
  if p.state = .free then none
  else
    let o := if p.old.toNat ≤ va ∧ va < p.old.toNat + 2 ^ p.z then some (va - p.old.toNat)
      else if p.new.toNat ≤ va ∧ va < p.new.toNat + 2 ^ p.z then some (va - p.new.toNat) else none
    o.map fun o => if p.state = .forwarding ∨ o < p.wm * 4096 then p.new.toNat + o else p.old.toNat + o

/-- The address L(o) that an access by an agent of a cluster reaches (R247). -/
def redirect (s : State) (w : Who) (va : Nat) : Nat :=
  if w.redir then ((clusterAt s w.cl).pairs.toList.findSome? fun p => pairSends p va).getD va else va

/-- Translate an address whose bits 63:57 are zero and check its permission (R85, R278). `xv` is the value a failure
reports. -/
def translate (w : Who) (va0 : Nat) (acc : Acc) (xv : Word) : M Place := fun s =>
  let va := redirect s w va0
  let r : EStateM.Result Stop State Place :=
    if inLocal va then localPlace w va acc s
    else if bit va 56 then hostPlace w va acc s
    else
      match deviceLeaf w va acc s with
      | .error e s1 => .error e s1
      | .ok l s1 =>
        let pa := l.pa + va % 2 ^ l.size
        let off := moduleOffset pa
        if !permitted acc w.sup l then .error (.trap .protection xv) s1
        else if isMemory off then .ok ⟨pa, .dev l.attr⟩ s1
        else if isRegister off && l.attr = 3 && acc != .fetch then .ok ⟨pa, .reg⟩ s1
        else .error (.trap .protection xv) s1
  match r with
  | .ok p s1 => .ok p s1
  | .error (.trap c _) s1 => .error (.trap c xv) s1
  | .error (.wait k) s1 => .error (.wait k) s1

end Sys2Proof.Machine
end

