-- ==== Sys2Proof/Machine/RegRead.lean ====
section
/-! DEFINITION. What a read of a device register returns (R287, R288, R293, R318, R338, R347, R351, R356, R361). -/

namespace Sys2Proof.Machine

/-- The first offset of the device registers (R287). -/
def regBase : Nat := 0x7F000000000

/-- The words of a strand's bind record (R293). -/
def bindRecord (s : State) (t : Strand) : List Nat :=
  [t.bindPc.toNat % 2 ^ 57 + 2 ^ 63, bits s.mooring.csaBase.toNat 51 12 * 4096 + t.csa * 0x50000,
   t.xyz.toNat + t.idx.toNat * 2 ^ 48 + t.stage.toNat * 2 ^ 53 + t.prio % 4 * 2 ^ 56 + b2n t.resumed * 2 ^ 58,
   t.flight % 2 ^ 32 + t.quant % 2 ^ 32 * 2 ^ 32, t.wb + t.wn * 2 ^ 6]

/-- A word of the slot table of a die (R293). -/
def slotTable (s : State) (die o : Nat) : Nat :=
  match (boundStrands s).find? (fun t => bits t.id.toNat 8 8 == die && bits t.id.toNat 7 0 == o / 64) with
  | some t => nthD (bindRecord s t) (o % 64 / 8) 0
  | none => 0

/-- A register of a launch queue (R288, R306). -/
def readQueue (q : LaunchQueue) (o : Nat) : Nat :=
  match o / 8 with
  | 0 => q.base.toNat
  | 1 => q.ctl.toNat
  | 2 => q.pt.toNat
  | 3 => q.stk.toNat
  | 4 => q.stksz.toNat
  | 5 => q.xvec.toNat
  | 6 => q.head.toNat
  | 7 => q.tail.toNat
  | 8 => q.bank.toNat
  | _ => 0

/-- A register of the configuration block, by its offset in words (R287). -/
def readBlock (s : State) (k : Nat) : Nat :=
  if k < 0x40 then
    match k with
    | 0 => s.mooring.csaBase.toNat
    | 1 => s.mooring.csaCnt.toNat
    | 2 => s.mooring.fqBase.toNat
    | 3 => s.mooring.fqCtl.toNat
    | 4 => s.mooring.fqTail.toNat
    | 5 => s.mooring.fqHead.toNat
    | _ => 0
  else if k < 0x60 then
    match k - 0x40 with
    | 0 => s.ws.ctl.toNat
    | 1 => s.ws.ofs.toNat
    | 2 => s.ws.pps.toNat
    | 3 => s.ws.irBase.toNat
    | 4 => s.ws.irCtl.toNat
    | 5 => s.ws.irHead.toNat
    | 6 => s.ws.irTail.toNat
    | _ => 0
  else if k < 0x80 then
    match k - 0x60 with
    | 0 => s.pk.sgctl.toNat
    | 1 => s.pk.sgmem.toNat
    | 2 => s.pk.sglink.toNat
    | 4 => s.pk.pwrcap.toNat
    | 5 => s.pk.pwrst.toNat
    | 8 => s.pk.bootst.toNat
    | _ => 0
  else if k = 0x80 then s.spgSel.toNat
  else if h : 0x81 ≤ k ∧ k < 0x89 then (s.spgMem[k - 0x81]'(by omega)).toNat
  else if k = 0x89 then s.spgCtl.toNat
  else if k = 0x8C then s.spid.toNat % 2 ^ 13
  else 0

/-- The 8 bytes of the register at an address; a register of another module is that module's (log 9). -/
def readRegister (s : State) (key : Nat) : Nat :=
  let r := moduleOffset key / 8 * 8 - regBase
  if key / 2 ^ 43 ≠ myModule s then leNat ((List.range 8).map fun k => Config.freeByte s.stepNo k)
  else if r < 0x1000 then readBlock s (r / 8)
  else if r < 0x5000 then slotTable s 0 (r - 0x1000)
  else if 0x21000 ≤ r ∧ r < 0x25000 then slotTable s 1 (r - 0x21000)
  else if 0x10000 ≤ r ∧ r < 0x11000 then readQueue (queueAt s ((r - 0x10000) / 0x100)) (r % 0x100)
  else if 0x100000 ≤ r ∧ r < 0x140000 ∧ r % 0x1000 = 0 then
    ((s.aflags[(r - 0x100000) / 0x1000]?).map fun f => f.toNat).getD 0
  else 0

end Sys2Proof.Machine
end

