-- ==== Sys2Proof/Machine/Ops.lean ====
section
/-! DEFINITION. The named operations: memory accesses under the phase model, releases and acquires, fetching, taking a trap
and returning from one, and the frame of every instruction: interlock, guard, work, commit. -/

namespace Sys2Proof.Machine

-- ## What an agent sees of a byte (R191, R192)

/-- The store has been taken in by agent `a`, or is its own. -/
def ownView (a : Nat) (p : PStore) : Bool := p.owner == a || p.takers.contains a

/-- The store is published at a scope that holds core `co` of cluster `cl`. -/
def published (cl co : Nat) (p : PStore) : Bool :=
  (p.lvl ≥ 2 && p.cl == cl) || (p.lvl ≥ 1 && p.core == co)

/-- Agent `a` sees by step `now` a store that nothing orders before its loads (log 7). -/
def seenBy (now a : Nat) (p : PStore) : Bool := decide (Config.seenFrom p.made (p.key / 8) a ≤ now)

/-- The store is before agent `a`'s own eyes: taken in, or its own, but for a scalar store of its own that a vector access may
pass (R22). -/
def ownSees (vec : Bool) (now a : Nat) (p : PStore) : Bool := ownView a p && (!(vec && p.scal && p.owner == a && p.lvl == 0) || seenBy now a p)

/-- The byte at a key as agent `a` sees it (R192): its own latest store; else the latest it has taken in, or a later one
published in its core or cluster that it sees by now; else such a published one; else the byte below. `vec`: as a vector
access. -/
def viewByte (l : List PStore) (now : Nat) (vec : Bool) (a cl co key : Nat) (below : Byte) : Byte :=
  let free (p : PStore) : Bool := p.key == key && published cl co p && seenBy now a p
  match l.find? (fun p => p.key == key && ownSees vec now a p) with
  | some p =>
    if p.owner = a then p.byte
    else (((l.takeWhile fun q => q != p).find? fun q => free q && !ownView a q).map fun q => q.byte).getD p.byte
  | none =>
    match l.find? (fun q => free q && !ownView a q) with
    | some q => q.byte
    | none => below

/-- A trained link leads to a module (R338, R340): link k of member i goes to member (i + k + 1) mod 4. -/
def shardLink (s : State) (m : Nat) : Bool :=
  let i := bits s.pk.sgctl.toNat 1 0
  (s.shard.zipIdx).any fun x => x.1 == m && x.2 != i &&
    s.pk.sglink.extractLsb' (4 * ((x.2 + 3 - i) % 4)) 4 != 0

/-- An access to a module of the domain is answered (R340, R356, R359): this module's own; else a trained link of the shard
group leads there, or there is a route and a Spool port is up, and the module is not silent. -/
def reachable (s : State) (key : Nat) : Bool :=
  let m := key / 2 ^ 43
  decide (2 ^ 52 ≤ key) || m == myModule s ||
    ((s.routes.getLsbD m && s.pk.ports != 0 || shardLink s m) && !s.silent.contains m)

/-- An access has gone unanswered; the next one is on its own (R359). -/
def giveUp (key : Nat) (s : State) : State := { s with silent := s.silent.erase (key / 2 ^ 43) }

/-- Whether an unanswered write of a silent module takes effect (R359; log 14). -/
def lostWrite (s : State) (key : Nat) : Bool := s.silent.contains (key / 2 ^ 43) && Config.writeTookEffect s.stepNo 0

/-- The mark of a host request that stays incomplete past the bound of an ATS invalidation. -/
def hostMark : Nat := 2 ^ 21

/-- The access is a host request that the device abandons (R285). -/
def abandoned (s : State) (key : Nat) : Bool := decide (hostBase ≤ key) && s.silent.contains hostMark

/-- The abandoned request is over. -/
def forgetHost (s : State) : State := { s with silent := s.silent.erase hostMark }

/-- Whether an abandoned write takes effect (R285; log 14). -/
def lateWrite (s : State) : Bool := Config.writeTookEffect s.stepNo 1

/-- The byte below what a cluster holds, for agent `a`: the one that an append of Windsock has replaced, while the agent may still read
it; each 8-byte word shows the new bytes from a free step on, or from the agent's acquire (R355; log 7). -/
def belowByte (s : State) (a key : Nat) (new : Byte) : Byte :=
  ((s.stale.find? fun x => x.key == key && x.agents.contains a && decide (s.stepNo < Config.seenFrom x.made (key / 8) a)).map
    fun x => x.byte).getD new

/-- The bytes of a load through the cluster: the line with the cluster's stored bytes merged (R260). -/
def lineView (s : State) (d : BitVec 512) (a : Nat) (w : Who) (key n : Nat) : List Byte :=
  (List.range n).map fun k =>
    viewByte s.stores s.stepNo w.vec a (sideOf w) w.co (key + k) (belowByte s a (key + k) (d.extractLsb' (8 * ((key + k) % 64)) 8))

/-- The bytes of memory with stored bytes merged, for scratch and host memory. -/
def rawView (s : State) (a : Nat) (w : Who) (key n : Nat) : List Byte :=
  (List.range n).map fun k => viewByte s.stores s.stepNo w.vec a (sideOf w) w.co (key + k) (memByte s.mem (key + k))

/-- What ends a read of bytes before it finds them, with the state that leaves (R285, R313, R345, R356, R359): no answer, a host
request that the device abandons, or an uncorrectable error. -/
def readStop (s : State) (key n : Nat) : Option (Cause × State) :=
  if !reachable s key then some (.remote, giveUp key s)
  else if abandoned s key then some (.dataError, forgetHost s)
  else if poisoned s key n then some (.dataError, s)
  else none

/-- The protocol slot of a place for an agent of cluster `cl`. -/
def placeSlot (s : State) (cl : Nat) (p : Place) : Nat :=
  match p.space with
  | .dev attr => slotOfLine s cl (p.key / 64) attr
  | _ => 0

/-- The access executes at the home: a HOME page, or a range under HOME; an NC page is uncached instead (R86, R195, R254). -/
def homeData (s : State) (cl : Nat) (p : Place) (attr : Nat) : Bool := attr != 3 && slotOfLine s cl (p.key / 64) attr == 4

/-- The slot of a place's line comes to the die with the reply to its first access (R273). -/
def learnPlace (cl : Nat) (p : Place) (s : State) : State :=
  match p.space with
  | .dev _ => learnSlot cl (p.key / 64) s
  | _ => s

/-- The writer of an access: a strand's vector queue asks under a number of its own, since both its streams may wait at once. -/
def uncWriter (a : Nat) (w : Who) : Nat := if w.vec && a < 2 ^ 18 then a + 2 ^ 18 else a

/-- A phase-free access at the home of a line (R195, R197, R260): once granted, it is counted there as a write if `chk` says so and
no earlier look has had it checked (R270), and performed. -/
def homeAccess {α : Type} (slot a : Nat) (w : Who) (line : Nat) (wr chk : Bool) (va : Word) (act : State → α × State) : M α :=
  fun s =>
    match uncBegin slot w.cl line wr (uncWriter a w) va s with
    | .error e s1 => .error e s1
    | .ok checked s1 =>
      match (if chk && !checked then homeClaim ((ruledSlot s1 w.cl line).getD slot) line va s1 else .ok () s1) with
      | .error e s2 => .error e (uncDone line s2)
      | .ok _ s2 => .ok (act s2).1 (uncDone line (act s2).2)

/-- Read the bytes at a key uncached, behind open chains, the agent's own stored bytes first (R86, R164, R195, R277). -/
def readThrough (a key n : Nat) (s : State) : Nat × State :=
  let s1 := readUnits key n (flushOwn a key n (behindChains key n s))
  (memNat s1.mem key n, s1)

/-- The bytes of device registers from a key up: each from its 64-bit unit (R7, R287). -/
def regNat (s : State) (key n : Nat) : Nat :=
  leNat ((List.range n).map fun k => BitVec.ofNat 8 (readRegister s ((key + k) / 8 * 8) / 2 ^ (8 * ((key + k) % 8))))

/-- Read `n` bytes at a place for agent `a` of a cluster and core, as a plain load (R86, R164, R192). -/
def loadAt (a : Nat) (w : Who) (p : Place) (n : Nat) (va : Word) : M Nat := fun s0 =>
  let s := learnPlace w.cl p s0
  match readStop s p.key n with
  | some x => .error (.trap x.1 va) x.2
  | none =>
    match p.space with
    | .dev attr =>
      if homeData s w.cl p attr then homeAccess 4 a w (p.key / 64) false false va (readThrough a p.key n) s
      else if attr = 3 then .ok (readThrough a p.key n s).1 (readThrough a p.key n s).2
      else
        match fetchLine a (slotOfLine s w.cl (p.key / 64) attr) w.cl (p.key / 64) va s with
        | .error e s1 => .error e s1
        | .ok d s1 => .ok (leNat (lineView s1 d a w p.key n)) s1
    | .host true => .ok (readThrough a p.key n s).1 (readThrough a p.key n s).2
    | .reg => if s.regq.isEmpty then .ok (regNat s p.key n) s else .error (.wait .line) s
    | _ => .ok (leNat (rawView s a w p.key n)) s

/-- Stored bytes of a plain store, newest first; the agent's older pending bytes there are replaced, but for vector stores that
a scalar store leaves in the sight of the strand's vector accesses (R22, R165). DESIGN CHOICE: of an unfenced older scalar store
and a younger vector store to one byte, the vector store is the later in the store order (log 82). -/
def pendBytes (a : Nat) (w : Who) (now key : Nat) (bs : List Byte) (l : List PStore) : List PStore :=
  let scal := !w.vec && decide (w.co < 128)
  let new := bs.zipIdx.map fun x =>
    { key := key + x.2, byte := x.1, owner := a, core := w.co, cl := w.cl, lvl := 0, takers := [], made := now,
      scal := scal : PStore }
  new ++ l.filter fun p =>
    !(p.owner == a && p.lvl == 0 && decide (key ≤ p.key) && decide (p.key < key + bs.length) && (!scal || p.scal))

/-- The fault that a write would meet where it is performed, as things stand (R254, R270). -/
def faultThere (cl line : Nat) (s : State) : Option Cause :=
  match ruledSlot s cl line with
  | some 5 => some .protection
  | some k => homeFault k line s
  | none => none

/-- The check of a write where it is performed, which counts it there (R254, R270); it waits for a line under ONCE that a
transaction keeps busy. -/
def checkThere (cl line : Nat) (va : Word) : M Unit := fun s0 =>
  let s := learnSlot cl line s0
  match ruledSlot s cl line with
  | some k =>
    if k != 5 && (blocked (hlineAt s line) || linePending s line) then .error (.wait .line) (settle s)
    else homeClaim k line va s
  | none => .ok () s

/-- The slot of a line of another module comes with the reply to a read of it, which a write makes first (R273). -/
def learnLine (a slotAttr cl line : Nat) (va : Word) : M Unit := fun s =>
  if remoteLine s line && !s.rslots.any (fun x => x.1 == slotKey cl line) then
    let s1 := learnSlot cl line s
    if slotOfLine s1 cl line slotAttr = 4 then .ok () s1
    else
      match fetchLine a (slotOfLine s1 cl line slotAttr) cl line va s1 with
      | .ok _ s2 => .ok () s2
      | .error e s2 => .error e s2
  else .ok () s

/-- The check of a write at its line before it takes effect (R270); a write that is performed at the home or the completer is
checked and counted there. `writer`: which write this is. -/
def checkWrite (w : Who) (p : Place) (writer : Nat) (va : Word) : M Unit := fun s =>
  match p.space with
  | .dev attr =>
    if attr = 3 then checkThere w.cl (p.key / 64) va s
    else
      match learnLine writer attr w.cl (p.key / 64) va s with
      | .error e s1 => .error e s1
      | .ok _ s1 =>
        let slot := slotOfLine s1 w.cl (p.key / 64) attr
        if slot = 4 then checkThere w.cl (p.key / 64) va s1 else storeCheck slot w.cl (p.key / 64) writer va s1
  | .clScratch b =>
    if h : b < 48 then
      (if (clusterAt s w.cl).banks[b] == .f then .error (.trap .protection va) s else .ok () s)
    else .ok () s
  | _ => .ok () s

/-- Write bytes uncached, behind open chains, after the agent's own older stored bytes there (R86, R164, R195, R277). -/
def writeThrough (a key : Nat) (bs : List Byte) (s : State) : State :=
  let s1 := flushOwn a key bs.length (behindChains key bs.length s)
  healPoison (span key (key + bs.length)) { s1 with mem := memWrite s1.mem key bs }

/-- The writes of device registers that bytes make (R7, R287): of each 64-bit unit they touch, its place, the bytes, and which bytes of
it are written. -/
def regWrites (key : Nat) (bs : List Byte) : List (Nat × Word × BitVec 8) :=
  (span (key / 8) ((key + bs.length - 1) / 8 + 1)).map fun u =>
    let here := (List.range 8).filter fun k => decide (key ≤ 8 * u + k) && decide (8 * u + k < key + bs.length)
    (moduleOffset (8 * u), word ((here.map fun k => (nthD bs (8 * u + k - key) 0).toNat * 2 ^ (8 * k)).sum),
      BitVec.ofNat 8 ((here.map fun k => 2 ^ k).sum))

/-- A store to device registers (R7, R287); a register of another module is there (log 9). -/
def writeReg (key : Nat) (bs : List Byte) (s : State) : State :=
  if key / 2 ^ 43 ≠ myModule s then s else { s with regq := s.regq ++ regWrites key bs }

/-- Write the bytes at a place for agent `a`, as a plain store that its target answers (R86, R195). `chk`: a write at the home has
still to be checked and counted there (R270). -/
def storeHere (chk : Bool) (a : Nat) (w : Who) (p : Place) (bs : List Byte) (va : Word) : M Unit := fun s =>
  match p.space with
  | .dev attr =>
    if homeData s w.cl p attr then homeAccess 4 a w (p.key / 64) true chk va (fun s => ((), writeThrough a p.key bs s)) s
    else if attr = 3 then .ok () (writeThrough a p.key bs s)
    else .ok () { s with stores := pendBytes a w s.stepNo p.key bs s.stores }
  | .reg => .ok () (writeReg p.key bs s)
  | .host true => .ok () (writeThrough a p.key bs s)
  | _ => .ok () { s with stores := pendBytes a w s.stepNo p.key bs s.stores }

/-- A plain store that the fabric answers; a host request may be abandoned (R285). -/
def storeSure (chk : Bool) (a : Nat) (w : Who) (p : Place) (bs : List Byte) (va : Word) : M Unit := fun s =>
  if abandoned s p.key then
    .ok () (forgetHost (if lateWrite s then { s with mem := memWrite s.mem p.key bs } else s))
  else storeHere chk a w p bs va s

/-- A plain store whose target may not answer (R359). -/
def storeWith (chk : Bool) (a : Nat) (w : Who) (p : Place) (bs : List Byte) (va : Word) : M Unit := fun s =>
  if !reachable s p.key then
    .error (.trap .remote va) (giveUp p.key
      (if lostWrite s p.key then { s with mem := memWrite s.mem p.key bs } else s))
  else storeSure chk a w p bs va s

/-- A plain store whose checks are made. -/
def storeAt (a : Nat) (w : Who) (p : Place) (bs : List Byte) (va : Word) : M Unit := storeWith false a w p bs va

-- ## The checks of an access (R85)

/-- Bits 63:57, alignment, translation and permission, in that order (R85). -/
def checkAccess (w : Who) (va : Word) (n : Nat) (acc : Acc) : M Place := fun s =>
  if va.toNat / 2 ^ 57 ≠ 0 then .error (.trap (faultCause acc) va) s
  else if va.toNat % n ≠ 0 then .error (.trap .misaligned va) s
  else translate w va.toNat acc va s

/-- A load of `n` bytes with all its checks (R85). -/
def loadVa (a : Nat) (w : Who) (va : Word) (n : Nat) : M Nat := fun s =>
  match checkAccess w va n .load s with
  | .error e s1 => .error e s1
  | .ok p s1 => loadAt a w p n va s1

/-- The place is on HOME data, where a write is checked and counted as it is performed. -/
def atItsHome (s : State) (w : Who) (p : Place) : Bool :=
  match p.space with
  | .dev attr => homeData s w.cl p attr
  | _ => false

/-- The write of a store at its place: a target that does not answer ends it before the check of its line (R270, R359). A store to
HOME data is checked on its first look, and counted when its home grants it (R98, R270). -/
def storeChecked (a : Nat) (w : Who) (p : Place) (writer : Nat) (bs : List Byte) (va : Word) : M Unit := fun s0 =>
  if !reachable s0 p.key then storeAt a w p bs va s0
  else
    let s := learnPlace w.cl p s0
    if atItsHome s w p then
      match (if underWay s (p.key / 64) (uncWriter a w) then none else faultThere w.cl (p.key / 64) s) with
      | some c => .error (.trap c va) s
      | none => storeWith true a w p bs va s
    else
      match checkWrite w p writer va s0 with
      | .error e s1 => .error e s1
      | .ok _ s1 => storeAt a w p bs va s1

/-- A store of `n` bytes with all its checks (R85). -/
def storeVa (a : Nat) (w : Who) (writer : Nat) (va : Word) (n v : Nat) : M Unit := fun s =>
  match checkAccess w va n .store s with
  | .error e s1 => .error e s1
  | .ok p s1 => storeChecked a w p writer (leBytes n v) va s1

/-- The read of a phase-free access at its point of coherence: a word at its home, or at the bank (R94, R260 UNC). -/
def phaseFreeRead (a : Nat) (w : Who) (p : Place) (n : Nat) (va : Word) : M Nat := fun s0 =>
  let s := learnPlace w.cl p s0
  match readStop s p.key n with
  | some x => .error (.trap x.1 va) x.2
  | none =>
    match p.space with
    | .dev attr =>
      if attr = 3 then .ok (readThrough a p.key n s).1 (readThrough a p.key n s).2
      else homeAccess (slotOfLine s w.cl (p.key / 64) attr) a w (p.key / 64) false false va (readThrough a p.key n) s
    | .reg => loadAt a w p n va s
    | _ => .ok (readThrough a p.key n s).1 (readThrough a p.key n s).2

/-- A phase-free read with all its checks (R85, R94, R121, R173). -/
def atomicRead (a : Nat) (w : Who) (va : Word) (n : Nat) : M Nat := fun s =>
  match checkAccess w va n .load s with
  | .error e s1 => .error e s1
  | .ok p s1 => phaseFreeRead a w p n va s1

/-- The fault that a phase-free write would meet as things stand (R197, R270): the home itself checks the write when it performs
it, and the cluster's half takes no part (R260). -/
def phaseFreeFault (w : Who) (p : Place) (s : State) : Option Cause :=
  match p.space with
  | .dev attr =>
    let line := p.key / 64
    match ruledSlot s w.cl line with
    | some _ => faultThere w.cl line s
    | none => if attr = 3 then none else homeFault (slotOfLine s w.cl line attr) line s
  | _ => none

/-- The check of agent `a`'s phase-free write before its access begins (R197, R270); one that is under way has been checked
(R258). -/
def checkPhaseFree (a : Nat) (w : Who) (p : Place) (va : Word) : M Unit := fun s =>
  match p.space with
  | .dev _ =>
    let s1 := learnSlot w.cl (p.key / 64) s
    if underWay s1 (p.key / 64) (uncWriter a w) then .ok () s1
    else
      (match phaseFreeFault w p s1 with
       | some c => .error (.trap c va) s1
       | none => .ok () s1)
  | _ => checkWrite w p 0 va s

/-- A phase-free read-modify-write at the point of coherence, its checks made (R197): `f` answers the new value, or none to
leave the location. The write is checked at the home as it is performed (R270). Answers the old value. `reads`: an uncorrectable
error there is met (R243 makes no read). -/
def phaseFreeAt (reads : Bool) (a : Nat) (w : Who) (p : Place) (n : Nat) (va : Word) (f : Nat → Option Nat) : M Nat := fun s =>
  let act (s : State) : Nat × State :=
    let x := readThrough a p.key n s
    match f x.1 with
    | none => x
    | some v => (x.1, healPoison (span p.key (p.key + n)) { x.2 with mem := memWrite x.2.mem p.key (leBytes n v) })
  if !reachable s p.key then
    .error (.trap .remote va) (giveUp p.key (if lostWrite s p.key then (act s).2 else s))
  else if abandoned s p.key then
    (let s1 := forgetHost (if lateWrite s then (act s).2 else s)
     if reads then .error (.trap .dataError va) s1 else .ok 0 s1)
  else if reads && poisoned s p.key n then .error (.trap .dataError va) s
  else
    match p.space with
    | .dev attr =>
      if attr = 3 then
        match checkThere w.cl (p.key / 64) va s with
        | .error e s2 => .error e s2
        | .ok _ s2 => .ok (act s2).1 (act s2).2
      else homeAccess (slotOfLine s w.cl (p.key / 64) attr) a w (p.key / 64) true true va act s
    | .reg =>
      if !s.regq.isEmpty then .error (.wait .line) s
      else
        let old := regNat s p.key n
        match f old with
        | none => .ok old s
        | some v => .ok old (writeReg p.key (leBytes n v) s)
    | _ => .ok (act s).1 (act s).2

/-- A read-modify-write at the point of coherence (R197). -/
def atomicAt (a : Nat) (w : Who) (p : Place) (n : Nat) (va : Word) (f : Nat → Option Nat) : M Nat := phaseFreeAt true a w p n va f

/-- The byte at a key at the core store or cluster store (R190): the newest stored byte published at the level, else the byte
below; at `st` the agent's own or a published one. -/
def nearByte (l : List PStore) (lvl a cl co key : Nat) (below : Byte) : Byte :=
  ((l.find? fun p => p.key == key &&
    (if lvl = 2 then decide (2 ≤ p.lvl) && p.cl == cl else published cl co p || (lvl == 0 && ownView a p))).map
      fun p => p.byte).getD below

/-- What a read-modify-write at the core store or cluster store does (R190, R197): the agent's own bytes are published there first
(R379), the newest value there is read, over what the home holds, and the new one is a store published there, last in the store
order. -/
def nearStep (a : Nat) (w : Who) (key n lvl : Nat) (f : Nat → Option Nat) (s0 : State) : Nat × State :=
  let s := readUnits key n s0
  let l := raised lvl (fun q => ownByte a key n q && decide (q.lvl < lvl)) s.stores
  let old := leNat ((List.range n).map fun k => nearByte l lvl a w.cl w.co (key + k) (memByte s.mem (key + k)))
  match f old with
  | none => (old, { s with stores := l })
  | some v =>
    let new := (leBytes n v).zipIdx.map fun x =>
      { key := key + x.2, byte := x.1, owner := a, core := w.co, cl := w.cl, lvl := lvl, takers := [], made := s.stepNo : PStore }
    (old, { s with stores := new ++ l })

/-- A read-modify-write at the core store or cluster store, for an atomic at scope `co` or `cl` on cached data (R190, R197): the
home is asked as for every phase-free access (R260). -/
def atomicNear (a : Nat) (w : Who) (p : Place) (n lvl : Nat) (va : Word) (f : Nat → Option Nat) : M Nat := fun s =>
  match readStop s p.key n with
  | some x => .error (.trap x.1 va) x.2
  | none => homeAccess (placeSlot s w.cl p) a w (p.key / 64) true false va (nearStep a w p.key n lvl f) s

-- ## Releases and acquires (R191 to R194)

/-- The scope's code (R23). -/
def scopeNum (sc : Scope) : Nat := (scopeCode sc).toNat

/-- What a release by agent `a` publishes: its own stores and those it has taken in (R191). -/
def releases (a : Nat) (p : PStore) : Bool := p.owner == a || p.takers.contains a

/-- A key whose point of coherence is a scratch bank or the host's home agent: publication is the write itself. -/
def directKey (key : Nat) : Bool := decide (2 ^ 52 ≤ key)

/-- Write the bytes of stores at a bank or the host, oldest first, and take them off the list. -/
def publishDirect (sel : PStore → Bool) (s : State) : State :=
  let go := s.stores.filter sel
  healPoison (go.map fun p => p.key) { s with
    mem := go.foldr (fun p m => memWrite m p.key [p.byte]) s.mem
    stores := (dropOlder sel [] (raised 3 sel s.stores)).filter fun p => !sel p }

/-- Raise the level of published stores. -/
def publishTo (lvl : Nat) (sel : PStore → Bool) (s : State) : State :=
  { s with stores := raised lvl sel s.stores }

/-- The newest byte of each key among the stores to publish from a cluster, as offsets in the line. -/
def lineBytes (line cl : Nat) (sel : PStore → Bool) (l : List PStore) : List (Nat × Byte) :=
  let go := l.filter fun p => sel p && p.cl == cl && p.key / 64 == line && p.lvl < 3
  go.foldr (fun p acc => (acc.filter fun x => x.1 != p.key % 64) ++ [(p.key % 64, p.byte)]) []

/-- The lines, with the cluster that holds them, of the stores to publish. -/
def pendingLines (sel : PStore → Bool) (l : List PStore) : List (Nat × Nat) :=
  (l.filter fun p => sel p && p.lvl < 3 && !directKey p.key).foldl
    (fun acc p => if acc.contains (p.cl, p.key / 64) then acc else acc ++ [(p.cl, p.key / 64)]) []

/-- The bytes of a line that its home does not answer for (R359): they may or may not take effect there, and are sent once. -/
def publishLost (line cl : Nat) (sel : PStore → Bool) (s : State) : State :=
  giveUp (64 * line) { s with
    mem := if lostWrite s (64 * line) then (lineBytes line cl sel s.stores).foldl (fun m x => memWrite m (64 * line + x.1) [x.2]) s.mem
           else s.mem
    stores := s.stores.filter fun p => !(sel p && p.cl == cl && p.key / 64 == line && p.lvl < 3) }

/-- Publish every line of an agent, or of a choice of stores, at its home. -/
def publishHome (sel : PStore → Bool) (s : State) : State :=
  (pendingLines sel s.stores).foldl
    (fun s x => if reachable s (64 * x.2) then
        publishLine (slotOfLine s x.1 x.2 0) x.1 x.2 (lineBytes x.2 x.1 sel s.stores) (fun p => sel p && p.cl == x.1) s
      else publishLost x.2 x.1 sel s) s

/-- The first line to publish whose home does not answer. -/
def unansweredLine (sel : PStore → Bool) (s : State) : Option Nat :=
  ((pendingLines sel s.stores).find? fun x => !reachable s (64 * x.2)).map fun x => x.2

/-- A store that a PUB can never take to its home: the line's table has no PUB word (R269 RO; log 21). -/
def stuckStore (s : State) (p : PStore) : Bool :=
  !directKey p.key && (wordOf (protoAt s (slotOfLine s p.cl (p.key / 64) 0)).clus (clineAt s p.cl (p.key / 64)).state 2).isNone

/-- Scalar stores of an agent made up to a step are ordered before its vector accesses (R22, R171, R194). -/
def orderStores (a upTo : Nat) (s : State) : State :=
  if s.stores.any fun p => p.scal && p.owner == a && decide (p.made ≤ upTo) then
    { s with stores := s.stores.map fun p => if p.scal && p.owner == a && decide (p.made ≤ upTo) then { p with scal := false } else p }
  else s

/-- A release by an agent at a scope (R191): waits until everything it publishes has reached the point of coherence. A line whose
home does not answer ends it with *remote unreachable* (R359). DESIGN CHOICE: XVAL is then the line's domain address (log 83). -/
def releaseFor (a : Nat) (sc : Scope) : M Unit := fun s0 =>
  let n := scopeNum sc
  let s := orderStores a (2 ^ 64) s0
  if n = 0 then .ok () s
  else
    let s1 := publishDirect (fun p => releases a p && directKey p.key && (n ≥ 3 || decide (p.key < hostBase))) s
    if n ≤ 2 then .ok () (publishTo n (releases a) s1)
    else
      let s2 := publishHome (releases a) s1
      match unansweredLine (releases a) s1 with
      | some line => .error (.trap .remote (word (64 * line))) s2
      | none =>
      if s2.stores.any (fun p => releases a p && !stuckStore s2 p) then .error (.wait .release) s2 else .ok () s2

/-- A release by the acting strand. -/
def releaseAt (sc : Scope) : M Unit := fun s => releaseFor (me s) sc s

/-- The remote copies of a cluster's die go, but those of RO lines, and with the last copy the slot that it holds (R273). -/
def dropRemote (cl : Nat) (s : State) : State :=
  let s1 := (s.clines.filter fun c => c.cl / 8 == cl / 8 && remoteLine s c.line && slotOfLine s c.cl c.line 0 != 5).foldl
    (fun s c => dropCopy (slotOfLine s c.cl c.line 0) c.cl c.line s) s
  { s1 with rslots := s1.rslots.filter fun x =>
      x.2 == 5 || x.1 % 2 != cl / 8 % 2 || s1.clines.any fun c => slotKey c.cl c.line == x.1 && c.state != 0 }

/-- An acquire at scope number n, `di` or wider, drops a cluster's copies as their tables say (R192, R262 ACQ, R273). -/
def acquireLines (a cl n : Nat) (s1 : State) : State :=
  let s2 := (s1.clines.filter fun c => c.cl == cl).foldl (fun s c =>
    match wordOf (protoAt s (slotOfLine s cl c.line 0)).clus c.state 3 with
    | some w => if w.perf && w.msg = .none && w.next.isNone then s
                else clusterRaise (slotOfLine s cl c.line 0) cl c.line 3 [] 0 a s
    | none => machineError cl c.line s) s1
  settle (if n ≤ 4 then s2 else dropRemote cl s2)

/-- An acquire at `pk` or wider: the agent reads what Windsock has appended (R355). -/
def freshen (a : Nat) (s : State) : State :=
  if s.stale.isEmpty then s
  else { s with stale := (s.stale.map fun x => { x with agents := x.agents.erase a }).filter fun x => !x.agents.isEmpty }

/-- An acquire by an agent of a core and cluster at a scope (R192, R193, R273). Data that a miss has brought before it are not
taken after it. -/
def acquireFor (a cl co : Nat) (sc : Scope) (s0 : State) : State :=
  let n := scopeNum sc
  let s := (s0.clines.filter fun c => c.loads.contains a || c.served.contains a).foldl (fun s c => forgetLoad a c.cl c.line s)
    (orderStores a (2 ^ 64) s0)
  if n = 0 then s
  else
    let take (p : PStore) : PStore :=
      let seen := (n ≥ 2 && p.lvl ≥ 2 && p.cl == cl) || (p.lvl ≥ 1 && p.core == co)
      if seen && p.owner != a && !p.takers.contains a then { p with takers := a :: p.takers } else p
    let s1 := { s with stores := s.stores.map take }
    if n ≤ 2 then s1 else acquireLines a cl n (if 4 ≤ n then freshen a s1 else s1)

/-- An acquire by the acting strand. -/
def acquireAt (sc : Scope) : M Unit := change fun s => acquireFor (me s) (myCluster s) (myCore s) sc s

-- ## Code lines (R24 to R31)

/-- The base of the line that holds an address. -/
def lineBase (pc : Word) : Word := pc &&& ~~~63#64

/-- The number of heads a header gives (R24). -/
def lineHeads (b : BitVec 512) : Nat := (b.extractLsb' 0 5).toNat
/-- Head k of a line (R26). -/
def lineHead (b : BitVec 512) (k : Nat) : BitVec 16 := b.extractLsb' (16 + 16 * k) 16
/-- The bytes that the tails of the first k heads hold (R25). -/
def tailSum (b : BitVec 512) (k : Nat) : Nat := ((List.range k).map fun j => 2 * headTl (lineHead b j)).sum
/-- The tail of head k, extended with zeros to 96 bits (R26). -/
def lineTail (b : BitVec 512) (k : Nat) : BitVec 96 :=
  let l := 2 * headTl (lineHead b k)
  BitVec.ofNat 96 ((b.toNat >>> (8 * (64 - tailSum b k - l))) % 2 ^ (8 * l))
/-- A line is valid (R25). -/
def lineValid (b : BitVec 512) : Bool :=
  b.extractLsb' 5 11 == 0 && decide (1 ≤ lineHeads b) &&
    decide (2 + 2 * lineHeads b + tailSum b (lineHeads b) ≤ 64)
/-- The form of an instruction address (R27). -/
def addrForm (a : Word) : Bool := a.toNat % 2 == 0 && decide (2 ≤ a.toNat % 64)
/-- The slot number of an instruction address (R27). -/
def slotNo (a : Word) : Nat := (a.toNat % 64 - 2) / 2

/-- Fetch a code line (R29, R31): the line as its home holds it. DESIGN CHOICE: of the versions that R31 allows a new pass of a
running strand, the newest (log 73). -/
def fetchCodeFor (w : Who) (base : Word) : M (BitVec 512) := fun s =>
  if base.toNat / 2 ^ 57 ≠ 0 then .error (.trap .loadFault base) s
  else
    match translate w base.toNat .fetch base s with
    | .error e s1 => .error e s1
    | .ok p s1 =>
      match readStop s1 p.key 64 with
      | some x => .error (.trap x.1 base) x.2
      | none => .ok (BitVec.ofNat 512 (homeNat s1 p.key 64)) (readUnits p.key 64 s1)

/-- Fetch a code line for execution by the acting strand in a mode. -/
def fetchCode (sup : Bool) (base : Word) : M (BitVec 512) := fun s =>
  fetchCodeFor { whoAmI s with sup := sup, redir := false } base s

/-- The check of a target (R30): the line it leads to. -/
def targetCheckFor (w : Who) (t : Word) : M Pass := fun s =>
  if !addrForm t || t.toNat / 2 ^ 57 != 0 then .error (.trap .badTarget t) s
  else
    match fetchCodeFor w (lineBase t) s with
    | .error e s1 => .error e s1
    | .ok b s1 =>
      if lineValid b && decide (slotNo t < lineHeads b) then .ok ⟨lineBase t, b⟩ s1
      else .error (.trap .badTarget t) s1

/-- The check of a transfer's target by the acting strand in a mode (R30). -/
def targetCheck (sup : Bool) (t : Word) : M Pass := fun s => targetCheckFor { whoAmI s with sup := sup, redir := false } t s

/-- The line of the pass in progress, or the line fetched when a new pass begins (R31). -/
def currentLine : M Pass := fun s =>
  match s.strand.pass with
  | some p => if p.base = lineBase s.strand.pc then .ok p s else
      (match fetchCode (priv s.strand) (lineBase s.strand.pc) s with
       | .error e s1 => .error e s1
       | .ok b s1 => .ok ⟨lineBase s.strand.pc, b⟩ s1)
  | none =>
    match fetchCode (priv s.strand) (lineBase s.strand.pc) s with
    | .error e s1 => .error e s1
    | .ok b s1 => .ok ⟨lineBase s.strand.pc, b⟩ s1

/-- The successor of the instruction at an address, given its line (R28). DESIGN CHOICE: behind the last line of the 57-bit
space it is 2^57 + 2, where the next fetch raises a load page fault (log 74). -/
def successorIn (p : Option Pass) (pc : Word) : Word :=
  match p with
  | some q => if slotNo pc + 1 < lineHeads q.bytes then pc + 2#64 else lineBase pc + 66#64
  | none => pc + 2#64

/-- The successor of the acting strand's instruction (R28). -/
def successor (t : Strand) : Word := successorIn t.pass t.pc

-- ## Taking a trap and returning from one

/-- The strand cannot go on: Mooring will end its crew with status context lost (R30, R104, R380). -/
def loseContext (t : Strand) : Strand :=
  { t with stopped := true, lost := true, pass := none, scalarWait := none, vqWait := none, pendTrap := none, place := none }

/-- The strand at its handler's door (R101): the mode changes, and the cause and value are recorded. -/
def atHandler (c : Cause) (v : Word) (fromVq : Bool) (t : Strand) : Strand :=
  { t with
    status := withModes t.status true (priv t)
    xcause := word (causeCode c + (if fromVq then 256 else 0))
    xval := v
    scalarWait := none, vqWait := none, pendTrap := none, vqTrap := none, returning := none, watch := 0
    place := none }

/-- A strand whose instruction in progress is abandoned neither holds nor asks for the configuration lock (R98, R257). -/
def leaveLock (s : State) : State :=
  { s with lock := if s.lock = some (me s) then none else s.lock, lockq := s.lockq.erase (me s) }

/-- The instructions in progress of a strand's two streams are abandoned (R98): neither has an access under way. -/
def dropBoth (a : Nat) (s : State) : State := dropUnc a (dropUnc (a + 2 ^ 18) s)

/-- The acting strand gives up what it has in progress (R98): the configuration lock, and its accesses under way. -/
def abandonAll (s : State) : State := dropBoth (me s) (leaveLock s)

/-- ENTERING THE HANDLER (R101), with XPC, XVCP and the queue already as R97 or R98 gives them: the strand goes to XVEC; without
a valid target its context is lost. -/
def enterHandler (c : Cause) (v : Word) (fromVq : Bool) (s : State) : State :=
  match targetCheck true s.strand.xvec { s with strand := atHandler c v fromVq s.strand } with
  | .ok p s1 => abandonAll (mapStrand (fun t => { t with pc := t.xvec, pass := some p }) s1)
  | .error _ s1 => abandonAll (mapStrand loseContext s1)

/-- What the check of the handler's line waits for, if it waits: the translation of a host page (R30, R285). -/
def handlerWait (s : State) : Option WaitKind :=
  match targetCheck true s.strand.xvec s with
  | .error (.wait k) _ => some k
  | _ => none

/-- Queue a page fault for the driver (device pages) or the host (R286). -/
def queueFault (va : Word) (acc : Acc) (asid strand : Nat) (who : FaultOf) (s : State) : State :=
  { s with
    faultNo := s.faultNo + 1
    faultq := s.faultq ++ [{ tag := s.faultNo % 2 ^ 16, va := va, asid := asid, acc := acc, strand := strand, who := who,
                             host := va.getLsbD 56 && va.toNat / 2 ^ 57 == 0, posted := false }] }

/-- The queues of a strand whose VQ meets a page fault at an element (R103): the faulting entry and every younger one move to the
saved queue, or stay in the VQ when the saved queue holds others; VSTART names the element. -/
def setAside (elem : Nat) (t : Strand) : Strand :=
  if t.saved.isEmpty then { t with saved := t.vq, vq := [], vstart := elem, replay := true } else { t with vstart := elem }

/-- What an intercepted page fault has set aside goes back to the VQ, as `eret` would move it (R103, R107). -/
def replayed (t : Strand) : Strand := if t.replay then { t with vq := t.saved ++ t.vq, saved := [], replay := false } else t

/-- A page fault goes to Mooring first (R103, R286): the strand stops with the fault noted, what it had in progress is abandoned
(R98), and the fault is queued for the driver (device pages) or the host (PRI). -/
def intercept (va : Word) (acc : Acc) (fromVq : Bool) (elem : Nat) (s0 : State) : State :=
  let s := abandonAll s0
  let f : PageFault := { va := va, acc := acc, fromVq := fromVq, elem := elem, tag := s.faultNo % 2 ^ 16 }
  queueFault va acc (asidOf (queueAt s s.strand.queue)) s.strand.id.toNat .strand
    (mapStrand (fun t => { (if fromVq then setAside elem t else t) with
      fault := some f, scalarWait := none, vqWait := none, watch := 0 }) s)

/-- The access kind that a page-fault cause stands for. -/
def causeAcc : Cause → Acc
  | .storeFault => .store
  | _ => .load

/-- Page-fault causes (R103). -/
def isPageFault : Cause → Bool
  | .loadFault | .storeFault => true
  | _ => false

/-- The scalar stream waits: the wait already in progress goes on. -/
def waitScalar (k : WaitKind) (s : State) : State :=
  mapStrand (fun t => { t with
    scalarWait := some (match t.scalarWait with
      | some w => if w.kind = k then { w with polls := w.polls + 1 } else ⟨k, 0, s.ptime, false⟩
      | none => ⟨k, 0, s.ptime, false⟩) }) s

/-- The head entry of the VQ waits. -/
def waitVq (k : WaitKind) (s : State) : State :=
  mapStrand (fun t => { t with
    vqWait := some (match t.vqWait with
      | some w => if w.kind = k then { w with polls := w.polls + 1 } else ⟨k, 0, s.ptime, false⟩
      | none => ⟨k, 0, s.ptime, false⟩) }) s

/-- The flags that the pending trap's instruction delivers are in FFLAGS once it is taken (R77, R101). -/
def deliverPending (t : Strand) : Strand :=
  { t with fflags := t.fflags ||| ((t.pendTrap.map fun p => p.flags).getD 0) }

/-- A scalar trap is taken with an empty VQ (R97 step 4, R103). `xpc`: the address for XPC. -/
def takeScalar (c : Cause) (v xpc : Word) (s : State) : State :=
  if isPageFault c then intercept v (causeAcc c) false 0 (mapStrand (fun t => { t with pendTrap := none }) s)
  else enterHandler c v false (mapStrand (fun t => { deliverPending t with xpc := xpc, xvcp := 0 }) s)

/-- A scalar instruction raises a trap (R97): the older VQ entries drain first, the line of the handler is translated (R30), and
what the instruction has added to the flags `old` waits with the trap. -/
def raiseWith (old : BitVec 6) (c : Cause) (v xpc : Word) (s : State) : State :=
  if s.strand.vq.isEmpty && (isPageFault c || (handlerWait s).isNone) then takeScalar c v xpc s
  else
    let s1 := mapStrand (fun t => { t with
      pendTrap := some ⟨c, v, xpc, t.fflags ||| ((t.pendTrap.map fun p => p.flags).getD 0)⟩, fflags := old }) s
    if s.strand.vq.isEmpty then waitScalar .ats s1 else mapStrand (fun t => { t with scalarWait := none }) s1

/-- A scalar instruction raises a trap (R97) without flags of its own. -/
def raiseScalar (c : Cause) (v xpc : Word) (s : State) : State := raiseWith s.strand.fflags c v xpc s

/-- An `eret` that waits for the VQ to drain is abandoned without effect (R93, R98): its change of mode is undone. -/
def undoReturn (t : Strand) : Strand :=
  match t.returning with
  | some r => { t with status := r.2, returning := none }
  | none => t

/-- A VQ trap other than an unresolved page fault is taken (R98, R104): the entry and every younger one move to the saved
queue, VSTART names the faulting element, and XPC is the next scalar instruction; while the saved queue holds entries it
is a double fault. While the line of the handler is being translated, the trap stands. -/
def takeVq (c : Cause) (v : Word) (f : Nat) (s : State) : State :=
  let t := s.strand
  if !t.saved.isEmpty then mapStrand loseContext (abandonAll s)
  else
    match handlerWait s with
    | some k => waitVq k (mapStrand (fun t => { t with vqTrap := some ⟨c, v, f⟩ }) s)
    | none =>
      enterHandler c v true (mapStrand (fun t => { undoReturn t with
        saved := t.vq, vq := [], vstart := f, xpc := t.pc,
        xvcp := (t.vq.head?.map fun e => e.pc).getD 0 }) s)

/-- An entry that stops at an element starts there anew: nothing of this execution counts as done (R163, R168). -/
def stopEntry : List VqEntry → List VqEntry
  | e :: r => { e with done := false } :: r
  | [] => []

/-- The head entry raises a trap at element `f` (R98, R103). -/
def raiseVq (c : Cause) (v : Word) (f : Nat) (s0 : State) : State :=
  let s := mapStrand (fun t => { t with vq := stopEntry t.vq }) s0
  if isPageFault c then intercept v (causeAcc c) true f s
  else takeVq c v f s

/-- The mode is restored (R93 step 2). -/
def restoreMode (t : Strand) : Strand := { t with status := withModes t.status (ppriv t) false }

/-- RETURN FROM A TRAP, after the check of XPC and the change of mode (R93 steps 3 and 4, R107): the saved queue moves back when
XCAUSE bit 8 is set, and the scalar stream goes on at XPC. -/
def leaveHandler (p : Pass) (t : Strand) : Strand :=
  let t1 := { t with pc := t.xpc, pass := some p, scalarWait := none, returning := none }
  if t.xcause.getLsbD 8 then { t1 with vq := t.vq ++ t.saved, saved := [] } else t1

-- ## The operands of queued entries (R20)

/-- The opcode of an entry. -/
def entryOp (e : VqEntry) : Nat := headOp e.head

/-- The scalar registers that an entry writes when it commits (R20, R139). -/
def entryWrites (e : VqEntry) : List (BitVec 5) :=
  let op := entryOp e
  let t := e.tail
  if op = 0x67 ∨ op = 0x68 ∨ op = 0xA4 then [fC t]
  else if op = 0x79 then [fB t, fC t, t.extractLsb' 40 5]
  else if op = 0x40 ∨ op = 0x41 ∨ op = 0x69 ∨ op = 0x6A ∨ op = 0x70 ∨ (0x73 ≤ op ∧ op ≤ 0x77) ∨ op = 0xA0 ∨ op = 0xA3
      ∨ op = 0xA5 ∨ op = 0xA8 ∨ op = 0xA9 ∨ op = 0xAC ∨ op = 0xAD then [fD t]
  else []

/-- The scalar registers that a VQ-class instruction reads when it enters the VQ (R20). -/
def entryReads (op : Nat) (t : BitVec 96) : List (BitVec 5) :=
  let okB := if fOk t = 1 then [fB t] else []
  if op = 0x40 then [fA t]
  else if op = 0x41 then [fA t, fB t]
  else if op = 0x60 ∨ op = 0x79 then (if fOk t = 1 then [fB t, fC t] else [])
  else if op = 0x71 then fA t :: okB
  else if op = 0x8A then fC t :: okB
  else if 0x42 ≤ op ∧ op ≤ 0x79 then okB
  else if op = 0x81 ∨ op = 0x86 then [fA t, fB t]
  else if 0x80 ≤ op ∧ op ≤ 0x89 then [fA t]
  else if op = 0x91 then [fC t]
  else if op = 0x93 then okB
  else if op = 0x94 ∨ op = 0xA0 ∨ op = 0xA1 ∨ op = 0xA5 ∨ op = 0xA8 ∨ op = 0xAD then [fA t]
  else if op = 0xA2 ∨ op = 0xA3 then [fA t, fB t, fC t]
  else if op = 0xA9 ∨ op = 0xAA ∨ op = 0xAC then [fA t, fB t]
  else []

/-- The entry writes `VL` when it commits (R16). -/
def entryWritesVl (e : VqEntry) : Bool :=
  let op := entryOp e
  op == 0x40 || op == 0x41 || op == 0x84 || op == 0x8A || op == 0xA9

/-- The entry accesses memory: a store or `vsadd` among them (R171, R194). -/
def entryStores (e : VqEntry) : Bool :=
  let op := entryOp e
  (decide (0x85 ≤ op) && decide (op ≤ 0x89)) || op == 0xA9 || op == 0xAA

/-- Some entry of the queue writes one of the registers, s0 apart (R20). -/
def vqWritesAny (vq : List VqEntry) (rs : List (BitVec 5)) : Bool :=
  rs.any fun r => r != 0 && vq.any fun e => (entryWrites e).contains r

/-- Capture an entry's operands (R20). -/
def capture (t : Strand) (head : BitVec 16) (tail : BitVec 96) (guardOff : Bool) : VqEntry :=
  { pc := t.pc, head := head, tail := tail, a := getS t (fA tail), b := getS t (fB tail), c := getS t (fC tail),
    d := getS t (fD tail), frm := t.frm, tether := t.tether, guardOff := guardOff, lines := [], arrived := none,
    age := 0, done := false }

-- ## The frame of an instruction

/-- The outcome of a meaning. -/
abbrev Out := Host.Outcome State Fault Refusal

/-- The guard's value (R32, R34). -/
def guardOn (g : Guard) (t : Strand) : Bool := getP t g.p != g.neg

/-- The scalar stream goes on at an address; its wait ends. -/
def goTo (a : Word) (t : Strand) : Strand := { t with pc := a, scalarWait := none, yielded := false }

/-- A scalar instruction commits at its successor (R28). -/
def advance (s : State) : State := mapStrand (fun t => goTo (successor t) t) s

/-- A scalar or predicate register error that the instruction reads (R105, R106). -/
def upsetValue (t : Strand) (rs : List (BitVec 5)) (ps : List (BitVec 3)) : Option Word :=
  match t.upsets.find? (fun u => (u.file == .scalar && rs.any fun r => r.toNat == u.reg)
      || (u.file == .pred && ps.any fun r => r.toNat == u.reg)) with
  | some u => some (word (2 ^ 63 + u.reg * 2 ^ 16 + (if u.file == .pred then 2 ^ 21 else 0)))
  | none => none

/-- The frame of a scalar-class instruction (R20, R33, R34, R62, R97). `rs`: the scalar registers it reads. `ws`: those it
writes. `ps`: the predicates it reads besides its guard. `pre`: checks made before the guard (R14). `work`: its own work, which
answers the address at which the stream goes on. A trap leaves the strand as it was, but for flags delivered. -/
def scalarOp (g : Guard) (rs ws : List (BitVec 5)) (ps : List (BitVec 3)) (pre : M Unit) (work : M Word) (s : State) :
    Out :=
  match pre s with
  | .error (.trap c v) s1 => .next (raiseScalar c v s.strand.pc s1)
  | .error (.wait k) s1 => .next (waitScalar k s1)
  | .ok _ s1 =>
    match upsetValue s.strand [] [g.p] with
    | some v => .next (raiseScalar .dataError v s.strand.pc s1)
    | none =>
      if guardOn g s.strand then
        if vqWritesAny s.strand.vq (rs ++ ws) then .next (waitScalar .interlock s1)
        else
          match upsetValue s.strand rs ps with
          | some v => .next (raiseScalar .dataError v s.strand.pc s1)
          | none =>
            match work s1 with
            | .ok a s2 => .next (mapStrand (goTo a) s2)
            | .error (.trap c v) s2 => .next (raiseWith s.strand.fflags c v s.strand.pc s2)
            | .error (.wait k) s2 => .next (waitScalar k s2)
      else .next (advance s1)

/-- The work of an instruction that goes on at its successor. -/
def thenNext (m : M Unit) : M Word := fun s =>
  match m s with
  | .ok _ s1 => .ok (successor s1.strand) s1
  | .error e s1 => .error e s1

/-- No check before the guard. -/
def noCheck : M Unit := fun s => .ok () s

/-- The frame of a scalar instruction that goes on at its successor. -/
def plainOp (g : Guard) (rs ws : List (BitVec 5)) (ps : List (BitVec 3)) (work : M Unit) (s : State) : Out :=
  scalarOp g rs ws ps noCheck (thenNext work) s

/-- The head of an instruction as XVAL of *illegal instruction* and *privileged* shows it (R102). -/
def headWord (i : Instr) : Word := match encode i with | some x => x.1.setWidth 64 | none => 0

/-- Raise *illegal instruction* for an instruction. -/
def illegalIf (b : Bool) (i : Instr) : M Unit := trapIf b .illegal (headWord i)

/-- A supervisor-only opcode in user mode (R42): the check follows the guard and comes before everything else. -/
def supervisorOnly (i : Instr) (g : Guard) : M Unit := fun s =>
  if (upsetValue s.strand [] [g.p]).isNone && guardOn g s.strand && !priv s.strand then
    .error (.trap .privileged (headWord i)) s
  else .ok () s

/-- The frame of a supervisor-only instruction that goes on at its successor. -/
def privOp (i : Instr) (g : Guard) (rs ws : List (BitVec 5)) (work : M Unit) (s : State) : Out :=
  scalarOp g rs ws [] (supervisorOnly i g) (thenNext work) s

/-- An entry commits (R100): it leaves the VQ and VSTART becomes 0. -/
def commitVq (s : State) : State :=
  mapStrand (fun t => { t with vq := t.vq.tail, vstart := 0, vqWait := none, yielded := false, watch := 0 }) s

/-- The opcodes of the whole instructions (R100). -/
def wholeOpcode (op : Nat) : Bool :=
  decide (op ≤ 0x41) || (decide (0x67 ≤ op) && decide (op ≤ 0x6E)) || (decide (0x73 ≤ op) && decide (op ≤ 0x79)) ||
    decide (0x8A ≤ op)

/-- The element that a VQ entry refused as it stands names: whole instructions trap with VSTART 0 (R98, R100). -/
def refusedAt (e : VqEntry) (t : Strand) : Nat := if wholeOpcode (headOp e.head) then 0 else t.vstart

/-- Execute the head entry (R98, R100): `whole` instructions trap when VSTART is not 0. The work leaves VSTART at the
element it stops at. -/
def vqRun (e : VqEntry) (whole : Bool) (work : VqEntry → M Unit) (s : State) : State :=
  if whole && s.strand.vstart != 0 then raiseVq .illegal (e.head.setWidth 64) 0 s
  else
    match work e s with
    | .ok _ s1 => commitVq s1
    | .error (.trap c v) s1 => raiseVq c v s1.strand.vstart s1
    | .error (.wait k) s1 => waitVq k s1

/-- The scalar stream issues a VQ-class instruction (R19, R20). -/
def pushVq (e : VqEntry) (s : State) : State :=
  mapStrand (fun t => { goTo (successor t) t with vq := t.vq ++ [{ e with age := s.stepNo }] }) s

/-- The frame of a VQ-class instruction: its execution at VCP. With an empty VQ the instruction is issued first, so that it
executes as the only entry. `fence`: it enters the VQ even with a false guard (R34). -/
def vqOp (i : Instr) (g : Guard) (whole fence : Bool) (work : VqEntry → M Unit) (s : State) : Out :=
  match s.strand.vq with
  | e :: _ => .next (vqRun e whole work s)
  | [] =>
    if guardOn g s.strand || fence then
      match encode i with
      | some x =>
        let e := { capture s.strand x.1 x.2 (!guardOn g s.strand) with age := s.stepNo }
        .next (vqRun e whole work (pushVq e s))
      | none => .next (advance s)
    else .next (advance s)

end Sys2Proof.Machine
end

