-- ==== Sys2Proof/Machine/Operands.lean ====
section
/-! DEFINITION. Operand forms: integer conditions, the B operand, elements read as sources, element-wise execution, and the
checks that every vector instruction makes at VCP (R12, R66, R105, R118, R135 to R140). -/

namespace Sys2Proof.Machine

-- ## Scalar operands

/-- The value of a register as i64. -/
def sInt (v : Word) : Int := v.toInt

/-- An integer condition on two 64-bit values (R66). -/
def condHolds (cc : Cond) (a b : Word) : Bool :=
  match cc with
  | .eq => a == b
  | .ne => a != b
  | .lt => a.slt b
  | .ge => !a.slt b
  | .le => !b.slt a
  | .gt => b.slt a
  | .ltn => a.ult b
  | .gen => !a.ult b
  | .len => !b.ult a
  | .gtn => b.ult a

/-- IMM22 sign-extended (R65). -/
def sext22 (i : BitVec 22) : Word := i.signExtend 64
/-- IMM22 zero-extended (R65). -/
def zext22 (i : BitVec 22) : Word := i.zeroExtend 64
/-- OFF24 sign-extended (R85). -/
def sext24 (i : BitVec 24) : Word := i.signExtend 64
/-- IMM18 extended as the condition says (R67). -/
def ext18 (cc : Cond) (i : BitVec 18) : Word :=
  match cc with
  | .ltn | .gen | .len | .gtn => i.zeroExtend 64
  | _ => i.signExtend 64

/-- A predicate operation (R74, R150). -/
def predOp (op : PredOp) (a b : Bool) : Bool :=
  match op with
  | .and => a && b
  | .or => a || b
  | .xor => a != b
  | .andn => a && !b
  | .not => !a

/-- Bits of a value placed in a scalar register: sign-extended for i types, zero-extended otherwise (R75, R82, R85). -/
def toReg (ty : Ty) (x : Nat) : Word :=
  if ty.isSigned then BitVec.ofInt 64 (signedOf ty.width x) else word (x % 2 ^ ty.width)

-- ## Vector checks (R12, R118, R135)

/-- *Illegal instruction* at VCP for the entry. -/
def badEntry (b : Bool) (e : VqEntry) : M Unit := trapIf b .illegal (e.head.setWidth 64)

/-- The vector registers exist and the width is granted (R12, R118). -/
def vecCheck (e : VqEntry) (regs : List (BitVec 5)) (w : Nat) : M Unit := fun s =>
  badEntry (regs.any (fun r => decide (s.strand.nreg ≤ r.toNat)) || decide (s.strand.ew < w)) e s

/-- The accumulator is claimed (R12, R175). -/
def accCheck (e : VqEntry) (a : BitVec 2) : M Unit := fun s =>
  badEntry (decide (s.strand.accs.length ≤ a.toNat)) e s

/-- The rounding mode of an entry: a dynamic mode that selects none is illegal (R125). -/
def entryRm (e : VqEntry) (rm : Rm) : M Rm := fun s =>
  match rmode rm e.frm with
  | some r => .ok r s
  | none => .error (.trap .illegal (e.head.setWidth 64)) s

/-- The value that XVAL shows for a register-file error (R106). -/
def upsetWord (f : Nat) (r e : Nat) : Word := word (2 ^ 63 + f * 2 ^ 21 + r * 2 ^ 16 + e % 4096)

/-- Read an element as an active source (R105). -/
def readElem (r : BitVec 5) (w e : Nat) : M Nat := fun s =>
  if s.strand.upsets.any (fun u => u.file == .vec && u.reg == r.toNat && decide (e * w ≤ u.elem) && decide (u.elem < e * w + w))
  then .error (.trap .dataError (upsetWord 2 r.toNat e)) s
  else .ok (velem s.strand r w e) s

/-- Read a mask bit as a source (R105). -/
def readMask (r : BitVec 3) (e : Nat) : M Bool := fun s =>
  if r != 0 && s.strand.upsets.contains ⟨.mask, r.toNat, e⟩ then .error (.trap .dataError (upsetWord 3 r.toNat e)) s
  else .ok (maskBit s.strand r e) s

/-- The element a B operand gives (R137): a vector element, the captured scalar, or IMM8, sign-extended for i types. -/
def readB (e : VqEntry) (b : BOp) (ty : Ty) (k : Nat) : M Nat := fun s =>
  match b with
  | .vec r => readElem r ty.width k s
  | .scal _ => .ok (e.b.toNat % 2 ^ ty.width) s
  | .imm i => .ok (if ty.isSigned then (i.signExtend 64).toNat % 2 ^ ty.width else i.toNat) s

/-- The vector registers a B operand names. -/
def bRegs : BOp → List (BitVec 5)
  | .vec r => [r]
  | _ => []

/-- The count of a shift or slide: IMM8, or the whole scalar (R152, R154). -/
def indexOf (e : VqEntry) (b : BOp) : Nat :=
  match b with
  | .imm i => i.toNat
  | _ => e.b.toNat

-- ## Element-wise execution (R138)

/-- Write VSTART while an element-wise instruction runs: the element at which it would stop. -/
def atElem (k : Nat) : M Unit := onStrand fun t => { t with vstart := k }

/-- Run `f` on every active element of a list of elements, VSTART at the element. -/
def overElems (m : BitVec 3) (f : Nat → M Unit) (l : List Nat) : M Unit :=
  forEach l fun k s =>
    match atElem k s with
    | .error e s1 => .error e s1
    | .ok _ s1 =>
      match readMask m k s1 with
      | .error e s2 => .error e s2
      | .ok b s2 => if b then f k s2 else .ok () s2

/-- The elements from VSTART to VL − 1 (R138). -/
def elements (s : State) : List Nat := span s.strand.vstart s.strand.vl

/-- Element-wise execution under a mask (R138). -/
def elementWise (m : BitVec 3) (f : Nat → M Unit) : M Unit := fun s => overElems m f (elements s) s

/-- Write an element of a vector register. -/
def wrV (r : BitVec 5) (w k x : Nat) : M Unit := onStrand fun t => putElem t r w k x
/-- Write a mask bit. -/
def wrM (r : BitVec 3) (k : Nat) (b : Bool) : M Unit := onStrand fun t => putMask t r k b

/-- The active ones of some elements, in order. -/
def activeOf (m : BitVec 3) (l : List Nat) : M (List Nat) := fun s =>
  l.foldr
    (fun k (acc : M (List Nat)) => fun s =>
      match readMask m k s with
      | .error e s1 => .error e s1
      | .ok b s1 =>
        match acc s1 with
        | .error e s2 => .error e s2
        | .ok l s2 => .ok (if b then k :: l else l) s2)
    (fun s => .ok [] s) s

/-- The active elements, in order, for a whole instruction. -/
def activeElems (m : BitVec 3) : M (List Nat) := fun s => activeOf m (List.range s.strand.vl) s

/-- The values of elements of a register. -/
def readAll (r : BitVec 5) (w : Nat) : List Nat → M (List Nat)
  | [] => fun s => .ok [] s
  | k :: l => fun s =>
    match readElem r w k s with
    | .error e s1 => .error e s1
    | .ok x s1 =>
      match readAll r w l s1 with
      | .error e s2 => .error e s2
      | .ok xs s2 => .ok (x :: xs) s2

end Sys2Proof.Machine
end

