-- ==== Sys2Proof/Machine/Control.lean ====
section
/-! DEFINITION. Scalar loads and stores, control transfers, system instructions and hints (R41, R84 to R95). -/

namespace Sys2Proof.Machine

-- ## Loads and stores (R84 to R86)

/-- A queued fence or barrier that younger scalar memory accesses wait for (R171, R245). -/
def holdsScalarMemory (e : VqEntry) : Bool :=
  entryOp e == 0xAB || (entryOp e == 0x8B && (e.tail.extractLsb' 23 9 == 2#9 || e.tail.extractLsb' 23 9 == 3#9))

/-- A scalar memory access waits for an older `vfence.vs`, `vfence.all` or `bar.cl` (R171, R245). -/
def fenceWait : M Unit := fun s =>
  if s.strand.vq.any holdsScalarMemory then .error (.wait .fence) s else .ok () s

/-- base + sext(off24), mod 2^64 (R85). -/
def effAddr (t : Strand) (a : BitVec 5) (off : BitVec 24) : Word := getS t a + sext24 off

/-- `ld` (R85). -/
def execLd (g : Guard) (ty : Ty) (d a : BitVec 5) (off : BitVec 24) (s : State) : Out :=
  plainOp g [a] [d] [] (do
    fenceWait
    let va ← ask fun s => effAddr s.strand a off
    let w ← ask whoAmI
    let me' ← ask me
    let v ← loadVa me' w va ty.bytes
    wrS d (toReg ty v)) s

/-- `st` (R85). -/
def execSt (g : Guard) (ty : Ty) (d a : BitVec 5) (off : BitVec 24) (s : State) : Out :=
  plainOp g [a, d] [] [] (do
    fenceWait
    let va ← ask fun s => effAddr s.strand a off
    let w ← ask whoAmI
    let me' ← ask me
    let v ← ask fun s => getS s.strand d
    let p ← checkAccess w va ty.bytes .store
    storeChecked me' w p me' (leBytes ty.bytes v.toNat) va) s

-- ## Control transfers (R87 to R89)

/-- The target of a T4-br instruction (R38). -/
def branchTarget (pc : Word) (dl : BitVec 24) (sl : BitVec 5) : Word :=
  lineBase pc + (dl.signExtend 64) * 64#64 + 2#64 + 2#64 * sl.zeroExtend 64

/-- Check a target in the current mode and enter its line (R30, R31). -/
def enterLine (t : Word) : M Unit := fun s =>
  match targetCheck (priv s.strand) t s with
  | .error e s1 => .error e s1
  | .ok p s1 => .ok () (mapStrand (fun t => { t with pass := some p }) s1)

/-- `br` (R87). -/
def execBr (g : Guard) (dl : BitVec 24) (sl : BitVec 5) (s : State) : Out :=
  scalarOp g [] [] [] noCheck (do
    let t ← ask fun s => branchTarget s.strand.pc dl sl
    enterLine t
    pure t) s

/-- A transfer with a link (R87, R88): check, then write the link. -/
def linkTo (d : BitVec 5) (t : Word) : M Word := do
  let link ← ask fun s => successor s.strand
  enterLine t
  wrS d link
  pure t

/-- `jal` (R87): the link is s1. -/
def execJal (g : Guard) (dl : BitVec 24) (sl : BitVec 5) (s : State) : Out :=
  scalarOp g [] [1] [] noCheck (do
    let t ← ask fun s => branchTarget s.strand.pc dl sl
    linkTo 1 t) s

/-- `jr` (R88). -/
def execJr (g : Guard) (d a : BitVec 5) (s : State) : Out :=
  scalarOp g [a] [d] [] noCheck (do
    let t ← ask fun s => getS s.strand a
    linkTo d t) s

/-- `ret` (R88): to the address in s1. -/
def execRet (g : Guard) (s : State) : Out :=
  scalarOp g [1] [] [] noCheck (do
    let t ← ask fun s => getS s.strand 1
    enterLine t
    pure t) s

/-- The counter register s(12 + F3) (R89). -/
def counterReg (c : BitVec 3) : BitVec 5 := 12#5 + c.zeroExtend 5

/-- `dbnz` (R89). -/
def execDbnz (g : Guard) (c : BitVec 3) (dl : BitVec 24) (sl : BitVec 5) (s : State) : Out :=
  scalarOp g [counterReg c] [counterReg c] [] noCheck (do
    let n ← ask fun s => getS s.strand (counterReg c) - 1#64
    if n = 0 then
      wrS (counterReg c) 0
      ask fun s => successor s.strand
    else
      let t ← ask fun s => branchTarget s.strand.pc dl sl
      enterLine t
      wrS (counterReg c) n
      pure t) s

-- ## System instructions (R92 to R95)

/-- A trap whose XPC is the successor (R92). -/
def softTrap (g : Guard) (c : Cause) (imm : BitVec 22) (s : State) : Out :=
  match upsetValue s.strand [] [g.p] with
  | some v => .next (raiseScalar .dataError v s.strand.pc s)
  | none =>
    if guardOn g s.strand then .next (raiseScalar c (imm.zeroExtend 64) (successor s.strand) s)
    else .next (advance s)

/-- `sys` (R92): *system call*. -/
def execSys (g : Guard) (imm : BitVec 22) (s : State) : Out := softTrap g .systemCall imm s

/-- `trap` (R92): *breakpoint*. -/
def execTrap (g : Guard) (imm : BitVec 22) (s : State) : Out := softTrap g .breakpoint imm s

/-- An `eret` that has changed the mode goes on waiting for the VQ to empty (R93 step 3). -/
def eretGoesOn (p : Pass) (s : State) : Out :=
  .next (if s.strand.vq.isEmpty then mapStrand (fun t => goTo t.xpc (leaveHandler p t)) s else waitScalar .drain s)

/-- An `eret` at its start (R93): the target is checked in the mode to return to, and the mode changes; with XCAUSE bit 8 set
the older VQ entries, the handler's own, commit first. -/
def eretStarts : M Word := fun s =>
  match targetCheck (ppriv s.strand) s.strand.xpc s with
  | .error e s1 => .error e s1
  | .ok p s1 =>
    if s1.strand.xcause.getLsbD 8 && !s1.strand.vq.isEmpty then
      .error (.wait .drain) (mapStrand (fun t => { restoreMode t with returning := some (p, t.status) }) s1)
    else .ok s1.strand.xpc (mapStrand (fun t => leaveHandler p (restoreMode t)) s1)

/-- `eret` (R93): checked, then `leaveHandler` restores the queue and the stream. One that waits has passed its guard. -/
def execEret (g : Guard) (s : State) : Out :=
  match s.strand.returning with
  | some r => eretGoesOn r.1 s
  | none => scalarOp g [] [] [] (supervisorOnly (.eret g) g) eretStarts s

/-- `park` (R94). -/
def execPark (g : Guard) (d a b : BitVec 5) (s : State) : Out :=
  plainOp g [a, b] [d] [] (do
    fenceWait
    let va ← ask fun s => getS s.strand a
    let w ← ask whoAmI
    let me' ← ask me
    let v ← atomicRead me' w va 8
    let old ← ask fun s => getS s.strand b
    waitIf (word v == old) .watch
    wrS d (word v)
    acquireAt .dm) s

/-- Give back the V banks of a strand's slot (R112, R117). -/
def freeBanks (id : BitVec 18) (s : State) : State :=
  let c := coreAt s (coreOf id)
  putCore s (coreOf id) { c with banks := c.banks.map fun b => if b = .v (slotOf id) then .c else b }

/-- The acting strand's slot returns to Mooring: the end is counted with its crew, its banks and accumulators are free, and
what is left of its context is discarded (R95, R104, R117). -/
def closeStrand (s : State) : State :=
  let t := s.strand
  { freeBanks t.id s with
    strand := Strand.unbound
    crews := s.crews.map fun c => if c.id = t.crew then { c with ended := insertN c.ended t.idx.toNat } else c }

/-- `end` (R95): it waits for the VQ to empty, releases at `dm`, and ends the strand. -/
def execEndStrand (g : Guard) (s : State) : Out :=
  match upsetValue s.strand [] [g.p] with
  | some v => .next (raiseScalar .dataError v s.strand.pc s)
  | none =>
    if guardOn g s.strand then
      if !s.strand.vq.isEmpty then .next (waitScalar .drain s)
      else
        match releaseAt .dm s with
        | .error (.trap c v) s1 => .next (raiseScalar c v s.strand.pc s1)
        | .error (.wait k) s1 => .next (waitScalar k s1)
        | .ok _ s1 => .next (closeStrand s1)
    else .next (advance s)

-- ## Hints (R41)

/-- The core may switch strands: the strand's turn of issue cycles ends (R35, R296). -/
def endTurn (b : Bool) : M Unit := change fun s => { s with slice := if b then 16 else s.slice }

/-- `nop` (R41). -/
def execNop (g : Guard) (s : State) : Out := plainOp g [] [] [] noCheck s

/-- `yield` (R35, R41): the core may switch strands after it. -/
def execYield (g : Guard) (s : State) : Out := plainOp g [] [] [] (endTurn true) s

/-- A hint (R41): no effect other than its yield bit (R35). -/
def execHint (g : Guard) (_op : BitVec 3) (_tl : BitVec 3) (_tail : BitVec 96) (s : State) : Out :=
  plainOp g [] [] [] (endTurn g.y) s

end Sys2Proof.Machine
end

