-- ==== Sys2Proof/Machine/VecMem.lean ====
section
/-! DEFINITION. Vector memory instructions, scatter-add, the wait on flag words and the typed fences (R160 to R174). -/

namespace Sys2Proof.Machine

-- ## Addresses (R162)

/-- How a form computes its addresses. -/
inductive AddrForm where
  /-- Consecutive elements of `nf` fields. -/
  | unit (nf : Nat)
  /-- A byte stride. -/
  | stride
  /-- The byte offsets in an index register. -/
  | index (r : BitVec 5)
deriving DecidableEq, Repr

/-- The fields of an element. -/
def AddrForm.nf : AddrForm → Nat
  | .unit n => n
  | _ => 1

/-- The address of field f of element k (R162). -/
def elemAddr (form : AddrForm) (e : VqEntry) (off : BitVec 24) (wm k f : Nat) : M Word := fun s =>
  let base := e.a + sext24 off
  match form with
  | .unit nf => .ok (base + word ((k * nf + f) * wm)) s
  | .stride => .ok (base + word k * e.b) s
  | .index r =>
    match readElem r s.strand.ew k s with
    | .ok x s1 => .ok (base + word x) s1
    | .error x s1 => .error x s1

/-- Run a step for each number of a list and collect the answers. -/
def mapEach {α : Type} (l : List Nat) (f : Nat → M α) : M (List α) :=
  match l with
  | [] => fun s => .ok [] s
  | x :: r => fun s =>
    match f x s with
    | .error e s1 => .error e s1
    | .ok a s1 =>
      match mapEach r f s1 with
      | .error e s2 => .error e s2
      | .ok as s2 => .ok (a :: as) s2

/-- Run a step for each member of a list. -/
def eachOf {α : Type} (l : List α) (f : α → M Unit) : M Unit :=
  match l with
  | [] => fun s => .ok () s
  | x :: r => fun s =>
    match f x s with
    | .error e s1 => .error e s1
    | .ok _ s1 => eachOf r f s1

/-- The registers of a segment access exist and the width is granted (R12, R118, R167). -/
def segCheck (e : VqEntry) (d : BitVec 5) (nf : Nat) (regs : List (BitVec 5)) (w : Nat) : M Unit := fun s =>
  badEntry (decide (s.strand.nreg < d.toNat + nf) || regs.any (fun r => decide (s.strand.nreg ≤ r.toNat))
    || decide (s.strand.ew < w)) e s

/-- The index register of a form. -/
def AddrForm.regs : AddrForm → List (BitVec 5)
  | .index r => [r]
  | _ => []

/-- A floating-point type of any width (R125). -/
def isFloat (ty : Ty) : Bool := ty.isFp || ty == .e4m3 || ty == .e5m2

/-- The rounding mode of a converting access (R161): RM is 7; it matters when a type is floating-point. -/
def memRm (e : VqEntry) (ty tyv : Ty) : M Rm :=
  if ty ≠ tyv ∧ (isFloat ty || isFloat tyv) then entryRm e .dyn else fun s => .ok .rne s

/-- Convert an element between memory and register (R161). -/
def memConvert (r : Rm) (dst src : Ty) (x : Nat) : FpRes := if dst = src then (x, flNone) else convert r dst src x

/-- The union of flags. -/
def flagsOf (l : List FpRes) : BitVec 6 := l.foldl (fun f x => f ||| x.2) flNone

-- ## Loads (R163 to R168)

/-- Load element k: all fields are checked, then read, converted and written (R163, R167). -/
def loadElem (form : AddrForm) (e : VqEntry) (ty tyv : Ty) (r : Rm) (d : BitVec 5) (off : BitVec 24) (k : Nat) : M Unit := do
  let w ← ask vecWho
  let me' ← ask me
  let vas ← mapEach (List.range form.nf) fun f => elemAddr form e off ty.bytes k f
  let ps ← mapEach (List.range form.nf) fun f => do
    let va := nthD vas f 0
    let p ← checkAccess w va ty.bytes .load
    pure (p, va)
  let raw ← eachOnce (uncWriter me' w) form.nf fun f =>
    match ps[f]? with
    | some (p, va) => loadAt me' w p ty.bytes va
    | none => fun s => .ok 0 s
  let xs := raw.map fun x => memConvert r tyv ty x
  deliverVector (flagsOf xs)
  forEach (List.range form.nf) fun f =>
    wrV (BitVec.ofNat 5 (d.toNat + f)) tyv.width k (nthD xs f (0, flNone)).1

/-- The frame of a vector load. -/
def vLoad (i : Instr) (g : Guard) (form : AddrForm) (ty tyv : Ty) (d : BitVec 5) (off : BitVec 24) (m : BitVec 3)
    (s : State) : Out :=
  vqOp i g false false (fun e => do
    segCheck e d form.nf form.regs tyv.width
    let r ← memRm e ty tyv
    elementWise m (loadElem form e ty tyv r d off)) s

/-- `vld` (R162). -/
def execVld (g : Guard) (ty tyv : Ty) (d a : BitVec 5) (off : BitVec 24) (m : BitVec 3) (s : State) : Out :=
  vLoad (.vld g ty tyv d a off m) g (.unit 1) ty tyv d off m s
/-- `vlds` (R162). -/
def execVlds (g : Guard) (ty tyv : Ty) (d a b : BitVec 5) (off : BitVec 24) (m : BitVec 3) (s : State) : Out :=
  vLoad (.vlds g ty tyv d a b off m) g .stride ty tyv d off m s
/-- `vldx` (R162). -/
def execVldx (g : Guard) (ty tyv : Ty) (d a b : BitVec 5) (off : BitVec 24) (m : BitVec 3) (s : State) : Out :=
  vLoad (.vldx g ty tyv d a b off m) g (.index b) ty tyv d off m s
/-- `vldseg` (R162, R167). -/
def execVldseg (g : Guard) (ty tyv : Ty) (d a : BitVec 5) (nf : BitVec 4) (off : BitVec 24) (m : BitVec 3) (s : State) :
    Out :=
  vLoad (.vldseg g ty tyv d a nf off m) g (.unit nf.toNat) ty tyv d off m s

/-- The causes that `vldff` turns into a shorter VL (R168). -/
def shortens : Cause → Bool
  | .loadFault | .storeFault | .protection | .dataError | .remote => true
  | _ => false

/-- Some active element has completed before `k` (R168). -/
def someDone (t : Strand) (m : BitVec 3) (v0 k : Nat) : Bool := (span v0 k).any fun j => maskBit t m j

/-- The head entry, a `vldff` that waits, has completed an active element (R168). -/
def noteDone : M Unit := onStrand fun t =>
  match t.vq with
  | e :: r => { t with vq := { e with done := true } :: r }
  | [] => t

/-- `vldff` (R168): a fault behind a completed active element shortens VL. DESIGN CHOICE: so does an error of the mask register at an
element, which is of cause 0x0C, though the element is not known to be active (log 96). -/
def execVldff (g : Guard) (ty tyv : Ty) (d a : BitVec 5) (off : BitVec 24) (m : BitVec 3) (s : State) : Out :=
  vqOp (.vldff g ty tyv d a off m) g false false (fun e => do
    segCheck e d 1 [] tyv.width
    let r ← memRm e ty tyv
    let v0 ← ask fun s => s.strand.vstart
    fun s =>
      match elementWise m (loadElem (.unit 1) e ty tyv r d off) s with
      | .error (.trap c v) s1 =>
        if shortens c && (e.done || someDone s1.strand m v0 s1.strand.vstart) then
          .ok () (mapStrand (fun t => { t with vl := t.vstart }) (dropUnc (me s1 + 2 ^ 18) s1))
        else .error (.trap c v) s1
      | .error (.wait x) s1 =>
        (if someDone s1.strand m v0 s1.strand.vstart then
          match noteDone s1 with
          | .ok _ s2 => .error (.wait x) s2
          | .error y s2 => .error y s2
        else .error (.wait x) s1)
      | r => r) s

-- ## Stores (R163 to R167)

/-- Record a ONCE line that the head entry has claimed (R270). -/
def claimLine (line : Nat) : M Unit := onStrand fun t =>
  match t.vq with
  | e :: r => { t with vq := { e with lines := line :: e.lines } :: r }
  | [] => t

/-- The lines that the head entry has claimed (R270). -/
def claimedLines (s : State) : List Nat := (s.strand.vq.head?.map fun e => e.lines).getD []

/-- The write of an element is to a ONCE line, through a mapping of any page attribute (R270). -/
def onceLine (s : State) (cl : Nat) (p : Place) : Bool := ruledSlot s cl (p.key / 64) == some 3

/-- The range check of an element's write (R270): one write for all the elements of the entry that fall in the line; a target
that does not answer ends the access before (R359), and a write that is under way has been checked (R258). -/
def checkElemWrite (w : Who) (p : Place) (va : Word) : M Unit := fun s =>
  if (claimedLines s).contains (p.key / 64) || !reachable s p.key || underWay s (p.key / 64) (uncWriter (me s) w) then .ok () s
  else
    match checkWrite w p (uncWriter (me s) w) va s with
    | .error e s1 => .error e s1
    | .ok _ s1 => if onceLine s1 w.cl p then claimLine (p.key / 64) s1 else .ok () s1

/-- A field whose target does not answer traps before any field is written (R163, R359). -/
def unanswered (me' : Nat) (w : Who) (n : Nat) (ps : List (Place × Word)) (xs : List FpRes) : M Unit := fun s =>
  match (if (findD s.parts (uncWriter me' w) []).isEmpty then ps.zip xs else []).find? fun x => !reachable s x.1.1.key with
  | some x => storeAt me' w x.1.1 (leBytes n x.2.1) x.1.2 s
  | none => .ok () s

/-- An access that answers nothing, as one of a look. -/
def done0 (m : M Unit) : M Nat := fun s =>
  match m s with
  | .ok _ s1 => .ok 0 s1
  | .error e s1 => .error e s1

/-- Store element k: all fields are checked, then converted, and with the values at hand written (R163, R167); a flag whose trap
is enabled ends the element before its access (R161). -/
def storeElem (form : AddrForm) (e : VqEntry) (ty tyv : Ty) (r : Rm) (d : BitVec 5) (off : BitVec 24) (k : Nat) : M Unit := do
  let w ← ask vecWho
  let me' ← ask me
  let vas ← mapEach (List.range form.nf) fun f => elemAddr form e off ty.bytes k f
  let ps ← mapEach (List.range form.nf) fun f => do
    let va := nthD vas f 0
    let p ← checkAccess w va ty.bytes .store
    checkElemWrite w p va
    pure (p, va)
  let xs ← mapEach (List.range form.nf) fun f => do
    let x ← readElem (BitVec.ofNat 5 (d.toNat + f)) tyv.width k
    pure (memConvert r ty tyv x)
  let t ← ask fun s => s.strand
  if flagTraps t (flagsOf xs) then deliverVector (flagsOf xs)
  else
    unanswered me' w ty.bytes ps xs
    let _ ← eachOnce (uncWriter me' w) form.nf fun f =>
      match ps[f]? with
      | some (p, va) => done0 (storeSure false me' w p (leBytes ty.bytes (nthD xs f (0, flNone)).1) va)
      | none => fun s => .ok 0 s
    addFlags (flagsOf xs)

/-- The frame of a vector store. -/
def vStore (i : Instr) (g : Guard) (form : AddrForm) (ty tyv : Ty) (d : BitVec 5) (off : BitVec 24) (m : BitVec 3)
    (s : State) : Out :=
  vqOp i g false false (fun e => do
    segCheck e d form.nf form.regs tyv.width
    let r ← memRm e ty tyv
    elementWise m (storeElem form e ty tyv r d off)) s

/-- `vst` (R162). -/
def execVst (g : Guard) (ty tyv : Ty) (d a : BitVec 5) (off : BitVec 24) (m : BitVec 3) (s : State) : Out :=
  vStore (.vst g ty tyv d a off m) g (.unit 1) ty tyv d off m s
/-- `vsts` (R162). -/
def execVsts (g : Guard) (ty tyv : Ty) (d a b : BitVec 5) (off : BitVec 24) (m : BitVec 3) (s : State) : Out :=
  vStore (.vsts g ty tyv d a b off m) g .stride ty tyv d off m s
/-- `vstseg` (R162, R167). -/
def execVstseg (g : Guard) (ty tyv : Ty) (d a : BitVec 5) (nf : BitVec 4) (off : BitVec 24) (m : BitVec 3) (s : State) :
    Out :=
  vStore (.vstseg g ty tyv d a nf off m) g (.unit nf.toNat) ty tyv d off m s

/-- The members of a list in an order that the free values of `Config.pick` give (log 17). -/
def freeOrder (seed : Nat) : Nat → List Nat → List Nat
  | 0, _ => []
  | n + 1, l =>
    let i := Config.pick (seed + n) l.length % l.length
    match l[i]? with
    | some x => x :: freeOrder seed n (l.eraseIdx i)
    | none => []

/-- An element of an unordered instruction goes to an NC page or a register, where elements keep their order (R164). -/
def toNc (form : AddrForm) (e : VqEntry) (off : BitVec 24) (wm : Nat) (w : Who) (k : Nat) (s : State) : Bool :=
  match elemAddr form e off wm k 0 s with
  | .error _ _ => false
  | .ok va s1 =>
    match checkAccess w va wm .store s1 with
    | .ok p _ => (match p.space with
      | .dev attr => attr == 3
      | .reg => true
      | .host nc => nc
      | _ => false)
    | .error _ _ => false

/-- Run the elements of an instruction whose order the spec leaves open (R166, R169; log 17): a first pass in ascending order finds
the element that traps or waits, if one does; the elements below it then take effect in a free order, and it stops in the state
that they leave. -/
def anyOrder (m : BitVec 3) (nc : State → Bool) (f : Nat → M Unit) : M Unit := fun s =>
  if nc s then elementWise m f s
  else
    let seed := s.stepNo * 4096
    let go (upTo : Nat) : EStateM.Result Stop State Unit :=
      let l := (span s.strand.vstart upTo).filter fun k => maskBit s.strand m k
      forEach (freeOrder seed l.length l) f s
    match elementWise m f s with
    | .ok _ s1 =>
      match go s.strand.vl with
      | .ok _ s2 => .ok () s2
      | .error _ _ => .ok () s1
    | .error x s1 =>
      match go s1.strand.vstart with
      | .ok _ s2 => elementWise m f (mapStrand (fun t => { t with vstart := s1.strand.vstart }) s2)
      | .error _ _ => .error x s1

/-- `vstx`: with `.o` in element order, without it in any order (R162, R166). -/
def execVstx (g : Guard) (ty tyv : Ty) (ord : Bool) (d a b : BitVec 5) (off : BitVec 24) (m : BitVec 3) (s : State) : Out :=
  vqOp (.vstx g ty tyv ord d a b off m) g false false (fun e => do
    segCheck e d 1 [b] tyv.width
    let r ← memRm e ty tyv
    let w ← ask whoAmI
    if ord then elementWise m (storeElem (.index b) e ty tyv r d off)
    else
      anyOrder m (fun s => (elements s).any fun k => maskBit s.strand m k && toNc (.index b) e off ty.bytes w k s)
        (storeElem (.index b) e ty tyv r d off)) s

-- ## Scatter-add (R169, R170, R277)

/-- A module of the acting strand's shard group (R338): this one, or a member of the enabled group. -/
def inShard (s : State) (m : Nat) : Bool := m == myModule s || s.shard.contains m

/-- The home of a device address lies inside a scope of an agent of cluster `cl` (R169, R190). -/
def homeInScope (s : State) (cl : Nat) (sc : Scope) (key : Nat) : Bool :=
  let m := key / 2 ^ 43
  match sc with
  | .di => m == myModule s && homeDie key == cl / 8
  | .pk => m == myModule s
  | .sh => inShard s m
  | _ => true

/-- The checks of the addition of element k (R163, R169), on its first look: its place, its slot and whether its entry has claimed
the line. -/
def addTarget (w : Who) (ty : Ty) (sc : Scope) (va : Word) : M Place := do
  let me' ← ask me
  let p ← checkAccess w va ty.bytes .store
  let ok ← ask fun s => match p.space with
    | .dev _ => homeInScope s w.cl sc p.key
    | _ => false
  trapIf (!ok) .protection va
  let going ← ask fun s => underWay s (p.key / 64) (uncWriter me' w) || s.added.any fun x => x.1 == uncWriter me' w
  if going then pure p
  else
    let near ← ask fun s => reachable s p.key
    if near then
      let once ← ask fun s => (claimedLines s).contains (p.key / 64)
      if !once then checkPhaseFree me' w p va
      let bad ← ask fun s => poisoned s p.key ty.bytes
      trapIf bad .dataError va
    pure p

/-- An addition to a module that did not answer took effect there all the same (R359; log 14). -/
def lateAdd (key : Nat) (ty : Ty) (v : Word) (s : State) : State :=
  { s with mem := memWrite s.mem key (leBytes ty.bytes (scatterSum ty (homeNat s key ty.bytes) v.toNat).1) }

/-- The addition of element k (R163, R169). With an eager engine its chain closes at once (log 3). -/
def addElem (e : VqEntry) (ty : Ty) (sc : Scope) (d b : BitVec 5) (off : BitVec 24) (k : Nat) : M Unit := do
  let w ← ask vecWho
  let me' ← ask me
  let va ← elemAddr (.index b) e off ty.bytes k 0
  let p ← addTarget w ty sc va
  let x ← readElem d ty.width k
  let near ← ask fun s => reachable s p.key
  if !near then
    change fun s => giveUp p.key (if lostWrite s p.key then lateAdd p.key ty (word x) s else s)
    raise .remote va
  else
    let m ← ask fun s => addMsg w.cl (uncWriter me' w) p.key (placeSlot s w.cl p) ty (word x) ((claimedLines s).contains (p.key / 64))
    arriveAdd m va
    let mark ← ask fun s => !m.checked && onceLine s w.cl p
    if mark then claimLine (p.key / 64)
    change closeEager

/-- `vsadd` (R169, R170). -/
def execVsadd (g : Guard) (ty : Ty) (sc : Scope) (ord : Bool) (d a b : BitVec 5) (off : BitVec 24) (m : BitVec 3)
    (s : State) : Out :=
  vqOp (.vsadd g ty sc ord d a b off m) g false false (fun e => do
    vecCheck e [d, b] ty.width
    let w ← ask vecWho
    if ord then elementWise m (addElem e ty sc d b off)
    else
      anyOrder m (fun s => (elements s).any fun k => maskBit s.strand m k && toNc (.index b) e off ty.bytes w k s)
        (addElem e ty sc d b off)) s

-- ## Waiting on flag words (R172 to R174)

/-- The watch entries of a cluster that other strands' waits have armed. -/
def watchUsed (s : State) (cl : Nat) : Nat :=
  (s.others.map fun t => if t.bound && clusterOf t.id == cl then t.watch else 0).sum

/-- The time-out of a `vwait` has passed (R173): `sc` ns since arming. -/
def vwaitDue (s : State) (sc : Word) : Bool :=
  sc != BitVec.allOnes 64 && decide (s.strand.armedAt + sc.toNat * 65536 ≤ s.ptime)

/-- Give back the watch entries. -/
def disarm : M Unit := onStrand fun t => { t with watch := 0 }

/-- Arm the lowest active elements (R173); answers how many are armed. -/
def arm (n : Nat) : M Nat := fun s =>
  if s.strand.watch ≠ 0 then .ok s.strand.watch s
  else
    let free := 256 - watchUsed s (myCluster s)
    if free = 0 then .error (.wait .watch) s
    else
      let k := Nat.min free n
      .ok k (mapStrand (fun t => { t with watch := k, armedAt := s.ptime }) s)

/-- `vwait` (R172 to R174). -/
def execVwait (g : Guard) (d : BitVec 3) (a : BitVec 5) (b : BOp) (c : BitVec 5) (m : BitVec 3) (s : State) : Out :=
  vqOp (.vwait g d a b c m) g true false (fun e => do
    vecCheck e (a :: bRegs b) 64
    let act ← activeElems m
    if act.isEmpty then acquireAt .dm
    else
      let w ← ask vecWho
      let me' ← ask me
      let vas ← readAll a 64 act
      forEach vas fun va => do
        let _ ← checkAccess w (word va) 8 .load
      let n ← arm act.length
      let oldVl ← ask fun s => s.strand.vl
      let vl' := if n < act.length then nthD act n oldVl else oldVl
      let want ← mapEach (List.range n) fun j => readB e b .n64 (nthD act j 0)
      let got ← eachOnce (uncWriter me' w) n fun j => atomicRead me' w (word (nthD vas j 0)) 8
      let met := (List.range n).map fun j => decide (nthD want j 0 ≤ nthD got j 0)
      let due ← ask fun s => vwaitDue s e.c
      if met.all id || due then
        let trap ← ask fun s => !met.all id && wte s.strand
        if trap then
          disarm
          raise .timeOut (word (nthD vas (met.idxOf false) 0))
        else
          onStrand fun t => { t with vl := vl' }
          forEach (List.range n) fun j => wrM d (nthD act j 0) (!nthD met j false)
          disarm
          acquireAt .dm
      else waitFor .watch) s

-- ## Typed fences (R171)

/-- A fence commits when every older VQ store has taken effect, which the VQ's order gives. `sv`: the scalar stores issued
before it are then ordered before the younger vector accesses (R171). -/
def fenceOp (sv : Bool) (i : Instr) (g : Guard) (s : State) : Out :=
  vqOp i g true true (fun e => if sv then change (fun s => orderStores (me s) e.age s) else noCheck) s

/-- `vfence.sv` (R171). -/
def execVfenceSv (g : Guard) (s : State) : Out := fenceOp true (.vfenceSv g) g s
/-- `vfence.vs` (R171). -/
def execVfenceVs (g : Guard) (s : State) : Out := fenceOp false (.vfenceVs g) g s
/-- `vfence.all` (R171). -/
def execVfenceAll (g : Guard) (s : State) : Out := fenceOp true (.vfenceAll g) g s

end Sys2Proof.Machine
end

