-- ==== Sys2Proof/Machine/Accum.lean ====
section
/-! DEFINITION. The outer-product accumulators (R175 to R180). -/

namespace Sys2Proof.Machine

/-- Entry [i][j] of an accumulator. -/
def accGet (x : Accum) (i j : Nat) : Nat := (x.data.toNat >>> (32 * (32 * i + j))) % 2 ^ 32
/-- An accumulator with entry [i][j] replaced. -/
def accSet (x : Accum) (i j v : Nat) : Accum :=
  { x with data := BitVec.ofNat 32768 (setField x.data.toNat (32 * (32 * i + j)) 32 v) }

/-- The reserved bits of an interval entry are zero (R176). -/
def intervalOk (v : Word) : Bool := bits v.toNat 31 29 == 0 && bits v.toNat 63 62 == 0

/-- Key k lies in an interval entry in row i (R176). -/
def inInterval (v : Word) (i k : Nat) : Bool :=
  let n := v.toNat
  bit n 61 && decide (bits n 27 0 + b2n (bit n 28) * i ≤ k) && decide (k < bits n 59 32 + b2n (bit n 60) * i)

/-- Key k is allowed in row i (R176). -/
def allowed (x : Accum) (i k : Nat) : Bool := x.intervals.toList.any fun v => inInterval v i k

/-- A claimed accumulator. -/
def getAcc (t : Strand) (a : BitVec 2) : Accum := nthD t.accs a.toNat Accum.fresh

/-- Put an accumulator. -/
def putAcc (a : BitVec 2) (x : Accum) (t : Strand) : Strand := { t with accs := t.accs.set a.toNat x }

/-- Entries of an accumulator read as sources are free of errors (R105). -/
def readAccCheck (a : BitVec 2) (es : List Nat) : M Unit := fun s =>
  match s.strand.upsets.find? (fun u => u.file == .accum && u.reg == a.toNat && es.contains u.elem) with
  | some u => .error (.trap .dataError (upsetWord 4 a.toNat u.elem)) s
  | none => .ok () s

/-- Errors in entries that an instruction writes are gone (R105). -/
def mendAcc (a : BitVec 2) (es : List Nat) : M Unit := onStrand fun t =>
  { t with upsets := t.upsets.filter fun u => !(u.file == .accum && u.reg == a.toNat && es.contains u.elem) }

/-- r products added into one entry, each rounded once (R177): the value and the union of the flags. -/
def accStep (k : FpFmt) (va vb : List Nat) (acc : FpRes) (t i j : Nat) : FpRes :=
  let y := valFma (fmtOf .f32) .rne (fpRead k (nthD va (32 * t + i) 0)) (fpRead k (nthD vb (32 * t + j) 0))
    (fpRead (fmtOf .f32) acc.1)
  (y.1, acc.2 ||| y.2)

/-- `vop` and `vopm` (R177, R178): `ok i j` tells the entries that change. -/
def outerProduct (k : FpFmt) (r n : Nat) (va vb : List Nat) (ok : Nat → Nat → Bool) (x : Accum) : Accum × BitVec 6 :=
  (List.range 32).foldl (fun (z : Accum × BitVec 6) i =>
    (List.range n).foldl (fun (z : Accum × BitVec 6) j =>
      if ok i j then
        let v := (List.range r).foldl (fun acc t => accStep k va vb acc t i j) (accGet z.1 i j, flNone)
        (accSet z.1 i j v.1, z.2 ||| v.2)
      else z) z) (x, flNone)

/-- The entries (row × 32 + column) that a tile of n columns holds and `ok` selects. -/
def tileEntries (n : Nat) (ok : Nat → Nat → Bool) : List Nat :=
  (List.range 32).flatMap fun i => (List.range n).filterMap fun j => if ok i j then some (32 * i + j) else none

/-- The shared work of `vop` and `vopm`. -/
def opWork (e : VqEntry) (e4m3 : Bool) (d : BitVec 2) (a b : BitVec 5) (r1 : BitVec 8) (base : Option Word) : M Unit := do
  let ty : Ty := if e4m3 then .e4m3 else .bf16
  let r := r1.toNat + 1
  vecCheck e [a, b] ty.width
  accCheck e d
  let bad ← ask fun s => decide (128 < r) || decide (s.strand.vlmax < 32 * r)
  badEntry bad e
  let x ← ask fun s => getAcc s.strand d
  let n ← ask fun s => Nat.min s.strand.vl 32
  let ok : Nat → Nat → Bool := match base with
    | none => fun _ _ => true
    | some sk => fun i j => allowed x i (sk.toNat + j)
  let es := tileEntries n ok
  let rows := (List.range 32).filter fun i => (List.range n).any fun j => ok i j
  let cols := (List.range n).filter fun j => (List.range 32).any fun i => ok i j
  let inA := fun k => rows.contains (k % 32)
  let inB := fun k => cols.contains (k % 32)
  let va ← mapEach (List.range (32 * r)) fun k => if inA k then readElem a ty.width k else pure 0
  let vb ← mapEach (List.range (32 * r)) fun k => if inB k then readElem b ty.width k else pure 0
  readAccCheck d es
  let y := outerProduct (fmtOf ty) r n va vb ok x
  deliverVector y.2
  mendAcc d es
  onStrand (putAcc d (match base with
    | none => { y.1 with masked := false }
    | some sk => { y.1 with masked := true, base := sk }))

/-- `vop` (R177). -/
def execVop (g : Guard) (e4m3 : Bool) (d : BitVec 2) (a b : BitVec 5) (r1 : BitVec 8) (s : State) : Out :=
  vqOp (.vop g e4m3 d a b r1) g true false (fun e => opWork e e4m3 d a b r1 none) s

/-- `vopm` (R177, R178). -/
def execVopm (g : Guard) (e4m3 : Bool) (d : BitVec 2) (a b c : BitVec 5) (r1 : BitVec 8) (s : State) : Out :=
  vqOp (.vopm g e4m3 d a b c r1) g true false (fun e => opWork e e4m3 d a b r1 (some e.c)) s

/-- `vopz` (R179). -/
def execVopz (g : Guard) (d : BitVec 2) (s : State) : Out :=
  vqOp (.vopz g d) g true false (fun e => do
    accCheck e d
    mendAcc d (List.range 1024)
    onStrand fun t => putAcc d { getAcc t d with data := 0, masked := false } t) s

/-- `vopr` (R180). -/
def execVopr (g : Guard) (d : BitVec 5) (a : BitVec 2) (row : BOp) (mo m : BitVec 3) (s : State) : Out :=
  vqOp (.vopr g d a row mo m) g true false (fun e => do
    vecCheck e [d] 32
    accCheck e a
    let i := indexOf e row
    badEntry (decide (32 ≤ i)) e
    let x ← ask fun s => getAcc s.strand a
    let n ← ask fun s => Nat.min s.strand.vl 32
    let act ← mapEach (List.range n) fun j => readMask m j
    readAccCheck a ((List.range n).filterMap fun j => if nthD act j false then some (32 * i + j) else none)
    forEach (List.range n) fun j => do
      if nthD act j false then wrV d 32 j (accGet x i j)
      wrM mo j (!x.masked || allowed x i (x.base.toNat + j))) s

/-- `mkiv` (R176). -/
def execMkiv (g : Guard) (d : BitVec 2) (a : BitVec 5) (s : State) : Out :=
  vqOp (.mkiv g d a) g true false (fun e => do
    accCheck e d
    let w ← ask vecWho
    let me' ← ask me
    let p ← checkAccess w e.a 32 .load
    let x ← loadAt me' w p 32 e.a
    let iv : Vector Word 4 := Vector.ofFn fun k => word (x / 2 ^ (64 * k.val))
    badEntry (!(iv.toList.all intervalOk)) e
    onStrand fun t => putAcc d { getAcc t d with intervals := iv } t) s

end Sys2Proof.Machine
end

