-- ==== Sys2Proof/Machine/Scalar.lean ====
section
/-! DEFINITION. Scalar integer instructions (R63 to R74). -/

namespace Sys2Proof.Machine

/-- The frame of a three-register instruction (R63): sd := f sa sb. -/
def binOp (g : Guard) (d a b : BitVec 5) (f : Word → Word → Word) (s : State) : Out :=
  plainOp g [a, b] [d] [] (onStrand fun t => setS t d (f (getS t a) (getS t b))) s

/-- The frame of a two-register instruction: sd := f sa. -/
def unOp (g : Guard) (d a : BitVec 5) (f : Word → Word) (s : State) : Out :=
  plainOp g [a] [d] [] (onStrand fun t => setS t d (f (getS t a))) s

/-- The frame of a comparison: p[D] := f sa sb. -/
def cmpOp (g : Guard) (d : BitVec 3) (rs : List (BitVec 5)) (f : Strand → Bool) (s : State) : Out :=
  plainOp g rs [] [] (onStrand fun t => setP t d (f t)) s

/-- Signed quotient and remainder (R64). -/
def sdivrem (a b : Word) : Word × Word :=
  if b = 0 then (BitVec.allOnes 64, a)
  else (BitVec.ofInt 64 (Int.tdiv a.toInt b.toInt), BitVec.ofInt 64 (Int.tmod a.toInt b.toInt))

/-- Natural quotient and remainder (R64). -/
def udivrem (a b : Word) : Word × Word :=
  if b = 0 then (BitVec.allOnes 64, a) else (word (a.toNat / b.toNat), word (a.toNat % b.toNat))

/-- The shift count sb[5:0] (R63). -/
def shiftOf (b : Word) : Nat := b.toNat % 64

/-- Leading zero bits of a w-bit value, from bit n − 1 down. -/
def clzN : Nat → Nat → Nat
  | 0, _ => 0
  | n + 1, x => if bit x n then 0 else 1 + clzN n x

/-- Trailing zero bits, at most n. -/
def ctzN : Nat → Nat → Nat
  | 0, _ => 0
  | n + 1, x => if x % 2 = 1 then 0 else 1 + ctzN n (x / 2)

/-- One bits among the low n. -/
def popN : Nat → Nat → Nat
  | 0, _ => 0
  | n + 1, x => x % 2 + popN n (x / 2)

/-- `add` (R63). -/
def execAdd (g : Guard) (d a b : BitVec 5) (s : State) : Out := binOp g d a b (fun x y => x + y) s
/-- `sub` (R63). -/
def execSub (g : Guard) (d a b : BitVec 5) (s : State) : Out := binOp g d a b (fun x y => x - y) s
/-- `mul` (R63). -/
def execMul (g : Guard) (d a b : BitVec 5) (s : State) : Out := binOp g d a b (fun x y => x * y) s
/-- `mulh` (R63). -/
def execMulh (g : Guard) (d a b : BitVec 5) (s : State) : Out :=
  binOp g d a b (fun x y => BitVec.ofInt 64 (x.toInt * y.toInt / 2 ^ 64)) s
/-- `mulhn` (R63). -/
def execMulhn (g : Guard) (d a b : BitVec 5) (s : State) : Out :=
  binOp g d a b (fun x y => word (x.toNat * y.toNat / 2 ^ 64)) s
/-- `div` (R64). -/
def execDiv (g : Guard) (d a b : BitVec 5) (s : State) : Out := binOp g d a b (fun x y => (sdivrem x y).1) s
/-- `divn` (R64). -/
def execDivn (g : Guard) (d a b : BitVec 5) (s : State) : Out := binOp g d a b (fun x y => (udivrem x y).1) s
/-- `rem` (R64). -/
def execRem (g : Guard) (d a b : BitVec 5) (s : State) : Out := binOp g d a b (fun x y => (sdivrem x y).2) s
/-- `remn` (R64). -/
def execRemn (g : Guard) (d a b : BitVec 5) (s : State) : Out := binOp g d a b (fun x y => (udivrem x y).2) s
/-- `and` (R63). -/
def execAnd (g : Guard) (d a b : BitVec 5) (s : State) : Out := binOp g d a b (fun x y => x &&& y) s
/-- `or` (R63). -/
def execOr (g : Guard) (d a b : BitVec 5) (s : State) : Out := binOp g d a b (fun x y => x ||| y) s
/-- `xor` (R63). -/
def execXor (g : Guard) (d a b : BitVec 5) (s : State) : Out := binOp g d a b (fun x y => x ^^^ y) s
/-- `andn` (R63). -/
def execAndn (g : Guard) (d a b : BitVec 5) (s : State) : Out := binOp g d a b (fun x y => x &&& ~~~y) s
/-- `orn` (R63). -/
def execOrn (g : Guard) (d a b : BitVec 5) (s : State) : Out := binOp g d a b (fun x y => x ||| ~~~y) s
/-- `min` (R63). -/
def execMin (g : Guard) (d a b : BitVec 5) (s : State) : Out := binOp g d a b (fun x y => if y.slt x then y else x) s
/-- `max` (R63). -/
def execMax (g : Guard) (d a b : BitVec 5) (s : State) : Out := binOp g d a b (fun x y => if x.slt y then y else x) s
/-- `minn` (R63). -/
def execMinn (g : Guard) (d a b : BitVec 5) (s : State) : Out := binOp g d a b (fun x y => if y.ult x then y else x) s
/-- `maxn` (R63). -/
def execMaxn (g : Guard) (d a b : BitVec 5) (s : State) : Out := binOp g d a b (fun x y => if x.ult y then y else x) s
/-- `shl` (R63). -/
def execShl (g : Guard) (d a b : BitVec 5) (s : State) : Out := binOp g d a b (fun x y => x <<< shiftOf y) s
/-- `shr` (R63). -/
def execShr (g : Guard) (d a b : BitVec 5) (s : State) : Out := binOp g d a b (fun x y => x >>> shiftOf y) s
/-- `sar` (R63). -/
def execSar (g : Guard) (d a b : BitVec 5) (s : State) : Out := binOp g d a b (fun x y => x.sshiftRight (shiftOf y)) s
/-- `rot` (R63). -/
def execRot (g : Guard) (d a b : BitVec 5) (s : State) : Out :=
  binOp g d a b (fun x y => (x <<< shiftOf y) ||| (x >>> (64 - shiftOf y))) s
/-- `clz` (R63). -/
def execClz (g : Guard) (d a : BitVec 5) (s : State) : Out := unOp g d a (fun x => word (clzN 64 x.toNat)) s
/-- `ctz` (R63). -/
def execCtz (g : Guard) (d a : BitVec 5) (s : State) : Out := unOp g d a (fun x => word (ctzN 64 x.toNat)) s
/-- `popc` (R63). -/
def execPopc (g : Guard) (d a : BitVec 5) (s : State) : Out := unOp g d a (fun x => word (popN 64 x.toNat)) s

/-- `sel` (R72). -/
def execSel (g : Guard) (d a b : BitVec 5) (c : BitVec 3) (s : State) : Out :=
  plainOp g [a, b] [d] [c] (onStrand fun t => setS t d (if getP t c then getS t a else getS t b)) s

/-- `ext` (R68). -/
def execExt (g : Guard) (d a : BitVec 5) (ty : Ty) (s : State) : Out := unOp g d a (fun x => toReg ty x.toNat) s

/-- The field of `bfx` and `bfi` (R69): LEN bits from POS. -/
def fieldOf (x : Word) (pos len : Nat) : Nat := x.toNat / 2 ^ pos % 2 ^ len

/-- `bfx` (R69). -/
def execBfx (g : Guard) (d a : BitVec 5) (pos len1 : BitVec 6) (sx : Bool) (s : State) : Out :=
  unOp g d a (fun x =>
    if sx then BitVec.ofInt 64 (signedOf (len1.toNat + 1) (fieldOf x pos.toNat (len1.toNat + 1)))
    else word (fieldOf x pos.toNat (len1.toNat + 1))) s

/-- `bfi` (R69): D is source and destination. -/
def execBfi (g : Guard) (d a : BitVec 5) (pos len1 : BitVec 6) (s : State) : Out :=
  plainOp g [a, d] [d] [] (onStrand fun t =>
    let mask : Word := word (2 ^ (len1.toNat + 1) - 1) <<< pos.toNat
    setS t d ((getS t d &&& ~~~mask) ||| ((getS t a <<< pos.toNat) &&& mask))) s

/-- `lea` (R73). -/
def execLea (g : Guard) (d a b : BitVec 5) (sh : BitVec 3) (s : State) : Out :=
  binOp g d a b (fun x y => x + (y <<< sh.toNat)) s

/-- `cmp` (R67). -/
def execCmp (g : Guard) (cc : Cond) (d : BitVec 3) (a b : BitVec 5) (s : State) : Out :=
  cmpOp g d [a, b] (fun t => condHolds cc (getS t a) (getS t b)) s

/-- `addi` (R65). -/
def execAddi (g : Guard) (d a : BitVec 5) (imm : BitVec 22) (s : State) : Out := unOp g d a (fun x => x + sext22 imm) s
/-- `andi` (R65). -/
def execAndi (g : Guard) (d a : BitVec 5) (imm : BitVec 22) (s : State) : Out := unOp g d a (fun x => x &&& sext22 imm) s
/-- `ori` (R65). -/
def execOri (g : Guard) (d a : BitVec 5) (imm : BitVec 22) (s : State) : Out := unOp g d a (fun x => x ||| zext22 imm) s
/-- `xori` (R65). -/
def execXori (g : Guard) (d a : BitVec 5) (imm : BitVec 22) (s : State) : Out := unOp g d a (fun x => x ^^^ zext22 imm) s

/-- `cmpi` (R67). -/
def execCmpi (g : Guard) (cc : Cond) (d : BitVec 3) (a : BitVec 5) (imm : BitVec 18) (s : State) : Out :=
  cmpOp g d [a] (fun t => condHolds cc (getS t a) (ext18 cc imm)) s

/-- `li` (R70). -/
def execLi (g : Guard) (d : BitVec 5) (imm : Word) (s : State) : Out :=
  plainOp g [] [d] [] (onStrand fun t => setS t d imm) s

/-- `lpc` (R71). DESIGN CHOICE: the result is the sum that R71 defines, and not the successor of which R28 speaks (log 95). -/
def execLpc (g : Guard) (d : BitVec 5) (imm : BitVec 22) (s : State) : Out :=
  plainOp g [] [d] [] (onStrand fun t => setS t d (lineBase t.pc + sext22 imm)) s

/-- `pop` (R74). -/
def execPop (g : Guard) (op : PredOp) (d a b : BitVec 3) (s : State) : Out :=
  plainOp g [] [] [a, b] (onStrand fun t => setP t d (predOp op (getP t a) (getP t b))) s

end Sys2Proof.Machine
end

