-- ==== Sys2Proof/Machine/FpScalar.lean ====
section
/-! DEFINITION. Scalar floating-point instructions (R75 to R83). -/

namespace Sys2Proof.Machine

/-- The rounding mode of a scalar instruction: a dynamic mode that selects none raises *illegal instruction* when it
executes (R125). -/
def scalarRm (i : Instr) (rm : Rm) : M Rm := fun s =>
  match rmode rm s.strand.frm with
  | some r => .ok r s
  | none => .error (.trap .illegal (headWord i)) s

/-- An operand of a scalar floating-point instruction: the low bits of its register (R75). -/
def fpArg (k : FpFmt) (x : Word) : Nat := x.toNat % 2 ^ k.w

/-- Deliver the flags, then write the result, zero-extended (R75, R77). -/
def fpWrite (d : BitVec 5) (r : FpRes) : M Unit := fun s =>
  match deliverScalar r.2 s with
  | .error e s1 => .error e s1
  | .ok _ s1 => wrS d (word r.1) s1

/-- The frame of a rounding scalar floating-point instruction (R78). -/
def fpOp (i : Instr) (g : Guard) (f : FFmt) (rm : Rm) (d : BitVec 5) (rs : List (BitVec 5))
    (op : FpFmt → Rm → Strand → FpRes) (s : State) : Out :=
  plainOp g rs [d] [] (fun s =>
    match scalarRm i rm s with
    | .error e s1 => .error e s1
    | .ok r s1 => fpWrite d (op (fmtOf (ffmtTy f)) r s1.strand) s1) s

/-- `fadd` (R78). -/
def execFadd (g : Guard) (f : FFmt) (rm : Rm) (d a b : BitVec 5) (s : State) : Out :=
  fpOp (.fadd g f rm d a b) g f rm d [a, b] (fun k r t => fpAdd k r (fpArg k (getS t a)) (fpArg k (getS t b))) s
/-- `fsub` (R78). -/
def execFsub (g : Guard) (f : FFmt) (rm : Rm) (d a b : BitVec 5) (s : State) : Out :=
  fpOp (.fsub g f rm d a b) g f rm d [a, b] (fun k r t => fpSub k r (fpArg k (getS t a)) (fpArg k (getS t b))) s
/-- `fmul` (R78). -/
def execFmul (g : Guard) (f : FFmt) (rm : Rm) (d a b : BitVec 5) (s : State) : Out :=
  fpOp (.fmul g f rm d a b) g f rm d [a, b] (fun k r t => fpMul k r (fpArg k (getS t a)) (fpArg k (getS t b))) s
/-- `fma` (R78). -/
def execFma (g : Guard) (f : FFmt) (rm : Rm) (d a b c : BitVec 5) (s : State) : Out :=
  fpOp (.fma g f rm d a b c) g f rm d [a, b, c]
    (fun k r t => fpFma k r (fpArg k (getS t a)) (fpArg k (getS t b)) (fpArg k (getS t c))) s
/-- `fdiv` (R78). -/
def execFdiv (g : Guard) (f : FFmt) (rm : Rm) (d a b : BitVec 5) (s : State) : Out :=
  fpOp (.fdiv g f rm d a b) g f rm d [a, b] (fun k r t => fpDiv k r (fpArg k (getS t a)) (fpArg k (getS t b))) s
/-- `fsqrt` (R78). -/
def execFsqrt (g : Guard) (f : FFmt) (rm : Rm) (d a : BitVec 5) (s : State) : Out :=
  fpOp (.fsqrt g f rm d a) g f rm d [a] (fun k r t => fpSqrt k r (fpArg k (getS t a))) s

/-- The frame of `fmin` and `fmax` (R79). -/
def fpPickOp (g : Guard) (f : FFmt) (d a b : BitVec 5) (op : FpFmt → Nat → Nat → FpRes) (s : State) : Out :=
  plainOp g [a, b] [d] [] (fun s =>
    let k := fmtOf (ffmtTy f)
    fpWrite d (op k (fpArg k (getS s.strand a)) (fpArg k (getS s.strand b))) s) s

/-- `fmin` (R79). -/
def execFmin (g : Guard) (f : FFmt) (d a b : BitVec 5) (s : State) : Out := fpPickOp g f d a b fpMin s
/-- `fmax` (R79). -/
def execFmax (g : Guard) (f : FFmt) (d a b : BitVec 5) (s : State) : Out := fpPickOp g f d a b fpMaxN s

/-- `fcmp` (R80). -/
def execFcmp (g : Guard) (f : FFmt) (cc : FCond) (d : BitVec 3) (a b : BitVec 5) (s : State) : Out :=
  plainOp g [a, b] [] [] (fun s =>
    let k := fmtOf (ffmtTy f)
    let r := fpCond k cc (fpArg k (getS s.strand a)) (fpArg k (getS s.strand b))
    match deliverScalar r.2 s with
    | .error e s1 => .error e s1
    | .ok _ s1 => wrP d r.1 s1) s

/-- `fcvt` (R82, R83). -/
def execFcvt (g : Guard) (dty sty : Ty) (rm : Rm) (d a : BitVec 5) (s : State) : Out :=
  plainOp g [a] [d] [] (fun s =>
    match scalarRm (.fcvt g dty sty rm d a) rm s with
    | .error e s1 => .error e s1
    | .ok r s1 =>
      let x := convert r dty sty ((getS s1.strand a).toNat % 2 ^ sty.width)
      match deliverScalar x.2 s1 with
      | .error e s2 => .error e s2
      | .ok _ s2 => wrS d (toReg dty x.1) s2) s

/-- `fclass` (R81). -/
def execFclass (g : Guard) (f : FFmt) (d a : BitVec 5) (s : State) : Out :=
  unOp g d a (fun x => word (fpClass (fmtOf (ffmtTy f)) (fpArg (fmtOf (ffmtTy f)) x))) s

end Sys2Proof.Machine
end

