-- ==== Sys2Proof/Machine/Sync.lean ====
section
/-! DEFINITION. The memory model's instructions: boundaries, atomics, and full/empty accesses (R186 to R198). -/

namespace Sys2Proof.Machine

-- ## Boundaries (R194)

/-- A release by a scalar instruction waits for every older VQ entry that stores (R194). -/
def storesDrained : M Unit := fun s =>
  if s.strand.vq.any entryStores then .error (.wait .drain) s else .ok () s

/-- A release by the acting strand, with the vector stores older than it (R191, R194). -/
def releaseAll (sc : Scope) : M Unit := fun s =>
  match storesDrained s with
  | .error e s1 => .error e s1
  | .ok _ s1 => releaseAt sc s1

/-- The frame of a boundary: guarded off, it still orders the two streams (R34, R194). -/
def boundaryOp (g : Guard) (order work : M Unit) (s : State) : Out :=
  scalarOp g [] [] [] (if guardOn g s.strand then noCheck else (do order; change fun s => orderStores (me s) (2 ^ 64) s))
    (thenNext work) s

/-- `phase` (R193, R194). -/
def execPhase (g : Guard) (sc : Scope) (s : State) : Out :=
  boundaryOp g storesDrained (do releaseAll sc; acquireAt sc) s
/-- `rel` (R193, R194). -/
def execRel (g : Guard) (sc : Scope) (s : State) : Out := boundaryOp g storesDrained (releaseAll sc) s
/-- `acq` (R193, R194). -/
def execAcq (g : Guard) (sc : Scope) (s : State) : Out := boundaryOp g noCheck (acquireAt sc) s

-- ## Atomics (R196 to R198)

/-- The checks of an atomic (R197): as a store, with permission R and W, then the range protocol. -/
def atomicCheck (w : Who) (va : Word) (n : Nat) (pcie : Bool) : M Place := do
  let p ← checkAccess w va n .store
  let _ ← checkAccess w va n .load
  trapIf (match p.space with
    | .host nc => nc && !pcie
    | _ => false) .protection va
  let me' ← ask me
  checkPhaseFree me' w p va
  pure p

/-- The atomic executes at the core or cluster store: scope `co` or `cl` on cached data of this module (R190, R197); one of a
ONCE or RO line goes to the home, which checks it (R270). -/
def near (s : State) (cl : Nat) (p : Place) (sc : Scope) : Bool :=
  scopeNum sc ≤ 2 && (match p.space with
    | .dev attr => attr != 3 && placeSlot s cl p != 4 && (ruledSlot s cl (p.key / 64)).isNone && p.key / 2 ^ 43 == myModule s
    | _ => false)

/-- The frame of an atomic (R197). `f`: the new value from the old one and the operand, none to leave the location. `flags`:
the flags of an addition. `pcie`: allowed on an NC page of the host. `readsD`: sd is a source. DESIGN CHOICE: with D = 0 the
flags of an addition that no slice performs, at a core or cluster store, a scratch bank or the host, are dropped (log 27). -/
def atomicOp (g : Guard) (ty : Ty) (sc : Scope) (acq rel pcie readsD : Bool) (d a b : BitVec 5)
    (off : BitVec 24) (f : Strand → Nat → Nat → Option Nat) (flags : Nat → Nat → BitVec 6) (s : State) : Out :=
  plainOp g (if readsD then [a, b, d] else [a, b]) [d] [] (do
    fenceWait
    let va ← ask fun s => effAddr s.strand a off
    let w ← ask whoAmI
    let me' ← ask me
    let p ← atomicCheck w va ty.bytes pcie
    if rel then releaseAll sc
    let t ← ask fun s => s.strand
    let x := (getS t b).toNat % 2 ^ ty.width
    let isNear ← ask fun s => near s w.cl p sc
    let old ← if isNear then atomicNear me' w p ty.bytes (scopeNum sc) va (fun o => f t o x)
              else atomicAt me' w p ty.bytes va (fun o => f t o x)
    if d = 0 then
      change fun s => match p.space with
        | .dev _ => if isNear then s else addSliceFlags p.key (flags old x) s
        | _ => s
    else
      addFlags (flags old x)
      wrS d (toReg ty old)
    if acq then acquireAt sc) s

/-- No flag arises. -/
def noFlags (_ _ : Nat) : BitVec 6 := flNone

/-- `amoadd` (R196). -/
def execAmoadd (g : Guard) (ty : Ty) (sc : Scope) (acq rel : Bool) (d a b : BitVec 5) (off : BitVec 24) (s : State) : Out :=
  atomicOp g ty sc acq rel true false d a b off (fun _ o x => some ((o + x) % 2 ^ ty.width)) noFlags s
/-- `amofadd` (R196, R198). -/
def execAmofadd (g : Guard) (ty : Ty) (sc : Scope) (acq rel : Bool) (d a b : BitVec 5) (off : BitVec 24) (s : State) :
    Out :=
  atomicOp g ty sc acq rel false false d a b off (fun _ o x => some (fpAdd (fmtOf ty) .rne o x).1)
    (fun o x => (fpAdd (fmtOf ty) .rne o x).2) s
/-- `amomin` (R196). -/
def execAmomin (g : Guard) (ty : Ty) (sc : Scope) (acq rel : Bool) (d a b : BitVec 5) (off : BitVec 24) (s : State) : Out :=
  atomicOp g ty sc acq rel false false d a b off (fun _ o x => some (if intOf ty x < intOf ty o then x else o)) noFlags s
/-- `amomax` (R196). -/
def execAmomax (g : Guard) (ty : Ty) (sc : Scope) (acq rel : Bool) (d a b : BitVec 5) (off : BitVec 24) (s : State) : Out :=
  atomicOp g ty sc acq rel false false d a b off (fun _ o x => some (if intOf ty o < intOf ty x then x else o)) noFlags s
/-- `amoand` (R196). -/
def execAmoand (g : Guard) (ty : Ty) (sc : Scope) (acq rel : Bool) (d a b : BitVec 5) (off : BitVec 24) (s : State) : Out :=
  atomicOp g ty sc acq rel false false d a b off (fun _ o x => some (o &&& x)) noFlags s
/-- `amoor` (R196). -/
def execAmoor (g : Guard) (ty : Ty) (sc : Scope) (acq rel : Bool) (d a b : BitVec 5) (off : BitVec 24) (s : State) : Out :=
  atomicOp g ty sc acq rel false false d a b off (fun _ o x => some (o ||| x)) noFlags s
/-- `amoxor` (R196). -/
def execAmoxor (g : Guard) (ty : Ty) (sc : Scope) (acq rel : Bool) (d a b : BitVec 5) (off : BitVec 24) (s : State) : Out :=
  atomicOp g ty sc acq rel false false d a b off (fun _ o x => some (o ^^^ x)) noFlags s
/-- `amoswap` (R196). -/
def execAmoswap (g : Guard) (ty : Ty) (sc : Scope) (acq rel : Bool) (d a b : BitVec 5) (off : BitVec 24) (s : State) :
    Out :=
  atomicOp g ty sc acq rel true false d a b off (fun _ _ x => some x) noFlags s
/-- `amocas` (R196, R197): the location changes when it holds the low bits of sd. -/
def execAmocas (g : Guard) (ty : Ty) (sc : Scope) (acq rel : Bool) (d a b : BitVec 5) (off : BitVec 24) (s : State) : Out :=
  atomicOp g ty sc acq rel true true d a b off
    (fun t o x => if o = (getS t d).toNat % 2 ^ ty.width then some x else none) noFlags s

-- ## Full/empty granules (R186 to R188)

/-- The granule of a key of a cluster's scratch window. -/
def granuleOf (cl key : Nat) : Nat := (key - clKey cl 0) / 16
/-- A granule is full. -/
def granuleFull (s : State) (cl k : Nat) : Bool := (clusterAt s cl).full.contains k
/-- Set a granule full or empty. -/
def setGranule (cl k : Nat) (full : Bool) (s : State) : State :=
  mapCluster cl (fun c => { c with full := if full then insertN c.full k else c.full.filter fun x => x != k }) s

/-- The address lies in a C-role slot of the cluster's scratch window (R187). -/
def cRoleSlot (s : State) (w : Who) (va : Nat) : Bool :=
  let off := va - 0x00FFFFFF00000000
  inLocal va && decide (off < 0x1800000) && ((clusterAt s w.cl).banks[off / 0x80000]?).any fun r => r == .c

/-- The range check of a store that no bank receives (R85, R187): it finds what the store would meet and writes nothing. -/
def probeWrite (w : Who) (p : Place) (s : State) : Option Cause :=
  match p.space with
  | .dev attr =>
    let slot := slotOfLine s w.cl (p.key / 64) attr
    if attr = 3 || slot = 4 then faultThere w.cl (p.key / 64) s else writeFault slot w.cl (p.key / 64) s
  | _ => none

/-- The checks of a full/empty access (R187): those of R85, then the slot. -/
def granuleCheck (w : Who) (va : Word) (n : Nat) (acc : Acc) : M Place := fun s =>
  if va.toNat / 2 ^ 57 = 0 ∧ va.toNat % n = 0 ∧ cRoleSlot s w va.toNat then .error (.trap .noFullEmpty va) s
  else
    match checkAccess w va n acc s with
    | .error e s1 => .error e s1
    | .ok p s1 =>
      match p.space with
      | .clScratch _ => .ok p s1
      | _ => .error (.trap (if acc = .store then (probeWrite w p s1).getD .noFullEmpty else .noFullEmpty) va) s1

/-- `ldfe` (R187): waits for a full granule. -/
def ldfeOp (g : Guard) (clr : Bool) (ty : Ty) (d a : BitVec 5) (off : BitVec 24) (s : State) : Out :=
  plainOp g [a] [d] [] (do
    fenceWait
    let va ← ask fun s => effAddr s.strand a off
    let w ← ask whoAmI
    let p ← granuleCheck w va ty.bytes .load
    let k := granuleOf w.cl p.key
    let full ← ask fun s => granuleFull s w.cl k
    waitIf (!full) .granule
    let bad ← ask fun s => poisoned s p.key ty.bytes
    trapIf bad .dataError va
    let me' ← ask me
    let v ← ask fun s => leNat (rawView s me' w p.key ty.bytes)
    if clr then change (setGranule w.cl k false)
    wrS d (toReg ty v)
    acquireAt .cl) s

/-- `stfe` (R187): it releases at `cl`, waits for an empty granule under `.wait`, stores at the bank and fills the granule. -/
def stfeOp (g : Guard) (wait : Bool) (ty : Ty) (d a : BitVec 5) (off : BitVec 24) (s : State) : Out :=
  plainOp g [a, d] [] [] (do
    fenceWait
    let va ← ask fun s => effAddr s.strand a off
    let w ← ask whoAmI
    let me' ← ask me
    let p ← granuleCheck w va ty.bytes .store
    releaseAll .cl
    let k := granuleOf w.cl p.key
    let full ← ask fun s => granuleFull s w.cl k
    waitIf (wait && full) .granule
    let v ← ask fun s => getS s.strand d
    change fun s =>
      let s1 := flushOwn me' p.key ty.bytes s
      healPoison (span p.key (p.key + ty.bytes)) { s1 with mem := memWrite s1.mem p.key (leBytes ty.bytes v.toNat) }
    change (setGranule w.cl k true)) s

/-- `ldfe.keep` (R187). -/
def execLdfeKeep (g : Guard) (ty : Ty) (d a : BitVec 5) (off : BitVec 24) (s : State) : Out := ldfeOp g false ty d a off s
/-- `ldfe.clr` (R187). -/
def execLdfeClr (g : Guard) (ty : Ty) (d a : BitVec 5) (off : BitVec 24) (s : State) : Out := ldfeOp g true ty d a off s
/-- `stfe.fill` (R187). -/
def execStfeFill (g : Guard) (ty : Ty) (d a : BitVec 5) (off : BitVec 24) (s : State) : Out := stfeOp g false ty d a off s
/-- `stfe.wait` (R187). -/
def execStfeWait (g : Guard) (ty : Ty) (d a : BitVec 5) (off : BitVec 24) (s : State) : Out := stfeOp g true ty d a off s

end Sys2Proof.Machine
end

