-- ==== Sys2Proof/Machine/VecCfg.lean ====
section
/-! DEFINITION. Vector configuration: `vcfg`, `setvl`, `setvl.w` (R110 to R121). -/

namespace Sys2Proof.Machine

/-- The fields of a `vcfg` request (R113). -/
structure VcfgReq where
  nreg : Nat
  ew   : Nat
  ext  : Nat
  nacc : Nat
  wait : Bool
deriving DecidableEq, Repr

/-- Read a request; a reserved value or bit gives none (R113). -/
def readVcfg (x : Word) : Option VcfgReq :=
  let n := x.toNat
  if n / 2 ^ 12 ≠ 0 ∨ bits n 1 0 = 3 ∨ 8 < bits n 7 4 ∨ 4 < bits n 10 8 then none
  else some { nreg := 8 * 2 ^ bits n 1 0, ew := 8 * 2 ^ bits n 3 2, ext := bits n 7 4, nacc := bits n 10 8, wait := bit n 11 }

/-- The largest power of two, from 2^k down, whose elements fit the storage (R114). -/
def fitLen (bpe store : Nat) : Nat → Nat
  | 0 => 1
  | k + 1 => if 2 ^ (k + 1) * bpe ≤ store then 2 ^ (k + 1) else fitLen bpe store k

/-- Bytes per element over all registers (R114). -/
def bytesPerElem (q : VcfgReq) : Nat := q.nreg * q.ew / 8

/-- VLMAX for a base share and a number of extension banks (R114). -/
def grantLen (base ext : Nat) (q : VcfgReq) : Nat := fitLen (bytesPerElem q) (base + ext * 16384) 12

/-- The extension banks that a grant needs (R114). -/
def grantExt (base vlmax : Nat) (q : VcfgReq) : Nat := ceilDiv (vlmax * bytesPerElem q - base) 16384

/-- The numbers of the banks in role C, highest first. -/
def cBanks (c : CoreState) : List Nat :=
  ((List.range 16).filter fun k => if h : k < 16 then c.banks[k] == .c else false).reverse

/-- Banks that can leave role C (R111). -/
def canLeave (c : CoreState) : Nat := (cBanks c).length - 4

/-- Move the highest-numbered n C banks into role V for a slot (R111). -/
def takeBanks (n slot : Nat) (c : CoreState) : CoreState :=
  { c with banks := ((cBanks c).take n).foldl (fun b k => b.setIfInBounds k (.v slot)) c.banks }

/-- Accumulators that strands other than the acting one have claimed on a core. -/
def accsClaimed (s : State) (co : Nat) : Nat :=
  (s.others.map fun t => if t.bound && coreOf t.id == co then t.accs.length else 0).sum

/-- The strand's state after a grant (R114): registers zero, masks all-false, VL 0, accumulators fresh. -/
def granted (q : VcfgReq) (vlmax ext nacc : Nat) (t : Strand) : Strand :=
  { t with
    nreg := q.nreg, ew := q.ew, ext := ext, vlmax := vlmax, vl := 0
    vregs := Vector.replicate 32 0, masks := Vector.replicate 8 0, accs := List.replicate nacc Accum.fresh
    upsets := t.upsets.filter fun u => u.file == .scalar || u.file == .pred }

/-- Release a strand's banks and accumulators (R114). -/
def releaseGrant (s : State) : State :=
  mapStrand (fun t => { t with ext := 0, accs := [] }) (freeBanks s.strand.id s)

/-- The strand executes: it is bound, and neither stopped nor held by a page fault. -/
def runs (t : Strand) : Bool := t.bound && !t.stopped && t.fault.isNone

/-- The `vcfg` at the head of a strand's VQ, if there is one, and its request. -/
def headVcfg (t : Strand) : Option (VqEntry × VcfgReq) :=
  match t.vq with
  | e :: _ => if entryOp e = 0x40 && runs t then (readVcfg e.a).map fun q => (e, q) else none
  | [] => none

/-- The banks and accumulators that a strand's own request of a core could have now (R114). DESIGN CHOICE: an older `vcfg` with WAIT =
1 that cannot have the whole of its request yet does not hold back younger ones (log 88). -/
def couldGrant (s : State) (t : Strand) (q : VcfgReq) : Bool :=
  let c := coreAt s (coreOf t.id)
  let own := (c.banks.toList.filter fun b => b == .v (slotOf t.id)).length
  let used := ((s.strand :: s.others).map fun u => if u.bound && u.id != t.id && coreOf u.id == coreOf t.id then u.accs.length else 0).sum
  !q.wait || (decide (q.ext ≤ canLeave c + own) && decide (q.nacc + used ≤ 4))

/-- The head entry of another strand is older than an entry of the acting one, a tie going to the lower slot (R109). -/
def olderHead (s : State) (e : VqEntry) (t : Strand) : Bool :=
  (t.vq.head?.map fun x =>
    decide (x.age < e.age) || (x.age == e.age && decide (slotOf t.id < slotOf s.strand.id))).getD false

/-- The head entry of a strand can execute now: a `vcfg` that can be granted, or an entry of another opcode that does not wait. -/
def headReady (s : State) (t : Strand) : Bool :=
  runs t && ((headVcfg t).map fun x => couldGrant s t x.2).getD t.vqWait.isNone

/-- An older entry stands at the head of another VQ of the core and can execute: it goes first (R109). The order of the heads affects
one result, the grant of a `vcfg`, so it is kept where one is granted (R109, R114). -/
def olderVcfg (s : State) (e : VqEntry) : Bool :=
  s.others.any fun t => coreOf t.id == coreOf s.strand.id && olderHead s e t && headReady s t

/-- Where banks have left role C, the copies of the core go (R111, R271). -/
def leaveC (ext co : Nat) (s : State) : State := if ext = 0 then s else unmarkCore co s

/-- Grant a request (R114), the strand's own storage released first; with WAIT it waits for the whole request. -/
def grantVcfg (q : VcfgReq) : M Unit := fun s0 =>
  let s := releaseGrant s0
  let co := coreOf s.strand.id
  let c := coreAt s co
  let free := 4 - accsClaimed s co
  if q.wait && (decide (canLeave c < q.ext) || decide (free < q.nacc)) then .error (.wait .grant) s
  else
    let ext := Nat.min q.ext (canLeave c)
    let nacc := Nat.min q.nacc free
    let vlmax := grantLen s.strand.base ext q
    let ext' := grantExt s.strand.base vlmax q
    .ok () (mapStrand (granted q vlmax ext' nacc) (leaveC ext' co (putCore s co (takeBanks ext' (slotOf s.strand.id) c))))

/-- `vcfg` (R113, R114), in the order of R109 among those of the core. -/
def execVcfg (g : Guard) (d a : BitVec 5) (s : State) : Out :=
  vqOp (.vcfg g d a) g true false (fun e => do
    match readVcfg e.a with
    | none => raise .illegal (e.head.setWidth 64)
    | some q =>
      let older ← ask fun s => olderVcfg s e
      waitIf older .grant
      grantVcfg q
      onStrand fun t => setS t d (word t.vlmax)) s

/-- `setvl` (R119). -/
def execSetvl (g : Guard) (d a : BitVec 5) (s : State) : Out :=
  vqOp (.setvl g d a) g true false (fun e => do
    onStrand fun t => { t with vl := Nat.min e.a.toNat t.vlmax }
    onStrand fun t => setS t d (word t.vl)) s

/-- The new VL of `setvl.w`, or none while it waits (R121). -/
def tetherLen (w n taken vlmax : Nat) : Option Nat :=
  if taken < w % 2 ^ 63 then some (Nat.min (Nat.min n vlmax) (w % 2 ^ 63 - taken))
  else if bit w 63 then some 0
  else none

/-- `setvl.w` (R121). -/
def execSetvlW (g : Guard) (d a b : BitVec 5) (s : State) : Out :=
  vqOp (.setvlW g d a b) g true false (fun e => do
    trapIf (e.tether.toNat % 8 != 0) .misaligned e.tether
    let w ← ask vecWho
    let me' ← ask me
    let x ← atomicRead me' w e.tether 8
    let vlmax ← ask fun s => s.strand.vlmax
    match tetherLen x e.a.toNat e.b.toNat vlmax with
    | none => waitFor .watch
    | some n =>
      onStrand fun t => setS { t with vl := n } d (word n)
      acquireAt .dm) s

end Sys2Proof.Machine
end

