-- ==== Sys2Proof/Machine/Jobs.lean ====
section
/-! DEFINITION. Engine jobs: issuers, footprints, the job sequencer (R199, R200), and the records a job leaves with its
issuer. -/

namespace Sys2Proof.Machine

-- ## Issuers and agents

/-- The acting strand as the issuer of a job. -/
def issuerNow (s : State) : Issuer :=
  let t := s.strand
  { queue := t.queue, sup := priv t, wb := t.wb, wn := t.wn, flight := t.flight, crew := t.crew, idx := t.idx.toNat,
    strand := t.id.toNat }

/-- An engine's accesses are made in the issuer's context (R234). -/
def engineWho (cl : Nat) (b : Issuer) (redir : Bool) : Who :=
  { cl := cl, co := 255, queue := b.queue, sup := b.sup, wb := b.wb, wn := b.wn, redir := redir }

/-- The agent that a Reel channel is. -/
def reelAgent (cl ch : Nat) : Nat := 2 ^ 20 + 4 * cl + ch
/-- The agent that a cluster's Bridle part is. -/
def bridleAgent (cl : Nat) : Nat := 2 ^ 21 + cl

/-- A flight as the agent that keeps what its discarded strands and its complete transfers have published, until the flight is
counted (R291, R380). -/
def flightAgent (f : Nat) : Nat := 2 ^ 40 + f

/-- Published stores of an agent go over to another, and what it has taken in is forgotten. -/
def handOver (old new : Nat) (l : List PStore) : List PStore :=
  l.map fun p =>
    if p.owner = old && decide (1 ≤ p.lvl) then { p with owner := new, takers := p.takers.filter fun x => x != old }
    else { p with takers := p.takers.filter fun x => x != old }

/-- Change the strand of a crew with an index, bound or recalled. -/
def atStrand (crew idx : Nat) (f : Strand → Strand) (s : State) : State :=
  let g (t : Strand) : Strand := if t.bound && t.crew == crew && t.idx.toNat == idx then f t else t
  { s with strand := g s.strand, others := s.others.map g, parked := s.parked.map g }

-- ## Footprints (R200)

/-- The rows of a footprint: first address and length. -/
def footRows (f : Foot) : List (Nat × Nat) :=
  (List.range f.ext.2.2).flatMap fun k => (List.range f.ext.2.1).flatMap fun j => (List.range f.ext.1).map fun i =>
    ((f.base + word i * f.str.1 + word j * f.str.2.1 + word k * f.str.2.2).toNat, f.len)

/-- One contiguous block. -/
def flatFoot (base : Word) (len : Nat) : Foot := { base := base, len := len, ext := (1, 1, 1), str := (0, 0, 0) }

/-- Rows of a plane. -/
def planeFoot (base : Word) (len rows stride : Nat) : Foot :=
  { base := base, len := len, ext := (rows, 1, 1), str := (word stride, 0, 0) }

/-- Two blocks share a 64-byte line. -/
def rowsMeet (x y : Nat × Nat) : Bool :=
  decide (0 < x.2) && decide (0 < y.2) && decide (x.1 / 64 ≤ (y.1 + y.2 - 1) / 64) && decide (y.1 / 64 ≤ (x.1 + x.2 - 1) / 64)

/-- The part of a row that lies in the old range of a forwarding pair in use, under its address in the new range: the two name
one location (R247). -/
def alsoAt (p : Pair) (x : Nat × Nat) : Option (Nat × Nat) :=
  let lo := Nat.max x.1 p.old.toNat
  let hi := Nat.min (x.1 + x.2) (p.old.toNat + 2 ^ p.z)
  if p.state = .free ∨ hi ≤ lo then none else some (lo - p.old.toNat + p.new.toNat, hi - lo)

/-- The rows of footprints, those in a forwarding pair under both addresses. -/
def rowsIn (ps : List Pair) (l : List Foot) : List (Nat × Nat) :=
  let rows := l.flatMap footRows
  rows ++ ps.flatMap fun p => rows.filterMap (alsoAt p)

/-- Two sets of footprints share a line. -/
def feetMeet (ps : List Pair) (a b : List Foot) : Bool :=
  (rowsIn ps a).any fun x => (rowsIn ps b).any fun y => rowsMeet x y

/-- The mark of a `bankrole`, which is compared with the jobs of every address space (R200). -/
def anyAsid : Nat := 2 ^ 12

/-- A later job waits for an earlier one of its address space, or a `bankrole`, whose footprint conflicts with its own (R200).
-/
def conflicts (ps : List Pair) (earlier later : SeqInfo) : Bool :=
  (earlier.asid == later.asid || earlier.asid == anyAsid || later.asid == anyAsid) &&
    (feetMeet ps earlier.writes later.reads || feetMeet ps earlier.reads later.writes ||
      feetMeet ps earlier.writes later.writes)

/-- The places that the `bankrole` instructions of a cluster's strands hold (R189). -/
def bankroles (s : State) (cl : Nat) : List SeqInfo :=
  (s.strand :: s.others).filterMap fun t => if t.bound && clusterOf t.id == cl then t.place else none

/-- The jobs of a cluster that are not complete. -/
def openJobs (s : State) (cl : Nat) : List SeqInfo :=
  let c := clusterAt s cl
  (c.reel.toList.flatMap fun ch => ch.jobs.map fun j => j.seq) ++
    (c.lk.filter fun j => j.state != .complete).map (fun j => j.seq) ++ c.ops.map (fun o => o.seq) ++ bankroles s cl

/-- No earlier job of the cluster holds a job back. -/
def clearToStart (s : State) (cl : Nat) (q : SeqInfo) : Bool :=
  (openJobs s cl).all fun e => !(decide (e.order < q.order) && conflicts (clusterAt s cl).pairs.toList e q)

/-- A job is received by the sequencer (R200). -/
def receive (cl : Nat) (asid : Nat) (reads writes : List Foot) (s : State) : SeqInfo × State :=
  let c := clusterAt s cl
  ({ order := c.order, asid := asid, reads := reads, writes := writes, disp := false },
    putCluster s cl { c with order := c.order + 1 })

/-- Dispatch what can start (R200). -/
def dispatchJobs (s : State) (cl : Nat) (c : ClusterState) : ClusterState :=
  let go (q : SeqInfo) : SeqInfo := if q.disp || clearToStart s cl q then { q with disp := true } else q
  { c with
    reel := c.reel.map fun ch => { ch with jobs := ch.jobs.map fun j => { j with seq := go j.seq } }
    lk := c.lk.map fun j => { j with seq := go j.seq }
    ops := c.ops.map fun o => { o with seq := go o.seq } }

/-- `JOB_SEQUENCER_DISPATCH` (R200). -/
def execJobSequencerDispatch (cl : Nat) (s : State) : Out := .next (mapCluster cl (dispatchJobs s cl) s)

/-- The write footprint of a `bankrole` on the cluster store: the bank's slot of the cluster scratch window (R189, R200). -/
def bankFoot (bank : Nat) : Foot := flatFoot (word (0x00FFFFFF00000000 + bank * 0x80000)) 0x80000

/-- The write footprint of a `bankrole` on the core store: the bank's slot of the core scratch window, which a transfer reads
(R189, R236). -/
def coreBankFoot (bank : Nat) : Foot := flatFoot (word (0x00FFFFFF40000000 + bank * 0x4000)) 0x4000

/-- The acting strand's `bankrole` takes its place in the sequencer, once (R189 step 3). -/
def takePlace (store : Bool) (bank : Nat) : M SeqInfo := fun s =>
  match s.strand.place with
  | some q => .ok q s
  | none =>
    let (q, s1) := receive (myCluster s) anyAsid [] [if store then bankFoot bank else coreBankFoot bank] s
    .ok q (mapStrand (fun t => { t with place := some q }) s1)

/-- Some job of an issuer of a kind is not complete. -/
def jobsLeft (s : State) (of : Issuer → Bool) : Bool :=
  s.clusters.any fun x =>
    x.2.reel.toList.any (fun ch => ch.jobs.any fun j => of j.by_) ||
      x.2.lk.any (fun j => j.state != .complete && of j.by_) || x.2.ops.any fun o => of o.by_

/-- Jobs of a flight that are not complete (R291). -/
def flightBusy (s : State) (f : Nat) : Bool := jobsLeft s fun b => b.flight == f

-- ## Changing a bank's role (R183 to R189)

/-- Discard the bytes of a cluster-store bank: every byte reads 0, every granule is empty (R185). -/
def clearBank (cl bank : Nat) (s : State) : State :=
  let lo := clKey cl (bank * 0x80000)
  let hi := lo + 0x80000
  mapCluster cl (fun c => { c with
      full := c.full.filter fun k => !(decide (bank * 0x8000 ≤ k) && decide (k < (bank + 1) * 0x8000)) })
    { s with
      mem := s.mem.filter fun x => !(decide (lo ≤ x.1) && decide (x.1 < hi))
      stores := s.stores.filter fun p => !(decide (lo ≤ p.key) && decide (p.key < hi))
      poison := s.poison.filter fun u => !(decide (lo ≤ u) && decide (u < hi)) }

/-- The lines of a cluster whose copies lie in a bank (R182). -/
def linesOfBank (s : State) (cl bank : Nat) : List Nat :=
  let cs := (List.range 48).filter fun k => (clusterAt s cl).banks[k]? == some .c
  if cs.isEmpty then []
  else (s.clines.filter fun c => c.cl == cl && nthD cs (c.line % cs.length) 48 == bank).map fun c => c.line

/-- Set a cluster-store bank's role with the effects of R185: the copies that lie in a bank which leaves role C are replaced.
What their lines had to write is at the home already, or on its way there, and the bytes that the cluster holds outside the
protocol stay held (R260; log 75). -/
def setClRole (cl bank : Nat) (r : ClBank) (s : State) : State :=
  match (clusterAt s cl).banks[bank]? with
  | none => s
  | some old =>
    if old = r then s
    else
      let s0 := if old = .c then (linesOfBank s cl bank).foldl (fun s l => evictCopy cl l s) s else s
      let s1 := mapCluster cl (fun c => { c with banks := c.banks.setIfInBounds bank r }) s0
      if old = .c ∨ r = .c then clearBank cl bank s1 else s1

/-- Set a core-store bank's role between C and S (R111, R185). -/
def setCoRole (co bank : Nat) (r : CoreBank) (s : State) : State :=
  let c := coreAt s co
  let lo := coKey co (bank * 0x4000)
  let hi := lo + 0x4000
  { unmarkCore co (putCore s co { c with banks := c.banks.setIfInBounds bank r }) with
    mem := s.mem.filter fun x => !(decide (lo ≤ x.1) && decide (x.1 < hi))
    stores := s.stores.filter fun p => !(decide (lo ≤ p.key) && decide (p.key < hi))
    poison := s.poison.filter fun u => !(decide (lo ≤ u) && decide (u < hi)) }

/-- The role a code names for a cluster-store bank. -/
def clRole : Nat → ClBank
  | 1 => .s
  | 2 => .f
  | _ => .c

/-- How many banks of a cluster are in role C. -/
def clCount (c : ClusterState) : Nat := (c.banks.toList.filter fun b => b == .c).length

/-- The status of a `bankrole` on the cluster store, and its effect (R189). -/
def bankroleCl (cl bank role : Nat) (s : State) : Nat × State :=
  let c := clusterAt s cl
  if c.banks[bank]? = some .c ∧ role ≠ 0 ∧ clCount c ≤ 8 then (1, s)
  else (0, setClRole cl bank (clRole role) s)

/-- The status of a `bankrole` on the core store, and its effect (R189). DESIGN CHOICE: for a bank in role V of which role F is
asked, both refusals apply and the spec orders none; the status is 3 (log 76). -/
def bankroleCo (co bank role : Nat) (s : State) : Nat × State :=
  let c := coreAt s co
  match c.banks[bank]? with
  | none => (0, s)
  | some old =>
    if role = 2 then (3, s)
    else
      match old with
      | .v _ => (2, s)
      | _ =>
        let r : CoreBank := if role = 0 then .c else .s
        if old = r then (0, s)
        else if old = .c ∧ (cBanks c).length ≤ 4 then (1, s)
        else (0, setCoRole co bank r s)

/-- `bankrole` (R189). DESIGN CHOICE: in user mode, naming the role that an S or F bank of the window already has is permitted
(log 77). -/
def execBankrole (g : Guard) (d a b : BitVec 5) (s : State) : Out :=
  plainOp g [a, b] [d] [] (do
    let x ← ask fun s => (getS s.strand a).toNat
    let y ← ask fun s => (getS s.strand b).toNat
    let bank := bits x 5 0
    let store := bit x 8
    illegalIf (bits x 7 6 != 0 || x / 2 ^ 9 != 0 || y / 4 != 0 || y == 3 || decide ((if store then 47 else 15) < bank))
      (.bankrole g d a b)
    let t ← ask fun s => s.strand
    let cl ← ask myCluster
    let own := decide (t.wb ≤ bank) && decide (bank < t.wb + t.wn)
    let now ← ask fun s => (clusterAt s cl).banks[bank]?
    trapIf (!priv t && !(store && own && now != some .c && now.isSome && y != 0)) .privileged (headWord (.bankrole g d a b))
    waitIf (!t.vq.isEmpty) .drain
    releaseAt .cl
    let q ← takePlace store bank
    let clear ← ask fun s => clearToStart s cl q
    waitIf (!clear) .engine
    let r ← ask fun s => if store then bankroleCl cl bank y s else bankroleCo (coreOf t.id) bank y s
    change fun _ => r.2
    onStrand fun t => { t with place := none }
    wrS d (word r.1)) s

end Sys2Proof.Machine
end

