-- ==== Sys2Proof/Machine/Claims.lean ====
section
/-! DEFINITION. Claims, tether words and the crew barrier (R242 to R246). -/

namespace Sys2Proof.Machine

/-- `claim` (R242). -/
def execClaim (g : Guard) (d a b : BitVec 5) (s : State) : Out :=
  vqOp (.claim g d a b) g true false (fun e => do
    trapIf (e.a.toNat % 16 != 0) .misaligned e.a
    let w ← ask vecWho
    let me' ← ask me
    let p ← checkAccess w e.a 16 .store
    let _ ← checkAccess w e.a 16 .load
    trapIf (p.space == .host true) .protection e.a
    checkPhaseFree me' w p e.a
    let vlmax ← ask fun s => s.strand.vlmax
    let grant := fun x : Nat =>
      let nx := x % 2 ^ 64
      let lm := x / 2 ^ 64
      if nx < lm then Nat.min (Nat.min e.b.toNat vlmax) (lm - nx) else 0
    let x ← atomicAt me' w p 16 e.a fun x => if grant x = 0 then none else some (setField x 0 64 (x % 2 ^ 64 + grant x))
    onStrand fun t => setS { t with vl := grant x } d (word (x % 2 ^ 64))) s

/-- `pubh` (R243). -/
def execPubh (g : Guard) (a b : BitVec 5) (s : State) : Out :=
  vqOp (.pubh g a b) g true false (fun e => do
    trapIf (e.a.toNat % 8 != 0) .misaligned e.a
    let w ← ask vecWho
    let me' ← ask me
    let p ← checkAccess w e.a 8 .store
    checkPhaseFree me' w p e.a
    releaseAt .cl
    let _ ← phaseFreeAt false me' w p 8 e.a fun _ => some e.b.toNat) s

-- ## The crew barrier (R245, R246)

/-- The crew of the acting strand; a crew that Mooring does not list is the strand alone. -/
def crewAt (s : State) (id : Nat) : Option Crew := s.crews.find? fun c => c.id == id

/-- Every strand of a crew has arrived or ended (R245, R246). -/
def allArrived (c : Crew) : Bool := (List.range c.size).all fun k => c.here.contains k || c.ended.contains k

/-- A generation is complete when every strand has arrived (R246). -/
def barrierStep (c : Crew) : Crew :=
  if !c.here.isEmpty && allArrived c then { c with gen := c.gen + 1, here := [] } else c

/-- Change a crew. -/
def mapCrew (id : Nat) (f : Crew → Crew) (s : State) : State :=
  { s with crews := s.crews.map fun c => if c.id = id then f c else c }

/-- `BARRIER_GENERATION` (R246). -/
def execBarrierGeneration (crew : Nat) (s : State) : Out := .next (mapCrew crew barrierStep s)

/-- The head entry notes the generation it has arrived in. -/
def noteArrival (gen : Nat) : M Unit := onStrand fun t =>
  match t.vq with
  | e :: r => { t with vq := { e with arrived := some gen } :: r }
  | [] => t

/-- `bar.cl` (R245, R246): release, arrive, wait for the generation, acquire. -/
def execBarCl (g : Guard) (s : State) : Out :=
  vqOp (.barCl g) g true true (fun e => do
    if e.guardOff then change fun s => orderStores (me s) e.age s
    else
      let id ← ask fun s => s.strand.crew
      let c ← ask fun s => crewAt s id
      match c with
      | none =>
        releaseAt .cl
        acquireAt .cl
      | some c =>
        let gen ← match e.arrived with
          | some k => pure k
          | none => do
            releaseAt .cl
            noteArrival c.gen
            change fun s => mapCrew id (fun c => barrierStep { c with here := insertN c.here s.strand.idx.toNat }) s
            pure c.gen
        let open_ ← ask fun s => ((crewAt s id).map fun c => c.gen == gen).getD false
        waitIf open_ .barrier
        acquireAt .cl) s

end Sys2Proof.Machine
end

