-- ==== Sys2Proof/Machine/Fetch.lean ====
section
/-! DEFINITION. Fetching the next instruction of the scalar stream: line checks, decoding, and where a head goes
(R19, R29, R31, R33). -/

namespace Sys2Proof.Machine

/-- What the scalar stream finds at its PC. -/
inductive Issue where
  /-- A scalar-class instruction. -/
  | scalar (i : Instr)
  /-- A VQ-class head that passes step 1 of R33, with its tail. -/
  | queue (head : BitVec 16) (tail : BitVec 96)
  /-- A head that raises *illegal instruction* in the scalar stream. -/
  | bad (head : BitVec 16)
deriving DecidableEq, Repr

/-- What a head and its tail are (R33). -/
def classify (head : BitVec 16) (tail : BitVec 96) : Issue :=
  match headCheck head with
  | .error _ => .bad head
  | .ok _ =>
    if opIsVq (headOp head) then .queue head tail
    else
      match decode head tail with
      | .ok i => .scalar i
      | .error _ => .bad head

/-- The line in use for the PC, checked as R29 gives: translation first, then the header. A slot that the line does not
hold, which only a resumed PC can name, counts as a bad line. -/
def issueLine : M Pass := fun s =>
  match currentLine s with
  | .error e s1 => .error e s1
  | .ok p s1 =>
    if lineValid p.bytes && addrForm s1.strand.pc && decide (slotNo s1.strand.pc < lineHeads p.bytes) then
      .ok p (mapStrand (fun t => { t with pass := some p }) s1)
    else .error (.trap .badLine p.base) s1

/-- The next instruction of the scalar stream. -/
def fetchIssue : M Issue := fun s =>
  match issueLine s with
  | .error e s1 => .error e s1
  | .ok p s1 =>
    .ok (classify (lineHead p.bytes (slotNo s1.strand.pc)) (lineTail p.bytes (slotNo s1.strand.pc))) s1

/-- The scalar instruction at the PC, if there is one. -/
def scalarNow (s : State) : Option Instr :=
  match fetchIssue s with
  | .ok (.scalar i) _ => some i
  | _ => none

/-- The instruction of the VQ's head entry, if its tail passes the checks of R33. -/
def vqNow (s : State) : Option Instr :=
  match s.strand.vq with
  | [] => none
  | e :: _ => (decode e.head e.tail).toOption

end Sys2Proof.Machine
end

