-- ==== Sys2Proof/Machine/Reel.lean ====
section
/-! DEFINITION. The Reel: launching transfers, their steps and errors, `cpwait`, forwarding pairs and slab moves (R229 to R241,
R247 to R252). -/

namespace Sys2Proof.Machine

-- ## Channels

/-- A channel of a cluster. -/
def channelAt (s : State) (cl ch : Nat) : Channel := ((clusterAt s cl).reel[ch]?).getD Channel.reset
/-- Put a channel. -/
def putChannel (cl ch : Nat) (c : Channel) (s : State) : State :=
  mapCluster cl (fun x => { x with reel := x.reel.setIfInBounds ch c }) s
/-- The transfer that a channel works on. -/
def reelHead (s : State) (cl ch : Nat) : Option ReelJob := (channelAt s cl ch).jobs.head?
/-- Change the transfer that a channel works on. -/
def mapHead (cl ch : Nat) (f : ReelJob → ReelJob) (s : State) : State :=
  let c := channelAt s cl ch
  match c.jobs with
  | [] => s
  | j :: r => putChannel cl ch { c with jobs := f j :: r } s

/-- `CPLOWn` (R237). -/
def cpLow (c : Channel) : BitVec 32 := (c.jobs.head?.map fun j => j.id).getD c.next

/-- The pending test (R237). -/
def isPending (low next a : BitVec 32) : Bool := (a - low).ult (next - low)

-- ## Launching (R233)

/-- A field of a stride register, sign-extended (R232). -/
def strideField (x : Word) (k : Nat) : Word := (x.extractLsb' (21 * k) 21).signExtend 64

/-- The footprint of one side of a transfer (R236). -/
def copyFoot (base strides : Word) (q : CopySet) (l0 : Nat) : Foot :=
  { base := base, len := l0 * 2 ^ q.esz,
    ext := (bits q.ext.toNat 15 0, bits q.ext.toNat 31 16, bits q.ext.toNat 47 32),
    str := (strideField strides 0, strideField strides 1, strideField strides 2) }

/-- The values that must be multiples of the element size (R233), in order. -/
def alignedValues (q : CopySet) : List Word :=
  [q.src, q.dst, strideField q.sstr 0, strideField q.sstr 1, strideField q.sstr 2, strideField q.dstr 0,
    strideField q.dstr 1, strideField q.dstr 2]

/-- Append a transfer to a channel and to the sequencer; answers its ID (R233). -/
def appendTransfer (cl ch : Nat) (q : CopySet) (l0 : Nat) (reads writes : List Foot) (pair : Option Nat) (s : State) :
    BitVec 32 × State :=
  let b := issuerNow s
  let (info, s1) := receive cl (asidOf (queueAt s b.queue)) reads writes s
  let c := channelAt s1 cl ch
  let j : ReelJob :=
    { id := c.next, set := q, l0 := l0, by_ := b, seq := info, step := 0, ecause := 0, eaddr := 0, wait := none,
      cancel := false, stop := false, lines := [], pair := pair }
  (c.next, putChannel cl ch { next := c.next + 1, jobs := c.jobs ++ [j] } s1)

/-- The launch that a read of `CPGOn` makes (R233). `head` is the head of the instruction. -/
def launchTransfer (head : Word) (ch : Nat) (d : BitVec 5) : M Unit := do
  let t ← ask fun s => s.strand
  waitIf (!t.vq.isEmpty) .drain
  let q := (t.cps[ch]?).getD CopySet.bind
  trapIf (decide (q.cscp < 2) || decide (9 < q.cscp)) .illegal head
  match (alignedValues q).find? (fun v => v.toNat % 2 ^ q.esz != 0) with
  | some v => raise .misaligned v
  | none =>
    let cl ← ask myCluster
    let full ← ask fun s => decide (16 ≤ (channelAt s cl ch).jobs.length)
    waitIf full .engine
    releaseAt .cl
    let id ← fun s =>
      let r := appendTransfer cl ch q t.vl [copyFoot q.src q.sstr q t.vl] [copyFoot q.dst q.dstr q t.vl] none s
      .ok r.1 r.2
    wrS d (id.setWidth 64)

/-- `REEL_LAUNCH` (R233): the acting strand reads `CPGOn`. -/
def execReelLaunch (d : BitVec 5) (ch : BitVec 2) (s : State) : Out :=
  plainOp ⟨0, false, false⟩ [] [d] [] (launchTransfer (headWord (.csrrd ⟨0, false, false⟩ d 0)) ch.toNat d) s

-- ## Steps (R234 to R236, R239)

/-- The elements of a transfer. -/
def totalElems (j : ReelJob) : Nat :=
  j.l0 * bits j.set.ext.toNat 15 0 * bits j.set.ext.toNat 31 16 * bits j.set.ext.toNat 47 32

/-- The elements of a step. -/
def stepElems (j : ReelJob) : Nat := 4096 / 2 ^ j.set.esz

/-- The address of element f on one side (R234). -/
def copyAddr (j : ReelJob) (base strides : Word) (f : Nat) : Word :=
  let e1 := bits j.set.ext.toNat 15 0
  let e2 := bits j.set.ext.toNat 31 16
  base + word (f % j.l0 * 2 ^ j.set.esz) + word (f / j.l0 % e1) * strideField strides 0
    + word (f / j.l0 / e1 % e2) * strideField strides 1 + word (f / j.l0 / e1 / e2) * strideField strides 2

/-- An engine does not write core scratch (R236). -/
def notCore (p : Place) (va : Word) : M Unit := trapIf (p.space == .coScratch) .protection va

/-- The range check of an engine's write by agent `a` (R270): all writes of a job that fall in a line are one write. `lines`:
the lines the job has claimed. `claim`: records one. -/
def engineCheck (a : Nat) (w : Who) (p : Place) (lines : State → List Nat) (claim : Nat → State → State) (va : Word) : M Unit :=
  fun s =>
  match p.space with
  | .dev _ =>
    if (lines s).contains (p.key / 64) then .ok () s
    else
      match checkWrite w p a va s with
      | .error e s1 => .error e s1
      | .ok _ s1 => .ok () (if onceLine s1 w.cl p then claim (p.key / 64) s1 else s1)
  | _ => .ok () s

/-- A target that does not answer (R239, R359). -/
def mustAnswer (p : Place) (va : Word) : M Unit := fun s =>
  if reachable s p.key then .ok () s else .error (.trap .remote va) (giveUp p.key s)

/-- An engine write to a target that has answered (R236, R239): at a scratch bank at once, elsewhere as a plain store of the
engine. -/
def engineWrite (a : Nat) (w : Who) (p : Place) (bs : List Byte) (va : Word) : M Unit := fun s =>
  match p.space with
  | .clScratch _ =>
    .ok () (healPoison (span p.key (p.key + bs.length)) { s with mem := memWrite s.mem p.key bs })
  | _ => storeSure false a w p bs va s

/-- Mark the bytes of a write with ECC poison (R239, R313). -/
def poisonBytes (key n : Nat) (s : State) : State :=
  { s with poison := (poisonMarks key n).foldl insertN s.poison }

/-- Read an engine's source: its value, and whether it is uncorrectable (R239). -/
def engineRead (a : Nat) (w : Who) (p : Place) (n : Nat) (va : Word) : M (Nat × Bool) := fun s =>
  if poisoned s p.key n then .ok (memNat s.mem p.key n, true) s
  else
    match loadAt a w p n va s with
    | .ok v s1 => .ok (v, false) s1
    | .error e s1 => .error e s1

/-- Note the first error of a transfer (R239). -/
def noteReel (cl ch cause : Nat) (va : Word) (stop : Bool) : State → State :=
  mapHead cl ch fun j =>
    { j with ecause := if j.ecause = 0 then cause else j.ecause, eaddr := if j.ecause = 0 then va else j.eaddr,
             stop := j.stop || stop }

/-- The ONCE lines that the transfer at the head of a channel has claimed. -/
def reelLines (cl ch : Nat) (s : State) : List Nat := ((reelHead s cl ch).map fun j => j.lines).getD []
/-- It has claimed another. -/
def reelClaim (cl ch l : Nat) : State → State := mapHead cl ch fun j => { j with lines := l :: j.lines }

/-- An engine's source is translated in the issuer's context (R234), whose core scratch is that of the core it issued from. -/
def sourceWho (w : Who) (b : Issuer) (va : Word) : Who :=
  if inLocal va.toNat then { w with co := coreOf (BitVec.ofNat 18 b.strand) } else w

/-- The range check of the element being read has passed (R270): it is not made again while the element waits (R258). -/
def reelPassed (cl ch : Nat) (b : Bool) : M Unit := change (mapHead cl ch fun j => { j with passed := b })

/-- Check and read element f (R234): what it has to write. -/
def readCopy (cl ch : Nat) (j : ReelJob) (f : Nat) : M ReelWrite := do
  let a := reelAgent cl ch
  let w := engineWho cl j.by_ true
  let n := 2 ^ j.set.esz
  let sv := copyAddr j j.set.src j.set.sstr f
  let dv := copyAddr j j.set.dst j.set.dstr f
  let sp ← checkAccess (sourceWho w j.by_ sv) sv n .load
  let dp ← checkAccess w dv n .store
  notCore dp dv
  mustAnswer sp sv
  mustAnswer dp dv
  let passed ← ask fun s => ((reelHead s cl ch).map fun j => j.passed).getD false
  if !passed then engineCheck a w dp (reelLines cl ch) (reelClaim cl ch) dv
  reelPassed cl ch true
  let x ← engineRead a w sp n sv
  reelPassed cl ch false
  pure { place := dp, bytes := leBytes n x.1, va := dv, bad := if x.2 then some sv else none }

/-- Some bytes of a place are on their way to the home from a cluster. -/
def onTheWay (s : State) (cl key n : Nat) : Bool :=
  s.stores.any fun p => p.cl == cl && p.lvl == 3 && decide (key ≤ p.key) && decide (p.key < key + n)

/-- The bytes that a cluster or an agent of it has published in the cluster at a place, or holds as the agent's own, go: a newer
write at the home has taken their place (R192). -/
def dropHeld (a cl key n : Nat) (l : List PStore) : List PStore :=
  l.filter fun p => !(decide (key ≤ p.key) && decide (p.key < key + n) && (p.owner == a || (p.cl == cl && decide (2 ≤ p.lvl))))

/-- An engine's uncorrectable data go to the home with ECC poison (R239, R372). -/
def writePoison (a cl : Nat) (p : Place) (bs : List Byte) : M Unit := fun s =>
  if onTheWay s cl p.key bs.length then .error (.wait .line) s
  else .ok () (poisonBytes p.key bs.length (homePoke p.key bs { s with stores := dropHeld a cl p.key bs.length s.stores }))

/-- Write what an element has read (R234, R236, R239). -/
def writeCopy (cl ch : Nat) (j : ReelJob) (x : ReelWrite) : M Unit := fun s =>
  let a := reelAgent cl ch
  match x.bad with
  | none => engineWrite a (engineWho cl j.by_ true) x.place x.bytes x.va s
  | some sv =>
    match writePoison a cl x.place x.bytes s with
    | .ok _ s1 => .ok () (noteReel cl ch 5 sv false s1)
    | .error e s1 => .error e s1

/-- The granule numbers of the cluster scratch window that the elements from f to g write (R186). -/
def dstGranules (j : ReelJob) (f g : Nat) : List Nat :=
  (span f g).flatMap fun k =>
    let va := (copyAddr j j.set.dst j.set.dstr k).toNat
    if 0x00FFFFFF00000000 ≤ va ∧ va < 0x00FFFFFF01800000 then [(va - 0x00FFFFFF00000000) / 16] else []

/-- Set full the granules whose last byte a step has written (R186, R236). -/
def fillGranules (cl : Nat) (j : ReelJob) (f g total : Nat) (s : State) : State :=
  if j.set.fe then
    let later := dstGranules j g total
    (dstGranules j f g).foldl (fun s k => if later.contains k then s else setGranule cl k true s) s
  else s

/-- The error cause of a trap that an engine's access meets (R239); page faults go to Mooring. -/
def reelCause : Cause → Nat
  | .loadFault => 1
  | .storeFault => 2
  | .writeOnce => 4
  | .dataError => 5
  | .remote => 6
  | _ => 3

/-- What the Reel does with the result of a step. A page fault waits for Mooring; another error ends the transfer after the last
complete step: either way nothing of the step is written (R239). DESIGN CHOICE: what the step wrote before a target stopped answering
stays, and the write that is not answered may have taken effect (R359; log 97). -/
def afterStep (cl ch : Nat) (j : ReelJob) (r : EStateM.Result Stop State Unit) : State :=
  match r with
  | .ok _ s1 => s1
  | .error (.wait _) s1 => s1
  | .error (.trap c v) s1 =>
    if isPageFault c then
      queueFault v (causeAcc c) j.seq.asid j.by_.strand (.reel cl ch)
        (mapHead cl ch (fun j => { j with wait := some (s1.faultNo % 2 ^ 16) }) (dropUnc (reelAgent cl ch) s1))
    else noteReel cl ch (reelCause c) v true (mapHead cl ch (fun j => { j with todo := [], full := false, passed := false }) s1)

/-- At its start a transfer takes in what has been published in its cluster: the stores that its issuer published by the release of
issue among them (R199). -/
def startReel (cl ch : Nat) (j : ReelJob) (s : State) : State :=
  if j.started then s
  else mapHead cl ch (fun j => { j with started := true }) (acquireFor (reelAgent cl ch) cl 255 .cl s)

/-- A transfer that can make a step, or finish the one in progress (R241): dispatched, not waiting, not stopped. -/
def canStep (j : ReelJob) : Bool := j.seq.disp && j.wait.isNone && !j.stop && (!j.cancel || !j.todo.isEmpty)

/-- Read the elements of a step one by one; what a wait leaves stays to be read. `got`: what has been read. -/
def readAllOf (cl ch : Nat) (j : ReelJob) (got : List ReelWrite) : List Nat → M (List ReelWrite)
  | [] => fun s => .ok got (mapHead cl ch (fun j => { j with todo := got, full := true }) s)
  | f :: r => fun s =>
    match readCopy cl ch j f s with
    | .ok x s1 => readAllOf cl ch j (got ++ [x]) r s1
    | .error e s1 => .error e (mapHead cl ch (fun j => { j with todo := got }) s1)

/-- Write the elements of a step one by one; what a wait leaves stays to be written. -/
def writeAll (cl ch : Nat) (j : ReelJob) : List ReelWrite → M Unit
  | [] => fun s => .ok () (mapHead cl ch (fun j => { j with todo := [], full := false }) s)
  | x :: r => fun s =>
    match writeCopy cl ch j x s with
    | .ok _ s1 => writeAll cl ch j r s1
    | .error e s1 => .error e (mapHead cl ch (fun j => { j with todo := x :: r }) s1)

/-- The first and the last element, the latter not included, of the step in progress. -/
def stepSpan (j : ReelJob) : Nat × Nat :=
  (j.step * stepElems j, Nat.min (totalElems j) (j.step * stepElems j + stepElems j))

/-- One step of the transfer at the head of a channel (R234): all its elements are checked and read, once each, then written, once
each. A wait goes on with those that are left. -/
def copyStep (cl ch : Nat) (j : ReelJob) (s0 : State) : State :=
  let s := startReel cl ch j s0
  let x := stepSpan j
  afterStep cl ch j
    (match (if j.full then .ok j.todo s else readAllOf cl ch j j.todo (span (x.1 + j.todo.length) x.2) s) with
     | .error e s1 => .error e s1
     | .ok l s1 =>
       match writeAll cl ch j l s1 with
       | .ok _ s2 => .ok () (mapHead cl ch (fun j => { j with step := j.step + 1 }) (fillGranules cl j x.1 x.2 (totalElems j) s2))
       | .error e s2 => .error e s2)

-- ## Slab moves (R247 to R249)

/-- A forwarding pair of a cluster. -/
def pairAt (s : State) (cl k : Nat) : Pair := ((clusterAt s cl).pairs[k]?).getD Pair.free
/-- Change a forwarding pair. -/
def mapPair (cl k : Nat) (f : Pair → Pair) (s : State) : State :=
  mapCluster cl (fun c => { c with pairs := c.pairs.setIfInBounds k (f (pairAt s cl k)) }) s

/-- The stores of the cluster to bytes that a step moves stay stores to the same locations (R247). -/
def rekey (cl old new n : Nat) (l : List PStore) : List PStore :=
  l.map fun p => if p.cl == cl && decide (old ≤ p.key) && decide (p.key < old + n) && decide (p.lvl < 3)
    then { p with key := p.key - old + new } else p

/-- The bytes of a line at a cluster's point of coherence (R249): its data with what the cluster has published. -/
def clusterBytes (s : State) (cl key : Nat) (below : List Byte) : List Byte :=
  below.zipIdx.map fun x => nearByte s.stores 2 0 cl 0 (key + x.2) x.1

/-- Line k of a step's 4 KiB at a place. -/
def lineOf (p : Place) (k : Nat) : Place := { p with key := p.key + 64 * k }

/-- Check one 64-byte line of a step, and have its home grant it where it is HOME data (R249). -/
def openMove (cl ch : Nat) (w : Who) (sp dp : Place) (sv dv : Word) (k : Nat) : M Nat := fun s =>
  match engineCheck (reelAgent cl ch) w (lineOf dp k) (reelLines cl ch) (reelClaim cl ch) (dv + word (64 * k)) s with
  | .error e s1 => .error e s1
  | .ok _ s1 =>
    if atItsHome s1 w (lineOf sp k) then loadAt (reelAgent cl ch) w (lineOf sp k) 64 (sv + word (64 * k)) s1 else .ok 0 s1

/-- Read one 64-byte line of a step as the move finds it (R249). -/
def readMove (cl ch : Nat) (w : Who) (sp : Place) (sv : Word) (k : Nat) : M (List Byte) := fun s =>
  match (if atItsHome s w (lineOf sp k) then .ok (homeNat s (lineOf sp k).key 64) s
         else loadAt (reelAgent cl ch) w (lineOf sp k) 64 (sv + word (64 * k)) s) with
  | .error e s1 => .error e s1
  | .ok v s1 => .ok (clusterBytes s1 cl (lineOf sp k).key (leBytes 64 v)) s1

/-- The move of a step's bytes as one unit (R249, R250): the old range keeps them, with what the cluster has published there,
the new range receives them, and the cluster's own stores to the old range are stores to the same locations in the new one. No
copy of the old range lacks what the cluster had published. -/
def moveBytes (cl ch k : Nat) (sp dp : Place) (bs : List Byte) (s : State) : State :=
  let held := (bs.zipIdx.filter fun x => s.stores.any fun p => p.cl == cl && p.lvl == 2 && p.key == sp.key + x.2)
  let s0 := { s with mem := held.foldl (fun m (x : Byte × Nat) => memWrite m (sp.key + x.2) [x.1]) s.mem }
  let s1 := if held.isEmpty then s0 else (span (sp.key / 64) (sp.key / 64 + 64)).foldl (fun s l => dropCopies l s) s0
  let s2 := homePoke dp.key bs { s1 with stores := dropHeld (reelAgent cl ch) cl dp.key 4096 s1.stores }
  mapHead cl ch (fun j => { j with step := j.step + 1 })
    (mapPair cl k (fun q => { q with wm := q.wm + 1 }) { s2 with stores := rekey cl sp.key dp.key 4096 s2.stores })

/-- The two places of a step of a move, checked (R249). -/
def moveEnds (cl k : Nat) (j : ReelJob) : M (Place × Place) := do
  let q ← ask fun s => pairAt s cl k
  let w := engineWho cl j.by_ false
  let sv := q.old + word (4096 * j.step)
  let dv := q.new + word (4096 * j.step)
  let sp ← checkAccess (sourceWho w j.by_ sv) sv 4096 .load
  let dp ← checkAccess w dv 4096 .store
  notCore dp dv
  mustAnswer sp sv
  mustAnswer dp dv
  pure (sp, dp)

/-- One step of a move (R249): checked and read, then moved as one unit. -/
def moveStep (cl ch k : Nat) (j : ReelJob) (s0 : State) : State :=
  let s := startReel cl ch j s0
  let q := pairAt s cl k
  let w := engineWho cl j.by_ false
  let sv := q.old + word (4096 * j.step)
  let dv := q.new + word (4096 * j.step)
  afterStep cl ch j ((do
    let x ← moveEnds cl k j
    let wait ← ask fun s => onTheWay s cl x.1.key 4096 || onTheWay s cl x.2.key 4096
    waitIf wait .line
    let _ ← eachOnce (reelAgent cl ch) 64 (openMove cl ch w x.1 x.2 sv dv)
    let ls ← mapEach (List.range 64) (readMove cl ch w x.1 sv)
    change (moveBytes cl ch k x.1 x.2 (ls.flatMap fun l => l)) : M Unit) s)

/-- The steps that a transfer has in all. -/
def stepsOf (s : State) (cl : Nat) (j : ReelJob) : Nat :=
  match j.pair with
  | some k => 2 ^ (pairAt s cl k).z / 4096
  | none => ceilDiv (totalElems j) (stepElems j)

/-- `REEL_STEP` (R234). -/
def execReelStep (cl ch : Nat) (s : State) : Out :=
  match reelHead s cl ch with
  | some j =>
    if canStep j && decide (j.step < stepsOf s cl j) then
      match j.pair with
      | some k => .next (moveStep cl ch k j s)
      | none => .next (copyStep cl ch j s)
    else .next s
  | none => .next s

/-- `SLAB_MOVE_STEP` (R249): the move of a pair makes a step when it is at the head of its channel. -/
def execSlabMoveStep (cl pair : Nat) (s : State) : Out :=
  let ch := (pairAt s cl pair).ch
  match reelHead s cl ch with
  | some j =>
    if j.pair = some pair ∧ canStep j ∧ j.step < stepsOf s cl j then .next (moveStep cl ch pair j s) else .next s
  | none => .next s

-- ## Completion (R236, R237, R239)

/-- Record an error with its issuer while `CPERR.EV` is 0 (R239). -/
def recordReel (ch : Nat) (j : ReelJob) (s : State) : State :=
  if j.ecause = 0 then s
  else
    atStrand j.by_.crew j.by_.idx (fun t =>
      if t.cperr.getLsbD 6 then t
      else { t with
        cperr := word (j.ecause + ch * 2 ^ 4 + 2 ^ 6 + j.id.toNat * 2 ^ 32)
        cperra := if j.ecause = 7 then 0 else j.eaddr &&& 0x01FFFFFFFFFFFFFF#64 }) s

/-- The pair of a move after its completion (R249). -/
def endMove (cl : Nat) (j : ReelJob) (s : State) : State :=
  match j.pair with
  | some k => mapPair cl k (fun q => { q with state := if j.stop then .failed else .forwarding }) s
  | none => s

/-- The scope of a code (R23). -/
def scopeOf : Nat → Scope
  | 0 => .st | 1 => .co | 2 => .cl | 3 => .di | 4 => .pk | 5 => .sh | 6 => .dm | 7 => .ho | 8 => .io | _ => .sy

/-- A transfer has nothing left to do (R234, R239). -/
def reelDone (s : State) (cl : Nat) (j : ReelJob) : Bool := j.stop || (j.seq.disp && decide (stepsOf s cl j ≤ j.step))

/-- `REEL_COMPLETE` (R236, R237): the transfer at the head of a channel publishes its writes at CSCP, records its error, and is
complete. -/
def execReelComplete (cl ch : Nat) (s : State) : Out :=
  match reelHead s cl ch with
  | some j =>
    if reelDone s cl j && j.wait.isNone then
      match releaseFor (reelAgent cl ch) (if j.pair.isSome then .dm else scopeOf j.set.cscp) (dropUnc (reelAgent cl ch) s) with
      | .error (.trap c v) s1 => .next (noteReel cl ch (reelCause c) v false s1)
      | .error (.wait _) s1 => .next s1
      | .ok _ s1 =>
        let c := channelAt s1 cl ch
        let s1 := { s1 with stores := handOver (reelAgent cl ch) (flightAgent j.by_.flight) s1.stores }
        .next (recordReel ch j (endMove cl j (putChannel cl ch { c with jobs := c.jobs.tail } s1)))
    else .next s
  | none => .next s

/-- A cancelled transfer stops at the end of the step in progress (R241). -/
def stopCancelled (j : ReelJob) : ReelJob :=
  if j.cancel && !j.stop && j.todo.isEmpty then
    { j with stop := true, wait := none, ecause := if j.ecause = 0 then 7 else j.ecause }
  else j

/-- `REEL_CANCEL` (R241). -/
def execReelCancel (cl ch : Nat) (s : State) : Out :=
  let c := channelAt s cl ch
  .next (putChannel cl ch { c with jobs := c.jobs.map stopCancelled } s)

/-- `cpwait` (R238). -/
def execCpwait (g : Guard) (sc : Scope) (d a : BitVec 5) (ch : BitVec 2) (s : State) : Out :=
  vqOp (.cpwait g sc d a ch) g true false (fun e => do
    let cl ← ask myCluster
    let c ← ask fun s => channelAt s cl ch.toNat
    waitIf (isPending (cpLow c) c.next (e.a.setWidth 32)) .engine
    acquireAt sc
    onStrand fun t => setS t d t.cperr) s

-- ## slabgrow and slabst (R248 to R251)

/-- Two ranges of addresses overlap. -/
def rangesMeet (a m b n : Nat) : Bool := decide (a < b + n) && decide (b < a + m)

/-- The two ranges overlap, or one overlaps a range of a pair in use (R248). DESIGN CHOICE: the range of a pair at its NEW is taken
as 2^(Z+1) bytes long, as `slabgrow` compares its own (log 84). -/
def slabClash (c : ClusterState) (old new z : Nat) : Bool :=
  rangesMeet old (2 ^ z) new (2 ^ (z + 1)) || c.pairs.toList.any fun q =>
    q.state != .free &&
      (rangesMeet old (2 ^ z) q.old.toNat (2 ^ q.z) || rangesMeet old (2 ^ z) q.new.toNat (2 ^ (q.z + 1)) ||
        rangesMeet new (2 ^ (z + 1)) q.old.toNat (2 ^ q.z) || rangesMeet new (2 ^ (z + 1)) q.new.toNat (2 ^ (q.z + 1)))

/-- `slabgrow` (R248). -/
def execSlabgrow (g : Guard) (d a b : BitVec 5) (z : BitVec 6) (ch : BitVec 2) (s : State) : Out :=
  vqOp (.slabgrow g d a b z ch) g true false (fun e => do
    let n := z.toNat
    badEntry (decide (n < 16) || decide (40 < n)) e
    trapIf (e.a.toNat % 2 ^ n != 0) .misaligned e.a
    trapIf (e.b.toNat % 2 ^ (n + 1) != 0) .misaligned e.b
    let cl ← ask myCluster
    let c ← ask fun s => clusterAt s cl
    let k := c.pairs.toList.findIdx fun q => q.state == .free
    if slabClash c e.a.toNat e.b.toNat n || decide (16 ≤ k) then
      onStrand fun t => setS t d (word (2 ^ 63))
    else
      let full ← ask fun s => decide (16 ≤ (channelAt s cl ch.toNat).jobs.length)
      waitIf full .engine
      releaseAt .cl
      let id ← fun s =>
        let q : CopySet := { CopySet.bind with src := e.a, dst := e.b, cscp := 6 }
        let r := appendTransfer cl ch.toNat q 0 [flatFoot e.a (2 ^ n)] [flatFoot e.b (2 ^ n)] (some k) s
        .ok r.1 r.2
      let f ← ask fun s => s.strand.flight
      change (mapPair cl k fun _ =>
        { old := e.a, new := e.b, z := n, ch := ch.toNat, id := id, wm := 0, state := .moving, flight := f })
      onStrand fun t => setS t d (word (id.toNat + k * 2 ^ 32))) s

/-- `slabgrow.retire` (R250). -/
def execSlabgrowRetire (g : Guard) (d a : BitVec 5) (s : State) : Out :=
  vqOp (.slabgrowRetire g d a) g true false (fun e => do
    badEntry (e.a.toNat / 16 != 0) e
    let cl ← ask myCluster
    let q ← ask fun s => pairAt s cl (e.a.toNat % 16)
    match q.state with
    | .free => onStrand fun t => setS t d 2
    | .moving => onStrand fun t => setS t d 1
    | _ =>
      change (mapPair cl (e.a.toNat % 16) fun _ => Pair.free)
      onStrand fun t => setS t d 0) s

/-- The code of a pair's state (R251). -/
def pairCode : PairState → Nat
  | .free => 0 | .moving => 1 | .forwarding => 2 | .failed => 3

/-- `slabst` (R251). DESIGN CHOICE: a nonzero sa[63:4], which the rule only calls reserved, is *illegal instruction*, as for
`slabgrow.retire` (log 85). -/
def execSlabst (g : Guard) (d a : BitVec 5) (s : State) : Out :=
  vqOp (.slabst g d a) g true false (fun e => do
    badEntry (e.a.toNat / 16 != 0) e
    let cl ← ask myCluster
    let q ← ask fun s => pairAt s cl (e.a.toNat % 16)
    onStrand fun t => setS t d (word (pairCode q.state + q.z * 2 ^ 2 + q.ch * 2 ^ 8 + q.wm * 2 ^ 32))) s

end Sys2Proof.Machine
end

