-- ==== Sys2Proof/Machine/Lookup.lean ====
section
/-! DEFINITION. The lookup path: tile shapes, the codebook, table sources, lookup-accumulate jobs, drains and waits (R130 to
R132, R202 to R226). -/

namespace Sys2Proof.Machine

-- ## Tile shapes (R206 to R208)

/-- A shape: validity, code width, group size code, kind mask (R206). -/
structure Shape where
  v  : Bool
  b  : Nat
  gc : Nat
  km : Nat
deriving DecidableEq, Repr

/-- A shape of a request or of `TSH` (R206). -/
def shapeAt (x : Nat) (k : Nat) : Shape :=
  if k = 0 then { v := bit x 35, b := bits x 37 36 + 1, gc := bits x 39 38, km := bits x 43 40 }
  else { v := bit x 44, b := bits x 46 45 + 1, gc := bits x 48 47, km := bits x 52 49 }

/-- Rows M of a tile. -/
def tileM (x : Nat) : Nat := bits x 6 0 + 1
/-- Columns N of a tile. -/
def tileN (x : Nat) : Nat := bits x 16 7 + 1
/-- K-blocks of a tile. -/
def tileKb (x : Nat) : Nat := bits x 31 17 + 1
/-- Row-pass height of a request or grant. -/
def tileR (x : Nat) : Nat := bits x 34 32 + 1

/-- The kinds that a mask admits. -/
def kindsOf (km : Nat) : Nat := b2n (bit km 0) + b2n (bit km 1) + b2n (bit km 2) + b2n (bit km 3)

/-- A valid shape that no table can serve (R206). -/
def badShape (q : Shape) : Bool := q.v && (q.km == 0 || decide (8 < q.b * 2 ^ q.gc))

/-- The request raises *illegal instruction* (R206). -/
def badShapes (x : Nat) : Bool :=
  x / 2 ^ 53 != 0 || !bit x 35 || badShape (shapeAt x 0) || badShape (shapeAt x 1) || (!bit x 44 && bits x 52 45 != 0)

/-- Table bytes that a shape needs (R207). -/
def tableNeed (q : Shape) (gc r : Nat) : Nat := kindsOf q.km * r * (32 / 2 ^ gc) * 2 ^ (q.b * 2 ^ gc) * 3

/-- The granted height, from r down (R207). -/
def grantRows (x : Nat) : Nat → Nat
  | 0 => 1
  | r + 1 =>
    if [shapeAt x 0, shapeAt x 1].any (fun q => q.v && decide (16384 < tableNeed q 0 (r + 1))) then grantRows x r else r + 1

/-- The granted group size, from the requested one down (R207). -/
def grantGroup (q : Shape) (r : Nat) : Nat → Nat
  | 0 => 0
  | gc + 1 => if tableNeed q (gc + 1) r ≤ 16384 then gc + 1 else grantGroup q r gc

/-- The value of `TSH` for a request (R207). -/
def grantShape (x : Nat) : Nat :=
  let r := grantRows x (Nat.min (tileR x) (tileM x))
  let y := setField x 32 3 (r - 1)
  let y := setField y 38 2 (grantGroup (shapeAt x 0) r (shapeAt x 0).gc)
  if bit x 44 then setField y 47 2 (grantGroup (shapeAt x 1) r (shapeAt x 1).gc) else y

/-- `tshape` (R206, R207). -/
def execTshape (g : Guard) (d a : BitVec 5) (s : State) : Out :=
  vqOp (.tshape g d a) g true false (fun e => do
    badEntry (badShapes e.a.toNat) e
    let v := word (grantShape e.a.toNat)
    onStrand fun t => setS { t with tsh := v } d v) s

-- ## The codebook (R131, R209, R210)

/-- The magnitude of a codebook entry (R131). -/
def bookMag (x : Nat) : Nat :=
  if bit x 14 then 0
  else if bit x 9 then (if bit x 8 then 2 ^ bits x 13 10 - 2 ^ bits x 7 4 else 2 ^ bits x 13 10 + 2 ^ bits x 7 4)
  else 2 ^ bits x 13 10

/-- An entry is valid (R131). -/
def bookOk (x : Nat) : Bool :=
  bits x 3 0 == 0 && (if bit x 14 then x == 0x4000 else
    (if bit x 9 then decide (bits x 7 4 < bits x 13 10) else bits x 8 4 == 0) && decide (bookMag x ≤ 2 ^ 11))

/-- The value of an entry (R131). -/
def bookValue (x : Nat) : Int := if bit x 15 then -(bookMag x : Int) else bookMag x

/-- `cbload` (R209). -/
def execCbload (g : Guard) (a : BitVec 5) (s : State) : Out :=
  vqOp (.cbload g a) g true false (fun e => do
    let w ← ask vecWho
    let me' ← ask me
    let v ← loadVa me' w e.a 32
    let es := (List.range 16).map fun i => v / 2 ^ (16 * i) % 2 ^ 16
    let bad := es.findIdx fun x => !bookOk x
    trapIf (decide (bad < 16)) .codebook (word bad)
    change fun s => mapCluster (myCluster s) (fun c => { c with book := Vector.ofFn fun i => BitVec.ofNat 16 (nthD es i.val 0) })
      s) s

-- ## Table sources (R211)

/-- `tbuild` (R211). -/
def execTbuild (g : Guard) (nogate : Bool) (a b c : BitVec 5) (s : State) : Out :=
  vqOp (.tbuild g nogate a b c) g true false (fun e => do
    let qs := e.c.toNat % 2 ^ 32
    let es := e.c.toNat / 2 ^ 32
    trapIf (e.a.toNat % 16 != 0) .misaligned e.a
    trapIf (e.b.toNat % 16 != 0) .misaligned e.b
    trapIf (qs % 16 != 0) .misaligned (word qs)
    trapIf (es % 16 != 0) .misaligned (word es)
    onStrand fun t => { t with tsrc := some { qb := e.a, eb := e.b, qs := qs, es := es, gate := !nogate } }) s

-- ## Issuing a job (R214 to R217)

/-- The lookup jobs of a strand in its cluster. -/
def jobsOf (s : State) (crew idx : Nat) : List LkJob :=
  (clusterAt s (myCluster s)).lk.filter fun j => j.by_.crew == crew && j.by_.idx == idx

/-- Jobs of a list that are not complete. -/
def notComplete (l : List LkJob) : Nat := (l.filter fun j => j.state != .complete).length

/-- The strands of the acting strand's crew. -/
def crewSize (s : State) : Nat := ((crewAt s s.strand.crew).map fun c => c.size).getD 1

/-- The shared work of `lkacc` (R216). DESIGN CHOICE: running and suspended jobs count among the 32 that the cluster's queue
holds (log 79). -/
def lkIssue (e : VqEntry) (d : BitVec 5) (mode : Nat) (cb : Word) (cs : Nat) (fc ncon : Nat) : M Unit := do
  let t ← ask fun s => s.strand
  badEntry (!bit t.tsh.toNat 35) e
  let size ← ask crewSize
  badEntry (mode == 2 && decide (size < fc + ncon)) e
  match t.tsrc with
  | none => badEntry true e
  | some src =>
    if mode ≠ 2 then
      trapIf (cb.toNat % 16 != 0) .misaligned cb
      trapIf (cs % 16 != 0) .misaligned (word cs)
    let w ← ask vecWho
    let me' ← ask me
    let desc ← loadVa me' w e.a 32
    let cl ← ask myCluster
    let mine ← ask fun s => notComplete (jobsOf s t.crew t.idx.toNat)
    let all ← ask fun s => notComplete (clusterAt s cl).lk
    waitIf (decide (4 ≤ mine) || decide (32 ≤ all)) .engine
    releaseAt .cl
    change fun s =>
      let x := t.tsh.toNat
      let m := tileM x
      let tile := planeFoot cb (4 * tileN x) m cs
      let reads := [planeFoot src.qb src.qs m src.qs, planeFoot src.eb src.es m src.es, flatFoot e.a 32]
      let (info, s1) := receive cl (asidOf (queueAt s t.queue)) (if mode = 1 then reads ++ [tile] else reads)
        (if mode = 2 then [] else [tile]) s
      let j : LkJob :=
        { id := t.lkNext, by_ := issuerNow s, seq := info, desc := BitVec.ofNat 256 desc, tsh := t.tsh,
          book := (clusterAt s cl).book, src := src, cb := cb, cs := cs, mode := mode, fc := fc, ncon := ncon,
          state := .queued, pass := 0, seg := 0, acc := [], rows := [], errs := [], err := 0, flags := 0, repc := 0,
          repi := false, cancel := false, swept := false }
      mapStrand (fun t => setS { t with lkNext := t.lkNext + 1 } d (t.lkNext.setWidth 64))
        (mapCluster cl (fun c => { c with lk := c.lk ++ [j] }) s1)

/-- `lkacc.ow` (R214, R216). -/
def execLkaccOw (g : Guard) (d a b c : BitVec 5) (s : State) : Out :=
  vqOp (.lkaccOw g d a b c) g true false (fun e => lkIssue e d 0 e.b e.c.toNat 0 1) s
/-- `lkacc.acc` (R214, R216). -/
def execLkaccAcc (g : Guard) (d a b c : BitVec 5) (s : State) : Out :=
  vqOp (.lkaccAcc g d a b c) g true false (fun e => lkIssue e d 1 e.b e.c.toNat 0 1) s
/-- `lkacc.drn` (R214, R216). -/
def execLkaccDrn (g : Guard) (d a : BitVec 5) (fc : BitVec 5) (ncon1 : BitVec 3) (s : State) : Out :=
  vqOp (.lkaccDrn g d a fc ncon1) g true false (fun e => lkIssue e d 2 0 0 fc.toNat (ncon1.toNat + 1)) s

-- ## Where the operands lie (R202 to R205, R303 to R305)

/-- The first block of bank j (R202). -/
def bankLo (kb j : Nat) : Nat := j * (kb / 48) + Nat.min j (kb % 48)

/-- The bank that holds block k (R202). -/
def bankOf (kb k : Nat) : Nat := ((List.range 48).filter fun j => bankLo kb j ≤ k).getLast?.getD 0

/-- The columns that pseudo-channel p holds (R202). -/
def colsOf (n p : Nat) : Nat := Nat.min 64 (n - 64 * p)

/-- The shape number that a descriptor gives pseudo-channel p (R215). -/
def shpOf (j : LkJob) (p : Nat) : Nat := b2n (j.desc.getLsbD (8 * (16 + p)))
/-- IROW (R215). -/
def irow (j : LkJob) : Nat := bits j.desc.toNat 23 0
/-- SROW (R215). -/
def srow (j : LkJob) : Nat := bits j.desc.toNat 47 24

/-- The key of byte `off` from relative row `row` in bank `bk` of pseudo-channel p of a cluster's half (R303 to R305). -/
def bankKey (s : State) (cl p bk row off : Nat) : Nat :=
  let stack := 4 * (cl / 8) + cl % 8 / 2
  myModule s * 2 ^ 43 + stack * 0xC00000000 + (16 * (cl % 2) + p) * 0x60000000 + bk * 0x2000000
    + ((clusterAt s cl).bbase.toNat + row) * 1024 + off

/-- The key of the codes of block k and column c of pseudo-channel p, for code width b (R203). -/
def codeKey (s : State) (cl : Nat) (j : LkJob) (p k c b : Nat) : Nat :=
  let kb := tileKb j.tsh.toNat
  let bk := bankOf kb k
  bankKey s cl p bk (irow j) (((k - bankLo kb bk) * colsOf (tileN j.tsh.toNat) p + c) * 4 * b)

/-- The key of the scale byte of block k and column c of pseudo-channel p (R203). -/
def scaleKey (s : State) (cl : Nat) (j : LkJob) (p k c : Nat) : Nat :=
  let kb := tileKb j.tsh.toNat
  let bk := bankOf kb k
  bankKey s cl p bk (srow j) ((k - bankLo kb bk) * colsOf (tileN j.tsh.toNat) p + c)

/-- The key of an address of the cluster scratch window. -/
def scratchKey (cl : Nat) (va : Nat) : Nat := clKey cl (va - 0x00FFFFFF00000000)

/-- The address of q element i of block k of row m (R204). -/
def qAddr (j : LkJob) (m k i : Nat) : Nat := (j.src.qb + word (m * j.src.qs + 32 * k + i)).toNat
/-- The address of the exponent of block k of row m (R204). -/
def eAddr (j : LkJob) (m k : Nat) : Nat := (j.src.eb + word (m * j.src.es + k)).toNat
/-- The address of value (m, n) of the C tile (R205). -/
def cAddr (j : LkJob) (m n : Nat) : Nat := (j.cb + word (m * j.cs + 4 * n)).toNat

-- ## Checks at start and resumption (R220)

/-- A range of addresses lies wholly in S- or F-role slots of the window (R220). -/
def inScratch (s : State) (w : Who) (va n : Nat) : Bool :=
  decide (0x00FFFFFF00000000 ≤ va) && decide (va + n ≤ 0x00FFFFFF01800000) &&
    (span ((va - 0x00FFFFFF00000000) / 0x80000) ((va + n - 1 - 0x00FFFFFF00000000) / 0x80000 + 1)).all fun b => clSlotOk s w b

/-- The pseudo-channels taking part. -/
def partPcs (j : LkJob) : List Nat := (List.range 16).filter fun p => decide (0 < colsOf (tileN j.tsh.toNat) p)

/-- The descriptor passes check 1 of R220. -/
def descOk (j : LkJob) : Bool :=
  bits j.desc.toNat 127 48 == 0 && ((List.range 16).all fun p => bits j.desc.toNat (8 * (16 + p) + 7) (8 * (16 + p) + 1) == 0)
    && (partPcs j).all fun p => shpOf j p == 0 || bit j.tsh.toNat 44

/-- The planes and the C tile pass check 2 of R220. -/
def tilesOk (s : State) (cl : Nat) (j : LkJob) : Bool :=
  let w := engineWho cl j.by_ false
  let x := j.tsh.toNat
  (List.range (tileM x)).all fun m =>
    inScratch s w (qAddr j m 0 0) (32 * tileKb x) && inScratch s w (eAddr j m 0) (tileKb x) &&
      (j.mode == 2 || inScratch s w (cAddr j m 0) (4 * tileN x))

/-- The rows that the job reads pass check 3 of R220. -/
def rowsOk (s : State) (cl : Nat) (j : LkJob) : Bool :=
  let c := clusterAt s cl
  let x := j.tsh.toNat
  let kb := tileKb x
  let lim := c.blim.toNat
  decide (lim ≤ 32768) && (partPcs j).all fun p => (List.range 48).all fun bk =>
    let run := bankLo kb (bk + 1) - bankLo kb bk
    let n := run * colsOf (tileN x) p
    n == 0 || (decide (c.bbase.toNat + irow j + (n * 4 * (shapeAt x (shpOf j p)).b - 1) / 1024 < lim)
      && decide (c.bbase.toNat + srow j + (n - 1) / 1024 < lim))

/-- The cause that refuses a job, if one does (R220). -/
def refuseCause (s : State) (cl : Nat) (j : LkJob) : Option Nat :=
  if !descOk j then some 5 else if !tilesOk s cl j then some 7 else if !rowsOk s cl j then some 6 else none

-- ## Errors (R223, R225)

/-- A record in `LKST` bits 26:0 (R223). -/
def errRecord (bk pc c0 c1 cause : Nat) : BitVec 27 :=
  BitVec.ofNat 27 (bk + pc * 2 ^ 6 + c0 * 2 ^ 10 + c1 * 2 ^ 16 + cause * 2 ^ 22 + 2 ^ 26)

/-- A strand's `LKST` with a job's record, while EV is 0 (R223). -/
def withRecord (err : BitVec 27) (id : BitVec 32) (t : Strand) : Strand :=
  if t.lkst.getLsbD 26 || err = 0 then t
  else { t with lkst := word (err.toNat + b2n (t.lkst.getLsbD 27) * 2 ^ 27 + id.toNat * 2 ^ 32) }

/-- The first error of a pass, widened over its columns (R223). DESIGN CHOICE: of errors that sort alike, a cause 4 or 9 and one of
bank 0's column 0 in pseudo-channel 0, the one met first is recorded (log 86). -/
def firstError (l : List LkErr) : Option (BitVec 27) :=
  match l with
  | [] => none
  | x :: r =>
    let b := r.foldl (fun (b : LkErr) y => if y.pc < b.pc ∨ (y.pc = b.pc ∧ y.bank < b.bank) ∨
      (y.pc = b.pc ∧ y.bank = b.bank ∧ y.col < b.col) then y else b) x
    let same := (x :: r).filter fun y => y.pc == b.pc && y.bank == b.bank
    let c1 := same.foldl (fun m y => Nat.max m y.col) b.col
    some (if b.cause = 4 ∨ b.cause = 9 then errRecord 0 0 0 0 b.cause else errRecord b.bank b.pc b.col c1 b.cause)

/-- Give a job an error, unless it has one, and record it with its issuer (R223). -/
def recordLk (err : BitVec 27) (j : LkJob) (s : State) : LkJob × State :=
  ({ j with err := if j.err = 0 then err else j.err }, atStrand j.by_.crew j.by_.idx (withRecord err j.id) s)

/-- A strand's `LKST` still holds a record of a job. -/
def holdsRecord (err : BitVec 27) (id : BitVec 32) (t : Strand) : Bool :=
  err != 0 && t.lkst.extractLsb' 0 27 == err && t.lkst.extractLsb' 32 32 == id

/-- The record of a job in a strand's `LKST`, put in place of the one there. -/
def newRecord (err : BitVec 27) (id : BitVec 32) (t : Strand) : Strand :=
  withRecord err id { t with lkst := t.lkst &&& ~~~0x4000000#64 }

/-- The strand that issued a job, bound or recalled. -/
def issuerOf (b : Issuer) (s : State) : Option Strand :=
  (s.strand :: s.others ++ s.parked).find? fun t => t.bound && t.crew == b.crew && t.idx.toNat == b.idx

/-- A job meets errors in its pass (R223): they are recorded at once while EV is 0; a record that the pass has made, and that is
still held, goes on naming the first of the errors it stands for and their columns. -/
def noteErrs (new : List LkErr) (j : LkJob) (s : State) : LkJob × State :=
  match firstError new with
  | none => (j, s)
  | some fresh =>
    let old := (firstError j.errs).getD 0
    let all := (firstError (j.errs ++ new)).getD fresh
    let held := (issuerOf j.by_ s).any fun t => (firstError j.noted).any fun r => holdsRecord r j.id t
    let free := (issuerOf j.by_ s).any fun t => !t.lkst.getLsbD 26
    let rec' := if held then j.noted ++ new else if free then new else j.noted
    ({ j with
        errs := j.errs ++ new
        noted := rec'
        err := if j.err = 0 ∨ (j.err = old ∧ j.errPass = j.pass) then all else j.err
        errPass := if j.err = 0 then j.pass else j.errPass },
      atStrand j.by_.crew j.by_.idx
        (fun t => if held then newRecord ((firstError rec').getD fresh) j.id t else withRecord fresh j.id t) s)

/-- Replace a job of a cluster. -/
def putLk (cl : Nat) (j : LkJob) (s : State) : State :=
  mapCluster cl (fun c => { c with lk := c.lk.map fun x =>
    if x.id = j.id ∧ x.by_.crew = j.by_.crew ∧ x.by_.idx = j.by_.idx then j else x }) s

/-- The poison value of a bank, or of no bank (R225). -/
def poisonVal (bk : Nat) (fl : BitVec 6) : LkVal := { val := 0x7FF00000 + bk % 256, flags := fl, poison := true }

-- ## One block of one output (R218)

/-- The doubled value of a code (R130, R131). -/
def codeValue (book : Vector (BitVec 16) 16) (kind b i : Nat) : Int :=
  match kind with
  | 0 => 2 * (i : Int) - (2 ^ b - 1 : Nat)
  | 1 =>
    let m : Int := match i % 8 with
      | 0 => 0 | 1 => 1 | 2 => 2 | 3 => 3 | 4 => 4 | 5 => 6 | 6 => 8 | _ => 12
    if bit i 3 then -m else m
  | 2 =>
    if b = 1 then (if i = 0 then 2 else -2)
    else
      let m : Int := (2 ^ (1 + i % 2 ^ (b - 1)) : Nat)
      if bit i (b - 1) then -m else m
  | _ => bookValue ((book[i]?).getD 0).toNat

/-- The exact block sum (R218). -/
def blockDot (qs : List Int) (code : Nat) (book : Vector (BitVec 16) 16) (kind b : Nat) : Int :=
  (qs.zipIdx.map fun x => x.1 * codeValue book kind b (code / 2 ^ (b * x.2) % 2 ^ b)).sum

/-- The block sum scaled and rounded to binary32 (R218): bits and flags. -/
def scaleSum (bs : Int) (e e6 : Nat) : FpRes :=
  if bs = 0 then (0, flNone)
  else
    let r := fpRound (fmtOf .f32) .rne (decide (bs < 0)) bs.natAbs ((e : Int) - 127 + e6 - 33) false
    if r.2 &&& flOF != 0 then (r.1, r.2 ||| flLKOV) else r

/-- Add a block to a partial sum (R218). -/
def addBlock (acc : LkVal) (v : FpRes) : LkVal :=
  let r := fpAdd (fmtOf .f32) .rne acc.val v.1
  { val := r.1, flags := acc.flags ||| v.2 ||| r.2, poison := false }

-- ## Words of the banks, and the tables (R212, R213, R307 to R309)

/-- The rows of a pass. -/
def passRows (j : LkJob) : List Nat :=
  let r := tileR j.tsh.toNat
  span (j.pass * r) (Nat.min (tileM j.tsh.toNat) ((j.pass + 1) * r))

/-- A word that the pass has read before (R307). -/
def wordRead (j : LkJob) (u : Nat) : Option (BitVec 256 × Bool) := (j.words.find? fun w => w.1 == u).map fun w => w.2

/-- Bytes of a bank as the pass reads them: each 32-byte word once (R307). -/
def bankNat (s : State) (j : LkJob) (key n : Nat) : Nat :=
  leNat ((span key (key + n)).map fun k =>
    match wordRead j (k / 32) with
    | some w => w.1.extractLsb' (8 * (k % 32)) 8
    | none => memByte s.mem k)

/-- Bytes of a bank lie in an uncorrectable word (R315). -/
def bankBad (s : State) (j : LkJob) (key n : Nat) : Bool :=
  (unitsOf key n).any fun u => (wordRead j u).elim (badUnit s (32 * u) 1) fun w => w.2

/-- The kinds that a mask admits, lowest first (R213). -/
def kindList (km : Nat) : List Nat := (List.range 4).filter fun k => bit km k

/-- Inputs of a group. -/
def groupSize (q : Shape) : Nat := 2 ^ q.gc

/-- An entry of a table (R212): the sum over group t of the activations times the values of the codes that index x packs. -/
def tableEntry (qs : List Int) (book : Vector (BitVec 16) 16) (kind b g t x : Nat) : Int :=
  ((List.range g).map fun i => nthD qs (g * t + i) 0 * codeValue book kind b (x / 2 ^ (b * i) % 2 ^ b)).sum

/-- The number of entry (r, s, t, x) in a table-store half, which lies at three times that in bytes (R213). -/
def entryNo (q : Shape) (r s t x : Nat) : Nat :=
  ((r * kindsOf q.km + s) * (32 / groupSize q) + t) * 2 ^ (q.b * groupSize q) + x

/-- The entries of a block's table, in the order of their numbers (R212, R213); `rows`: the activations of the pass's rows. -/
def tableEntries (book : Vector (BitVec 16) 16) (q : Shape) (rows : List (List Int)) : List Int :=
  rows.flatMap fun qs => (kindList q.km).flatMap fun kd => (List.range (32 / groupSize q)).flatMap fun t =>
    (List.range (2 ^ (q.b * groupSize q))).map fun x => tableEntry qs book kd q.b (groupSize q) t x

/-- Entries as 24-bit two's complement values, the first lowest (R213). -/
def packEntries (l : List Int) : Nat := l.foldr (fun v acc => (v % 2 ^ 24).toNat + 2 ^ 24 * acc) 0

/-- A half with entries written from its start; what lies behind them stays. -/
def writeHalf (l : List Int) (h : BitVec 131072) : BitVec 131072 :=
  BitVec.ofNat 131072 (setField h.toNat 0 (24 * l.length) (packEntries l))

/-- The builders write the loading half, and the bank swaps the halves as it moves to the block (R213, R308). -/
def TableStore.build (l : List Int) (ts : TableStore) : TableStore := { active := writeHalf l ts.loading, loading := ts.active }

/-- An entry of a half. -/
def entryAt (h : BitVec 131072) (n : Nat) : Int := signedOf 24 (h.toNat / 2 ^ (24 * n) % 2 ^ 24)

/-- The sum of the entries that a block's codes select, for row r of the pass and the kind of rank s (R218, R308). -/
def tableSum (h : BitVec 131072) (q : Shape) (r s code : Nat) : Int :=
  ((List.range (32 / groupSize q)).map fun t =>
    entryAt h (entryNo q r s t (code / 2 ^ (q.b * groupSize q * t) % 2 ^ (q.b * groupSize q)))).sum

/-- The table store of a bank of a pseudo-channel of a cluster's half. -/
def tableAt (s : State) (cl p bk : Nat) : TableStore := findD (clusterAt s cl).tables (48 * p + bk) TableStore.blank

/-- The activations of block k for the rows of the pass, read from the planes (R204, R309). -/
def passActs (s : State) (cl : Nat) (j : LkJob) (k : Nat) : List (List Int) :=
  (passRows j).map fun m => (memBytes s.mem (scratchKey cl (qAddr j m k 0)) 32).map fun b => b.toInt

/-- The tables of block k are built, one for each shape in use, and written to every pseudo-channel that uses it (R212, R309).
-/
def buildTables (cl : Nat) (j : LkJob) (k : Nat) (s : State) : State :=
  let x := j.tsh.toNat
  let bk := bankOf (tileKb x) k
  let rows := passActs s cl j k
  [0, 1].foldl (fun s h =>
    let ps := (partPcs j).filter fun p => shpOf j p == h
    if ps.isEmpty then s
    else
      let l := tableEntries j.book (shapeAt x h) rows
      mapCluster cl (fun c => { c with
        tables := ps.foldl (fun ts p => putK ts (48 * p + bk) ((findD ts (48 * p + bk) TableStore.blank).build l)) c.tables }) s) s

-- ## One block of one output (R218)

/-- Block k of output (m, n), its table built: the new partial sum and the error met, if any (R218, R225, R315). DESIGN CHOICE:
of several errors that strike one block the cause is activation data, then bank data, then the table, then the kind (log 80).
-/
def blockStep (s : State) (cl : Nat) (j : LkJob) (m n k : Nat) (acc : LkVal) : LkVal × Option LkErr :=
  if acc.poison then (acc, none)
  else
    let x := j.tsh.toNat
    let p := n / 64
    let c := n % 64
    let q := shapeAt x (shpOf j p)
    let bk := bankOf (tileKb x) k
    let ck := codeKey s cl j p k c q.b
    let sk := scaleKey s cl j p k c
    let ek := scratchKey cl (eAddr j m k)
    if badUnit s (scratchKey cl (qAddr j m k 0)) 32 || badUnit s ek 1 then (poisonVal 255 acc.flags, some ⟨0, 0, 0, 4⟩)
    else if bankBad s j ck (4 * q.b) || bankBad s j sk 1 then (poisonVal bk acc.flags, some ⟨p, bk, c, 1⟩)
    else if (clusterAt s cl).tblErr.contains (p, k, m) then (poisonVal bk acc.flags, some ⟨p, bk, c, 2⟩)
    else
      let sb := bankNat s j sk 1
      let kind := sb / 64
      if !bit q.km kind then (poisonVal bk acc.flags, some ⟨p, bk, c, 3⟩)
      else
        let e := (memByte s.mem ek).toNat
        if e = 255 then (addBlock acc (fpNan (fmtOf .f32), flNone), none)
        else
          let bs := tableSum (tableAt s cl p bk).active q (m - j.pass * tileR x) ((kindList q.km).idxOf kind)
            (bankNat s j ck (4 * q.b))
          (addBlock acc (scaleSum bs e (sb % 64)), none)

-- ## Passes and segments (R218, R219)

/-- The partial sums at the start of a pass (R218): zero, or the C tile. -/
def startPass (s : State) (cl : Nat) (j : LkJob) : LkJob :=
  let n := tileN j.tsh.toNat
  let cells := (passRows j).flatMap fun m => (List.range n).map fun c => (m, c)
  let vals := cells.map fun x =>
    if j.mode = 1 then
      let key := scratchKey cl (cAddr j x.1 x.2)
      if badUnit s key 4 then poisonVal 255 flNone else { val := memNat s.mem key 4, flags := flNone, poison := false : LkVal }
    else { val := 0, flags := flNone, poison := false }
  { j with acc := vals, errs := [], noted := [], words := [] }

/-- The error of uncorrectable start values of an `.acc` job (R218, R223). -/
def startErrs (j : LkJob) : List LkErr := if j.acc.any fun v => v.poison then [⟨0, 0, 0, 9⟩] else []

/-- The granules of both planes that a segment reads are full (R218 GATE). -/
def gateOpen (s : State) (cl : Nat) (j : LkJob) : Bool :=
  !j.src.gate || (passRows j).all fun m =>
    (span (32 * j.seg) (Nat.min (32 * j.seg + 32) (tileKb j.tsh.toNat))).all fun k =>
      granuleFull s cl ((qAddr j m k 0 - 0x00FFFFFF00000000) / 16) && granuleFull s cl ((qAddr j m k 16 - 0x00FFFFFF00000000) / 16)
        && granuleFull s cl ((eAddr j m k - 0x00FFFFFF00000000) / 16)

/-- The blocks of the next segment. -/
def segBlocks (j : LkJob) : List Nat := span (32 * j.seg) (Nat.min (32 * j.seg + 32) (tileKb j.tsh.toNat))

/-- The words that some blocks of a job lie in. -/
def blockUnits (s : State) (cl : Nat) (j : LkJob) (ks : List Nat) : List Nat :=
  let x := j.tsh.toNat
  ((partPcs j).flatMap fun p => ks.flatMap fun k => (List.range (colsOf (tileN x) p)).flatMap fun c =>
    let b := (shapeAt x (shpOf j p)).b
    unitsOf (codeKey s cl j p k c b) (4 * b) ++ unitsOf (scaleKey s cl j p k c) 1).eraseDups

/-- A corrected error in a word that the job reads counts with its bank, and the word stays as it is (R315). -/
def countCorrected (us : List Nat) (s : State) : State :=
  us.foldl (fun s u =>
    if s.softErr.contains u && !s.poison.contains u then
      { s with corrected := putK s.corrected (bankOfKey (32 * u)) (findD s.corrected (bankOfKey (32 * u)) 0 + 1) }
    else s) s

/-- The words that block k shares with the block before it in its bank: the pass has read them, and goes on using what it read
(R307). -/
def sharedWords (s : State) (cl : Nat) (j : LkJob) (k : Nat) : List (Nat × BitVec 256 × Bool) :=
  let x := j.tsh.toNat
  let kb := tileKb x
  if kb ≤ k ∨ bankOf kb k ≠ bankOf kb (k - 1) then []
  else
    let us := ((partPcs j).flatMap fun p =>
      [codeKey s cl j p k 0 (shapeAt x (shpOf j p)).b, scaleKey s cl j p k 0]).filter fun a => a % 32 != 0
    (us.map fun a => a / 32).eraseDups.map fun u => (u, BitVec.ofNat 256 (bankNat s j (32 * u) 32), bankBad s j (32 * u) 32)

/-- One block added to every partial sum of the pass (R218): its tables are built, and an error of a table is over with it. -/
def runBlock (cl : Nat) (j : LkJob) (cells : List (Nat × Nat)) (y : List LkVal × List LkErr × State) (k : Nat) :
    List LkVal × List LkErr × State :=
  let s1 := buildTables cl j k y.2.2
  let zs := (cells.zip y.1).map fun x => blockStep s1 cl j x.1.1 x.1.2 k x.2
  (zs.map fun z => z.1, y.2.1 ++ zs.filterMap (fun z => z.2),
    mapCluster cl (fun c => { c with
      tblErr := c.tblErr.filter fun e => !(e.2.1 == k && (passRows j).contains e.2.2) }) s1)

/-- All blocks of a segment added to every partial sum of the pass, in ascending order (R218). -/
def runSegment (s : State) (cl : Nat) (j : LkJob) : LkJob × State :=
  let cells := (passRows j).flatMap fun m => (List.range (tileN j.tsh.toNat)).map fun c => (m, c)
  let ks := segBlocks j
  let out := ks.foldl (runBlock cl j cells) (j.acc, if j.seg = 0 then startErrs j else [], s)
  let s1 := if s.softErr.isEmpty then out.2.2
    else countCorrected ((blockUnits s cl j ks).filter fun u => (wordRead j u).isNone) out.2.2
  let r := noteErrs out.2.1 j s1
  ({ r.1 with acc := out.1, seg := j.seg + 1, words := sharedWords s cl j (32 * j.seg + 32) }, r.2)

/-- Write a row of the C tile and fill its granules (R219). -/
def writeRow (cl : Nat) (j : LkJob) (m : Nat) (vs : List LkVal) (s : State) : State :=
  let va := cAddr j m 0
  let key := scratchKey cl va
  let bs := vs.flatMap fun v => leBytes 4 v.val
  let s1 := { s with
    mem := memWrite s.mem key bs
    poison := s.poison.filter fun u => !(decide (key ≤ u) && decide (u < key + bs.length)) }
  (span (granuleOf cl key) (granuleOf cl (key + bs.length - 1) + 1)).foldl (fun s k => setGranule cl k true s) s1

/-- Deliver a pass (R219), and go on to the next pass. -/
def deliverPass (cl : Nat) (j : LkJob) (s : State) : LkJob × State :=
  let n := tileN j.tsh.toNat
  let rows : List (Nat × List LkVal) := (passRows j).zipIdx.map fun x => (x.1, (j.acc.drop (x.2 * n)).take n)
  let s1 := if j.mode = 2 then s else rows.foldl (fun s x => writeRow cl j x.1 x.2 s) s
  let j1 : LkJob := if j.mode = 2 then
      { j with rows := j.rows ++ rows.map fun x => { row := x.1, cons := j.fc + x.1 % j.ncon, col := 0, vals := x.2 : DrainRow } }
    else { j with flags := j.acc.foldl (fun (f : BitVec 6) (v : LkVal) => f ||| v.flags) j.flags }
  ({ j1 with
    pass := j.pass + 1, seg := 0, acc := [], errs := [], noted := [], words := []
    swept := decide (tileM j.tsh.toNat ≤ (j.pass + 1) * tileR j.tsh.toNat) }, s1)

/-- The job on the cluster's pseudo-channels. -/
def runningJob (s : State) (cl : Nat) : Option LkJob := (clusterAt s cl).lk.find? fun j => j.state == .running && !j.swept

/-- The segments of a pass. -/
def segsOf (j : LkJob) : Nat := ceilDiv (tileKb j.tsh.toNat) 32

/-- A running job can make progress: its gate is open (R218), and the rows of an earlier pass are popped before the segment that ends
with a delivery starts (R219), so that the job waits at an interrupt point (R226). -/
def canRun (s : State) (cl : Nat) (j : LkJob) : Bool :=
  (decide (segsOf j ≤ j.seg) || gateOpen s cl j) && (j.mode != 2 || j.rows.isEmpty || decide (j.seg + 1 < segsOf j))

/-- `LK_SEGMENT` (R218, R219): one K-segment, and the delivery when the pass ends. -/
def execLkSegment (cl : Nat) (s : State) : Out :=
  match runningJob s cl with
  | none => .next s
  | some j =>
    if j.cancel || !canRun s cl j then .next s
    else
      let (j1, s1) := if j.seg < segsOf j then runSegment s cl (if j.seg = 0 then startPass s cl j else j) else (j, s)
      if j1.seg < segsOf j || (j1.mode == 2 && !j1.rows.isEmpty) then .next (putLk cl j1 s1)
      else
        let r := deliverPass cl j1 s1
        .next (putLk cl r.1 r.2)

-- ## Start, completion, suspension, cancellation (R217, R220, R226, R227)

/-- Every strand of a job's crew that is recalled keeps the job suspended (R226). -/
def crewRecalled (s : State) (crew : Nat) : Bool := s.parked.any fun t => t.bound && t.crew == crew

/-- A job may be put on the pseudo-channels: dispatched, queued or suspended, and behind no job of its strand not yet
started (R217). DESIGN CHOICE: it may run while an older job of its strand stands suspended (log 81). -/
def canStart (s : State) (l : List LkJob) (j : LkJob) : Bool :=
  j.seq.disp && (j.state == .queued || (j.state == .suspended && !j.swept)) && !j.cancel && !crewRecalled s j.by_.crew &&
    l.all fun x => !(x.by_.crew == j.by_.crew && x.by_.idx == j.by_.idx && x.state == .queued &&
      decide (x.seq.order < j.seq.order))

/-- The job to start: one that can make progress if there is one. -/
def nextJob (s : State) (cl : Nat) : Option LkJob :=
  let l := (clusterAt s cl).lk
  let c := l.filter fun j => canStart s l j
  match c.find? (fun j => canRun s cl j) with
  | some j => some j
  | none => c.head?

/-- A refused job (R220): nothing is written; a `.drn` job delivers poison in every row not yet delivered. -/
def refuseJob (cause : Nat) (j : LkJob) (s : State) : LkJob × State :=
  let (j1, s1) := recordLk (errRecord 0 0 0 0 cause) j s
  let x := j.tsh.toNat
  let rest := span (j.pass * tileR x) (tileM x)
  let row : List LkVal := List.replicate (tileN x) (poisonVal 255 flNone)
  ({ j1 with
    swept := true, acc := [], state := .running
    rows := if j.mode = 2 then
        j.rows ++ rest.map fun m => { row := m, cons := j.fc + m % j.ncon, col := 0, vals := row : DrainRow }
      else [] }, s1)

/-- `LK_JOB_START` (R217, R220, R226, R305): a job starts or resumes on the cluster's pseudo-channels. -/
def execLkJobStart (cl : Nat) (s : State) : Out :=
  match runningJob s cl, nextJob s cl with
  | none, some j =>
    let lb := (queueAt s j.by_.queue).bank
    let s1 := mapCluster cl (fun c => { c with bbase := lb.setWidth 16, blim := lb.extractLsb' 16 16, tblErr := [] }) s
    (match refuseCause s1 cl j with
     | some c =>
       let r := refuseJob c j s1
       .next (putLk cl r.1 r.2)
     | none => .next (putLk cl { j with state := .running } s1))
  | _, _ => .next s

/-- A job has nothing left to do (R219). -/
def lkDone (j : LkJob) : Bool := (j.state == .running || j.state == .suspended) && j.swept && j.rows.isEmpty

/-- `LK_JOB_COMPLETE` (R219): the oldest job with every row written or popped is complete. -/
def execLkJobComplete (cl : Nat) (s : State) : Out :=
  match (clusterAt s cl).lk.find? lkDone with
  | some j => .next (putLk cl { j with state := .complete } s)
  | none => .next s

/-- Tables are built anew when a job starts or resumes: errors that struck the ones before are over (R309, R315). -/
def dropTables (cl : Nat) (s : State) : State := mapCluster cl (fun c => { c with tblErr := [] }) s

/-- The running job stops at its interrupt point, the start of a pass or of a segment (R226). -/
def suspendRunning (cl : Nat) (s : State) : State :=
  match runningJob s cl with
  | some j => if j.seg < segsOf j then dropTables cl (putLk cl { j with state := .suspended } s) else s
  | none => s

/-- `LK_JOB_SUSPEND` (R226). -/
def execLkJobSuspend (cl : Nat) (s : State) : Out := .next (suspendRunning cl s)

/-- A cancelled job (R227): rows not delivered are discarded, and it completes with ECAUSE 8. -/
def cancelJob (cl : Nat) (j : LkJob) (s : State) : State :=
  let r := recordLk (errRecord 0 0 0 0 8) j s
  putLk cl { r.1 with err := errRecord 0 0 0 0 8, state := .complete, rows := [], acc := [], words := [], swept := true } r.2

/-- `LK_JOB_CANCEL` (R227). -/
def execLkJobCancel (cl : Nat) (s : State) : Out :=
  .next (((clusterAt s cl).lk.filter fun j => j.cancel && j.state != .complete).foldl (fun s j => cancelJob cl j s) s)

-- ## Draining and waiting (R221 to R224)

/-- Rows of later passes that a consumer still gets (R219). -/
def moreRows (j : LkJob) (cons : Nat) (after : Nat) : Bool :=
  (span after (tileM j.tsh.toNat)).any fun m => j.fc + m % j.ncon == cons

/-- The job whose rows a strand's drain stream holds next (R219): the oldest `.drn` job of the crew with rows left for it. -/
def drainJob (s : State) : Option LkJob :=
  let t := s.strand
  let i := t.idx.toNat
  (clusterAt s (myCluster s)).lk.find? fun j =>
    j.mode == 2 && j.by_.crew == t.crew && j.state != .complete &&
      (j.rows.any (fun r => r.cons == i) || (!j.swept && moreRows j i (j.pass * tileR j.tsh.toNat)))

/-- The job's error has been reported to a consumer (R221). -/
def reportedTo (j : LkJob) (i : Nat) : Bool :=
  (decide (j.fc ≤ i) && j.repc.getLsbD (i - j.fc)) || (i == j.by_.idx && j.repi)

/-- Mark an error reported to a strand (R221, R224). -/
def markReported (j : LkJob) (i : Nat) : LkJob :=
  { j with
    repc := if j.fc ≤ i then j.repc ||| BitVec.ofNat 8 (2 ^ (i - j.fc)) else j.repc
    repi := j.repi || i == j.by_.idx }

/-- Pop values of a row; a row with nothing left goes. -/
def popRow (i cnt : Nat) : List DrainRow → List DrainRow
  | [] => []
  | r :: l =>
    if r.cons = i then
      (if r.vals.length ≤ cnt then l else { r with col := r.col + cnt, vals := r.vals.drop cnt } :: l)
    else r :: popRow i cnt l

/-- `vdrn` (R221). -/
def execVdrn (g : Guard) (d c : BitVec 5) (s : State) : Out :=
  vqOp (.vdrn g d c) g true false (fun e => do
    vecCheck e [d] 32
    let vl ← ask fun s => s.strand.vl
    if vl = 0 then onStrand fun t => setS t c 0
    else
      let i ← ask fun s => s.strand.idx.toNat
      let cl ← ask myCluster
      let jr ← ask fun s => (drainJob s).bind fun j => (j.rows.find? fun r => r.cons == i).map fun r => (j, r)
      match jr with
      | none => waitFor .engine
      | some (j, r) =>
        let cnt := Nat.min vl r.vals.length
        let vs := r.vals.take cnt
        let bad := vs.any fun v => v.poison
        let meets := bad && !reportedTo j i
        if meets then onStrand (withRecord j.err j.id)
        let trap ← ask fun s => s.strand.lkst.getLsbD 27
        if meets && trap then
          change (putLk cl (markReported j i))
          let v ← ask fun s => s.strand.lkst
          raise .lookupError v
        else
          forEach (List.range cnt) fun k => wrV d 32 k ((vs[k]?.map fun v => v.val).getD 0)
          addFlags (vs.foldl (fun f v => f ||| v.flags) flNone)
          let j1 := { j with rows := popRow i cnt j.rows }
          change (putLk cl j1)
          let last := cnt == r.vals.length && !moreRows j i (r.row + 1)
          onStrand fun t => setS t c (word (cnt + r.col * 2 ^ 16 + r.row * 2 ^ 32 + b2n last * 2 ^ 63))) s

/-- Job ID a is at or before b (R217). -/
def atOrBefore (a b : BitVec 32) : Bool := decide ((b - a).toNat < 2 ^ 31)

/-- `LKLOW` (R224). -/
def lkLow (s : State) : BitVec 32 :=
  let t := s.strand
  match (jobsOf s t.crew t.idx.toNat).find? (fun j => j.state != .complete) with
  | some j => j.id - 1
  | none => t.lkNext - 1

/-- The lookup jobs after an `lkwait` of a strand that covers some (R224): their flags are delivered, and those with no error
left to report are forgotten. -/
def waited (crew i : Nat) (upTo : BitVec 32) (l : List LkJob) : List LkJob :=
  let mine (j : LkJob) : Bool := j.by_.crew == crew && j.by_.idx == i && atOrBefore j.id upTo
  (l.map fun j => if mine j then { j with flags := 0 } else j).filter fun j => !(mine j && (j.err == 0 || reportedTo j i))

/-- `lkwait` (R224). -/
def execLkwait (g : Guard) (d a : BitVec 5) (s : State) : Out :=
  vqOp (.lkwait g d a) g true false (fun e => do
    let t ← ask fun s => s.strand
    let cl ← ask myCluster
    let i := t.idx.toNat
    let js ← ask fun s => (jobsOf s t.crew i).filter fun j => atOrBefore j.id (e.a.setWidth 32)
    waitIf (js.any fun j => j.state != .complete) .engine
    match js.find? (fun j => j.err != 0 && !reportedTo j i) with
    | some j =>
      if t.lkst.getLsbD 27 then
        onStrand (withRecord j.err j.id)
        change (putLk cl (markReported j i))
        let v ← ask fun s => s.strand.lkst
        raise .lookupError v
    | none => pure ()
    addFlags (js.foldl (fun f j => f ||| j.flags) flNone)
    change (mapCluster cl fun c => { c with lk := waited t.crew i (e.a.setWidth 32) c.lk })
    acquireAt .cl
    onStrand fun t => setS t d t.lkst) s

end Sys2Proof.Machine
end

