-- ==== Sys2Proof/Machine/Protocol.lean ====
section
/-! DEFINITION. The coherence protocols at work: range changes, loading a table with its checks, the arrival of protocol
messages, and the scatter-add chains (R253 to R277). -/

namespace Sys2Proof.Machine

-- ## The configuration lock (R257)

/-- Take the lock for the acting strand, in order of arrival; it waits while another strand holds it or came before. -/
def takeLock : M Unit := fun s =>
  if s.lock = some (me s) then .ok () s
  else
    let q := if s.lockq.contains (me s) then s.lockq else s.lockq ++ [me s]
    if s.lock.isNone && q.head? == some (me s) then .ok () { s with lock := some (me s), lockq := q.tail }
    else .error (.wait .line) { s with lockq := q }

/-- Work under the lock: it is given back when the work ends or traps, and kept while it waits. -/
def underLock {α : Type} (work : M α) : M α := fun s =>
  match takeLock s with
  | .error e s1 => .error e s1
  | .ok _ s1 =>
    match work s1 with
    | .ok a s2 => .ok a { s2 with lock := none }
    | .error (.trap c v) s2 => .error (.trap c v) { s2 with lock := none }
    | .error (.wait k) s2 => .error (.wait k) s2

-- ## Range entries (R255 to R259)

/-- The entry at an index. -/
def rangeAt (s : State) (k : Nat) : RangeEntry :=
  (s.ranges[k]?).getD { base := 0, limit := 0, slot := 0, v := false, hc := false, pend := false }
/-- Put an entry. -/
def putRange (k : Nat) (r : RangeEntry) (s : State) : State := { s with ranges := s.ranges.setIfInBounds k r }

/-- The entry that `rangeset` writes; with V = 0, the reset state (R256). -/
def newRange (b c : Nat) (slot : Nat) (v hc : Bool) : RangeEntry :=
  if v then { base := b, limit := c, slot := slot, v := true, hc := hc, pend := false }
  else { base := 0, limit := 0, slot := 0, v := false, hc := false, pend := false }

/-- The extent of an entry, empty when it is not valid. -/
def extentOf (r : RangeEntry) : Nat × Nat := if r.v then (r.base, r.limit) else (0, 0)

/-- A line of this module lies in one of some extents. -/
def lineIn (s : State) (xs : List (Nat × Nat)) (line : Nat) : Bool :=
  !remoteLine s line && xs.any fun x => decide (x.1 ≤ moduleOffset (64 * line)) && decide (moduleOffset (64 * line) < x.2)

/-- The new extent overlaps another valid entry (R257 status 1). -/
def overlaps (s : State) (k : Nat) (r : RangeEntry) : Bool :=
  r.v && (s.ranges.toList.zipIdx.any fun x => x.2 != k && x.1.v && decide (x.1.base < r.limit) && decide (r.base < x.1.limit))

/-- A cluster's line that the protocol has in some state but the first. -/
def touched (c : CLine) : Bool := c.state != 0

/-- A line of the extents is held in a copy, or has a request at its home (R257 status 3). -/
def linesHeld (s : State) (xs : List (Nat × Nat)) : Bool :=
  (s.clines.any fun c => touched c && lineIn s xs c.line) ||
    (s.hlines.any fun h => (blocked h || !h.queue.isEmpty) && lineIn s xs h.line) ||
    (s.regions.any fun r => (List.range 8).any fun k => lineIn s xs (8 * r.region + k)) ||
    (s.net.any fun m => lineIn s xs m.line)

/-- The checks of `rangeset` (R256). -/
def rangesetCheck (i : Instr) (a b c : Nat) (v : Bool) : M Unit := do
  illegalIf (a / 2 ^ 6 != 0) i
  illegalIf (v && (b / 2 ^ 43 != 0 || c / 2 ^ 44 != 0 || decide (c ≤ b) || decide (2 ^ 43 < c))) i
  trapIf (v && b % 65536 != 0) .misaligned (word b)
  trapIf (v && c % 65536 != 0) .misaligned (word c)

/-- The refusals 1 and 2 (R257). -/
def rangeRefusal (s : State) (k : Nat) (r : RangeEntry) : Nat :=
  if overlaps s k r then 1 else if r.v && 6 ≤ r.slot && !(protoAt s r.slot).loaded then 2 else 0

/-- A request that a home receives (R262), a scatter-add among them; word of an abandoned one is no part of a transaction. -/
def isRequest (k : MsgKind) : Bool :=
  k == .gets || k == .getx || k == .putd || k == .push || k == .claim || k == .unc || k == .add || k == .quit

/-- Bytes of a line that a cluster had sent are to be published again. -/
def unsend (cl line : Nat) (s : State) : State :=
  { s with stores := s.stores.map fun p => if p.lvl = 3 ∧ p.key / 64 = line ∧ p.cl = cl then { p with lvl := 2 } else p }

/-- A request that a range change has held stands under the new protocol (R258 step 4): the line of its cluster starts anew, the local
event that sent it is raised there, and what that sends takes the request's place. A phase-free access and a scatter-add stand as
they are; one that writes has been checked. -/
def recast (m : Msg) (s : State) : Option Msg × State :=
  if m.kind = .unc ∨ m.kind = .add then (some { m with checked := true }, s)
  else if m.kind = .quit ∨ 16 ≤ m.req then (some m, s)
  else
    let slot := slotOfLine s m.req m.line 0
    let c := { clineAt s m.req m.line with state := 0, cores := 0 }
    let ev := localCode c.lastEv
    match wordOf (protoAt s slot).clus 0 ev with
    | some w =>
      let x := clusterApply w ev m.bytes 0 c.asker c
      match x.2 with
      | n :: _ => (some { n with tries := m.tries }, putCline s x.1)
      | [] => (none, reraise slot m.req m.line 64 (unsend m.req m.line (putCline s { x.1 with lastEv := .load })))
    | none => (none, reraise slot m.req m.line 64 (unsend m.req m.line (putCline s { c with lastEv := .load })))

/-- The requests among messages that concern some lines stand under the new protocol, each in its place. -/
def recastAll (here : Nat → Bool) : List Msg → State → List Msg × State
  | [], s => ([], s)
  | m :: r, s =>
    if here m.line && isRequest m.kind then
      let x := recast m s
      let y := recastAll here r x.2
      (x.1.toList ++ y.1, y.2)
    else
      let y := recastAll here r s
      (m :: y.1, y.2)

/-- Lines of changed extents start anew under their protocol: no copy is left, under ONCE every line is unwritten, and requests that
were held or on their way stand under the new protocol in their order of arrival (R258, R270). -/
def freshLines (xs : List (Nat × Nat)) (s : State) : State :=
  let here (l : Nat) : Bool := lineIn s xs l
  let s1 := ((s.hlines.map fun h => h.line).filter here).foldl (fun s l =>
    let x := recastAll here (hlineAt s l).queue s
    putHline x.2 { hlineAt x.2 l with state := 0, queue := x.1 }) s
  let y := recastAll here s1.net { s1 with net := [] }
  { y.2 with net := y.1 ++ y.2.net }

/-- The frame of `rangeset` (R256, R257). `change_`: the change itself, which answers the status. -/
def rangesetOp (i : Instr) (g : Guard) (d a b c : BitVec 5) (slot : BitVec 3) (v hc : Bool)
    (change_ : Nat → RangeEntry → M Nat) (s : State) : Out :=
  privOp i g [a, b, c] [d] (do
    let t ← ask fun s => s.strand
    let k := (getS t a).toNat
    rangesetCheck i k (getS t b).toNat (getS t c).toNat v
    waitIf (!t.vq.isEmpty) .drain
    let r := newRange (getS t b).toNat (getS t c).toNat slot.toNat v hc
    let st ← underLock (do
      let no ← ask fun s => rangeRefusal s k r
      if no ≠ 0 then pure no else change_ k r)
    wrS d (word st)) s

/-- The plain change: refused while a line is held (R257). -/
def rangePlain (k : Nat) (r : RangeEntry) : M Nat := fun s =>
  let xs := [extentOf (rangeAt s k), extentOf r]
  if linesHeld s xs then .ok 3 s else .ok 0 (freshLines xs (putRange k r s))

/-- `rangeset` (R256, R257). -/
def execRangeset (g : Guard) (d a b c : BitVec 5) (slot : BitVec 3) (v hc : Bool) (s : State) : Out :=
  rangesetOp (.rangeset g d a b c slot v hc) g d a b c slot v hc rangePlain s

/-- The lines of the extents under RO that some cluster holds: their copies are untracked (R258). -/
def roLines (s : State) (xs : List (Nat × Nat)) : List Nat :=
  ((s.clines.filter fun c => lineIn s xs c.line && slotOfLine s c.cl c.line 0 == 5 && copyReadable s 5 c.cl c.line).map
    fun c => c.line).eraseDups

/-- A table has a word for RECALL. -/
def recallable (s : State) (slot : Nat) : Bool := (protoAt s slot).home.any fun x => x.1 % 12 == 9

/-- The lines of the extents that the directory records in some cluster, under tables that know RECALL (R258). -/
def trackedLines (s : State) (xs : List (Nat × Nat)) : List Nat :=
  (s.regions.filter fun r => r.vec != 0).flatMap fun r =>
    ((List.range 8).map fun k => 8 * r.region + k).filter fun l => lineIn s xs l && recallable s (slotOfLine s 0 l 0)

/-- Some transaction of the extents is under way: a busy line, or a message that belongs to one. -/
def linesBusy (s : State) (xs : List (Nat × Nat)) : Bool :=
  (s.hlines.any fun h => blocked h && lineIn s xs h.line) ||
    s.net.any fun m => !isRequest m.kind && lineIn s xs m.line

/-- RECALL at the home of a line (R258). -/
def recallLine (line : Nat) (s : State) : State :=
  if blocked (hlineAt s line) then s else homeRaise (slotOfLine s 0 line 0) 9 (ownMsg line) s

/-- RECALL of an untracked line: INV goes to every cluster of the module (R258). -/
def recallRo (line : Nat) (s : State) : State :=
  if blocked (hlineAt s line) then s
  else homeRaise 5 9 (ownMsg line) (putRegion s { regionAt s line with vec := BitVec.allOnes 16 })

/-- Clear the gate and dispatch what was held (R258 step 4). -/
def ungate (xs : List (Nat × Nat)) (s : State) : State :=
  let s1 := { s with gate := [] }
  settle ((s1.hlines.filter fun h => lineIn s1 xs h.line).foldl (fun s h => homeNext h.line s) s1)

/-- The change of a live range: gate, recall, switch, release (R258). Executed again after a wait, it goes on where it
stands. -/
def rangeLive (k : Nat) (r : RangeEntry) : M Nat := fun s0 =>
  let old := rangeAt s0 k
  let xs := [extentOf old, extentOf r]
  let s := if s0.gate.isEmpty then { putRange k { old with pend := true } s0 with gate := xs } else s0
  let s1 := settle s
  if linesBusy s1 xs then .error (.wait .line) s1
  else
    let s2 := (trackedLines s1 xs).foldl (fun s l => recallLine l s) s1
    let s3 := settle ((roLines s2 xs).foldl (fun s l => recallRo l s) s2)
    if linesBusy s3 xs || !(trackedLines s3 xs).isEmpty || !(roLines s3 xs).isEmpty then .error (.wait .line) s3
    else .ok 0 (ungate xs (freshLines xs (putRange k r s3)))

/-- `rangeset.q` (R258). -/
def execRangesetQ (g : Guard) (d a b c : BitVec 5) (slot : BitVec 3) (v hc : Bool) (s : State) : Out :=
  rangesetOp (.rangesetQ g d a b c slot v hc) g d a b c slot v hc rangeLive s

/-- The value of an entry (R259). -/
def rangeValue (r : RangeEntry) : Nat :=
  bits r.base 42 16 + bits r.limit 43 16 * 2 ^ 27 + r.slot * 2 ^ 55 + b2n r.v * 2 ^ 58 + b2n r.hc * 2 ^ 59 + b2n r.pend * 2 ^ 60

/-- The entries that name a slot (R259 USERS). -/
def usersOf (s : State) (slot : Nat) : Nat := (s.ranges.toList.filter fun r => (r.v || r.pend) && r.slot == slot).length

/-- The value of a slot (R259). -/
def slotValue (s : State) (slot : Nat) : Nat :=
  let p := protoAt s slot
  b2n p.loaded + usersOf s slot * 2 + p.id * 2 ^ 16

/-- `rangerd` (R259). -/
def execRangerd (g : Guard) (d a : BitVec 5) (s : State) : Out :=
  privOp (.rangerd g d a) g [a] [d] (do
    let x ← ask fun s => (getS s.strand a).toNat
    illegalIf (if bit x 8 then decide (x % 256 ≥ 8) || x / 512 != 0 else x / 64 != 0) (.rangerd g d a)
    let v ← ask fun s => if bit x 8 then slotValue s (x % 8) else rangeValue (rangeAt s (x % 64))
    wrS d (word v)) s

-- ## Protocol images (R261 to R266)

/-- A field of n bytes at an offset of an image. -/
def imgField (img off n : Nat) : Nat := img / 2 ^ (8 * off) % 2 ^ (8 * n)
/-- The action word of a half, a state and an event (R261). -/
def imgWord (img half st ev : Nat) : Nat := imgField img (64 + 1536 * half + 8 * (12 * st + ev)) 8
/-- Home and cluster states of an image. -/
def imgStates (img half : Nat) : Nat := imgField img (6 + half) 1
/-- State i of a half is stable. -/
def imgStable (img half i : Nat) : Bool := bit (imgField img (12 + 2 * half) 2) i
/-- The cluster state has the attribute WAIT. -/
def imgWait (img i : Nat) : Bool := bit (imgField img (16 + i) 1) 1

/-- XVAL of a failed check (R265). -/
def checkVal (code half st ev : Nat) : Nat := code + half * 2 ^ 8 + st * 2 ^ 12 + ev * 2 ^ 16

/-- Check 1. -/
def checkHead (img : Nat) : Bool :=
  imgField img 0 4 == 0x42545250 && imgField img 4 2 == 1 &&
    [0, 1].all (fun h => decide (2 ≤ imgStates img h) && decide (imgStates img h ≤ 16) &&
      imgField img (12 + 2 * h) 2 / 2 ^ imgStates img h == 0 && imgStable img h 0) &&
    imgField img 32 32 == 0 && (List.range 16).all fun i => imgField img (16 + i) 1 / 4 == 0

/-- The class of an event: 0 local, 1 request, 2 forward, 3 response (R262). -/
def eventClass (half ev : Nat) : Nat :=
  if half = 0 then (if ev ≤ 5 then 1 else if ev = 6 then 3 else 0)
  else if ev ≤ 4 then 0 else if ev ≤ 6 then 2 else 3

/-- The class of a message kind code (R262). -/
def kindClass (k : Nat) : Nat := if k ≤ 5 then 1 else if k ≤ 7 then 2 else 3

/-- The fields of a raw word. -/
def wMsg (w : Nat) : Nat := bits w 8 5
/-- The state a word enters, if it enters one. -/
def wNext (w : Nat) : Option Nat := if bit w 4 then some (bits w 3 0) else none
/-- A word is UNX. -/
def wUnx (w : Nat) : Bool := bit w 24
/-- A word is DEFER. -/
def wDeferred (w : Nat) : Bool := bit w 23

/-- Transient states that a state's words lead to. -/
def transientNext (img half st : Nat) : List Nat :=
  (List.range 12).filterMap fun ev =>
    let w := imgWord img half st ev
    if wUnx w then none else (wNext w).filter fun n => !imgStable img half n

/-- Transient states reached in at most `n` transitions among transient states. -/
def transientReach (img half : Nat) : Nat → List Nat → List Nat
  | 0, l => l
  | n + 1, l => transientReach img half n ((l ++ l.flatMap (transientNext img half)).eraseDups)

/-- A check of one word; true: it passes (R265 checks 2 to 8). -/
def checkWord (code img half st ev : Nat) : Bool :=
  let w := imgWord img half st ev
  let here := decide (st < imgStates img half)
  let cl := half == 1
  match code with
  | 2 =>
    if here then
      w / 2 ^ 25 == 0 && decide (wMsg w ≤ 10) && decide (bits w 13 11 ≤ 4) && bits w 19 18 != 3 &&
        (!wUnx w || w == 2 ^ 24) && (decide (ev < (if cl then 10 else 11)) || w == 2 ^ 24)
    else w == 0
  | 3 => !here || ((wNext w).map fun n => decide (n < imgStates img half)).getD true
  | 4 =>
    if !here || imgStable img half st then true
    else
      (ev != 0 || (List.range 12).any fun e =>
        let x := imgWord img half st e
        !wUnx x && ((wNext x).map fun n => n != st).getD false) &&
      (wUnx w || ((wNext w).map fun n => imgStable img half n || !(transientReach img half 16 [n]).contains st).getD true)
  | 5 => !here || wUnx w || eventClass half ev == 0 || wMsg w == 0 || decide (eventClass half ev < kindClass (wMsg w))
  | 6 =>
    if !cl || !here then true
    else
      let leaves := imgWait img st && ((wNext w).map fun n => !imgWait img n).getD false && !wUnx w
      if ev = 2 then
        (if wUnx w then true
        else if wDeferred w then w == 2 ^ 23 && !imgStable img half st
        else (wMsg w == 3 || wMsg w == 4) && bits w 10 9 == 0 && bit w 14 && ((wNext w).map fun n => imgWait img n).getD false)
          && !leaves
      else if ev = 8 then !imgWait img st || !wUnx w
      else if ev = 9 then true
      else !leaves
  | 7 =>
    if !here || bits w 19 18 = 0 then true
    else if cl then ev == 1
    else (ev == 1 || ev == 4 || ev == 5) && (wMsg w == 9 || wMsg w == 10) && bits w 10 9 == 1
  | _ =>
    if !here || wUnx w then true
    else if cl then
      (decide (wMsg w ≤ 5) || wMsg w == 9) && (wMsg w == 0 || bits w 10 9 == 0) && bits w 13 11 == 0 && !bit w 17 &&
        !bit w 20 && !bit w 21
    else (wMsg w == 0 || (decide (6 ≤ wMsg w) && bits w 10 9 != 0)) && !wDeferred w

/-- The first word that fails a check: home half first, state by state, event by event (R265). -/
def firstBad (img code : Nat) : Option Nat :=
  ([0, 1].flatMap fun h => (List.range 16).flatMap fun st => (List.range 12).map fun ev => (h, st, ev)).findSome? fun x =>
    if checkWord code img x.1 x.2.1 x.2.2 then none else some (checkVal code x.1 x.2.1 x.2.2)

/-- The checks 1 to 8 in order (R265). -/
def checkImage (img : Nat) : Option Nat :=
  if !checkHead img then some 1 else [2, 3, 4, 5, 6, 7, 8].findSome? fun c => firstBad img c

/-- The words of one half, UNX left out. -/
def imgWords (img half : Nat) : List (Nat × Word) :=
  (List.range (12 * imgStates img half)).filterMap fun k =>
    let w := imgWord img half (k / 12) (k % 12)
    if wUnx w then none else some (k, word w)

/-- The table an image holds (R261). -/
def protoOfImage (img : Nat) : Proto :=
  { loaded := true, id := imgField img 8 4, nsh := imgStates img 0, nsc := imgStates img 1,
    hstab := BitVec.ofNat 16 (imgField img 12 2), cstab := BitVec.ofNat 16 (imgField img 14 2),
    cattr := (List.range (imgStates img 1)).map fun i => imgField img (16 + i) 1,
    home := imgWords img 0, clus := imgWords img 1 }

/-- `prtload` (R266). -/
def execPrtload (g : Guard) (d a b : BitVec 5) (s : State) : Out :=
  privOp (.prtload g d a b) g [a, b] [d] (do
    fenceWait
    let x ← ask fun s => getS s.strand a
    let slot ← ask fun s => (getS s.strand b).toNat
    illegalIf (slot / 8 != 0) (.prtload g d a b)
    trapIf (x.toNat % 64 != 0) .misaligned x
    let w ← ask whoAmI
    let me' ← ask me
    let id ← underLock (do
      trapIf (decide (slot < 6)) .protocolCheck 9
      let used ← ask fun s => usersOf s slot
      trapIf (decide (0 < used)) .protocolInUse (word slot)
      let ws ← eachOnce me' 392 fun k => loadVa me' w (x + word (8 * k)) 8
      let img := ws.foldr (fun v acc => v + 2 ^ 64 * acc) 0
      trapIf (checkImage img).isSome .protocolCheck (word ((checkImage img).getD 0))
      change fun s => { s with slots := setNth s.slots slot (protoOfImage img) }
      pure (protoOfImage img).id)
    wrS d (word id)) s

-- ## Messages arrive (R262 to R276)

/-- A message of a kind arrives where it was sent. -/
def arrive (k : MsgKind) (m : Msg) (s : State) : State := deliver { m with kind := k } (takeMsg { m with kind := k } s)

/-- `CLUSTER_INV` (R267). -/
def execClusterInv (m : Msg) (s : State) : Out := .next (arrive .inv m s)
/-- `CLUSTER_UPD` (R269). -/
def execClusterUpd (m : Msg) (s : State) : Out := .next (arrive .upd m s)
/-- `CLUSTER_DATA` (R267). -/
def execClusterData (m : Msg) (s : State) : Out := .next (arrive .data m s)
/-- `CLUSTER_ACK` (R264, R267). -/
def execClusterAck (m : Msg) (s : State) : Out := .next (arrive .ack m s)
/-- `CLUSTER_NACK` (R264, R267). -/
def execClusterNack (m : Msg) (s : State) : Out := .next (arrive .nack m s)
/-- `HOME_GETS` (R268). -/
def execHomeGets (m : Msg) (s : State) : Out := .next (arrive .gets m s)
/-- `HOME_GETX` (R269). -/
def execHomeGetx (m : Msg) (s : State) : Out := .next (arrive .getx m s)
/-- `HOME_PUTD` (R268, R276). -/
def execHomePutd (m : Msg) (s : State) : Out := .next (arrive .putd m s)
/-- `HOME_PUSH` (R269). -/
def execHomePush (m : Msg) (s : State) : Out := .next (arrive .push m s)
/-- `HOME_CLAIM` (R269, R270). -/
def execHomeClaim (m : Msg) (s : State) : Out := .next (arrive .claim m s)
/-- `HOME_UNC` (R260, R268). -/
def execHomeUnc (m : Msg) (s : State) : Out := .next (arrive .unc m s)
/-- `HOME_INV_ACK` (R264): a cluster's ACK arrives, and LAST_ACK follows when it is the last. -/
def execHomeInvAck (m : Msg) (s : State) : Out := .next (arrive .ack { m with dst := atHome } s)
/-- `HOME_MEM` (R268): the memory read of a line returned. -/
def execHomeMem (line : Nat) (s : State) : Out :=
  match s.net.find? (fun m => m.kind == .none && m.line == line) with
  | some m => .next (deliver m (takeMsg m s))
  | none => .next (homeMemReturn (slotOfLine s 0 line 0) line s)

/-- The bytes of a line that its cluster has sent and that were refused (R264, R275). -/
def sentBytes (s : State) (cl line : Nat) : List (Nat × Byte) :=
  lineBytes line cl (fun _ => true) (s.stores.filterMap fun p =>
    if p.cl = cl ∧ p.lvl = 3 ∧ p.key / 64 = line then some { p with lvl := 2 } else none)

/-- `NACK_BACKOFF_RETRY` (R264, R275): the local event that sent a refused request is raised again. -/
def execNackBackoffRetry (cl line : Nat) (ev : LocalEv) (s : State) : Out :=
  let slot := slotOfLine s cl line 0
  match ev with
  | .pub => .next (settle (clusterRaise slot cl line 2 (sentBytes s cl line) 0 0 s))
  | e => .next (settle (clusterRaise slot cl line (localCode e) [] 0 (clineAt s cl line).asker s))

/-- A cluster whose PUB was refused raises it again (R264). -/
def refusedPub (s : State) : Option (Nat × Nat) :=
  (s.clines.find? fun c => c.backoff != 0 && !copyWaits s (slotOfLine s c.cl c.line 0) c.cl c.line &&
    s.stores.any fun p => p.cl == c.cl && p.lvl == 3 && p.key / 64 == c.line).map fun c => (c.cl, c.line)

-- ## Scatter-add chains (R277)

/-- The writer of an addition from outside the clusters: nobody waits for its answer. -/
def outsideWriter : Nat := 2 ^ 52

/-- `SCATTER_ADD_ARRIVE` (R277): an addition reaches its slice from another agent; when it can neither join nor open a chain, it is
queued as a request under R275. -/
def execScatterAddArrive (addr : Nat) (ty : Ty) (v : Word) (s : State) : Out :=
  .next (homeRequest (addMsg 17 outsideWriter addr 0 ty v false) s)

/-- `SCATTER_ADD_CHAIN_CLOSE` (R277). -/
def execScatterAddChainClose (addr : Nat) (s : State) : Out :=
  match s.chains.find? (fun c => c.addr == addr) with
  | some c => .next (closeChain c s)
  | none => .next s

end Sys2Proof.Machine
end

