-- ==== Sys2Proof/Machine/VecInt.lean ====
section
/-! DEFINITION. Vector integer instructions, comparisons, masks, permutations and moves (R141, R142, R149 to R154). -/

namespace Sys2Proof.Machine

/-- The frame of an integer binary instruction (R138, R141): `f` takes the width and the two elements. -/
def vBin (i : Instr) (g : Guard) (ty : Ty) (d a : BitVec 5) (b : BOp) (m : BitVec 3) (f : Nat → Nat → Nat)
    (s : State) : Out :=
  vqOp i g false false (fun e => do
    vecCheck e (d :: a :: bRegs b) ty.width
    elementWise m fun k => do
      let x ← readElem a ty.width k
      let y ← readB e b ty k
      wrV d ty.width k (f x y)) s

/-- The frame of an integer unary instruction. -/
def vUn (i : Instr) (g : Guard) (ty : Ty) (d a : BitVec 5) (m : BitVec 3) (f : Nat → Nat) (s : State) : Out :=
  vqOp i g false false (fun e => do
    vecCheck e [d, a] ty.width
    elementWise m fun k => do
      let x ← readElem a ty.width k
      wrV d ty.width k (f x)) s

/-- The count of a vector shift: b[log2(w) − 1 : 0] (R141). -/
def vShift (ty : Ty) (b : Nat) : Nat := b % ty.width

/-- The smaller or larger of two elements as TY says (R141). -/
def intPick (ty : Ty) (wantMax : Bool) (a b : Nat) : Nat :=
  if decide (intOf ty a < intOf ty b) == wantMax then b else a

/-- `vadd` (R141). -/
def execVadd (g : Guard) (ty : Ty) (d a : BitVec 5) (b : BOp) (m : BitVec 3) (s : State) : Out :=
  vBin (.vadd g ty d a b m) g ty d a b m (fun x y => (x + y) % 2 ^ ty.width) s
/-- `vsub` (R141). -/
def execVsub (g : Guard) (ty : Ty) (d a : BitVec 5) (b : BOp) (m : BitVec 3) (s : State) : Out :=
  vBin (.vsub g ty d a b m) g ty d a b m (fun x y => wrapTo ty.width ((x : Int) - y)) s
/-- `vmul` (R141). -/
def execVmul (g : Guard) (ty : Ty) (d a : BitVec 5) (b : BOp) (m : BitVec 3) (s : State) : Out :=
  vBin (.vmul g ty d a b m) g ty d a b m (fun x y => x * y % 2 ^ ty.width) s
/-- `vmulh` (R141). -/
def execVmulh (g : Guard) (ty : Ty) (d a : BitVec 5) (b : BOp) (m : BitVec 3) (s : State) : Out :=
  vBin (.vmulh g ty d a b m) g ty d a b m (fun x y => wrapTo ty.width (intOf ty x * intOf ty y / 2 ^ ty.width)) s
/-- `vmin` (R141). -/
def execVmin (g : Guard) (ty : Ty) (d a : BitVec 5) (b : BOp) (m : BitVec 3) (s : State) : Out :=
  vBin (.vmin g ty d a b m) g ty d a b m (fun x y => intPick ty false x y) s
/-- `vmax` (R141). -/
def execVmax (g : Guard) (ty : Ty) (d a : BitVec 5) (b : BOp) (m : BitVec 3) (s : State) : Out :=
  vBin (.vmax g ty d a b m) g ty d a b m (fun x y => intPick ty true x y) s
/-- `vand` (R141). -/
def execVand (g : Guard) (ty : Ty) (d a : BitVec 5) (b : BOp) (m : BitVec 3) (s : State) : Out :=
  vBin (.vand g ty d a b m) g ty d a b m (fun x y => x &&& y) s
/-- `vor` (R141). -/
def execVor (g : Guard) (ty : Ty) (d a : BitVec 5) (b : BOp) (m : BitVec 3) (s : State) : Out :=
  vBin (.vor g ty d a b m) g ty d a b m (fun x y => x ||| y) s
/-- `vxor` (R141). -/
def execVxor (g : Guard) (ty : Ty) (d a : BitVec 5) (b : BOp) (m : BitVec 3) (s : State) : Out :=
  vBin (.vxor g ty d a b m) g ty d a b m (fun x y => x ^^^ y) s
/-- `vshl` (R141). -/
def execVshl (g : Guard) (ty : Ty) (d a : BitVec 5) (b : BOp) (m : BitVec 3) (s : State) : Out :=
  vBin (.vshl g ty d a b m) g ty d a b m (fun x y => x * 2 ^ vShift ty y % 2 ^ ty.width) s
/-- `vshr` (R141). -/
def execVshr (g : Guard) (ty : Ty) (d a : BitVec 5) (b : BOp) (m : BitVec 3) (s : State) : Out :=
  vBin (.vshr g ty d a b m) g ty d a b m (fun x y => x / 2 ^ vShift ty y) s
/-- `vsar` (R141). -/
def execVsar (g : Guard) (ty : Ty) (d a : BitVec 5) (b : BOp) (m : BitVec 3) (s : State) : Out :=
  vBin (.vsar g ty d a b m) g ty d a b m (fun x y => wrapTo ty.width (signedOf ty.width x / 2 ^ vShift ty y)) s
/-- `vadds` (R141). -/
def execVadds (g : Guard) (ty : Ty) (d a : BitVec 5) (b : BOp) (m : BitVec 3) (s : State) : Out :=
  vBin (.vadds g ty d a b m) g ty d a b m
    (fun x y => wrapTo ty.width (clampInt (intMin ty) (intMax ty) (intOf ty x + intOf ty y))) s
/-- `vsubs` (R141). -/
def execVsubs (g : Guard) (ty : Ty) (d a : BitVec 5) (b : BOp) (m : BitVec 3) (s : State) : Out :=
  vBin (.vsubs g ty d a b m) g ty d a b m
    (fun x y => wrapTo ty.width (clampInt (intMin ty) (intMax ty) (intOf ty x - intOf ty y))) s
/-- `vabs` (R141). -/
def execVabs (g : Guard) (ty : Ty) (d a : BitVec 5) (m : BitVec 3) (s : State) : Out :=
  vUn (.vabs g ty d a m) g ty d a m (fun x => (intOf ty x).natAbs % 2 ^ ty.width) s
/-- `vneg` (R141). -/
def execVneg (g : Guard) (ty : Ty) (d a : BitVec 5) (m : BitVec 3) (s : State) : Out :=
  vUn (.vneg g ty d a m) g ty d a m (fun x => wrapTo ty.width (-(x : Int))) s

/-- The frame of `vadc` and `vsbc` (R142): every element from VSTART executes, `mi` is the carry-in and `mo` the carry-out. -/
def vCarry (i : Instr) (g : Guard) (ty : Ty) (d a : BitVec 5) (b : BOp) (mo mi : BitVec 3)
    (f : Nat → Nat → Nat → Nat × Bool) (s : State) : Out :=
  vqOp i g false false (fun e => do
    vecCheck e (d :: a :: bRegs b) ty.width
    elementWise 0 fun k => do
      let ci ← readMask mi k
      let x ← readElem a ty.width k
      let y ← readB e b ty k
      wrV d ty.width k (f x y (b2n ci)).1
      wrM mo k (f x y (b2n ci)).2) s

/-- `vadc` (R142). -/
def execVadc (g : Guard) (ty : Ty) (d a : BitVec 5) (b : BOp) (mo mi : BitVec 3) (s : State) : Out :=
  vCarry (.vadc g ty d a b mo mi) g ty d a b mo mi
    (fun x y c => ((x + y + c) % 2 ^ ty.width, decide (2 ^ ty.width ≤ x + y + c))) s
/-- `vsbc` (R142). -/
def execVsbc (g : Guard) (ty : Ty) (d a : BitVec 5) (b : BOp) (mo mi : BitVec 3) (s : State) : Out :=
  vCarry (.vsbc g ty d a b mo mi) g ty d a b mo mi
    (fun x y c => (wrapTo ty.width ((x : Int) - y - c), decide (x < y + c))) s

-- ## Comparisons and masks

/-- An integer condition on two elements of width w (R149). -/
def elemCond (cc : Cond) (w a b : Nat) : Bool :=
  condHolds cc (BitVec.ofInt 64 (signedOf w a)) (BitVec.ofInt 64 (signedOf w b)) &&
    !(cc == .ltn || cc == .gen || cc == .len || cc == .gtn)
  || (condHolds cc (word (a % 2 ^ w)) (word (b % 2 ^ w)) && (cc == .ltn || cc == .gen || cc == .len || cc == .gtn))

/-- The B operand of `vcmp`: IMM8 is extended as the condition says (R149). -/
def readCmpB (e : VqEntry) (cc : Cond) (b : BOp) (ty : Ty) (k : Nat) : M Nat :=
  match b with
  | .imm i => fun s =>
    .ok (match cc with
      | .ltn | .gen | .len | .gtn => i.toNat
      | _ => (i.signExtend 64).toNat % 2 ^ ty.width) s
  | _ => readB e b ty k

/-- `vcmp` (R149). -/
def execVcmp (g : Guard) (cc : Cond) (ty : Ty) (d : BitVec 3) (a : BitVec 5) (b : BOp) (m : BitVec 3) (s : State) : Out :=
  vqOp (.vcmp g cc ty d a b m) g false false (fun e => do
    vecCheck e (a :: bRegs b) ty.width
    elementWise m fun k => do
      let x ← readElem a ty.width k
      let y ← readCmpB e cc b ty k
      wrM d k (elemCond cc ty.width x y)) s

/-- `mop` (R150). -/
def execMop (g : Guard) (op : PredOp) (d a b : BitVec 3) (s : State) : Out :=
  vqOp (.mop g op d a b) g false false (fun _ =>
    elementWise 0 fun k => do
      let x ← readMask a k
      let y ← if op = .not then pure false else readMask b k
      wrM d k (predOp op x y)) s

/-- `mpop` (R150). -/
def execMpop (g : Guard) (d : BitVec 5) (a : BitVec 3) (s : State) : Out :=
  vqOp (.mpop g d a) g true false (fun _ => do
    let l ← activeElems a
    wrS d (word l.length)) s

/-- `mfirst` (R150). -/
def execMfirst (g : Guard) (d : BitVec 5) (a : BitVec 3) (s : State) : Out :=
  vqOp (.mfirst g d a) g true false (fun _ => do
    let l ← activeElems a
    wrS d (match l with | [] => BitVec.allOnes 64 | k :: _ => word k)) s

/-- Read mask bits of a list of elements. -/
def readMasks (r : BitVec 3) : List Nat → M (List Bool)
  | [] => pure []
  | k :: l => do
    let b ← readMask r k
    let bs ← readMasks r l
    pure (b :: bs)

/-- Write mask bits from an element up. -/
def wrMasks (r : BitVec 3) (k : Nat) : List Bool → M Unit
  | [] => pure ()
  | b :: bs => do
    wrM r k b
    wrMasks r (k + 1) bs

/-- The frame of `mshup` and `mshdn` (R151): `f` answers the new bits and the bit shifted out. -/
def maskShift (i : Instr) (g : Guard) (d a : BitVec 3) (c : BitVec 5) (f : Bool → List Bool → List Bool × Bool)
    (s : State) : Out :=
  vqOp i g true false (fun e => do
    let vl ← ask fun s => s.strand.vl
    if vl = 0 then wrS c (e.b &&& 1#64)
    else do
      let bs ← readMasks a (List.range vl)
      let r := f (e.b.getLsbD 0) bs
      wrMasks d 0 r.1
      wrS c (word (b2n r.2))) s

/-- `mshup` (R151). -/
def execMshup (g : Guard) (d a : BitVec 3) (b c : BitVec 5) (s : State) : Out :=
  maskShift (.mshup g d a b c) g d a c (fun x bs => (x :: bs.dropLast, bs.getLastD false)) s
/-- `mshdn` (R151). -/
def execMshdn (g : Guard) (d a : BitVec 3) (b c : BitVec 5) (s : State) : Out :=
  maskShift (.mshdn g d a b c) g d a c (fun x bs => (bs.tail ++ [x], bs.headD false)) s

-- ## Permutations, broadcasts, moves

/-- Write elements given as index and value. -/
def wrElems (d : BitVec 5) (w : Nat) : List (Nat × Nat) → M Unit
  | [] => pure ()
  | x :: l => do
    wrV d w x.1 x.2
    wrElems d w l

/-- The frame of a permutation (R152): a whole instruction that reads every source before it writes. `src` answers, for the
active elements, the destination index and, for a value taken from va, the source index. -/
def vMove (i : Instr) (g : Guard) (ty : Ty) (d a : BitVec 5) (regs : List (BitVec 5)) (m : BitVec 3)
    (src : VqEntry → Nat → List Nat → M (List (Nat × Option Nat))) (s : State) : Out :=
  vqOp i g true false (fun e => do
    vecCheck e (d :: a :: regs) ty.width
    let act ← activeElems m
    let vl ← ask fun s => s.strand.vl
    let mv ← src e vl act
    let vals ← mv.mapM fun x => match x.2 with
      | some j => do let v ← readElem a ty.width j; pure (x.1, v)
      | none => pure (x.1, 0)
    wrElems d ty.width vals) s

/-- `vslide.up` (R152). -/
def execVslideUp (g : Guard) (ty : Ty) (d a : BitVec 5) (k : BOp) (m : BitVec 3) (s : State) : Out :=
  vMove (.vslideUp g ty d a k m) g ty d a [] m (fun e _ act =>
    pure ((act.filter fun x => decide (indexOf e k ≤ x)).map fun x => (x, some (x - indexOf e k)))) s
/-- `vslide.down` (R152). -/
def execVslideDown (g : Guard) (ty : Ty) (d a : BitVec 5) (k : BOp) (m : BitVec 3) (s : State) : Out :=
  vMove (.vslideDown g ty d a k m) g ty d a [] m (fun e vl act =>
    pure (act.map fun x => (x, if x + indexOf e k < vl then some (x + indexOf e k) else none))) s
/-- `vperm` (R152). -/
def execVperm (g : Guard) (ty : Ty) (d a b : BitVec 5) (m : BitVec 3) (s : State) : Out :=
  vMove (.vperm g ty d a b m) g ty d a [b] m (fun _ vl act =>
    act.mapM fun x => do
      let j ← readElem b ty.width x
      pure (x, if j < vl then some j else none)) s
/-- `vcompress` (R152). -/
def execVcompress (g : Guard) (ty : Ty) (d a : BitVec 5) (m : BitVec 3) (s : State) : Out :=
  vMove (.vcompress g ty d a m) g ty d a [] m (fun _ _ act => pure (act.zipIdx.map fun x => (x.2, some x.1))) s
/-- `vexpand` (R152). -/
def execVexpand (g : Guard) (ty : Ty) (d a : BitVec 5) (m : BitVec 3) (s : State) : Out :=
  vMove (.vexpand g ty d a m) g ty d a [] m (fun _ _ act => pure (act.zipIdx.map fun x => (x.1, some x.2))) s

/-- `vbcast` (R153). -/
def execVbcast (g : Guard) (ty : Ty) (d : BitVec 5) (b : BOp) (m : BitVec 3) (s : State) : Out :=
  vqOp (.vbcast g ty d b m) g false false (fun e => do
    vecCheck e [d] ty.width
    elementWise m fun k => do
      let y ← readB e b ty k
      wrV d ty.width k y) s

/-- `vid` (R153). -/
def execVid (g : Guard) (ty : Ty) (d : BitVec 5) (m : BitVec 3) (s : State) : Out :=
  vqOp (.vid g ty d m) g false false (fun e => do
    vecCheck e [d] ty.width
    elementWise m fun k => wrV d ty.width k (k % 2 ^ ty.width)) s

/-- `vmvs` (R154): with a nonzero VSTART it commits without effect. -/
def execVmvs (g : Guard) (ty : Ty) (d a : BitVec 5) (i : BOp) (s : State) : Out :=
  vqOp (.vmvs g ty d a i) g false false (fun e => do
    vecCheck e [a] ty.width
    let t ← ask State.strand
    if t.vstart ≠ 0 then pure ()
    else if t.vlmax ≤ indexOf e i then wrS d 0
    else do
      let x ← readElem a ty.width (indexOf e i)
      wrS d (toReg ty x)) s

/-- `vsv` (R154): with a nonzero VSTART it commits without effect. -/
def execVsv (g : Guard) (ty : Ty) (d a : BitVec 5) (i : BOp) (s : State) : Out :=
  vqOp (.vsv g ty d a i) g false false (fun e => do
    vecCheck e [d] ty.width
    let t ← ask State.strand
    if t.vstart ≠ 0 then pure ()
    else if t.vlmax ≤ indexOf e i then pure ()
    else wrV d ty.width (indexOf e i) (e.a.toNat % 2 ^ ty.width)) s

end Sys2Proof.Machine
end

