-- ==== Sys2Proof/Machine/VecFp.lean ====
section
/-! DEFINITION. Vector floating point, conversion, quantisation, reductions, scans and the softmax step (R128, R129, R133,
R143 to R148, R155 to R159). -/

namespace Sys2Proof.Machine

/-- Deliver an element's flags, then write its result (R127). -/
def fpElem (d : BitVec 5) (w k : Nat) (r : FpRes) : M Unit := do
  deliverVector r.2
  wrV d w k r.1

/-- The frame of a rounding binary instruction (R138, R143). -/
def vfBin (i : Instr) (g : Guard) (ty : Ty) (rm : Rm) (d a : BitVec 5) (b : BOp) (m : BitVec 3)
    (f : FpFmt → Rm → Nat → Nat → FpRes) (s : State) : Out :=
  vqOp i g false false (fun e => do
    vecCheck e (d :: a :: bRegs b) ty.width
    let r ← entryRm e rm
    elementWise m fun k => do
      let x ← readElem a ty.width k
      let y ← readB e b ty k
      fpElem d ty.width k (f (fmtOf ty) r x y)) s

/-- The frame of a rounding unary instruction (R143, R144). -/
def vfUn (i : Instr) (g : Guard) (ty : Ty) (rm : Rm) (d a : BitVec 5) (m : BitVec 3)
    (f : FpFmt → Rm → Nat → FpRes) (s : State) : Out :=
  vqOp i g false false (fun e => do
    vecCheck e [d, a] ty.width
    let r ← entryRm e rm
    elementWise m fun k => do
      let x ← readElem a ty.width k
      fpElem d ty.width k (f (fmtOf ty) r x)) s

/-- `vfadd` (R143). -/
def execVfadd (g : Guard) (ty : Ty) (rm : Rm) (d a : BitVec 5) (b : BOp) (m : BitVec 3) (s : State) : Out :=
  vfBin (.vfadd g ty rm d a b m) g ty rm d a b m fpAdd s
/-- `vfsub` (R143). -/
def execVfsub (g : Guard) (ty : Ty) (rm : Rm) (d a : BitVec 5) (b : BOp) (m : BitVec 3) (s : State) : Out :=
  vfBin (.vfsub g ty rm d a b m) g ty rm d a b m fpSub s
/-- `vfmul` (R143). -/
def execVfmul (g : Guard) (ty : Ty) (rm : Rm) (d a : BitVec 5) (b : BOp) (m : BitVec 3) (s : State) : Out :=
  vfBin (.vfmul g ty rm d a b m) g ty rm d a b m fpMul s
/-- `vfma` (R143). -/
def execVfma (g : Guard) (ty : Ty) (rm : Rm) (d a : BitVec 5) (b : BOp) (c : BitVec 5) (m : BitVec 3) (s : State) : Out :=
  vqOp (.vfma g ty rm d a b c m) g false false (fun e => do
    vecCheck e (d :: a :: c :: bRegs b) ty.width
    let r ← entryRm e rm
    elementWise m fun k => do
      let x ← readElem a ty.width k
      let y ← readB e b ty k
      let z ← readElem c ty.width k
      fpElem d ty.width k (fpFma (fmtOf ty) r x y z)) s
/-- `vfdiv` (R143). -/
def execVfdiv (g : Guard) (ty : Ty) (rm : Rm) (d a : BitVec 5) (b : BOp) (m : BitVec 3) (s : State) : Out :=
  vfBin (.vfdiv g ty rm d a b m) g ty rm d a b m fpDiv s
/-- `vfsqrt` (R143). -/
def execVfsqrt (g : Guard) (ty : Ty) (rm : Rm) (d a : BitVec 5) (m : BitVec 3) (s : State) : Out :=
  vfUn (.vfsqrt g ty rm d a m) g ty rm d a m fpSqrt s
/-- `vfrcp` (R144). -/
def execVfrcp (g : Guard) (ty : Ty) (rm : Rm) (d a : BitVec 5) (m : BitVec 3) (s : State) : Out :=
  vfUn (.vfrcp g ty rm d a m) g ty rm d a m fpRcp s
/-- `vfrsq` (R144). -/
def execVfrsq (g : Guard) (ty : Ty) (rm : Rm) (d a : BitVec 5) (m : BitVec 3) (s : State) : Out :=
  vfUn (.vfrsq g ty rm d a m) g ty rm d a m fpRsq s
/-- `vfexp2` (R144). -/
def execVfexp2 (g : Guard) (ty : Ty) (rm : Rm) (d a : BitVec 5) (m : BitVec 3) (s : State) : Out :=
  vfUn (.vfexp2 g ty rm d a m) g ty rm d a m fpExp2 s
/-- `vflog2` (R144). -/
def execVflog2 (g : Guard) (ty : Ty) (rm : Rm) (d a : BitVec 5) (m : BitVec 3) (s : State) : Out :=
  vfUn (.vflog2 g ty rm d a m) g ty rm d a m fpLog2 s

/-- The frame of `vfmin` and `vfmax` (R145). -/
def vfPick (i : Instr) (g : Guard) (ty : Ty) (d a : BitVec 5) (b : BOp) (m : BitVec 3)
    (f : FpFmt → Nat → Nat → FpRes) (s : State) : Out :=
  vqOp i g false false (fun e => do
    vecCheck e (d :: a :: bRegs b) ty.width
    elementWise m fun k => do
      let x ← readElem a ty.width k
      let y ← readB e b ty k
      fpElem d ty.width k (f (fmtOf ty) x y)) s

/-- `vfmin` (R145). -/
def execVfmin (g : Guard) (ty : Ty) (d a : BitVec 5) (b : BOp) (m : BitVec 3) (s : State) : Out :=
  vfPick (.vfmin g ty d a b m) g ty d a b m fpMin s
/-- `vfmax` (R145). -/
def execVfmax (g : Guard) (ty : Ty) (d a : BitVec 5) (b : BOp) (m : BitVec 3) (s : State) : Out :=
  vfPick (.vfmax g ty d a b m) g ty d a b m fpMaxN s

/-- minimumNumber(maximumNumber(a, lo), hi) (R145). -/
def fpClamp (k : FpFmt) (a lo hi : Nat) : FpRes :=
  let x := fpMaxN k a lo
  let y := fpMin k x.1 hi
  (y.1, x.2 ||| y.2)

/-- `vfclamp` (R145). -/
def execVfclamp (g : Guard) (ty : Ty) (d a : BitVec 5) (scalars : Bool) (lo hi : BitVec 5) (m : BitVec 3) (s : State) :
    Out :=
  vqOp (.vfclamp g ty d a scalars lo hi m) g false false (fun e => do
    vecCheck e (if scalars then [d, a] else [d, a, lo, hi]) ty.width
    elementWise m fun k => do
      let x ← readElem a ty.width k
      let l ← if scalars then pure (e.b.toNat % 2 ^ ty.width) else readElem lo ty.width k
      let h ← if scalars then pure (e.c.toNat % 2 ^ ty.width) else readElem hi ty.width k
      fpElem d ty.width k (fpClamp (fmtOf ty) x l h)) s

/-- `vfcmp` (R149). -/
def execVfcmp (g : Guard) (cc : FCond) (ty : Ty) (d : BitVec 3) (a : BitVec 5) (b : BOp) (m : BitVec 3) (s : State) :
    Out :=
  vqOp (.vfcmp g cc ty d a b m) g false false (fun e => do
    vecCheck e (a :: bRegs b) ty.width
    elementWise m fun k => do
      let x ← readElem a ty.width k
      let y ← readB e b ty k
      let r := fpCond (fmtOf ty) cc x y
      deliverVector r.2
      wrM d k r.1) s

-- ## Conversion and quantisation

/-- `vfcvt` (R146): between integer types nothing rounds. -/
def execVfcvt (g : Guard) (dty sty : Ty) (rm : Rm) (d a : BitVec 5) (m : BitVec 3) (s : State) : Out :=
  vqOp (.vfcvt g dty sty rm d a m) g false false (fun e => do
    vecCheck e [d, a] (Nat.max dty.width sty.width)
    let r ← entryRm e rm
    elementWise m fun k => do
      let x ← readElem a sty.width k
      fpElem d dty.width k (convert r dty sty x)) s

/-- The exponent of a BX8 block over its values (R129). -/
def bx8Exp (vs : List FpVal) : Nat :=
  if vs.any (fun v => match v with | .fin _ _ _ => false | _ => true) then 255
  else
    let tops := vs.filterMap fun v => match v with
      | .fin _ m e => if m = 0 then none else some ((Nat.log2 m : Int) + e)
      | _ => none
    match tops with
    | [] => 0
    | t :: ts => (clampInt 0 254 (ts.foldl max t - 6 + 127)).toNat

/-- The q of an element of a BX8 block with exponent `ex`, and whether it is inexact (R129). -/
def bx8Q (ex : Nat) (v : FpVal) : Int × Bool :=
  match v with
  | .fin s m e =>
    if ex = 255 then (0, false)
    else
      let (r, inexact) := roundAt .rne s m (e + 127 - ex) 0 false
      let q : Int := if s then -(r : Int) else r
      (clampInt (-127) 127 q, inexact || decide (127 < r))
  | _ => (0, false)

/-- `vquant` (R147). -/
def execVquant (g : Guard) (ty : Ty) (d a ev : BitVec 5) (m : BitVec 3) (s : State) : Out :=
  vqOp (.vquant g ty d a ev m) g false false (fun e => do
    vecCheck e [d, a, ev] ty.width
    let vl ← ask fun s => s.strand.vl
    let start ← ask fun s => s.strand.vstart
    elementWise m fun k => do
      let b := k / 32
      let blk ← activeOf m (span (32 * b) (Nat.min (32 * b + 32) vl))
      let xs ← readAll a ty.width blk
      let vs := xs.map (fpRead (fmtOf ty))
      let x ← readElem a ty.width k
      let ex := bx8Exp vs
      let (q, inexact) := bx8Q ex (fpRead (fmtOf ty) x)
      let bad := vs.any fun v => match v with | .inf _ => true | .nan sg => sg | _ => false
      deliverVector ((if bad then flNV else flNone) ||| (if inexact then flNX else flNone))
      wrV d 8 k (wrapTo 8 q)
      if (blk.find? fun x => decide (start ≤ x)) = some k then wrV ev 8 b ex else pure ()) s

/-- The value q × 2^(E − 127) (R148). -/
def bx8Value (k : FpFmt) (q : Int) (ex : Nat) : FpRes :=
  if ex = 255 then (fpNan k, flNone) else fpRound k .rne (decide (q < 0)) q.natAbs ((ex : Int) - 127) false

/-- `vdequant` (R148). -/
def execVdequant (g : Guard) (ty : Ty) (d a ev : BitVec 5) (m : BitVec 3) (s : State) : Out :=
  vqOp (.vdequant g ty d a ev m) g false false (fun e => do
    vecCheck e [d, a, ev] ty.width
    elementWise m fun k => do
      let q ← readElem a 8 k
      let ex ← readElem ev 8 (k / 32)
      fpElem d ty.width k (bx8Value (fmtOf ty) (signedOf 8 q) ex)) s

-- ## Reductions (R133, R155 to R157)

/-- Add neighbours of a level of the tree; an absent node passes the other on (R133). -/
def pairUp (k : FpFmt) (rm : Rm) : List (Option Nat) → List (Option Nat) × BitVec 6
  | a :: b :: r =>
    let (l, f) := pairUp k rm r
    match a, b with
    | none, y => (y :: l, f)
    | some x, none => (some x :: l, f)
    | some x, some y =>
      let z := fpAdd k rm x y
      (some z.1 :: l, z.2 ||| f)
  | l => (l, flNone)

/-- The sum of a block of 32 in five levels (R133). -/
def blockSum (k : FpFmt) (rm : Rm) (l : List (Option Nat)) : Option Nat × BitVec 6 :=
  let (l1, f1) := pairUp k rm l
  let (l2, f2) := pairUp k rm l1
  let (l3, f3) := pairUp k rm l2
  let (l4, f4) := pairUp k rm l3
  let (l5, f5) := pairUp k rm l4
  ((l5.headD none), f1 ||| f2 ||| f3 ||| f4 ||| f5)

/-- The canonical NaN in place of any NaN. -/
def canon (k : FpFmt) (x : Nat) : Nat := if isNan (fpRead k x) then fpNan k else x

/-- NV when some operand is a signalling NaN (R133, R155). -/
def snanFlag (k : FpFmt) (l : List Nat) : BitVec 6 := if l.any fun x => isSnan (fpRead k x) then flNV else flNone

/-- Quiet every NaN: its NV is already counted. -/
def quiet (k : FpFmt) (x : Nat) : Nat := canon k x

/-- Accumulate the block sums in order, scaled when scales are given (R133). -/
def accBlocks (k : FpFmt) (rm : Rm) (acc : Option Nat) :
    List (Option Nat × Int) → Option Nat × BitVec 6
  | [] => (acc, flNone)
  | (none, _) :: r => accBlocks k rm acc r
  | (some b, sc) :: r =>
    let b1 := if sc = 0 then (b, flNone) else
      (match fpRead k b with
       | .fin s m e => if m = 0 then (b, flNone) else fpRound k rm s m (e + sc) false
       | _ => (canon k b, flNone))
    match acc with
    | none =>
      let (x, f) := accBlocks k rm (some b1.1) r
      (x, b1.2 ||| f)
    | some a =>
      let z := fpAdd k rm a b1.1
      let (x, f) := accBlocks k rm (some z.1) r
      (x, b1.2 ||| z.2 ||| f)

/-- The canonical sum (R133): `x e` is the element, none when it is not active; `sc` the scales. -/
def canonSum (k : FpFmt) (rm : Rm) (vl : Nat) (x : Nat → Option Nat) (start : Option Nat) (sc : Nat → Int) : FpRes :=
  let blocks := List.range (ceilDiv vl 32)
  let nodes (b : Nat) : List (Option Nat) :=
    (List.range 32).map fun i => if 32 * b + i < vl then (x (32 * b + i)).map (quiet k) else none
  let sums := blocks.map fun b => blockSum k rm (nodes b)
  let f1 := (sums.map fun p => p.2).foldl (· ||| ·) flNone
  let (acc, f2) := accBlocks k rm (start.map (quiet k)) ((sums.zipIdx).map fun p => (p.1.1, sc p.2))
  let nv := snanFlag k ((List.range vl).filterMap x ++ start.toList)
  (canon k (acc.getD (fpZero k false)), f1 ||| f2 ||| nv)

/-- Sum operands two at a time along the tree that the implementation chooses (R156; log 8). -/
def fastSum (k : FpFmt) (rm : Rm) (tree : Nat → Nat) : Nat → List Nat → FpRes
  | 0, l => (canon k (l.headD (fpZero k false)), flNone)
  | fuel + 1, l =>
    if l.length ≤ 1 then (canon k (l.headD (fpZero k false)), flNone)
    else
      let n := l.length
      let i := tree n % n
      let rest := l.eraseIdx i
      let j := tree n / n % (n - 1)
      let z := fpAdd k rm (nthD l i 0) (nthD rest j 0)
      let r := fastSum k rm tree fuel (z.1 :: rest.eraseIdx j)
      (r.1, z.2 ||| r.2)

/-- The accumulation type of a sum (R156). -/
def accTy : Ty → Ty
  | .bf16 | .f16 => .f32
  | t => t

/-- Widen an element exactly, a signalling NaN staying signalling (R156). -/
def widen (kd ks : FpFmt) (x : Nat) : Nat :=
  if kd = ks then x
  else
    match fpRead ks x with
    | .nan sg => if sg then topExp kd * 2 ^ kd.f + 1 else fpNan kd
    | .inf s => fpInf kd s
    | .fin s m e => (fpRound kd .rne s m e false).1

/-- The start value of a reduction, in a type (R155). -/
def startVal (e : VqEntry) (st : Option (BitVec 5)) (ty : Ty) : Option Nat :=
  st.map fun _ => e.b.toNat % 2 ^ ty.width

/-- The frame of a reduction (R155): a whole instruction that reads the active elements and writes sd. `f` takes VL, the
active elements with their indices and the start value in type `sty`. -/
def vRed (i : Instr) (g : Guard) (ty sty : Ty) (d a : BitVec 5) (st : Option (BitVec 5)) (m : BitVec 3)
    (regs : List (BitVec 5)) (rm : Rm)
    (f : VqEntry → Rm → Strand → List (Nat × Nat) → Option Nat → M FpRes) (s : State) : Out :=
  vqOp i g true false (fun e => do
    vecCheck e (a :: regs) ty.width
    let r ← entryRm e rm
    let act ← activeElems m
    let xs ← readAll a ty.width act
    let t ← ask State.strand
    let res ← f e r t (act.zip xs) (startVal e st sty)
    deliverVector res.2
    wrS d (toReg sty res.1)) s

/-- The wrapping integer sum (R156). -/
def intSum (ty : Ty) (xs : List (Nat × Nat)) (st : Option Nat) : FpRes :=
  (((xs.map fun x => x.2).sum + st.getD 0) % 2 ^ ty.width, flNone)

/-- The elements of a sum by index, widened (R156). -/
def widened (ty : Ty) (xs : List (Nat × Nat)) : List (Nat × Nat) :=
  xs.map fun x => (x.1, widen (fmtOf (accTy ty)) (fmtOf ty) x.2)

/-- The element at an index of a list of elements. -/
def pickElem (xs : List (Nat × Nat)) (k : Nat) : Option Nat := (xs.find? fun x => x.1 == k).map fun x => x.2

/-- The VCFG value (R116). -/
def vcfgValue (t : Strand) : Nat :=
  (if t.nreg = 8 then 0 else if t.nreg = 16 then 1 else 2)
    + (if t.ew = 8 then 0 else if t.ew = 16 then 1 else if t.ew = 32 then 2 else 3) * 2 ^ 2
    + t.ext * 2 ^ 4 + t.accs.length * 2 ^ 8
    + (if t.base = 16384 then 0 else if t.base = 32768 then 1 else 2) * 2 ^ 12 + t.vlmax * 2 ^ 16

/-- `vredsum.f` (R156). -/
def execVredsumF (g : Guard) (ty : Ty) (rm : Rm) (d a : BitVec 5) (st : Option (BitVec 5)) (m : BitVec 3) (s : State) :
    Out :=
  vRed (.vredsumF g ty rm d a st m) g ty (accTy ty) d a st m [] rm (fun _ r t xs start =>
    if ty.isInt then pure (intSum ty xs start)
    else
      let k := fmtOf (accTy ty)
      let ops := start.toList ++ (widened ty xs).map fun x => x.2
      let sum := fastSum k r (Config.fastTree t.vl t.vlmax (vcfgValue t) (getM t m).toNat) ops.length (ops.map (quiet k))
      pure (sum.1, sum.2 ||| snanFlag k ops)) s

/-- `vredsum.c` (R156). -/
def execVredsumC (g : Guard) (ty : Ty) (rm : Rm) (d a : BitVec 5) (st : Option (BitVec 5)) (m : BitVec 3) (s : State) :
    Out :=
  vRed (.vredsumC g ty rm d a st m) g ty (accTy ty) d a st m [] rm (fun _ r t xs start =>
    if ty.isInt then pure (intSum ty xs start)
    else pure (canonSum (fmtOf (accTy ty)) r t.vl (pickElem (widened ty xs)) start (fun _ => 0))) s

/-- The scales of the blocks that hold an active element (R156). -/
def readScales (c : BitVec 5) : List Nat → M (List (Nat × Nat))
  | [] => pure []
  | b :: l => do
    let x ← readElem c 8 b
    let r ← readScales c l
    pure ((b, x) :: r)

/-- `vredsum.cs` (R156). -/
def execVredsumCs (g : Guard) (ty : Ty) (rm : Rm) (d a : BitVec 5) (st : Option (BitVec 5)) (c : BitVec 5) (m : BitVec 3)
    (s : State) : Out :=
  vRed (.vredsumCs g ty rm d a st c m) g ty (accTy ty) d a st m [c] rm (fun _ r t xs start => do
    let scs ← readScales c ((List.range (ceilDiv t.vl 32)).filter fun b => xs.any fun x => x.1 / 32 == b)
    pure (canonSum (fmtOf (accTy ty)) r t.vl (pickElem (widened ty xs)) start
      (fun b => signedOf 8 ((pickElem scs b).getD 0)))) s

/-- The result of a maximum or minimum (R155, R157). -/
def redPick (ty : Ty) (wantMax : Bool) (ops : List Nat) : FpRes :=
  if ty.isInt then
    match ops with
    | [] => (wrapTo ty.width (if wantMax then intMin ty else intMax ty), flNone)
    | x :: r => (r.foldl (intPick ty wantMax) x, flNone)
  else
    let k := fmtOf ty
    let nums := ops.filter fun x => !isNan (fpRead k x)
    let fl := snanFlag k ops
    match nums with
    | [] => (if ops.isEmpty then fpInf k wantMax else fpNan k, fl)
    | x :: r => (r.foldl (fun a b => (fpPick k wantMax a b).1) x, fl)

/-- `vredmax` (R157). -/
def execVredmax (g : Guard) (ty : Ty) (d a : BitVec 5) (st : Option (BitVec 5)) (m : BitVec 3) (s : State) : Out :=
  vRed (.vredmax g ty d a st m) g ty ty d a st m [] .rne (fun _ _ _ xs start =>
    pure (redPick ty true (start.toList ++ xs.map fun x => x.2))) s
/-- `vredmin` (R157). -/
def execVredmin (g : Guard) (ty : Ty) (d a : BitVec 5) (st : Option (BitVec 5)) (m : BitVec 3) (s : State) : Out :=
  vRed (.vredmin g ty d a st m) g ty ty d a st m [] .rne (fun _ _ _ xs start =>
    pure (redPick ty false (start.toList ++ xs.map fun x => x.2))) s
/-- `vredand` (R157). -/
def execVredand (g : Guard) (ty : Ty) (d a : BitVec 5) (st : Option (BitVec 5)) (m : BitVec 3) (s : State) : Out :=
  vRed (.vredand g ty d a st m) g ty ty d a st m [] .rne (fun _ _ _ xs start =>
    pure ((start.toList ++ xs.map fun x => x.2).foldl (· &&& ·) (2 ^ ty.width - 1), flNone)) s
/-- `vredor` (R157). -/
def execVredor (g : Guard) (ty : Ty) (d a : BitVec 5) (st : Option (BitVec 5)) (m : BitVec 3) (s : State) : Out :=
  vRed (.vredor g ty d a st m) g ty ty d a st m [] .rne (fun _ _ _ xs start =>
    pure ((start.toList ++ xs.map fun x => x.2).foldl (· ||| ·) 0, flNone)) s

-- ## Scan (R158)

/-- One step of a scan. -/
def scanStep (op : ScanOp) (ty : Ty) (rm : Rm) (acc x : Nat) : FpRes :=
  match op with
  | .sum => if ty.isInt then ((acc + x) % 2 ^ ty.width, flNone) else fpAdd (fmtOf ty) rm acc x
  | .max => redPick ty true [acc, x]
  | .min => redPick ty false [acc, x]

/-- The running results over the active elements. -/
def scanList (op : ScanOp) (ty : Ty) (rm : Rm) : Option Nat → List (Nat × Nat) → List (Nat × Nat) × BitVec 6
  | _, [] => ([], flNone)
  | acc, (k, x) :: r =>
    let y : FpRes := match acc with
      | none => (if ty.isInt then x else canon (fmtOf ty) x, flNone)
      | some a => scanStep op ty rm a x
    let z := if ty.isInt then y.1 else canon (fmtOf ty) y.1
    let (l, f) := scanList op ty rm (some z) r
    ((k, z) :: l, y.2 ||| f)

/-- `vscan` (R158). -/
def execVscan (g : Guard) (op : ScanOp) (ty : Ty) (rm : Rm) (d a : BitVec 5) (st : Option (BitVec 5)) (m : BitVec 3)
    (s : State) : Out :=
  vqOp (.vscan g op ty rm d a st m) g true false (fun e => do
    vecCheck e [d, a] ty.width
    let r ← entryRm e rm
    let act ← activeElems m
    let xs ← readAll a ty.width act
    let start := startVal e st ty
    let (l, f) := scanList op ty r start (act.zip xs)
    deliverVector (f ||| (if ty.isInt then flNone else snanFlag (fmtOf ty) (start.toList ++ xs)))
    wrElems d ty.width l) s

-- ## The strip-softmax step (R159)

/-- The exact difference of two values; ∞ − ∞ is invalid. -/
def valSub (x y : FpVal) : FpVal × Bool :=
  match x, y with
  | .nan a, v => (.nan false, a || isSnan v)
  | v, .nan b => (.nan false, b || isSnan v)
  | .inf a, .inf b => if a = b then (.nan false, true) else (.inf a, false)
  | .inf a, .fin _ _ _ => (.inf a, false)
  | .fin _ _ _, .inf b => (.inf (!b), false)
  | .fin s1 m1 e1, .fin s2 m2 e2 =>
    let e := if e1 < e2 then e1 else e2
    let c : Int := (if s1 then -1 else 1) * ((m1 <<< (e1 - e).toNat : Nat) : Int)
      - (if s2 then -1 else 1) * ((m2 <<< (e2 - e).toNat : Nat) : Int)
    (.fin (decide (c < 0)) c.natAbs e, false)

/-- e^(x − y), rounded once to binary32 (R159). -/
def expDiff (x y : Nat) : FpRes :=
  let k := fmtOf .f32
  let (v, nv) := valSub (fpRead k x) (fpRead k y)
  let r := valExp k .rne v
  (r.1, r.2 ||| (if nv then flNV else flNone))

/-- `vsmax` (R159), operation by operation as the pseudocode has them. DESIGN CHOICE: with mn = −∞ a quiet NaN element gets the
+0.0 of the pseudocode, not the NaN of the list of special cases; and with no active element a signalling NaN in sm, on which
nothing operates, raises nothing and goes back as it is (log 46). -/
def execVsmax (g : Guard) (d a sm sl sk : BitVec 5) (m : BitVec 3) (s : State) : Out :=
  vqOp (.vsmax g d a sm sl sk m) g true false (fun e => do
    vecCheck e [d, a] 32
    let k := fmtOf .f32
    let act ← activeElems m
    let xs ← readAll a 32 act
    let vl ← ask fun s => s.strand.vl
    let mo := e.b.toNat % 2 ^ 32
    let lo := e.c.toNat % 2 ^ 32
    let mx := xs.foldl (fun (acc : FpRes) x => ((fpMaxN k acc.1 x).1, acc.2 ||| (fpMaxN k acc.1 x).2)) (mo, flNone)
    let mn := mx.1
    let same := act.isEmpty || (!isNan (fpRead k mn) && !isNan (fpRead k mo) &&
      valCmp (fpRead k mn) (fpRead k mo) == .eq)
    let kf : FpRes := if same then (fpOne k, flNone) else expDiff mo mn
    let es := xs.map fun x => if fpRead k mn == .inf true then (0, flNone) else expDiff x mn
    let start := fpMul k .rne lo kf.1
    let outs := act.zip (es.map fun r => r.1)
    let sum := canonSum k .rne vl (pickElem outs) (some start.1) (fun _ => 0)
    deliverVector (mx.2 ||| kf.2 ||| (es.map fun r => r.2).foldl (· ||| ·) flNone ||| start.2 ||| sum.2)
    wrElems d 32 outs
    wrS sm (word mn)
    wrS sl (word sum.1)
    wrS sk (word kf.1)) s

end Sys2Proof.Machine
end

