-- ==== Sys2Proof/Machine/Context.lean ====
section
/-! DEFINITION. The context save area (R298, R299) with the instructions that write and read it, `ctxsave` and `ctxload`
(R300). -/

namespace Sys2Proof.Machine

-- ## Words of an area (log 13)

/-- The n words of a number, least significant first. -/
def wordsOf (x n : Nat) : List Nat := (List.range n).map fun i => x / 2 ^ (64 * i) % 2 ^ 64
/-- The number that words hold. -/
def ofWords (ws : List Nat) : Nat := ws.foldr (fun w acc => w + 2 ^ 64 * acc) 0
/-- Words at an offset. -/
def wordsAt (off : Nat) (ws : List Nat) : List (Nat × Nat) := ws.zipIdx.map fun x => (off + 8 * x.2, x.1)

/-- The words of a queue entry before its check value. -/
def entryWords (e : VqEntry) : List Nat :=
  [e.pc.toNat, e.head.toNat + e.frm.toNat * 2 ^ 16 + b2n e.guardOff * 2 ^ 19 + b2n e.done * 2 ^ 20,
   e.tail.toNat % 2 ^ 64, e.tail.toNat / 2 ^ 64,
   e.a.toNat, e.b.toNat, e.c.toNat, e.d.toNat, e.tether.toNat, (e.arrived.map (· + 1)).getD 0, e.age, 0, 0, 0, 0]

/-- Save an entry: the check value is the number under which the entry, with the lines it has claimed, is kept (R298, R270). -/
def saveEntry (e : VqEntry) (s : State) : List Nat × State :=
  (entryWords e ++ [s.vault.length + 1], { s with vault := s.vault ++ [(entryWords e, e.lines)] })

/-- Save entries in order. -/
def saveEntries : List VqEntry → State → List Nat × State
  | [], s => ([], s)
  | e :: r, s =>
    let (w, s1) := saveEntry e s
    let (ws, s2) := saveEntries r s1
    (w ++ ws, s2)

/-- Load an entry from its 16 words; one that has been modified fails its check value (R298). -/
def loadEntry (s : State) (ws : List Nat) : Option VqEntry :=
  let w := fun k => nthD ws k 0
  match (if w 15 = 0 then none else s.vault[w 15 - 1]?) with
  | none => none
  | some x =>
    if x.1 = ws.take 15 then
      some { pc := word (w 0), head := BitVec.ofNat 16 (w 1), tail := BitVec.ofNat 96 (w 2 % 2 ^ 64 + w 3 * 2 ^ 64),
             a := word (w 4), b := word (w 5), c := word (w 6), d := word (w 7), frm := BitVec.ofNat 3 (w 1 / 2 ^ 16),
             tether := word (w 8), guardOff := bit (w 1) 19, lines := x.2,
             arrived := if w 9 = 0 then none else some (w 9 - 1), age := w 10, done := bit (w 1) 20 }
    else none

-- ## The header (R298)

/-- FORMAT (R298). -/
def ctxFormat : Nat := 0x43530001

/-- A shadow set of the Reel as words. -/
def setWords (q : CopySet) : List Nat :=
  [q.src.toNat, q.dst.toNat, q.ext.toNat, q.sstr.toNat, q.dstr.toNat, q.esz + b2n q.fe * 2 ^ 2 + q.cscp * 2 ^ 3]

/-- A shadow set from words; a reserved field of its registers stays zero (R8, R232). -/
def wordsSet (w : Nat → Nat) : CopySet :=
  { src := word (w 0 % 2 ^ 57), dst := word (w 1 % 2 ^ 57), ext := word (w 2 % 2 ^ 48), sstr := word (w 3 % 2 ^ 63)
    dstr := word (w 4 % 2 ^ 63), esz := bits (w 5) 1 0, fe := bit (w 5) 2, cscp := bits (w 5) 6 3 }

/-- The header words of a strand; `low`: its `LKLOW`. -/
def headWords (t : Strand) (lost : Bool) (low : Nat) : List Nat :=
  [ctxFormat + 2 ^ 32 * (b2n lost + 2 * b2n (!t.vq.isEmpty) + 4 * b2n (!t.saved.isEmpty)), vcfgValue t, clusterOf t.id,
   t.pc.toNat] ++ t.sregs.toList.tail.map (fun x => x.toNat) ++
  [t.pregs.toList.zipIdx.foldl (fun acc x => acc + b2n x.1 * 2 ^ x.2) 0,
   (identity t)[0].toNat, (identity t)[1].toNat, (identity t)[2].toNat, (identity t)[3].toNat,
   t.fflags.toNat, t.frm.toNat, t.status.toNat, t.xpc.toNat,
   t.xvcp.toNat, t.xcause.toNat, t.xval.toNat, t.xscratch.toNat, t.xvec.toNat, t.vl, t.vlmax, t.vstart, t.tether.toNat,
   t.timefr.toNat, t.tsh.toNat, t.lkst.toNat, low, t.lkNext.toNat,
   (t.tsrc.map fun x => x.qb.toNat).getD 0, (t.tsrc.map fun x => x.eb.toNat).getD 0,
   (t.tsrc.map fun x => x.qs + x.es * 2 ^ 32).getD 0, (t.tsrc.map fun x => 2 + b2n x.gate).getD 0,
   t.cperr.toNat, t.cperra.toNat, t.ch.toNat] ++ t.cps.toList.flatMap setWords ++
  [t.colsrc.toNat, t.coldst.toNat, t.colgrp.toNat, t.colctl.toNat, t.colerr.toNat, t.mcerr.toNat, t.vq.length,
   t.saved.length]

/-- How many words the header has. -/
def headCount : Nat := 110

/-- The assigned bits of an error record whose ID stands in bits 63:32 and whose other fields lie below bit n (R8, R223, R239,
R366). -/
def errorWord (n v : Nat) : Word := word (v % 2 ^ n + v / 2 ^ 32 * 2 ^ 32)

/-- A strand with the header's items, the identity CSRs among them (R300); its slot and binding stay (log 13). A reserved field of a
register stays zero (R8). -/
def withHead (w : Nat → Nat) (t : Strand) : Strand :=
  { t with
    pc := word (w 3)
    sregs := Vector.ofFn fun (i : Fin 32) => if i.val = 0 then 0 else word (w (3 + i.val))
    pregs := Vector.ofFn fun (i : Fin 8) => bit (w 35) i.val
    fflags := BitVec.ofNat 6 (w 40), frm := BitVec.ofNat 3 (w 41), status := word (w 42) &&& 0x37F#64, xpc := word (w 43)
    xvcp := word (w 44), xcause := word (w 45 % 512), xval := word (w 46), xscratch := word (w 47), xvec := word (w 48)
    vl := Nat.min (w 49) t.vlmax, vstart := w 51, tether := word (w 52), timefr := BitVec.ofNat 16 (w 53)
    tsh := word (w 54 % 2 ^ 53), lkst := errorWord 28 (w 55), lkNext := BitVec.ofNat 32 (w 57)
    tsrc := if bit (w 61) 1 then
        some { qb := word (w 58), eb := word (w 59), qs := w 60 % 2 ^ 32, es := w 60 / 2 ^ 32, gate := bit (w 61) 0 }
      else none
    cperr := errorWord 7 (w 62), cperra := word (w 63 % 2 ^ 57), ch := BitVec.ofNat 2 (w 64)
    cps := Vector.ofFn fun (i : Fin 4) => wordsSet fun k => w (65 + 6 * i.val + k)
    colsrc := word (w 89 % 2 ^ 57), coldst := word (w 90 % 2 ^ 57), colgrp := word (w 91 % 2 ^ 29), colctl := word (w 92)
    colerr := errorWord 5 (w 93), mcerr := word (w 94 % 2 ^ 14)
    ids := some #v[word (w 36 % 2 ^ 18), word (w 37 % 2 ^ 48), word (w 38 % 2 ^ 5), word (w 39 % 2 ^ 3)] }

-- ## The whole area

/-- The words of the register file parts of the area (R298). -/
def fileWords (t : Strand) : List (Nat × Nat) :=
  ((List.range 7).flatMap fun k => wordsAt (0x5000 + 512 * k) (wordsOf (getM t (BitVec.ofNat 3 (k + 1))).toNat 64)) ++
  (t.accs.zipIdx.flatMap fun x =>
    wordsAt (0x6000 + 4096 * x.2) (wordsOf x.1.data.toNat 512) ++
    wordsAt (0xC000 + 64 * x.2) (x.1.intervals.toList.map (fun i => i.toNat) ++ [x.1.base.toNat, b2n x.1.masked, 0, 0])) ++
  ((List.range t.nreg).flatMap fun i =>
    wordsAt (0x20000 + i * (t.vlmax * t.ew / 8)) (wordsOf (getV t (BitVec.ofNat 5 i)).toNat (t.vlmax * t.ew / 64)))

/-- The area of a strand as words by offset, with the queues' entries kept (R298). -/
def areaWords (t : Strand) (lost : Bool) (low : Nat) (s : State) : List (Nat × Nat) × State :=
  let (vq, s1) := saveEntries t.vq s
  let (sv, s2) := saveEntries t.saved s1
  (wordsAt 0 (headWords t lost low) ++ wordsAt 0x1000 vq ++ wordsAt 0x3000 sv ++ fileWords t, s2)

/-- The offsets that a load of the register files reads. -/
def fileOffsets (t : Strand) : List Nat :=
  ((List.range 448).map fun k => 0x5000 + 8 * k) ++
  ((List.range t.accs.length).flatMap fun i =>
    ((List.range 512).map fun k => 0x6000 + 4096 * i + 8 * k) ++ (List.range 8).map fun k => 0xC000 + 64 * i + 8 * k) ++
  ((List.range t.nreg).flatMap fun i => (List.range (t.vlmax * t.ew / 64)).map fun k =>
    0x20000 + i * (t.vlmax * t.ew / 8) + 8 * k)

/-- Read n words of an area. -/
def readWords (rd : Nat → Nat) (off n : Nat) : List Nat := (List.range n).map fun k => rd (off + 8 * k)

/-- A strand with the register files of an area. -/
def withFiles (rd : Nat → Nat) (t : Strand) : Strand :=
  { t with
    masks := Vector.ofFn fun (i : Fin 8) =>
      if i.val = 0 then 0 else BitVec.ofNat 4096 (ofWords (readWords rd (0x5000 + 512 * (i.val - 1)) 64))
    accs := t.accs.zipIdx.map fun x =>
      { data := BitVec.ofNat 32768 (ofWords (readWords rd (0x6000 + 4096 * x.2) 512))
        intervals := Vector.ofFn fun (k : Fin 4) => word (rd (0xC000 + 64 * x.2 + 8 * k.val))
        base := word (rd (0xC000 + 64 * x.2 + 32)), masked := bit (rd (0xC000 + 64 * x.2 + 40)) 0 }
    vregs := Vector.ofFn fun (i : Fin 32) =>
      if i.val < t.nreg then
        BitVec.ofNat 262144 (ofWords (readWords rd (0x20000 + i.val * (t.vlmax * t.ew / 8)) (t.vlmax * t.ew / 64)))
      else 0
    upsets := [] }

/-- The entries of a queue area; none when one fails its check value. -/
def readEntries (s : State) (rd : Nat → Nat) (off n : Nat) : Option (List VqEntry) :=
  (List.range (Nat.min n 64)).foldr (fun k acc =>
    match loadEntry s (readWords rd (off + 128 * k) 16), acc with
    | some e, some l => some (e :: l)
    | _, _ => none) (some [])

/-- The queues of an area: the VQ and the saved queue; none when an entry fails (R298). -/
def queuesOf (s : State) (rd : Nat → Nat) : Option (List VqEntry × List VqEntry) :=
  match readEntries s rd 0x1000 (rd (8 * 95)), readEntries s rd 0x3000 (rd (8 * 96)) with
  | some vq, some sv => some (vq, sv)
  | _, _ => none

/-- The strand that an area holds, on a strand with the same vector configuration (R298); none when an entry fails. -/
def strandOf (s : State) (rd : Nat → Nat) (t : Strand) : Option Strand :=
  (queuesOf s rd).map fun q => { withFiles rd (withHead (fun k => rd (8 * k)) t) with vq := q.1, saved := q.2 }

-- ## ctxsave and ctxload (R300)

/-- The strand has a lookup job that is not complete. -/
def lookupBusy (s : State) : Bool :=
  (jobsOf s s.strand.crew s.strand.idx.toNat).any fun j => j.state != .complete

/-- `ctxsave` (R299, R300). DESIGN CHOICE: register files of the strand with an uncorrectable error are saved as they stand, with
LOST set in the area, and the instruction completes (log 87). -/
def execCtxsave (g : Guard) (d a : BitVec 5) (s : State) : Out :=
  privOp (.ctxsave g d a) g [a] [d] (do
    let base ← ask fun s => getS s.strand a
    trapIf (base.toNat % 4096 != 0) .misaligned base
    let t ← ask fun s => s.strand
    waitIf (!t.vq.isEmpty) .drain
    let busy ← ask lookupBusy
    if busy then wrS d 1
    else
      let w ← ask whoAmI
      let me' ← ask me
      let low ← ask fun s => (lkLow s).toNat
      let lost := !t.upsets.isEmpty
      let area ← fun s => let r := areaWords (setS t a t.xscratch) lost low s; .ok r.1 r.2
      eachOf area fun x => do
        let va := base + word x.1
        storeVa me' w me' va 8 x.2
      wrS d 0) s

/-- `ctxload` acts as `eret` on the context it has loaded (R93, R300): where the loaded VQ has to drain first, the strand waits
at the instruction. -/
def loadThenReturn (t' : Strand) : M Word := fun s =>
  match targetCheck (ppriv t') t'.xpc s with
  | .error e s1 => .error e s1
  | .ok p s1 =>
    if t'.xcause.getLsbD 8 && !t'.vq.isEmpty then
      .error (.wait .drain)
        (mapStrand (fun t => { restoreMode t' with pc := t.pc, pass := t.pass, returning := some (p, t'.status) }) s1)
    else .ok t'.xpc (mapStrand (fun _ => leaveHandler p (restoreMode t')) s1)

/-- `ctxload` (R300) at its start: the checks, then every item, then a return from the trap with the loaded trap CSRs. -/
def loadContext (d a : BitVec 5) : M Word := do
  let base ← ask fun s => getS s.strand a
  trapIf (base.toNat % 4096 != 0) .misaligned base
  let t ← ask fun s => s.strand
  waitIf (!t.vq.isEmpty) .drain
  let w ← ask whoAmI
  let me' ← ask me
  let fetch := fun (l : List Nat) => mapEach l fun off => do
    let v ← loadVa me' w (base + word off) 8
    pure (off, v)
  let head ← fetch ((List.range headCount).map fun k => 8 * k)
  let rd0 := fun off => findD head off 0
  let fail := fun (code : Nat) => thenNext (wrS d (word code))
  if rd0 0 % 2 ^ 32 ≠ ctxFormat ∨ bit (rd0 0) 32 then fail 1
  else if rd0 8 ≠ vcfgValue t ∨ rd0 16 ≠ clusterOf t.id then fail 2
  else
    let qs ← fetch (((List.range (16 * Nat.min (rd0 (8 * 95)) 64)).map fun k => 0x1000 + 8 * k) ++
      (List.range (16 * Nat.min (rd0 (8 * 96)) 64)).map fun k => 0x3000 + 8 * k)
    let good ← ask fun s => (queuesOf s fun off => findD (head ++ qs) off 0).isSome
    if !good then fail 3
    else
      let fs ← fetch (fileOffsets t)
      let r ← ask fun s => strandOf s (fun off => findD (head ++ qs ++ fs) off 0) t
      match r with
      | none => fail 3
      | some t' => loadThenReturn t'

/-- `ctxload` (R300). One that waits has passed its guard, under the predicates that it replaced. -/
def execCtxload (g : Guard) (d a : BitVec 5) (s : State) : Out :=
  match s.strand.returning with
  | some r => eretGoesOn r.1 s
  | none => scalarOp g [a] [d] [] (supervisorOnly (.ctxload g d a) g) (loadContext d a) s

end Sys2Proof.Machine
end

