-- ==== Sys2Proof/Machine/Mooring.lean ====
section
/-! DEFINITION. Mooring: TLB invalidation, host translation and page faults, launch queues, flights, binding, recall, context
loss and completion (R278 to R299, R378, R380). -/

namespace Sys2Proof.Machine

-- ## TLB invalidation (R284) and walks (R281, R283)

/-- The entries of a TLB that KIND selects (R284). -/
def tlbDrops (kind asid va : Nat) (e : TlbEntry) : Bool :=
  match kind with
  | 0 => e.page == va / 2 ^ e.size && (e.asid == asid || e.glob)
  | 1 => !e.glob && e.asid == asid
  | 2 => true
  | _ => e.host && e.asid == asid

/-- The entries of the module's TLBs that a choice drops. -/
def dropped (sel : TlbEntry → Bool) (s : State) : List TlbEntry :=
  (s.cores.flatMap fun c => c.2.l1tlb.filter sel) ++ s.clusters.flatMap fun c => c.2.l2tlb.filter sel

/-- A byte lies in a page of some entries. -/
def inPages (es : List TlbEntry) (key : Nat) : Bool :=
  es.any fun e =>
    let base := (if e.host then hostBase else 0) + e.pa
    decide (base ≤ key) && decide (key < base + 2 ^ e.size)

/-- A store was translated with one of some entries. -/
def storedBy (es : List TlbEntry) (p : PStore) : Bool := inPages es p.key

/-- A request for a line that was translated with one of some entries has not completed (R284). -/
def askedBy (es : List TlbEntry) (s : State) : Bool :=
  let open_ (m : Msg) : Bool := (m.kind == .unc || m.kind == .add) && inPages es (64 * m.line)
  s.net.any open_ || s.hlines.any fun h => h.queue.any open_ || h.cur.any open_

/-- Every transfer of the Reels. -/
def mapReels (f : ReelJob → ReelJob) (s : State) : State :=
  { s with clusters := s.clusters.map fun c =>
      (c.1, { c.2 with reel := c.2.reel.map fun ch => { ch with jobs := ch.jobs.map f } }) }

/-- Every transfer with its cluster and channel. -/
def reelJobs (s : State) : List (Nat × Nat × ReelJob) :=
  s.clusters.flatMap fun c => c.2.reel.toList.zipIdx.flatMap fun ch => ch.1.jobs.map fun j => (c.1, ch.2, j)

/-- What a step has read is to be written in a page of some entries. -/
def writesIn (es : List TlbEntry) (j : ReelJob) : Bool := j.todo.any fun x => inPages es x.place.key

/-- A step whose elements are not all read, with one to be written in a page of some entries, begins anew: it has written nothing, and
its elements are translated again (R284, R285). -/
def restartSteps (es : List TlbEntry) : State → State :=
  mapReels fun j => if !j.full && writesIn es j then { j with todo := [], passed := false } else j

/-- Stores already translated go on their way to their completer (R284, R285). -/
def drainStores (es : List TlbEntry) (s : State) : State :=
  publishHome (storedBy es) (publishDirect (fun p => storedBy es p && directKey p.key) s)

/-- Drop TLB and walk-cache entries everywhere (R284). -/
def invalidate (kind asid va : Nat) (s : State) : State :=
  { s with
    cores := s.cores.map fun c => (c.1, { c.2 with l1tlb := c.2.l1tlb.filter fun e => !tlbDrops kind asid va e })
    clusters := s.clusters.map fun c => (c.1, { c.2 with l2tlb := c.2.l2tlb.filter fun e => !tlbDrops kind asid va e })
    walks := s.walks.filter fun w => !(kind == 2 || w.2.asid == asid) }

/-- Accesses translated with entries that go have completed at their completer (R284): the stores among them that a cluster
still holds are published first, open chains close, and requests at homes and steps of the Reels that are being written are waited
for. -/
def drainFor (sel : TlbEntry → Bool) : M Unit := fun s =>
  let es := dropped sel s
  if es.isEmpty then .ok () s
  else
    let s1 := restartSteps es (drainStores es ((s.chains.filter fun c => inPages es c.addr).foldl (fun s c => closeChain c s) s))
    if (s1.stores.any fun p => storedBy es p && !stuckStore s1 p) || askedBy es s1 ||
        (reelJobs s1).any fun j => j.2.2.full && writesIn es j.2.2 then .error (.wait .release) s1
    else .ok () s1

/-- `tlbinv` (R284). -/
def execTlbinv (g : Guard) (d a b : BitVec 5) (s : State) : Out :=
  privOp (.tlbinv g d a b) g [a, b] [d] (do
    let va ← ask fun s => (getS s.strand a).toNat
    let x ← ask fun s => (getS s.strand b).toNat
    let kind := bits x 13 12
    illegalIf (x / 2 ^ 14 != 0 || (kind == 0 && va / 2 ^ 57 != 0)) (.tlbinv g d a b)
    releaseAll .pk
    drainFor (tlbDrops kind (bits x 11 0) va)
    change (invalidate kind (bits x 11 0) va)
    wrS d 0) s

/-- `PAGE_WALK` (R281, R283): the walker translates an address of the acting strand's queue; a walk that fails with a page fault is
intercepted by Mooring (R103). Another failure is met by the access itself (R287, R313). -/
def execPageWalk (va : Word) (acc : Acc) (s : State) : Out :=
  if va.toNat / 2 ^ 56 ≠ 0 ∨ inLocal va.toNat then .next s
  else
    match deviceLeaf (whoAmI s) va.toNat acc s with
    | .ok _ s1 => .next s1
    | .error (.trap c _) s1 => if isPageFault c then .next (intercept va acc false 0 s1) else .next s1
    | .error (.wait _) s1 => .next s1

-- ## Host translation (R285)

/-- An answer from the host as a TLB entry; attribute 15 stands for a refusal. -/
def atsEntry (asid : Nat) (va : Word) (granted : Bool) (hostPage : Nat) (r w : Bool) (more : AtsMore) : TlbEntry :=
  { asid := asid, glob := false, host := true, page := va.toNat / 2 ^ 12, size := 12, pa := hostPage * 4096,
    perm := BitVec.ofNat 5 (b2n r + b2n w * 2 + b2n more.x * 4 + 8 + 16),
    attr := if granted then (if more.nc then 3 else 0) else 15 }

/-- `ATS_TRANSLATION_COMPLETION` (R285): the host's answer is cached as a host entry, for the acting strand's address space, or for
the one, and in the cluster, that the answer is for: an engine's, Mooring's or Windsock's. -/
def execAtsTranslationCompletion (va : Word) (granted : Bool) (hostPage : Nat) (r w : Bool) (more : AtsMore) (s : State) : Out :=
  match more.target with
  | none => .next (tlbInsert (whoAmI s) (atsEntry (asidOf (queueAt s s.strand.queue)) va granted hostPage r w more) s)
  | some t => .next (tlbInsert { whoAmI s with cl := t.2, co := 255 } (atsEntry t.1 va granted hostPage r w more) s)

/-- A host entry of an address space whose page meets a range. -/
def hostMeets (asid base len : Nat) (e : TlbEntry) : Bool :=
  e.host && e.asid == asid && decide (e.page * 2 ^ e.size < base + len) && decide (base < (e.page + 1) * 2 ^ e.size)

/-- Drop the host entries of an address space whose pages meet a range. -/
def dropHost (asid base len : Nat) (s : State) : State :=
  { s with
    cores := s.cores.map fun c => (c.1, { c.2 with l1tlb := c.2.l1tlb.filter fun e => !hostMeets asid base len e })
    clusters := s.clusters.map fun c => (c.1, { c.2 with l2tlb := c.2.l2tlb.filter fun e => !hostMeets asid base len e }) }

/-- The address spaces of the queues with a PASID (R285, R288). -/
def pasidSpaces (s : State) (pasid : Nat) : List Nat :=
  (s.queues.toList.filter fun q => q.ctl.getLsbD 40 && bits q.ctl.toNat 39 20 == pasid).map asidOf

/-- A write of a step lands at its host page (R234, R239). -/
def landWrite (cl ch : Nat) (x : ReelWrite) (s : State) : State :=
  let s1 := homePoke x.place.key x.bytes s
  match x.bad with
  | none => s1
  | some sv => noteReel cl ch 5 sv false (poisonBytes x.place.key x.bytes.length s1)

/-- The writes of steps of the Reels to pages of some entries land, and the rest of those steps goes on (R285). -/
def landSteps (es : List TlbEntry) (s : State) : State :=
  let s1 := (reelJobs s).foldl (fun s j =>
    if j.2.2.full then (j.2.2.todo.filter fun x => inPages es x.place.key).foldl (fun s x => landWrite j.1 j.2.1 x s) s else s) s
  restartSteps es (mapReels (fun j => if j.full then { j with todo := j.todo.filter fun x => !inPages es x.place.key } else j) s1)

/-- `ATS_INVALIDATION` (R285): the range is no longer used, and every request already translated completes at its host page, the
stores that a cluster still holds and the writes of Reel steps among them. -/
def execAtsInvalidation (pasid base len : Nat) (s : State) : Out :=
  .next ((pasidSpaces s pasid).foldl (fun s a =>
    let es := dropped (hostMeets a base len) s
    dropHost a base len (drainStores es (landSteps es s))) s)

/-- `ATS_INVALIDATION_TIMEOUT` (R285): a request still incomplete is abandoned, and the error log records it; it is the next
host access made (log 14). -/
def execAtsInvalidationTimeout (s : State) : Out :=
  .next (logError 8 0 0 { s with silent := insertN s.silent hostMark })

-- ## Queue registers (R288)

/-- A configuration bit of a queue. -/
def qBit (q : LaunchQueue) (k : Nat) : Bool := q.ctl.getLsbD k
/-- The ring size (R288). -/
def ringSize (q : LaunchQueue) : Nat := 2 ^ (bits q.ctl.toNat 5 2 + 4)
/-- Records in a ring. -/
def inRing (q : LaunchQueue) : Nat := (q.tail - q.head).toNat
/-- Put a queue. -/
def putQueue (k : Nat) (q : LaunchQueue) (s : State) : State := { s with queues := s.queues.setIfInBounds k q }
/-- The key of record t of a ring (R288). -/
def recordKey (q : LaunchQueue) (t : BitVec 32) : Nat := bits q.base.toNat 51 6 * 64 + 64 * (t.toNat % ringSize q)

/-- A write of `LQTAIL` by the host (R288). -/
def writeTail (k : Nat) (v : Word) (s : State) : State :=
  let q := queueAt s k
  if qBit q 1 then s
  else if ringSize q < (v.setWidth 32 - q.head).toNat then putQueue k { q with ctl := q.ctl ||| word (2 ^ 41) } s
  else putQueue k { q with tail := v.setWidth 32 } s

/-- `LQTAIL_WRITE` (R288). -/
def execLqtailWrite (q : Nat) (v : Word) (s : State) : Out := .next (writeTail q v s)

/-- The module is in recovery, where no queue can be enabled (R347). -/
def inRecovery (s : State) : Bool := s.pk.bootst.extractLsb' 5 3 != 0

/-- A write of `LQCTL` (R288): the configuration changes only while EN = 0; EN, TD, RST and OVF act. -/
def writeCtl (k : Nat) (v : Word) (s : State) : State :=
  let q := queueAt s k
  let old := q.ctl.toNat
  let x := v.toNat
  let conf := if bit old 0 then old else x
  let n := b2n (bit x 0 && !inRecovery s) + (conf % 2 ^ 18 / 2 * 2) + b2n (bit old 18 || bit x 18) * 2 ^ 18 + b2n (bit old 19 || bit x 19) * 2 ^ 19
    + bits conf 40 20 * 2 ^ 20 + b2n (bit old 41 && !bit x 41) * 2 ^ 41
  putQueue k { q with ctl := word n } s

/-- `LQ_ENABLE` (R288). -/
def execLqEnable (q : Nat) (v : Word) (s : State) : Out := .next (writeCtl q v s)

-- ## Launch records (R289)

/-- A word of a launch record. -/
def rw (r : Vector Word 8) (k : Nat) : Nat := ((r[k]?).getD 0).toNat
/-- Crews in x, y and z. -/
def gridX (r : Vector Word 8) : Nat := bits (rw r 1) 15 0 + 1
/-- Crews in y. -/
def gridY (r : Vector Word 8) : Nat := bits (rw r 1) 31 16 + 1
/-- Crews in z. -/
def gridZ (r : Vector Word 8) : Nat := bits (rw r 1) 47 32 + 1
/-- Crews of a flight. -/
def crewCount (r : Vector Word 8) : Nat := gridX r * gridY r * gridZ r
/-- Strands in a stage of a crew. -/
def perStage (r : Vector Word 8) : Nat := bits (rw r 1) 55 51 + 1
/-- Strands of a crew (R378). -/
def strandsOf (r : Vector Word 8) : Nat := (bits (rw r 1) 50 48 + 1) * perStage r
/-- PRIO. -/
def recPrio (r : Vector Word 8) : Nat := bits (rw r 1) 57 56
/-- NW. -/
def recNw (r : Vector Word 8) : Nat := bits (rw r 1) 60 58
/-- CANCEL. -/
def recCancel (r : Vector Word 8) : Nat := bits (rw r 5) 47 32
/-- COMPL. -/
def recCompl (r : Vector Word 8) : Nat := rw r 4 % 2 ^ 57
/-- S banks of the window. -/
def recWs (r : Vector Word 8) : Nat := bits (rw r 5) 19 14
/-- F banks of the window. -/
def recWf (r : Vector Word 8) : Nat := bits (rw r 5) 25 20
/-- The base share in bytes (R110). -/
def recShare (r : Vector Word 8) : Nat := 16384 * 2 ^ bits (rw r 5) 13 12

/-- The faults of a record that need no memory access (R290). -/
def recordBad (q : LaunchQueue) (r : Vector Word 8) : Bool :=
  let v := rw r 5
  rw r 0 / 2 ^ 57 != 0 || rw r 1 / 2 ^ 61 != 0 || rw r 4 / 2 ^ 57 != 0 || bits v 31 26 != 0 || v / 2 ^ 48 != 0 ||
    rw r 6 / 2 ^ 57 != 0 || rw r 7 != 0 || bits v 13 12 == 3 || decide (4 < recNw r) ||
    bits v 1 0 == 3 || decide (8 < bits v 7 4) || decide (4 < bits v 10 8) || bit v 11 ||
    decide (65536 < crewCount r) || decide (32 < strandsOf r) || decide (40 < recWs r + recWf r) ||
    (bit (rw r 0) 56 && (!qBit q 40 || !addrForm (word (rw r 0)))) ||
    (decide (0 < recNw r) && rw r 6 % 64 != 0)

/-- Mooring's accesses in a queue's address space, in user mode. -/
def mooringWho (k : Nat) : Who := { cl := 0, co := outside, queue := k, sup := false, wb := 0, wn := 0, redir := false }
/-- Mooring as an agent. -/
def mooringAgent : Nat := 2 ^ 22

/-- Mooring at work on the records of queue k. -/
def intakeAgent (k : Nat) : Nat := mooringAgent + 16 + k
/-- Mooring at work on the counters of a flight. -/
def counterAgent (f : Nat) : Nat := 2 ^ 50 + f

/-- Mooring reads a counter at its home in a queue's address space (R290, R291). -/
def readCounter (a k va : Nat) : M Nat := atomicRead a (mooringWho k) (word va) 8

/-- The wait block and the entry of a record, with the checks that read memory (R290); the counters waited on. DESIGN CHOICE: bits
63:56 of a value in the wait block, to which R289 assigns nothing, are not looked at (log 89). -/
def recordChecks (a k : Nat) (r : Vector Word 8) : M (List (Nat × Nat)) := do
  if !bit (rw r 0) 56 then
    let _ ← targetCheckFor (mooringWho k) (word (rw r 0))
  let n := recNw r
  let vs ← eachWith a (3 * n) fun got i =>
    if i < 2 * n then atomicRead a (mooringWho k) (word (rw r 6 + 8 * i)) 8
    else readCounter a k (nthD got (2 * (i - 2 * n)) 0)
  pure ((List.range n).map fun i => (nthD vs (2 * i) 0, nthD vs (2 * i + 1) 0 % 2 ^ 56))

/-- Time in ns. -/
def nowNs (s : State) : Nat := s.ptime / 2 ^ 16

/-- A flight of a record. -/
def newFlight (s : State) (k : Nat) (r : Vector Word 8) (ws : List (Nat × Nat)) : Flight :=
  { no := s.nextFlight, queue := k, words := r, waits := ws, tick := none, ready := false, prio := recPrio r, bound := 0,
    shut := false, status := 0, csas := [], readyAt := nowNs s }

/-- Add a flight. -/
def addFlight (f : Flight) (s : State) : State := { s with flights := s.flights ++ [f], nextFlight := s.nextFlight + 1 }

/-- The record at a queue's head. DESIGN CHOICE: bytes with an uncorrectable error are taken as they stand, since R290 lists no
refusal for them (log 90). -/
def headRecord (s : State) (q : LaunchQueue) : Vector Word 8 :=
  Vector.ofFn fun (i : Fin 8) => word (homeNat s (recordKey q q.head + 8 * i.val) 8)

/-- Mooring takes the next record of a ring (R290): it becomes a flight, or it is refused and only waits to be counted. -/
def takeRecord (k : Nat) (s0 : State) : State :=
  let q := queueAt s0 k
  if q.head = q.tail then s0
  else
    let s := readUnits (recordKey q q.head) 64 s0
    let r := headRecord s q
    let past (s : State) : State := putQueue k { queueAt s k with head := q.head + 1 } s
    let refuse (s : State) : State := past (addFlight { newFlight s k r [] with shut := true, status := 3 } s)
    if recordBad q r then refuse s
    else
      match recordChecks (intakeAgent k) k r s with
      | .ok ws s1 => past (addFlight (newFlight s1 k r ws) s1)
      | .error (.wait _) s1 => s1
      | .error (.trap _ _) s1 => refuse (dropUnc (intakeAgent k) s1)

/-- `LQ_RECORD_INTAKE` (R290). -/
def execLqRecordIntake (q : Nat) (s : State) : Out :=
  let x := queueAt s q
  if qBit x 0 && !qBit x 18 && !qBit x 19 then .next (takeRecord q s) else .next s

/-- The status that `launch` writes, or none when the record is written (R292). -/
def launchRefusal (s : State) (q : LaunchQueue) : Option Nat :=
  if !qBit q 0 || qBit q 18 || qBit q 19 then some 2
  else if !qBit q 1 then some 3
  else if asidOf q ≠ asidOf (queueAt s s.strand.queue) then some 4
  else if inRing q = ringSize q then some 1
  else none

/-- `launch` (R292). -/
def execLaunch (g : Guard) (d a b : BitVec 5) (s : State) : Out :=
  plainOp g [a, b] [d] [] (do
    fenceWait
    let va ← ask fun s => getS s.strand a
    let x ← ask fun s => (getS s.strand b).toNat
    illegalIf (x / 16 != 0) (.launch g d a b)
    trapIf (va.toNat % 64 != 0) .misaligned va
    let w ← ask whoAmI
    let me' ← ask me
    let rec' ← atomicRead me' w va 64
    releaseAll .dm
    let q ← ask fun s => queueAt s x
    let no ← ask fun s => launchRefusal s q
    match no with
    | some c => wrS d (word (2 ^ 63 + c))
    | none =>
      change fun s => putQueue x { q with tail := q.tail + 1 } (homePoke (recordKey q q.tail) (leBytes 64 rec') s)
      wrS d (q.tail.setWidth 64)) s

-- ## Flights (R291)

/-- A flight by its number. -/
def flightAt (s : State) (f : Nat) : Option Flight := s.flights.find? fun x => x.no == f
/-- Replace a flight. -/
def putFlight (x : Flight) (s : State) : State := { s with flights := s.flights.map fun y => if y.no = x.no then x else y }

/-- A flight is cancelled: it binds nothing more and is counted with STATUS 1 (R291, R301). -/
def cancelled (x : Flight) : Flight := { x with shut := true, status := if x.status = 3 then 3 else 1 }

/-- `FLIGHT_READY` (R291): Mooring reads the counters that a flight waits on. -/
def execFlightReady (f : Nat) (s : State) : Out :=
  match flightAt s f with
  | none => .next s
  | some x =>
    if x.ready || x.shut then .next s
    else
      match eachOnce (counterAgent f) x.waits.length (fun i => readCounter (counterAgent f) x.queue (nthD x.waits i (0, 0)).1) s with
      | .ok vs s1 =>
        if vs.any fun v => v / 2 ^ 56 != 0 then .next (putFlight (cancelled x) s1)
        else if (vs.zip x.waits).all fun v => decide (v.2.2 ≤ v.1 % 2 ^ 56) then
          .next (putFlight { x with ready := true, readyAt := nowNs s1 } s1)
        else .next s1
      | .error (.trap _ v) s1 => .next (putFlight (cancelled x) (logError 2 f v (dropUnc (counterAgent f) s1)))
      | .error (.wait _) s1 => .next s1

/-- The new counter: COUNT up by 1, STATUS the larger (R291). -/
def bumpCounter (status old : Nat) : Nat := (old + 1) % 2 ^ 56 + Nat.max (old / 2 ^ 56) status * 2 ^ 56

/-- Count a flight at its COMPL, a release at `dm` of what its strands and jobs have published (R291). -/
def countFlight (x : Flight) : M Unit := do
  let c := recCompl x.words
  if c = 0 then pure ()
  else
    let w := mooringWho x.queue
    let p ← checkAccess w (word c) 8 .store
    checkPhaseFree (counterAgent x.no) w p (word c)
    releaseFor (flightAgent x.no) .dm
    let _ ← atomicAt (counterAgent x.no) w p 8 (word c) fun old => some (bumpCounter x.status old)

/-- Every strand of a crew has ended, or its context is lost (R95, R380). -/
def crewOver (c : Crew) : Bool := c.lost || (List.range c.size).all fun k => c.ended.contains k

/-- A flight has nothing left to run: nothing more to bind, its crews over, its jobs complete (R291). -/
def flightOver (s : State) (x : Flight) : Bool :=
  (x.shut || (x.ready && decide (crewCount x.words ≤ x.bound))) &&
    ((s.crews.filter fun c => c.flight == x.no).all crewOver) && !flightBusy s x.no

/-- A crew's window returns to role C (R183, R291). -/
def returnWindow (c : Crew) (s : State) : State :=
  (span c.wb (c.wb + c.ws + c.wf)).foldl (fun s b => setClRole c.cl b .c s) s

/-- A crew has ended: its strands have, and the jobs they issued are complete (log 34). -/
def crewDone (s : State) (c : Crew) : Bool :=
  crewOver c && decide (0 < c.ws + c.wf) && !jobsLeft s fun b => b.crew == c.id

/-- The windows of crews that have ended return to role C (R183; log 34). -/
def returnEnded (s : State) : State :=
  (s.crews.filter (crewDone s)).foldl (fun s c =>
    { returnWindow c s with crews := s.crews.map fun x => if x.id = c.id then { x with ws := 0, wf := 0 } else x }) s

/-- What Mooring does when a flight is over, before it is counted: forwarding pairs are retired, windows return (R250, R291). -/
def closeFlight (f : Nat) (s : State) : State :=
  let mine := s.crews.filter fun c => c.flight == f
  let s1 := mine.foldl (fun s c => returnWindow c s) s
  { s1 with
    crews := s1.crews.filter fun c => c.flight != f
    clusters := s1.clusters.map fun c =>
      (c.1, { c.2 with pairs := c.2.pairs.map fun p => if p.state != .free && p.flight == f then Pair.free else p }) }

-- ## Binding (R293 to R296)

/-- A strand slot of a core is free. -/
def slotFree (s : State) (co slot : Nat) : Bool := (boundStrands s).all fun t => !(coreOf t.id == co && slotOf t.id == slot)

/-- Base shares in use on a core (R110). -/
def sharesUsed (s : State) (co : Nat) : Nat := (((boundStrands s).filter fun t => coreOf t.id == co).map fun t => t.base).sum

/-- Accumulators claimed on a core. -/
def accsHeld (s : State) (co : Nat) : Nat :=
  (((boundStrands s).filter fun t => coreOf t.id == co).map fun t => t.accs.length).sum

/-- The first core and slot of a cluster that can take a strand with a base share and, for a resumption, a grant (log 12). -/
def findSlot (s : State) (cl share ext nacc : Nat) : Option (Nat × Nat) :=
  ((List.range 8).flatMap fun k => (List.range 4).map fun j => (8 * cl + k, j)).find? fun x =>
    slotFree s x.1 x.2 && decide (sharesUsed s x.1 + share ≤ 65536) && decide (ext ≤ canLeave (coreAt s x.1)) &&
      decide (accsHeld s x.1 + nacc ≤ 4)

/-- The strand number of a core and slot (R3). -/
def strandNumber (s : State) (co slot : Nat) : BitVec 18 := BitVec.ofNat 18 (myModule s * 512 + 4 * co + slot)

/-- Put a bound strand among the others, or make it the acting one where none is bound. -/
def addStrand (t : Strand) (s : State) : State :=
  if s.strand.bound then { s with others := s.others ++ [t] } else { s with strand := t }

/-- The lowest context save area not in use (R294). -/
def freeCsa (s : State) : Option Nat :=
  (List.range s.mooring.csaCnt.toNat).find? fun k => !(s.flights.any fun f => f.csas.contains k)

/-- The base of a context save area (R288, R295). -/
def csaKey (s : State) (k : Nat) : Nat := bits s.mooring.csaBase.toNat 51 12 * 4096 + k * 0x50000

/-- The state of a fresh start before its grant (R18, R295). -/
def freshStrand (s : State) (x : Flight) (c : Crew) (i csa : Nat) (id : BitVec 18) : Strand :=
  let r := x.words
  let q := queueAt s x.queue
  let put (v : Vector Word 32) (k : Nat) (y : Word) : Vector Word 32 := v.setIfInBounds k y
  let base : Vector Word 32 := Vector.replicate 32 0
  let v1 := put base 2 (q.stk + word ((csa + 1) * 2 ^ bits q.stksz.toNat 4 0))
  let v2 := match x.tick with
    | none => put v1 4 (word (rw r 2))
    | some y => put (put (put (put (put v1 4 y.2[0]) 5 y.2[1]) 6 y.2[2]) 7 y.2[3]) 8 (word (rw r 2))
  let v3 := put v2 30 (word (rw r 3))
  let v4 := put v3 31 (if c.ws + c.wf = 0 then 0 else word (0x00FFFFFF00000000 + c.wb * 0x80000))
  { Strand.unbound with
    bound := true, id := id
    xyz := BitVec.ofNat 48 (c.idx % gridX r + c.idx / gridX r % gridY r * 2 ^ 16 + c.idx / (gridX r * gridY r) * 2 ^ 32)
    idx := BitVec.ofNat 5 i, stage := BitVec.ofNat 3 (i / perStage r), queue := x.queue, flight := x.no, crew := c.id
    prio := recPrio r, csa := csa, quant := 4000, wb := c.wb, wn := c.ws + c.wf, pc := word (rw r 0), bindPc := word (rw r 0), sregs := v4
    xvec := q.xvec, base := recShare r }

/-- The grant of VHINT at bind (R117). -/
def bindGrant (s : State) (t : Strand) (vhint : Nat) : Strand × CoreState :=
  let co := coreOf t.id
  let c := coreAt s co
  match readVcfg (word vhint) with
  | none => (t, c)
  | some q =>
    let ext := Nat.min q.ext (canLeave c)
    let nacc := Nat.min q.nacc (4 - accsHeld s co)
    let vlmax := grantLen t.base ext q
    let ext' := grantExt t.base vlmax q
    (granted q vlmax ext' nacc t, takeBanks ext' (slotOf t.id) c)

/-- Bind one strand of a new crew. -/
def startStrand (f : Nat) (c : Crew) (i : Nat) (s : State) : Option State :=
  match flightAt s f, freeCsa s with
  | some x, some csa =>
    (findSlot s c.cl (recShare x.words) 0 0).map fun k =>
      let t0 := freshStrand s x c i csa (strandNumber s k.1 k.2)
      let (t, core) := bindGrant s t0 (bits (rw x.words 5) 11 0)
      acquireFor t.id.toNat c.cl k.1 .dm
        (addStrand t (leaveC t.ext k.1 (putCore (putFlight { x with csas := x.csas ++ [csa] } s) k.1 core)))
  | _, _ => none

/-- The first run of n banks in role C that leaves eight in role C (R294). -/
def findRun (s : State) (cl n : Nat) : Option Nat :=
  let c := clusterAt s cl
  if n = 0 then some 0
  else if clCount c < n + 8 then none
  else (List.range (48 - n + 1)).find? fun b => (List.range n).all fun k => c.banks[b + k]? == some .c

/-- Form a crew window. -/
def formWindow (c : Crew) (s : State) : State :=
  let s1 := (span c.wb (c.wb + c.ws)).foldl (fun s b => setClRole c.cl b .s s) s
  (span (c.wb + c.ws) (c.wb + c.ws + c.wf)).foldl (fun s b => setClRole c.cl b .f s) s1

/-- Bind a crew on a cluster; those of the flight that still wait go on ageing (R296). -/
def bindOn (x : Flight) (cl : Nat) (s : State) : Option State :=
  (findRun s cl (recWs x.words + recWf x.words)).bind fun wb =>
    let c : Crew :=
      { id := x.no * 2 ^ 16 + x.bound, flight := x.no, idx := x.bound, cl := cl, wb := wb, ws := recWs x.words,
        wf := recWf x.words, size := strandsOf x.words, ended := [], lost := false, prio := recPrio x.words, gen := 0,
        here := [], boundAt := nowNs s, readyAt := nowNs s }
    let s1 := formWindow c { s with crews := s.crews ++ [c] }
    let s2 := putFlight { x with bound := x.bound + 1 } s1
    (List.range c.size).foldl (fun (o : Option State) i => o.bind fun s => startStrand x.no c i s) (some s2)

/-- Bind the next crew of a flight on the first cluster that can take it. -/
def bindNext (x : Flight) (s : State) : Option State :=
  if !x.ready || x.shut || decide (crewCount x.words ≤ x.bound) then none
  else (List.range 16).findSome? fun cl => bindOn x cl s

-- ## The agent that a recalled strand's stores belong to

/-- A recalled strand as an agent. -/
def parkedAgent (crew idx : Nat) : Nat := 2 ^ 24 + 32 * crew + idx

/-- An agent's stores and what it has taken in go by another number. -/
def renameAgent (old new : Nat) (l : List PStore) : List PStore :=
  let r (l : List Nat) : List Nat := l.map fun a => if a = old then new else a
  l.map fun p => { p with owner := if p.owner = old then new else p.owner, takers := r p.takers }

/-- The pending stores of an agent lie with its core. -/
def movePending (a co : Nat) (l : List PStore) : List PStore :=
  l.map fun p => if p.owner = a && p.lvl == 0 then { p with core := co } else p

-- ## Context loss (R299, R380)

/-- The stores of a discarded strand that were pending: each may become visible, whole, or never (R301, R380; log 15). -/
def discardStores (a : Nat) (s : State) : State :=
  let mine := fun p : PStore => p.owner == a && p.lvl == 0
  let go := s.stores.filter fun p => mine p && Config.discardedPublished s.stepNo (p.key / 8)
  go.foldr (fun p s => homePoke p.key [p.byte] s) { s with stores := s.stores.filter fun p => !mine p }

/-- The stores of a discarded strand: the pending ones are open, the published ones stay (R380). -/
def leaveStores (a f : Nat) (s : State) : State :=
  let s1 := discardStores a s
  { s1 with stores := handOver a (flightAgent f) s1.stores }

/-- Discard a bound strand's context. -/
def dropStrand (t : Strand) (s : State) : State :=
  let s0 := dropBoth t.id.toNat s
  let s1 := leaveStores t.id.toNat t.flight (freeBanks t.id { s0 with lock := if s0.lock = some t.id.toNat then none else s0.lock })
  let tag := t.fault.map fun f => f.tag
  { s1 with
    strand := if s1.strand.bound && s1.strand.id = t.id then Strand.unbound else s1.strand
    others := s1.others.filter fun x => x.id != t.id
    lockq := s1.lockq.erase t.id.toNat
    faultq := s1.faultq.filter fun f => !(f.who == .strand && some f.tag == tag) }

/-- Discard every context of a crew, with its lookup jobs cancelled (R227, R301, R380). -/
def discardCrew (id : Nat) (s : State) : State :=
  let here := (boundStrands s).filter fun t => t.crew == id
  let away := s.parked.filter fun t => t.crew == id
  let s1 := here.foldl (fun s t => dropStrand t s) s
  let s2 := away.foldl (fun s t => leaveStores (parkedAgent id t.idx.toNat) t.flight s) s1
  { s2 with
    parked := s2.parked.filter fun t => t.crew != id
    crews := s2.crews.map fun c => if c.id = id then { c with lost := true, here := [] } else c
    faultq := s2.faultq.filter fun f => !(f.who == .strand && away.any fun t => (t.fault.map fun x => x.tag) == some f.tag)
    clusters := s2.clusters.map fun c =>
      (c.1, { c.2 with lk := c.2.lk.map fun j => if j.by_.crew = id then { j with cancel := true } else j }) }

/-- End a crew with *context lost* (R380). -/
def loseCrew (id : Nat) (s : State) : State :=
  let f := (s.crews.find? fun c => c.id == id).map fun c => c.flight
  let s1 := discardCrew id s
  { s1 with flights := s1.flights.map fun x => if some x.no = f && x.status ≤ 2 then { x with status := 2 } else x }

-- ## Recall and rebinding (R297, R298)

/-- The flags of a job that are not delivered yet: its own, and those of its partial sums and rows. -/
def waitingFlags (j : LkJob) : BitVec 6 :=
  (j.acc ++ j.rows.flatMap fun r => r.vals).foldl (fun f v => f ||| v.flags) j.flags

/-- The job record of a lookup job (R226). -/
def jobRecord (j : LkJob) : List Nat :=
  let book := ofWords (j.book.toList.zipIdx.foldl (fun acc x => acc + x.1.toNat * 2 ^ (16 * x.2)) 0 |> fun n => wordsOf n 4)
  let st := match j.state with
    | .queued => 0 | .running => 1 | .suspended => 2 | .complete => 3
  wordsOf j.desc.toNat 4 ++ [j.tsh.toNat] ++ wordsOf book 4 ++
  [j.src.qb.toNat, j.src.eb.toNat, j.src.qs + j.src.es * 2 ^ 32, if j.mode = 2 then 0 else j.cb.toNat,
   (if j.mode = 2 then 0 else j.cs % 2 ^ 32) + (j.mode + b2n j.src.gate * 4 + j.fc * 8 + (j.ncon - 1) * 256) * 2 ^ 32,
   j.id.toNat + (j.pass % 128 + j.seg % 1024 * 2 ^ 7 + st * 2 ^ 17 + b2n (!j.acc.isEmpty) * 2 ^ 19 + b2n (!j.rows.isEmpty) * 2 ^ 20)
     * 2 ^ 32,
   j.err.toNat + (waitingFlags j).toNat * 2 ^ 32 + j.repc.toNat * 2 ^ 40 + b2n j.repi * 2 ^ 48]

/-- The lookup jobs of a strand that are not complete. -/
def openLookups (s : State) (cl crew idx : Nat) : List LkJob :=
  (clusterAt s cl).lk.filter fun j => j.by_.crew == crew && j.by_.idx == idx && j.state != .complete

/-- The values that suspended jobs save (R226): partial sums, then rows not delivered. -/
def savedValues (js : List LkJob) : List Nat :=
  js.flatMap fun j => (j.acc.map fun v => v.val) ++ j.rows.flatMap fun r => r.vals.map fun v => v.val

/-- The words of the job areas of a strand (R226, R298). -/
def jobWords (js : List LkJob) : List (Nat × Nat) :=
  (js.zipIdx.flatMap fun x => wordsAt (0xA000 + 128 * x.2) (jobRecord x.1)) ++
    wordsAt 0x10000 (wordsOf ((savedValues js).foldr (fun v acc => v % 2 ^ 32 + 2 ^ 32 * acc) 0)
      (Nat.min 8192 (((savedValues js).length + 1) / 2)))

/-- The last ID below every job of a strand not complete (R224). -/
def lowOf (js : List LkJob) (t : Strand) : BitVec 32 := ((js.head?.map fun j => j.id).getD t.lkNext) - 1

/-- What stays of a recalled strand outside its area: who it is, its page fault, and the records that its jobs may write. -/
def stub (t : Strand) : Strand :=
  { Strand.unbound with
    bound := true, id := t.id, xyz := t.xyz, idx := t.idx, stage := t.stage, queue := t.queue, flight := t.flight, crew := t.crew
    prio := t.prio, csa := t.csa, quant := t.quant, wb := t.wb, wn := t.wn, base := t.base, fault := t.fault
    refused := t.refused, replay := t.replay, lkst := t.lkst, cperr := t.cperr, cperra := t.cperra, colerr := t.colerr, mcerr := t.mcerr }

/-- A recalled strand's context goes to its area (R297, R298); an `eret` that waits is abandoned, and so is a wait for the
configuration lock. -/
def saveStrand (t0 : Strand) (s : State) : State :=
  let t := undoReturn t0
  let js := openLookups s (clusterOf t.id) t.crew t.idx.toNat
  let (ws, s1) := areaWords t false (lowOf js t).toNat (dropBoth t.id.toNat s)
  let base := csaKey s t.csa
  let s2 := freeBanks t.id s1
  let s3 := (ws ++ jobWords js).foldl (fun s x => homePoke (base + x.1) (leBytes 8 x.2) s) s2
  { s3 with
    stores := renameAgent t.id.toNat (parkedAgent t.crew t.idx.toNat) s3.stores
    lockq := s3.lockq.erase t.id.toNat
    strand := if s3.strand.bound && s3.strand.id = t.id then Strand.unbound else s3.strand
    others := s3.others.filter fun x => x.id != t.id
    parked := s3.parked ++ [stub t] }

/-- A strand's area lies in fitted memory (R299). -/
def csaFitted (s : State) (t : Strand) : Bool :=
  isMemory (moduleOffset (csaKey s t.csa)) && isMemory (moduleOffset (csaKey s t.csa + 0x4FFFF))

/-- A strand's save meets an uncorrectable error, or its area names no fitted memory (R299). -/
def saveFails (s : State) (t : Strand) : Bool := t.lost || !t.upsets.isEmpty || !csaFitted s t

/-- A save that fails marks the context LOST in its area, where there is one (R298, R299). -/
def markLost (t : Strand) (s : State) : State :=
  if !t.upsets.isEmpty && csaFitted s t then homePoke (csaKey s t.csa) (leBytes 8 ((headWords t true 0).headD 0)) s else s

/-- A strand of a crew is inside a `rangeset.q` (R258, R297). -/
def holdsLock (s : State) (id : Nat) : Bool :=
  (boundStrands s).any fun t => t.crew == id && s.lock == some t.id.toNat

/-- The lookup jobs of a crew suspend (R226, R297): a running one at its interrupt point, and one that has only rows left to be
popped. -/
def suspendJobs (id : Nat) (s : State) : State :=
  s.clusters.foldl (fun s c =>
    let s1 := if (runningJob s c.1).any fun j => j.by_.crew == id then suspendRunning c.1 s else s
    mapCluster c.1 (fun x => { x with lk := x.lk.map fun j =>
      if j.by_.crew = id && j.swept && j.state == .running then { j with state := .suspended } else j }) s1) s

/-- Mooring recalls a crew, or ends it where a context cannot be saved (R297, R299, R380). -/
def recallCrew (id : Nat) (s : State) : State :=
  if holdsLock s id then s
  else
    let ts := (boundStrands s).filter fun t => t.crew == id
    if ts.isEmpty then s
    else if ts.any fun t => saveFails s t then loseCrew id (ts.foldl (fun s t => markLost t s) s)
    else
      let s1 := ts.foldl (fun s t => saveStrand t s) (suspendJobs id s)
      { s1 with crews := s1.crews.map fun c => if c.id = id then { c with readyAt := nowNs s } else c }

/-- `RECALL` (R297). -/
def execRecall (crew : Nat) (s : State) : Out := .next (recallCrew crew s)

/-- The strand that a saved configuration needs: its grant, empty (R116, R117). -/
def grantOfArea (t : Strand) (v : Nat) : Strand :=
  { t with
    nreg := 8 * 2 ^ bits v 1 0, ew := 8 * 2 ^ bits v 3 2, ext := bits v 7 4, vlmax := bits v 28 16
    accs := List.replicate (bits v 10 8) Accum.fresh }

/-- A refused page fault reaches the strand (R103): its handler with the page-fault cause, once the handler's line is
translated (R30). DESIGN CHOICE: while the saved queue is held, only a refused fault of a VQ entry is a double fault; one of
the scalar stream is the nested scalar trap that R104 takes (log 78). -/
def refuseFault (f : PageFault) (s : State) : State :=
  let c := faultCause f.acc
  let s1 := mapStrand (fun t => replayed { t with fault := none, refused := none }) s
  if f.fromVq then takeVq c f.va f.elem s1
  else
    match handlerWait s1 with
    | some k => waitScalar k (mapStrand (fun t => { t with refused := some f }) s1)
    | none => enterHandler c f.va false (mapStrand (fun t => { t with xpc := t.pc, xvcp := 0 }) s1)

/-- Make a bound strand the acting one, work, and put the acting strand back. -/
def asActing (id : BitVec 18) (work : State → State) (s : State) : State :=
  if s.strand.bound && s.strand.id = id then work s
  else
    match s.others.find? (fun t => t.id == id) with
    | none => s
    | some t =>
      let s1 := work { s with strand := t, others := s.others.filter fun x => x.id != id }
      { s1 with strand := s.strand, others := s1.others ++ (if s1.strand.bound then [s1.strand] else []) }

/-- Rebind one recalled strand on its cluster, on a core that can give the identical grant (R117, R294, R297); what an intercepted
page fault has set aside is replayed (R103). DESIGN CHOICE: an area with uncorrectable data is reloaded as it stands, since R299 speaks
of saves only (log 91). -/
def resumeStrand (cl : Nat) (p : Strand) (s0 : State) : Option State :=
  let base := csaKey s0 p.csa
  let s := readUnits base 0x50000 s0
  let rd := fun off => memNat s.mem (base + off) 8
  let g := grantOfArea p (rd 8)
  (findSlot s cl p.base g.ext g.accs.length).map fun k =>
    let id := strandNumber s k.1 k.2
    let t0 := { g with id := id }
    let ok := decide (rd 0 % 2 ^ 32 = ctxFormat) && !bit (rd 0) 32
    match (if ok then strandOf s rd t0 else none) with
    | none => addStrand { t0 with lost := true, stopped := true } s
    | some t1 =>
      let t := replayed { t1 with
        lkst := p.lkst, cperr := p.cperr, cperra := p.cperra, colerr := p.colerr, mcerr := p.mcerr, fault := none
        refused := none, replay := p.replay, bindPc := t1.pc, resumed := true, ids := t1.ids.map fun v => v.set 0 (id.setWidth 64) }
      let c := coreAt s k.1
      let s1 := addStrand t (leaveC g.ext k.1 (putCore s k.1 (takeBanks g.ext (slotOf id) c)))
      let a := id.toNat
      let s2 := { s1 with stores := movePending a k.1 (renameAgent (parkedAgent p.crew p.idx.toNat) a s1.stores) }
      let s3 := acquireFor a cl k.1 .dm s2
      match p.refused with
      | some f => asActing id (refuseFault f) s3
      | none => s3

/-- Rebind a recalled crew, all of its strands together. -/
def resumeCrew (c : Crew) (s : State) : Option State :=
  let ps := s.parked.filter fun t => t.crew == c.id
  let prio := ((flightAt s c.flight).map fun f => recPrio f.words).getD c.prio
  let s1 := { s with
    parked := s.parked.filter fun t => t.crew != c.id
    crews := s.crews.map fun x => if x.id = c.id then { x with boundAt := nowNs s, readyAt := nowNs s, prio := prio } else x }
  ps.foldl (fun (o : Option State) p => o.bind fun s => resumeStrand c.cl p s) (some s1)

/-- A recalled crew that waits for nothing but a place: no page fault of its strands is outstanding. -/
def waitsForPlace (s : State) (c : Crew) : Bool :=
  !c.lost && s.parked.any (fun t => t.crew == c.id) && s.parked.all fun t => t.crew != c.id || t.fault.isNone

/-- The recalled crews of a flight that wait for a place. -/
def resumable (s : State) (f : Nat) : List Crew := s.crews.filter fun c => c.flight == f && waitsForPlace s c

/-- What binding a crew of a flight can come to, by the crew's priority: each of its recalled crews, then its next one. -/
def placements (s : State) (x : Flight) : List (Nat × State) :=
  ((if x.shut then [] else (resumable s x.no).map fun c => (c.prio, resumeCrew c s)) ++ [(x.prio, bindNext x s)]).filterMap
    fun y => y.2.map fun t => (y.1, t)

/-- The first of the placements of the lowest priority number. -/
def bestPlacement (l : List (Nat × State)) : Option (Nat × State) :=
  l.foldl (fun o y => match o with
    | some z => if y.1 < z.1 then some y else o
    | none => some y) none

/-- A ready crew of strictly higher priority can be placed (R296). -/
def outranked (s : State) (p : Nat) : Bool := s.flights.any fun x => (placements s x).any fun y => decide (y.1 < p)

/-- `BIND_CREW` (R294 to R297): a crew of the flight that can be placed is bound, one recalled before one not yet bound at equal
priority, unless one of strictly higher priority can be placed. -/
def execBindCrew (f : Nat) (s0 : State) : Out :=
  let s := returnEnded s0
  match flightAt s f with
  | none => .next s
  | some x =>
    match bestPlacement (placements s x) with
    | some y => if outranked s y.1 then .next s else .next y.2
    | none => .next s

/-- The crews that are ready and not bound (R296): priority, the clusters where they may go, and their strands. -/
def waitingCrews (s : State) : List (Nat × List Nat × Nat) :=
  ((s.flights.filter fun x => x.ready && !x.shut && decide (x.bound < crewCount x.words)).map fun x =>
      (x.prio, List.range 16, strandsOf x.words)) ++
    (s.crews.filter (waitsForPlace s)).map fun c => (c.prio, [c.cl], (s.parked.filter fun t => t.crew == c.id).length)

/-- The strand slots of a cluster that are free. -/
def freeSlots (s : State) (cl : Nat) : Nat := 32 - ((boundStrands s).filter fun t => clusterOf t.id == cl).length

/-- The priorities of the ready crews that wait for slots, none of their clusters having enough, and may go to a cluster
(R297). -/
def slotWaiters (s : State) (cl : Nat) : List Nat :=
  ((waitingCrews s).filter fun w => w.2.1.contains cl && w.2.1.all fun k => decide (freeSlots s k < w.2.2)).map fun w => w.1

/-- `QUANTUM_EXPIRY` (R296, R297): the crew is recalled when a ready crew of equal or higher priority waits for slots. -/
def execQuantumExpiry (crew : Nat) (s : State) : Out :=
  match s.crews.find? (fun c => c.id == crew) with
  | none => .next s
  | some c => if (slotWaiters s c.cl).any fun p => decide (p ≤ c.prio) then .next (recallCrew crew s) else .next s

/-- 2 ms have passed since a time, for a crew that is not at the highest priority (R296). -/
def ageDue (s : State) (prio at_ : Nat) : Bool := decide (0 < prio) && decide (at_ + 2000000 ≤ nowNs s)

/-- `PRIORITY_AGEING` (R296): the crews of a flight that have been ready and not bound for 2 ms rise one priority step. -/
def execPriorityAgeing (f : Nat) (s : State) : Out :=
  .next { s with
    flights := s.flights.map fun x =>
      if x.no = f ∧ x.ready ∧ ageDue s x.prio x.readyAt then { x with prio := x.prio - 1, readyAt := x.readyAt + 2000000 } else x
    crews := s.crews.map fun c =>
      if c.flight = f ∧ waitsForPlace s c ∧ ageDue s c.prio c.readyAt then
        { c with prio := c.prio - 1, readyAt := c.readyAt + 2000000 }
      else c }

-- ## Page faults (R103, R286)

/-- `PAGE_FAULT_INTERCEPT` (R103, R286). -/
def execPageFaultIntercept (va : Word) (acc : Acc) (fromVq : Bool) (elem : Nat) (s : State) : Out :=
  .next (intercept va acc fromVq elem s)

/-- The words of a fault record (R286). -/
def faultWords (f : FaultRec) : List Nat :=
  let kind := match f.acc with
    | .load => 0 | .store => 1 | .fetch => 2
  [f.va.toNat % 2 ^ 57, f.asid % 2 ^ 12 + kind * 2 ^ 12 + f.tag * 2 ^ 16, f.strand % 2 ^ 18, 0]

/-- The fault ring is full (R286). -/
def faultRingFull (m : MooringRegs) : Bool := (m.fqTail - m.fqHead).toNat == 2 ^ bits m.fqCtl.toNat 4 0

/-- `FAULT_RECORD_POST` (R286): the oldest fault not yet passed on goes to the driver's ring with an interrupt, or to the host
as a page request; a full ring, or 256 requests outstanding, holds it. -/
def execFaultRecordPost (s : State) : Out :=
  let posted (f : FaultRec) (s : State) : State :=
    { s with faultq := s.faultq.map fun x => if x = f then { x with posted := true } else x }
  let open_ (f : FaultRec) : Bool := !f.posted &&
    (if f.host then decide (s.pri.length < 256) else !faultRingFull s.mooring)
  match s.faultq.find? open_ with
  | none => .next s
  | some f =>
    if f.host then .next (posted f { s with pri := s.pri ++ [f.tag] })
    else
      let m := s.mooring
      let key := hostBase + (m.fqBase.toNat + 32 * (m.fqTail.toNat % 2 ^ bits m.fqCtl.toNat 4 0)) % 2 ^ 64
      .next (posted f { s with
        mem := memWrite s.mem key ((faultWords f).flatMap fun w => leBytes 8 w)
        mooring := { m with fqTail := m.fqTail + 1 }
        msix := s.msix ++ [bits m.fqCtl.toNat 15 5] })

/-- A strand's page fault is answered (R103). -/
def answerStrand (tag : Nat) (ok : Bool) (s : State) : State :=
  let hit (t : Strand) : Bool := (t.fault.map fun f => f.tag) == some tag
  match (boundStrands s).find? hit with
  | some t =>
    asActing t.id (fun s =>
      match s.strand.fault with
      | some f => if ok then mapStrand (fun t => replayed { t with fault := none }) s else refuseFault f s
      | none => s) s
  | none =>
    { s with
      crews := s.crews.map fun c =>
        if s.parked.any fun t => t.crew == c.id && hit t then { c with readyAt := nowNs s } else c
      parked := s.parked.map fun t =>
        if hit t then { t with fault := none, refused := if ok then none else t.fault } else t }

/-- A fault is answered (R286): the access goes on, or the refusal reaches the strand or the job (R239, R372). -/
def answerFault (f : FaultRec) (ok : Bool) (s0 : State) : State :=
  let s := { s0 with faultq := s0.faultq.filter fun x => x != f }
  match f.who with
  | .strand => answerStrand f.tag ok s
  | .reel cl ch =>
    let s1 := mapHead cl ch (fun j => { j with wait := none }) s
    if ok then s1 else noteReel cl ch (if f.acc = .store then 2 else 1) f.va true s1
  | .bridle cl id =>
    mapCluster cl (fun c => { c with ops := c.ops.map fun o =>
      if o.id.toNat = id then
        { o with wait := none, ecause := (if ok || o.ecause ≠ 0 then o.ecause else 1), stop := (o.stop || !ok) }
      else o }) s

/-- The driver answers a fault record; an unknown tag is ignored and logged (R286). -/
def writeFresp (v : Word) (s : State) : State :=
  match s.faultq.find? (fun f => f.tag == bits v.toNat 15 0 && f.posted && !f.host) with
  | some f => answerFault f (!bit v.toNat 16) s
  | none => logError 4 (bits v.toNat 15 0) v s

/-- `FRESP_WRITE` (R286). -/
def execFrespWrite (v : Word) (s : State) : Out := .next (writeFresp v s)

/-- `PRI_RESPONSE` (R286): the host answers a page request, which is then no longer outstanding, whether or not its fault still
stands; the device asks for the translation again. -/
def execPriResponse (tag : Nat) (success : Bool) (s : State) : Out :=
  match s.faultq.find? (fun f => f.tag == tag && f.posted && f.host) with
  | some f =>
    .next (answerFault f success (dropHost f.asid (f.va.toNat / 4096 * 4096) 4096 { s with pri := s.pri.erase tag }))
  | none => .next { s with pri := s.pri.erase tag }

end Sys2Proof.Machine
end

