-- ==== Sys2Proof/Machine/Stack.lean ====
section
/-! DEFINITION. The Borben stack: packets, ECC, the scrubber, and the errors that strike memory and register files (R303, R310
to R315, R105). -/

namespace Sys2Proof.Machine

-- ## The headers of packets (R310)

/-- TAG of a request. -/
def reqTag (r : StackReq) : Nat := bits r.header.toNat 2 0
/-- CMD of a request. -/
def reqCmd (r : StackReq) : Nat := bits r.header.toNat 5 3
/-- PC of a request: the pseudo-channel, which is the port. -/
def reqPc (r : StackReq) : Nat := bits r.header.toNat 10 6
/-- BANK of a request. -/
def reqBank (r : StackReq) : Nat := bits r.header.toNat 16 11
/-- ROW of a request. -/
def reqRow (r : StackReq) : Nat := bits r.header.toNat 31 17
/-- COL of a request. -/
def reqCol (r : StackReq) : Nat := bits r.header.toNat 36 32
/-- The reserved bits of a request. -/
def reqReserved (r : StackReq) : Nat := bits r.header.toNat 63 37

/-- The header of a reply (R310). -/
def repHeader (tag cmd stat : Nat) : Word := word (tag + cmd * 2 ^ 3 + stat * 2 ^ 6)
/-- TAG of a reply. -/
def repTag (x : StackRep) : Nat := bits x.header.toNat 2 0

/-- The key of the unit that a packet names (R303). -/
def unitKey (s : State) (stack : Nat) (r : StackReq) : Nat :=
  myModule s * 2 ^ 43 + stack * 0xC00000000 + reqPc r * 0x60000000 + reqBank r * 0x2000000 + reqRow r * 1024 + reqCol r * 32

/-- A tag of a port is held (R311). -/
def tagHeld (s : State) (stack : Nat) (r : StackReq) : Bool :=
  s.stackq.any fun x => x.stack == stack && x.port == reqPc r && repTag x == reqTag r

/-- A request is refused (R310 STAT 3). -/
def refusedReq (r : StackReq) : Bool := decide (3 ≤ reqCmd r) || decide (47 < reqBank r) || reqReserved r != 0

/-- Queue a reply (R311). -/
def replyTo (stack : Nat) (r : StackReq) (stat : Nat) (data : List Byte) (s : State) : State :=
  { s with stackq := s.stackq ++
      [{ stack := stack, port := reqPc r, header := repHeader (reqTag r) (reqCmd r) stat, data := data }] }

/-- The data bytes that follow the header of a refused request's reply: an RD's are there, and their value is open (R310; log
16). -/
def refusedData (r : StackReq) (s : State) : List Byte :=
  if reqCmd r = 0 then (List.range 32).map fun k => Config.freeByte s.stepNo k else []

/-- The status of a read of a unit, with its correction (R312, R313). -/
def readUnit (u : Nat) (s : State) : Nat × State :=
  if s.poison.contains u then (2, s) else if s.softErr.contains u then (1, correctUnit u s) else (0, s)

/-- Write bytes of a unit at the bank. -/
def putUnit (key : Nat) (bs : List Byte) (s : State) : State := { s with mem := memWrite s.mem key bs }

/-- The 32 data bytes of a packet. -/
def packetData (r : StackReq) : List Byte := (List.range 32).map fun k => nthD r.data k 0

/-- A packet takes effect when it arrives, in order at its unit (R311). A request that names a held tag, which the requester
must not send, waits outside. -/
def packetOp (stack : Nat) (r : StackReq) (act : Nat → State → State) (s : State) : State :=
  if tagHeld s stack r then s
  else if refusedReq r then replyTo stack r 3 (refusedData r s) s
  else act (unitKey s stack r) s

/-- RD (R310, R312, R313). -/
def packetRd (stack : Nat) (r : StackReq) (s : State) : State :=
  packetOp stack r (fun key s =>
    let (stat, s1) := readUnit (key / 32) s
    replyTo stack r stat (memBytes s1.mem key 32) s1) s

/-- WR (R310, R311): all 32 bytes, clearing any poison. -/
def packetWr (stack : Nat) (r : StackReq) (s : State) : State :=
  packetOp stack r (fun key s =>
    let s1 := putUnit key (packetData r) s
    replyTo stack r 0 [] { s1 with
      poison := s1.poison.filter fun u => u != key / 32
      softErr := s1.softErr.filter fun u => u != key / 32 }) s

/-- WRM (R310, R311, R313): the bytes under the mask are merged; an uncorrectable unit stays poisoned and is logged. -/
def packetWrm (stack : Nat) (r : StackReq) (s : State) : State :=
  packetOp stack r (fun key s =>
    let (stat, s1) := readUnit (key / 32) s
    let old := memBytes s1.mem key 32
    let bs := (List.range 32).map fun k => if r.mask.getLsbD k then nthD r.data k 0 else nthD old k 0
    let s2 := putUnit key bs s1
    replyTo stack r stat [] (if stat = 2 then logError 5 stack (word key) s2 else s2)) s

/-- The packet with the command of a row, unless it holds a reserved one. -/
def asCmd (c : Nat) (r : StackReq) : StackReq :=
  if 3 ≤ reqCmd r then r else { r with header := word (setField r.header.toNat 3 3 c) }

/-- `STACK_RD` (R311). -/
def execStackRd (stack : Nat) (r : StackReq) (s : State) : Out := .next (packetRd stack (asCmd 0 r) s)
/-- `STACK_WR` (R311). -/
def execStackWr (stack : Nat) (r : StackReq) (s : State) : Out := .next (packetWr stack (asCmd 1 r) s)
/-- `STACK_WRM` (R311). -/
def execStackWrm (stack : Nat) (r : StackReq) (s : State) : Out := .next (packetWrm stack (asCmd 2 r) s)

/-- `STACK_REPLY` (R310, R311): a reply leaves, and its tag is free. -/
def execStackReply (stack port tag : Nat) (s : State) : Out :=
  match s.stackq.find? (fun x => x.stack == stack && x.port == port && repTag x == tag) with
  | some x => .next { s with stackq := s.stackq.erase x, stackOut := s.stackOut ++ [x] }
  | none => .next s

/-- The module is in test mode (R350). -/
def inTest (s : State) : Bool := s.pk.bootst.extractLsb' 0 2 == 2#2

/-- `SCRUB_UNIT` (R314, R350): the scrubber reads a unit, and corrects or logs it; it stands still in test mode. -/
def execScrubUnit (stack unit : Nat) (s : State) : Out :=
  let u := (myModule s * 2 ^ 43 + stack * 0xC00000000) / 32 + unit
  if inTest s then .next s
  else if s.poison.contains u then .next (logError 5 stack (word (32 * u)) s)
  else if s.softErr.contains u then .next (correctUnit u s)
  else .next s

/-- `MEMORY_DATA_ERROR` (R312, R315, R345): an error arises in a memory unit, or in an entry of a table store (cluster,
pseudo-channel, block, row). -/
def execMemoryDataError (key : Nat) (correctable : Bool) (table : Option (Nat × Nat × Nat × Nat)) (s : State) : Out :=
  match table with
  | some (cl, pc, blk, row) =>
    match runningJob s cl with
    | none => .next s
    | some j =>
      if correctable then
        let b := bankOfKey (bankKey s cl pc (bankOf (tileKb j.tsh.toNat) blk) 0 0)
        .next { s with corrected := putK s.corrected b (findD s.corrected b 0 + 1) }
      else .next (mapCluster cl (fun c => { c with tblErr := c.tblErr ++ [(pc, blk, row)] }) s)
  | none =>
    if correctable then
      .next (if s.poison.contains (key / 32) then s else { s with softErr := insertN s.softErr (key / 32) })
    else
      let bulk := decide (key < 2 ^ 52) && decide (0x10000000000 ≤ moduleOffset key)
      let us := if bulk then [key / 64 * 2, key / 64 * 2 + 1] else poisonMarks key 1
      .next { s with
        poison := us.foldl insertN s.poison
        softErr := s.softErr.filter fun u => !us.contains u }

/-- `REGISTER_FILE_UPSET` (R105): an uncorrectable error strikes a register of the acting strand, latent until it is read or
written; the core logs it. `elem`: the bit of a vector register, the element of a mask or an accumulator. -/
def execRegisterFileUpset (file : RegFile) (reg : BitVec 5) (elem : Nat) (s : State) : Out :=
  let u : Upset := { file := file, reg := reg.toNat, elem := if file = .scalar ∨ file = .pred then 0 else elem }
  if s.strand.upsets.contains u then .next s
  else .next (logError 9 (me s) (word (reg.toNat * 2 ^ 32 + u.elem)) (mapStrand (fun t => { t with upsets := t.upsets ++ [u] }) s))

end Sys2Proof.Machine
end

