-- ==== Sys2Proof/Machine/Windsock.lean ====
section
/-! DEFINITION. Windsock: the PTP clock and its discipline, streams, appends, ticks and the flights they fire (R317 to R337). -/

namespace Sys2Proof.Machine

-- ## Stream descriptors (R323)

/-- Token record size. -/
def recSize (d : Vector Word 8) : Nat := 64 * (bits (rw d 2) 5 0 + 1)
/-- KV entry size. -/
def kvSize (d : Vector Word 8) : Nat := 64 * (bits (rw d 2) 27 16 + 1)
/-- Window tokens W. -/
def winW (d : Vector Word 8) : Nat := bits (rw d 2) 63 32
/-- Sink tokens S. -/
def sinkS (d : Vector Word 8) : Nat := bits (rw d 3) 31 0
/-- PERIOD. -/
def period (d : Vector Word 8) : Nat := bits (rw d 3) 63 32
/-- PHASE. -/
def phaseOf (d : Vector Word 8) : Nat := rw d 4
/-- Delay budget D. -/
def delayD (d : Vector Word 8) : Nat := bits (rw d 5) 31 0
/-- Slack σ. -/
def sigma (d : Vector Word 8) : Nat := bits (rw d 5) 63 32
/-- EXP. -/
def expTokens (d : Vector Word 8) : Nat := bits (rw d 6) 15 0
/-- POL: 0 HOLD, 1 WAIT, 2 DROP. -/
def polOf (d : Vector Word 8) : Nat := bits (rw d 6) 17 16
/-- The launch queue Q. -/
def streamQ (d : Vector Word 8) : Nat := bits (rw d 6) 23 20

/-- A reserved bit or a field outside its limits (R323). -/
def descBad (d : Vector Word 8) : Bool :=
  rw d 0 / 2 ^ 57 != 0 || rw d 0 % 64 != 0 || rw d 1 / 2 ^ 57 != 0 || rw d 1 % 64 != 0 || bits (rw d 2) 15 6 != 0 ||
    bits (rw d 2) 31 28 != 0 || winW d == 0 || decide (2 ^ 24 < winW d) || decide (2 ^ 16 < sinkS d) ||
    decide (period d < 100000) || decide (period d ≤ sigma d) || expTokens d == 0 || polOf d == 3 ||
    bits (rw d 6) 31 25 != 0 || bits (rw d 6) 47 43 != 0 || bits (rw d 6) 63 48 != 0 || rw d 7 / 2 ^ 57 != 0 || rw d 7 % 64 != 0

/-- The slot of token q (R324). -/
def slotOfToken (d : Vector Word 8) (q : Nat) : Nat := if q < sinkS d then q else sinkS d + (q - sinkS d) % winW d

/-- The tick of a stamp (R328). -/
def tickOfStamp (d : Vector Word 8) (x : Nat) : Int :=
  ((x : Int) + delayD d - phaseOf d) / period d + 1

/-- The time of tick n (R328). -/
def tickTime (d : Vector Word 8) (n : Nat) : Nat := phaseOf d + n * period d

-- ## Streams in the state

/-- A stream by its number. -/
def streamAt (s : State) (k : Nat) : Option Stream := (s.streams.find? fun x => x.1 == k).map fun x => x.2
/-- Put a stream. -/
def putStream (k : Nat) (x : Stream) (s : State) : State := { s with streams := putK s.streams k x }

/-- Windsock as it makes a count. -/
def countAgent (r : CountReq) : Nat := 2 ^ 51 + 64 * r.stream + r.off

/-- The atomic add of a count at the counter's point of coherence (R197, R327). -/
def addCount (r : CountReq) : M Unit := do
  let w := mooringWho r.queue
  let p ← checkAccess w r.va 8 .store
  checkPhaseFree (countAgent r) w p r.va
  let _ ← atomicAt (countAgent r) w p 8 r.va fun old => some ((old + r.n) % 2 ^ 64)

/-- Make a count (R327): one that cannot be made is recorded in the error log; one that has to wait, for the host's translation
or for its line, is made later. -/
def makeCount (r : CountReq) (s : State) : State :=
  match addCount r s with
  | .ok _ s1 => s1
  | .error (.trap _ _) s1 => logError 6 r.stream (word r.off) (dropUnc (countAgent r) s1)
  | .error (.wait _) s1 => { s1 with countq := s1.countq ++ [r] }

/-- Count events into a counter of a stream (R327). -/
def countEvents (k off n : Nat) (s : State) : State :=
  match streamAt s k with
  | none => s
  | some x =>
    let c := rw x.desc 7
    if c = 0 then s else makeCount { stream := k, queue := streamQ x.desc, va := word (c + off), off := off, n := n } s

/-- A count of the stream has still to be made: no tick of it is decided before (R327). -/
def countPending (s : State) (k : Nat) : Bool := s.countq.any fun r => r.stream == k

/-- The oldest count that waits is tried again. -/
def retryCount (s : State) : State :=
  match s.countq with
  | r :: l => makeCount r { s with countq := l }
  | [] => s

-- ## Ticks (R328, R332 to R334)

/-- The count of tick n. -/
def cntOf (x : Stream) (n : Nat) : Nat := if n < x.next then 0 else nthD x.cnts (n - x.next) 0

/-- A flight that the stream has fired has not completed (R334). -/
def flightRuns (s : State) (k : Nat) : Bool := s.flights.any fun f => (f.tick.map fun t => t.1) == some k

/-- Close ticks unfired (R328, R332 SKP). -/
def closeTicks (n : Nat) (x : Stream) : Stream :=
  { x with next := x.next + n, cnts := x.cnts.drop n, skp := x.skp + n, waiting := false }

/-- At most 16 bits. -/
def sat16 (n : Nat) : Nat := Nat.min n 65535

/-- The tick fires after t_n under WAIT: it was undecided, deferred or stepped over (R332, R333). The decision that a tick's
falling due brings counts as made at t_n. -/
def firesLate (s : State) (x : Stream) (gap : Bool) : Bool :=
  polOf x.desc == 1 && decide (tickTime x.desc x.next < nowNs s) && (x.waiting || x.deferred || gap)

/-- s7 at a firing (R332). -/
def latenessWord (s : State) (x : Stream) (gap : Bool) : Nat :=
  b2n gap + b2n x.deferred * 2 + b2n (firesLate s x gap) * 4 + b2n s.ws.lock * 8
    + sat16 (cntOf x x.next) * 2 ^ 16 + sat16 x.ladm * 2 ^ 32 + sat16 x.skp * 2 ^ 48

/-- Fire tick NEXT of a stream (R332). -/
def fireTick (k : Nat) (x : Stream) (gap : Bool) (s : State) : State :=
  let regs : Vector Word 4 :=
    #v[word x.next, word (tickTime x.desc x.next), (x.newest.map word).getD (BitVec.allOnes 64), word (latenessWord s x gap)]
  let f : Flight :=
    { no := s.nextFlight, queue := streamQ x.desc, words := x.tmpl, waits := [], tick := some (k, regs), ready := true,
      prio := recPrio x.tmpl, bound := 0, shut := false, status := 0, csas := [], readyAt := nowNs s }
  let s1 := countEvents k 0 1 (addFlight f s)
  let s2 := if gap then countEvents k 8 1 s1 else s1
  putStream k { x with
    next := x.next + 1, cnts := x.cnts.drop 1, waiting := false, deferred := false, ladm := 0, skp := 0 } s2

/-- Decide tick NEXT (R333). -/
def decideTick (k : Nat) (x : Stream) (s : State) : State :=
  if expTokens x.desc ≤ cntOf x x.next then fireTick k x false s
  else
    match polOf x.desc with
    | 0 => fireTick k x true s
    | 1 =>
      if tickTime x.desc x.next + sigma x.desc ≤ nowNs s then fireTick k x true s
      else putStream k { x with waiting := true } s
    | _ => countEvents k 16 1 (putStream k { closeTicks 1 x with deferred := false } s)

/-- Tick NEXT is deferred (R334). -/
def deferTick (k : Nat) (x : Stream) (s : State) : State :=
  let s1 := countEvents k 32 1 (putStream k { x with deferred := true } s)
  if bit (rw x.desc 6) 19 then { s1 with msix := s1.msix ++ [bits (rw x.desc 6) 42 32] } else s1

/-- A waiting tick has reached t_n + σ (R333). -/
def deadlineDue (s : State) (x : Stream) : Bool := x.waiting && decide (tickTime x.desc x.next + sigma x.desc ≤ nowNs s)

/-- Something is to be decided at a stream (R333, R334): with a flight running, a tick that falls due is deferred; else a
deferred tick, a tick that falls due, or a waiting tick whose input is complete or whose deadline has come. A count that has
still to be made goes first (R327). -/
def tickReady (s : State) (k : Nat) (x : Stream) : Bool :=
  x.armed && !countPending s k &&
    (if flightRuns s k then
      if x.deferred then decide (tickTime x.desc (x.next + 1) ≤ nowNs s) else decide (tickTime x.desc x.next ≤ nowNs s)
    else if x.waiting then deadlineDue s x || decide (expTokens x.desc ≤ cntOf x x.next)
    else x.deferred || decide (tickTime x.desc x.next ≤ nowNs s))

/-- What happens at a stream where something is to be decided (R333, R334). -/
def tickStep (k : Nat) (s : State) : State :=
  match streamAt s k with
  | none => s
  | some x =>
    if !tickReady s k x then s
    else if flightRuns s k then
      if x.deferred then deferTick k (closeTicks 1 x) (countEvents k 24 1 s) else deferTick k x s
    else decideTick k x s

/-- Decide all that has come due at a stream, in order, at most n things. -/
def tickSteps (k : Nat) : Nat → State → State
  | 0, s => s
  | n + 1, s => if (streamAt s k).any (tickReady s k) then tickSteps k n (tickStep k s) else s

/-- How many things can have come due at a stream: two for each tick passed. -/
def dueBound (s : State) (k : Nat) : Nat :=
  ((streamAt s k).map fun x => 2 * ((nowNs s - tickTime x.desc x.next) / period x.desc + 2)).getD 0

/-- Everything at a stream that has come due by now is decided before what comes next there (R333). -/
def decideDue (k : Nat) (s : State) : State := tickSteps k (dueBound s k) s

/-- `TICK_DUE` (R333, R334). -/
def execTickDue (stream : Nat) (s : State) : Out := .next (tickStep stream s)

/-- `TICK_SIGMA_DEADLINE` (R333): a waiting tick reaches t_n + σ. -/
def execTickSigmaDeadline (stream : Nat) (s : State) : Out :=
  .next (if (streamAt s stream).any (deadlineDue s) then tickStep stream s else s)

/-- What has come due at the stream of a flight while it ran is decided before it completes (R333, R334). -/
def decideBefore (x : Flight) (s : State) : State := (x.tick.map fun t => decideDue t.1 s).getD s

/-- A count of the stream of a flight has still to be made (R327). -/
def countHolds (x : Flight) (s : State) : Bool := (x.tick.map fun t => countPending s t.1).getD false

/-- `FLIGHT_COMPLETE` (R291): a flight that is over is closed and counted once; its context save areas are free. A tick that has fallen
due while it ran is deferred first, and the deferred tick of the stream that fired it is decided then (R334). -/
def execFlightComplete (f : Nat) (s0 : State) : Out :=
  match flightAt s0 f with
  | none => .next s0
  | some x =>
    if flightOver s0 x then
      let s := decideBefore x s0
      if countHolds x s then .next s
      else
      let s1 := putFlight { x with shut := true } (closeFlight f s)
      let done (s : State) : State :=
        let s' := { s with flights := s.flights.filter fun y => y.no != f }
        (x.tick.map fun t => decideDue t.1 s').getD s'
      match countFlight x s1 with
      | .ok _ s2 => .next (done s2)
      | .error (.trap _ _) s2 => .next (done (logError 3 f (word (recCompl x.words)) (dropUnc (counterAgent f) s2)))
      | .error (.wait _) s2 => .next s2
    else .next s0

/-- Disarm a stream (R336). -/
def disarmStream (k : Nat) (s : State) : State :=
  match streamAt s k with
  | none => s
  | some x =>
    if !x.armed then s
    else
      let s1 := if x.deferred || x.waiting then countEvents k 24 1 s else s
      putStream k { (if x.deferred || x.waiting then closeTicks 1 x else x) with armed := false, deferred := false } s1

-- ## The clock (R317 to R322)

/-- A forward step of `PTIME` at an armed stream (R335). -/
def stepStream (s : State) (k : Nat) : State :=
  match streamAt s k with
  | none => s
  | some x =>
    let dead := tickTime x.desc x.next + (if polOf x.desc = 1 then sigma x.desc else 0)
    if !x.armed || decide (nowNs s < dead) then s
    else
      let m := (nowNs s - dead) / period x.desc
      let y := if m = 0 then x else { closeTicks m x with deferred := false }
      let s1 := if m = 0 then s else countEvents k 24 m s
      tickStep k (putStream k { y with waiting := polOf x.desc == 1 && !flightRuns s k } s1)

/-- A backward step of `PTIME` at an armed stream (R335): tick NEXT falls due when the clock again reaches it. -/
def stepBack (s : State) (k : Nat) : State :=
  match streamAt s k with
  | some x => if x.armed && decide (nowNs s < tickTime x.desc x.next) then putStream k { x with waiting := false, deferred := false } s else s
  | none => s

-- ## How time runs (R317, R319; log 4)

/-- A number held within bounds. -/
def within (b : Nat) (x : Int) : Int := if x < -b then -b else if (b : Int) < x then b else x

/-- The rate of the clock beside true time, in parts per 10^9 (R319): the oscillator's error, and the slewing toward the
source. -/
def clockRate (s : State) : Int :=
  let sl : Int := Nat.min (Config.slewOf s.stepNo) 500000
  within 10000 (Config.driftOf s.stepNo) + (if s.ws.slew = 0 then 0 else if 0 < s.ws.slew then -sl else sl)

/-- By how much `PTIME` advances in a step, in units of 2^-16 ns: it never stops (R319). -/
def advance16 (s : State) : Nat :=
  ((((Config.elapsedOf s.stepNo + 1 : Nat) : Int) * (1000000000 + clockRate s) + 999999999) / 1000000000).toNat

/-- Time passes (R317, R319): the edges of 1PPS out that the clock passes with PPSO = 1 and LOCK set are to be given. -/
def passTime (s : State) : State :=
  let t := s.ptime + advance16 s
  let due := if s.ws.ctl.getLsbD 13 && s.ws.lock then
      (span (nowNs s / 1000000000 + 1) (t / 2 ^ 16 / 1000000000 + 1)).map (· * 1000000000)
    else []
  { s with ptime := t, ws := { s.ws with ppsDue := s.ws.ppsDue ++ due } }

/-- Everything that has come due by now is decided at every stream (R333). -/
def decideAll (s : State) : State := (s.streams.map fun x => x.1).foldl (fun s k => decideDue k s) s

/-- A step of `PTIME` by an offset, in units of 2^-16 ns (R319, R335): what was due before it is decided first, and times that the old
clock gave to messages serve no more. -/
def stepClock (ofs : Int) (s0 : State) : State :=
  let s := decideAll s0
  let moved (n : Nat) : Nat := ((n : Int) - ofs).toNat
  let s1 := { s with ptime := moved s.ptime, ws := { s.ws with
    ofs := BitVec.ofInt 64 ofs, lock := false, good := 0, steps := s.ws.steps + 1, last := moved s.ptime, slew := 0
    heard := moved s.ws.heard, sync := none, twoStep := none } }
  (s1.streams.map fun x => x.1).foldl (if ofs < 0 then stepStream else stepBack) s1

/-- A measurement of the offset from the source, in units of 2^-16 ns (R319): it slews the clock toward the source, or steps
it. -/
def measured (ofs : Int) (s : State) : State :=
  let w := { s.ws with ofs := BitVec.ofInt 64 ofs, last := s.ptime }
  if 65536000000 < ofs.natAbs then stepClock ofs s
  else
    let good := if ofs.natAbs ≤ 65536000 then w.good + 1 else 0
    { s with ws := { w with good := good, lock := w.lock || decide (8 ≤ good), slew := ofs } }

/-- The source in use (R318). -/
def clockSource (s : State) : Nat := bits s.ws.ctl.toNat 1 0
/-- A message of the domain arrives at the time port, over the transport in use (R317, R318). -/
def fromPort (s : State) (h : PtpHead) : Bool :=
  clockSource s == 1 && h.domain == s.ws.ctl.extractLsb' 2 8 && h.transport == s.ws.ctl.extractLsb' 10 2

/-- The message comes from the grandmaster that is chosen (R317). -/
def fromMaster (s : State) (h : PtpHead) : Bool := fromPort s h && (s.ws.master.map fun m => m.source) == some h.source

/-- The path delay is measured between peers (R317, R318 DELAY). -/
def peerDelay (s : State) : Bool := s.ws.ctl.getLsbD 12

/-- The comparison of grandmasters (R317, IEEE 1588). -/
def masterKey (m : Master) : List Nat :=
  [m.priority1.toNat, m.clockClass.toNat, m.accuracy.toNat, m.variance.toNat, m.priority2.toNat, m.identity.toNat]

/-- One list of numbers comes before another of its length. -/
def before : List Nat → List Nat → Bool
  | a :: l, b :: r => decide (a < b) || (a == b && before l r)
  | _, _ => false

/-- The chosen grandmaster has been silent for longer than the announce receipt time-out (R317, IEEE 1588; log 92). -/
def masterSilent (s : State) : Bool := decide (s.ws.heard + Config.announceTimeout < s.ptime)

/-- `PTP_ANNOUNCE` (R317): the best grandmaster of the domain is chosen; what the chosen one announces of itself replaces what
it announced before, and one that has fallen silent gives way to any other. -/
def execPtpAnnounce (h : PtpHead) (priority1 clockClass clockAccuracy : BitVec 8) (variance : BitVec 16)
    (priority2 : BitVec 8) (gm : Word) (s : State) : Out :=
  let m : Master :=
    { priority1 := priority1, clockClass := clockClass, accuracy := clockAccuracy, variance := variance,
      priority2 := priority2, identity := gm, source := h.source }
  let better := match s.ws.master with
    | none => true
    | some b => masterSilent s || before (masterKey m) (masterKey b)
  if fromMaster s h then .next { s with ws := { s.ws with master := some m, heard := s.ptime } }
  else if fromPort s h && better then
    .next { s with ws := { s.ws with master := some m, heard := s.ptime, twoStep := none, sync := none } }
  else .next s

/-- A Sync with its origin time, received at t2 (R317). -/
def syncAt (origin t2 : Nat) (s : State) : State :=
  measured ((t2 : Int) - origin - s.ws.delay) { s with ws := { s.ws with sync := some (origin, t2), twoStep := none } }

/-- `PTP_SYNC` (R317, R319), from the chosen grandmaster: a one-step Sync is a measurement; a two-step Sync waits for its
Follow_Up. -/
def execPtpSync (h : PtpHead) (twoStep : Bool) (seq : BitVec 16) (origin : Nat) (s : State) : Out :=
  if !fromMaster s h then .next s
  else if twoStep then .next { s with ws := { s.ws with twoStep := some (seq, s.ptime) } }
  else .next (syncAt origin s.ptime s)

/-- `PTP_FOLLOW_UP` (R317). -/
def execPtpFollowUp (h : PtpHead) (seq : BitVec 16) (origin : Nat) (s : State) : Out :=
  match s.ws.twoStep with
  | some (q, t2) => if fromMaster s h && q == seq then .next (syncAt origin t2 s) else .next s
  | none => .next s

/-- `PTP_DELAY_RESPONSE` (R317, R319): the path delay. With the delay request-response mechanism, from the last Sync and the
time at which the grandmaster received the request, and the offset that it gives; with peer delay, from the times at which the
peer received the request and answered. -/
def execPtpDelayResponse (h : PtpHead) (sent : Nat) (reply : PtpReply) (s : State) : Out :=
  if peerDelay s then
    if fromPort s h then
      .next { s with ws := { s.ws with delay := (((s.ptime : Int) - sent) - ((reply.answered : Int) - reply.received)) / 2 } }
    else .next s
  else if !fromMaster s h then .next s
  else
    match s.ws.sync with
    | none => .next s
    | some (t1, t2) =>
      let d : Int := (((t2 : Int) - t1) + ((reply.received : Int) - sent)) / 2
      .next (measured ((t2 : Int) - t1 - d) { s with ws := { s.ws with delay := d, sync := none } })

/-- `PTM_DIALOGUE` (R318, R319). -/
def execPtmDialogue (master : Nat) (s : State) : Out :=
  if clockSource s = 2 then .next (measured ((s.ptime : Int) - master) s) else .next s

/-- `LOCK_TIMEOUT` (R319): 3 s have passed without a measurement; the clock runs on the local oscillator. -/
def execLockTimeout (s : State) : Out := .next { s with ws := { s.ws with lock := false, good := 0, slew := 0 } }

/-- `PPS_IN_EDGE` (R318). -/
def execPpsInEdge (s : State) : Out := .next { s with ws := { s.ws with pps := word (nowNs s) } }

/-- `PPS_OUT_EDGE` (R319): the rising edge for a whole second that the clock has passed with PPSO = 1 and LOCK set. -/
def execPpsOutEdge (s : State) : Out :=
  match s.ws.ppsDue with
  | t :: l => .next { s with ws := { s.ws with ppsOut := s.ws.ppsOut ++ [t], ppsDue := l } }
  | [] => .next s

/-- A write of `WSCTL` (R318). -/
def writeWsctl (v : Word) (s : State) : State :=
  let n := v.setWidth 14
  if n.extractLsb' 0 13 = s.ws.ctl.extractLsb' 0 13 then { s with ws := { s.ws with ctl := n } }
  else { s with ws := { s.ws with
    ctl := n, lock := false, good := 0, delay := 0, twoStep := none, sync := none, master := none, slew := 0 } }

/-- `WSCTL_WRITE` (R318). -/
def execWsctlWrite (v : Word) (s : State) : Out := .next (writeWsctl v s)

/-- A write of `WSIRTAIL` (R330). -/
def writeIngestTail (v : Word) (s : State) : State :=
  if 2 ^ (bits s.ws.irCtl.toNat 5 1 + 4) < (v.setWidth 32 - s.ws.irHead).toNat then s
  else { s with ws := { s.ws with irTail := v.setWidth 32 } }

/-- `WSIRTAIL_WRITE` (R330). -/
def execWsirtailWrite (v : Word) (s : State) : Out := .next (writeIngestTail v s)

-- ## strmset (R326)

/-- Work whose traps are an answer: none for a trap. -/
def attempt {α : Type} (m : M α) : M (Option α) := fun s =>
  match m s with
  | .ok a s1 => .ok (some a) s1
  | .error (.trap _ _) s1 => .ok none s1
  | .error e s1 => .error e s1

/-- Every 4 KiB page of a range is mapped in a queue's space. -/
def allMapped (q va n : Nat) : M Bool := do
  let r ← attempt (eachOf ((List.range (ceilDiv (va % 4096 + n) 4096)).map fun k => va / 4096 * 4096 + 4096 * k) fun a => do
    let _ ← checkAccess (mooringWho q) (word a) 8 .load)
  pure r.isSome

/-- The eight words of a 64-byte read. -/
def eightWords (x : Nat) : Vector Word 8 := Vector.ofFn fun (i : Fin 8) => word (x / 2 ^ (64 * i.val))

/-- A new stream (R326). -/
def newStream (d : Vector Word 8) : Stream :=
  { desc := d, newest := none, armed := false, next := 0, cnts := [], tmpl := Vector.replicate 8 0, waiting := false,
    deferred := false, ladm := 0, skp := 0 }

/-- The status of a `strmset` and its effect (R326). -/
def setStream (k : Nat) (d : Vector Word 8) : M Nat := do
  let old ← ask fun s => streamAt s k
  if (old.map fun x => x.armed).getD false then pure (2 ^ 63 + 1)
  else if !bit (rw d 6) 24 then
    change fun s => { s with streams := s.streams.filter fun x => x.1 != k }
    pure 0
  else if descBad d then pure (2 ^ 63 + 2)
  else
    let slots := sinkS d + winW d
    let a ← allMapped (streamQ d) (rw d 0) (slots * recSize d)
    let b ← allMapped (streamQ d) (rw d 1) (slots * kvSize d)
    if a && b then
      change (putStream k (newStream d))
      pure 0
    else pure (2 ^ 63 + 3)

/-- A stream number operand (R326, R329). -/
def streamNo (i : Instr) (a : BitVec 5) : M Nat := do
  let x ← ask fun s => (getS s.strand a).toNat
  illegalIf (x / 2 ^ 12 != 0) i
  pure x

/-- A 64-byte item at the address in a register, read as one load (R326, R331). -/
def itemAt (b : BitVec 5) : M (Vector Word 8) := do
  fenceWait
  let va ← ask fun s => getS s.strand b
  trapIf (va.toNat % 64 != 0) .misaligned va
  let w ← ask whoAmI
  let me' ← ask me
  let v ← loadVa me' w va 64
  pure (eightWords v)

/-- `strmset` (R326). -/
def execStrmset (g : Guard) (d a b : BitVec 5) (s : State) : Out :=
  privOp (.strmset g d a b) g [a, b] [d] (do
    let k ← streamNo (.strmset g d a b) a
    let x ← itemAt b
    let r ← setStream k x
    wrS d (word r)) s

-- ## Appends (R325, R329, R337)

/-- The places of the 64-byte chunks of a record. -/
def chunkPlaces (q va n : Nat) : M (List Place) := do
  let r ← mapEach (List.range (n / 64)) fun k => checkAccess (mooringWho q) (word (va + 64 * k)) 64 .store
  pure r

/-- Windsock writes bytes of a slot at their home (R325, R329). A load of a strand that is bound now may show the bytes before it until
the strand acquires at `pk` or wider (R355). -/
def appendPoke (key : Nat) (bs : List Byte) (s : State) : State :=
  let agents := (boundStrands s).map fun t => t.id.toNat
  let old := bs.zipIdx.map fun x => (key + x.2, BitVec.ofNat 8 (homeNat s (key + x.2) 1), x.1)
  let new := (old.filter fun x => x.2.1 != x.2.2).map fun x => { key := x.1, byte := x.2.1, made := s.stepNo, agents := agents : Stale }
  let s1 := homePoke key bs s
  if agents.isEmpty then s1 else { s1 with stale := new ++ s1.stale }

/-- The header of a slot: PRES and SEQ, or none where it cannot be read. -/
def slotHeader (q va : Nat) : M (Option (Bool × Nat)) := attempt do
  let p ← checkAccess (mooringWho q) (word va) 64 .load
  let bad ← ask fun s => poisoned s p.key 16
  trapIf bad .dataError (word va)
  let h ← ask fun s => homeNat s p.key 16
  change (readUnits p.key 16)
  pure (bit h (8 * 12 + 9), bits h 95 64)

/-- The outcome code of an append before any write (R329). -/
def appendCode (x : Stream) (q : Nat) (n : Int) (pres : Bool) (seq : Nat) : Nat :=
  if q < sinkS x.desc ∧ pres then 4
  else if sinkS x.desc ≤ q ∧ (x.newest.map fun m => decide (q + winW x.desc ≤ m)).getD false then 3
  else if pres ∧ seq = q then 4
  else if x.armed ∧ (x.next : Int) + 15 < n then 5
  else if x.armed ∧ n < x.next then (if bit (rw x.desc 6) 18 then 1 else 2)
  else 0

/-- The record that Windsock writes (R325, R329). -/
def tokenBytes (bs : List Byte) (late : Bool) : List Byte :=
  bs.take 13 ++ [BitVec.ofNat 8 (b2n late + 2), 0, 0] ++ bs.drop 16

/-- The counter of an outcome (R327). -/
def outcomeCounter (code : Nat) : Option Nat :=
  match code with
  | 0 => none
  | 1 => some 48
  | 2 => some 40
  | _ => some 56

/-- Add to cnt of a tick. -/
def bumpCnt (x : Stream) (n : Nat) : Stream :=
  { x with cnts := (List.range 16).map fun i => nthD x.cnts i 0 + b2n (x.next + i == n) }

/-- An append that Windsock accepts: the stream's counts, and the firing it completes (R329, R333). -/
def accepted (k q code : Nat) (n : Int) (s : State) : State :=
  match streamAt s k with
  | none => s
  | some x =>
    let x1 := { x with newest := some (match x.newest with
      | some m => Nat.max m q
      | none => q) }
    if code = 1 then putStream k { x1 with ladm := x1.ladm + 1 } s
    else if !x1.armed then putStream k x1 s
    else
      let x2 := bumpCnt x1 n.toNat
      if x2.waiting && !flightRuns s k && decide (expTokens x2.desc ≤ cntOf x2 x2.next) then decideTick k x2 s
      else putStream k x2 s

/-- Windsock appends a record, indivisibly against the other operations on the stream (R329); the outcome code. What has come
due at the stream is decided first (R333). `asid`: the strand's address space, none for the ingest ring. -/
def appendToken (k : Nat) (asid : Option Nat) (bs : List Byte) : M Nat := do
  change (decideDue k)
  let late ← ask fun s => countPending s k
  waitIf late .ats
  let st ← ask fun s => streamAt s k
  match st with
  | none => pure 6
  | some x =>
    let qq := streamQ x.desc
    let own ← ask fun s => asidOf (queueAt s qq)
    let code ← if (asid.map fun a => a != own).getD false then pure 6
      else do
        let q := leNat ((bs.drop 8).take 4)
        let n := tickOfStamp x.desc (leNat (bs.take 8))
        let rva := rw x.desc 0 + slotOfToken x.desc q * recSize x.desc
        let kva := rw x.desc 1 + slotOfToken x.desc q * kvSize x.desc
        let h ← slotHeader qq rva
        match h with
        | none => pure 7
        | some (pres, seq) =>
          let c := appendCode x q n pres seq
          if c < 2 then
            let ps ← attempt (chunkPlaces qq rva (recSize x.desc))
            let kp ← attempt (checkAccess (mooringWho qq) (word kva) 8 .store)
            match ps, kp with
            | some ps, some kp =>
              let out := tokenBytes bs (c == 1)
              change fun s => ps.zipIdx.foldl (fun s y => appendPoke y.1.key ((out.drop (64 * y.2)).take 64) s) s
              change (appendPoke kp.key (leBytes 8 q))
              change (accepted k q c n)
              pure c
            | _, _ => pure 7
          else pure c
    match outcomeCounter code with
    | some off => change (countEvents k off 1)
    | none => pure ()
    pure code

/-- `stappend` (R329). -/
def execStappend (g : Guard) (d a b : BitVec 5) (s : State) : Out :=
  plainOp g [a, b] [d] [] (do
    fenceWait
    let k ← streamNo (.stappend g d a b) a
    let va ← ask fun s => getS s.strand b
    trapIf (va.toNat % 64 != 0) .misaligned va
    let w ← ask whoAmI
    let me' ← ask me
    let n ← ask fun s => ((streamAt s k).map fun x => recSize x.desc).getD 64
    let vs ← eachOnce me' (n / 64) fun i => loadVa me' w (va + word (64 * i)) 64
    releaseAll .pk
    let bs := vs.flatMap fun v => leBytes 64 v
    let asid ← ask fun s => asidOf (queueAt s s.strand.queue)
    let code ← appendToken k (some asid) bs
    wrS d (word (if code < 2 then leNat ((bs.drop 8).take 4) + code * 2 ^ 32 else 2 ^ 63 + code))) s

/-- The key of an offset of this module. -/
def ownKey (s : State) (off : Nat) : Nat := myModule s * 2 ^ 43 + off

/-- Bytes of this module's memory that a device agent can read, or none. -/
def readOffset (s : State) (off n : Nat) : Option (List Byte) :=
  if isMemory off && isMemory (off + n - 1) && !poisoned s (ownKey s off) n then some (leBytes n (homeNat s (ownKey s off) n)) else none

/-- `INGEST_ENTRY` (R330): Windsock takes the next entry of the ingest ring. -/
def execIngestEntry (s0 : State) : Out :=
  let w := s0.ws
  if !w.irCtl.getLsbD 0 || w.irHead == w.irTail then .next s0
  else
    let past (s : State) : State := { s with ws := { s.ws with irHead := w.irHead + 1 } }
    let off := bits w.irBase.toNat 42 4 * 16 + 16 * (w.irHead.toNat % 2 ^ (bits w.irCtl.toNat 5 1 + 4))
    let s := readUnits (ownKey s0 off) 16 s0
    match readOffset s off 16 with
    | none => .next (past s)
    | some e =>
      let rec' := leNat (e.take 8)
      let meta' := leNat (e.drop 8)
      let k := meta' % 2 ^ 12
      let n := ((streamAt s k).map fun x => recSize x.desc).getD 64
      match (if rec' / 2 ^ 43 ≠ 0 ∨ rec' % 64 ≠ 0 ∨ meta' / 2 ^ 12 ≠ 0 then none else readOffset s rec' n) with
      | none => .next (past (countEvents k 56 1 s))
      | some bs =>
        match appendToken k none bs (readUnits (ownKey s rec') n s) with
        | .ok _ s1 => .next (past s1)
        | .error (.wait _) s1 => .next s1
        | .error (.trap _ _) s1 => .next (past s1)

-- ## Arming (R331, R336)

/-- The first tick at or after a time (R331). -/
def firstTick (d : Vector Word 8) (now : Nat) : Nat := ceilDiv (now - phaseOf d) (period d)

/-- `tickarm` (R331). -/
def execTickarm (g : Guard) (d a b : BitVec 5) (s : State) : Out :=
  plainOp g [a, b] [d] [] (do
    let k ← streamNo (.tickarm g d a b) a
    let tm ← itemAt b
    let st ← ask fun s => streamAt s k
    let r ← match st with
      | none => pure (2 ^ 63 + 1)
      | some x =>
        if x.armed then pure (2 ^ 63 + 2)
        else do
          let q ← ask fun s => s.strand.queue
          if q ≠ streamQ x.desc then pure (2 ^ 63 + 3)
          else do
            let bad ← ask fun s => recordBad (queueAt s q) tm || recNw tm != 0
            let me' ← ask me
            let ok ← if bad then pure none else attempt (recordChecks me' q tm)
            match ok with
            | none => pure (2 ^ 63 + 4)
            | some _ => do
              let n ← ask fun s => firstTick x.desc (nowNs s + 10000)
              change (putStream k { x with
                armed := true, tmpl := tm, next := n, cnts := [], ladm := 0, skp := 0, waiting := false, deferred := false })
              pure n
    wrS d (word r)) s

/-- `tickoff` (R336). -/
def execTickoff (g : Guard) (d a : BitVec 5) (s : State) : Out :=
  plainOp g [a] [d] [] (do
    let k ← streamNo (.tickoff g d a) a
    change (decideDue k)
    let late ← ask fun s => countPending s k
    waitIf late .ats
    let st ← ask fun s => streamAt s k
    let q ← ask fun s => s.strand.queue
    let r ← match st with
      | none => pure (2 ^ 63 + 1)
      | some x =>
        if !x.armed then pure (2 ^ 63 + 2)
        else if q ≠ streamQ x.desc then pure (2 ^ 63 + 3)
        else do
          change (disarmStream k)
          pure 0
    wrS d (word r)) s

end Sys2Proof.Machine
end

