-- ==== Sys2Proof/Machine/Teardown.lean ====
section
/-! DEFINITION. Teardown of a launch queue (R301, R336). -/

namespace Sys2Proof.Machine

/-- Take every record left in a ring (R301). -/
def takeAll (k : Nat) : Nat → State → State
  | 0, s => s
  | n + 1, s => if (queueAt s k).head = (queueAt s k).tail then s else takeAll k n (takeRecord k s)

/-- The flights that wait on a counter of one of a set, in the same address space. -/
def waitersOn (s : State) (set : List Flight) : List Flight :=
  s.flights.filter fun x => !x.ready && x.waits.any fun w => set.any fun y =>
    recCompl y.words != 0 && recCompl y.words == w.1 && asidOf (queueAt s y.queue) == asidOf (queueAt s x.queue)

/-- A set of flights closed under waiting. -/
def closeSet (s : State) : Nat → List Flight → List Flight
  | 0, l => l
  | n + 1, l => closeSet s n (l ++ (waitersOn s l).filter fun x => !l.any fun y => y.no == x.no)

/-- The set a teardown acts on (R301). -/
def tearSet (s : State) (k : Nat) : List Flight :=
  let mine := s.flights.filter fun x => x.queue == k && x.status != 3
  let group := s.flights.filter fun x => recCancel x.words != 0 && mine.any fun y => recCancel y.words == recCancel x.words
  closeSet s s.flights.length (mine ++ group.filter fun x => !mine.any fun y => y.no == x.no)

/-- Cancel a flight's engine jobs (R227, R241, R372). -/
def cancelJobs (f : Nat) (s : State) : State :=
  { s with
    clusters := s.clusters.map fun c => (c.1, { c.2 with
      reel := c.2.reel.map fun ch => { ch with jobs := ch.jobs.map fun j =>
        if j.by_.flight = f then { j with cancel := true } else j }
      lk := c.2.lk.map fun j => if j.by_.flight = f then { j with cancel := true } else j
      ops := c.2.ops.map fun o => if o.by_.flight = f then { o with cancel := true } else o })
    faultq := s.faultq.filter fun x =>
      match x.who with
      | .strand => true
      | .reel cl ch => !((reelHead s cl ch).map fun j => j.by_.flight == f).getD false
      | .bridle cl id => !(clusterAt s cl).ops.any fun o => o.id.toNat == id && o.by_.flight == f }

/-- Tear one flight down as far as it goes: contexts are discarded, unless a strand is inside a `rangeset.q`; jobs stop (R301).
-/
def tearFlight (x : Flight) (s : State) : State :=
  let mine := (s.crews.filter fun c => c.flight == x.no && !holdsLock s c.id).map fun c => c.id
  cancelJobs x.no (mine.foldl (fun s c => discardCrew c s)
    (putFlight (cancelled x) (if x.shut then s else dropUnc (counterAgent x.no) s)))

/-- Every stream of a queue is disarmed, what has come due there decided first (R333, R336); one with counts still to be made waits
for them (R327). -/
def disarmAll (k : Nat) (s : State) : State :=
  (s.streams.filter fun x => streamQ x.2.desc == k).foldl (fun s x =>
    let s1 := decideDue x.1 s
    if countPending s1 x.1 then s1 else disarmStream x.1 s1) s

/-- A stream of a queue is armed. -/
def anyArmed (s : State) (k : Nat) : Bool := s.streams.any fun x => x.2.armed && streamQ x.2.desc == k

/-- One round of a queue's teardown; when no flight of the set is left, TD or RST clears (R301). -/
def tearStep (k : Nat) (s : State) : State :=
  let s0 := disarmAll k s
  if anyArmed s0 k then s0
  else
  let s1 := takeAll k (inRing (queueAt s0 k)) s0
  let set := tearSet s1 k
  let s2 := set.foldl (fun s x => tearFlight x s) s1
  let s3 := { s2 with tearing := s2.tearing ++ (set.filter fun x => !s2.tearing.contains (k, x.no)).map fun x => (k, x.no) }
  let left := s3.tearing.filter fun x => x.1 == k && s3.flights.any fun y => y.no == x.2
  let q := queueAt s3 k
  if left.isEmpty && q.head == q.tail && !(s3.flights.any fun y => y.queue == k) then
    let rst := qBit q 19 && !inRecovery s3
    putQueue k { q with ctl := word (setField (setField (setField q.ctl.toNat 18 1 0) 19 1 0) 0 1 (b2n rst)) }
      { s3 with tearing := s3.tearing.filter fun x => x.1 != k }
  else s3

/-- A queue is being torn down. -/
def tearingDown (q : LaunchQueue) : Bool := qBit q 18 || qBit q 19

/-- `QUEUE_TEARDOWN` (R301): a write of 1 to TD. -/
def execQueueTeardown (q : Nat) (s : State) : Out :=
  .next (tearStep q (putQueue q { queueAt s q with ctl := (queueAt s q).ctl ||| word (2 ^ 18) } s))

/-- `QUEUE_RESET` (R301): a write of 1 to RST. -/
def execQueueReset (q : Nat) (s : State) : Out :=
  .next (tearStep q (putQueue q { queueAt s q with ctl := (queueAt s q).ctl ||| word (2 ^ 19) } s))

/-- `TEARDOWN_COMPLETE` (R301): the teardown goes on, and ends when every flight of its set is done. -/
def execTeardownComplete (q : Nat) (s : State) : Out :=
  if tearingDown (queueAt s q) then .next (tearStep q s) else .next s

end Sys2Proof.Machine
end

