-- ==== Sys2Proof/Machine/Package.lean ====
section
/-! DEFINITION. The package: shard-group links, the host port, bulk memory, signed images, attestation, the test port and
power (R338 to R354). -/

namespace Sys2Proof.Machine

/-- Change the package. -/
def mapPk (f : Package → Package) (s : State) : State := { s with pk := f s.pk }

-- ## Shard groups (R338 to R340)

/-- The members that `SGMEM` names (R338). -/
def shardMembers (ctl : BitVec 5) (mem : BitVec 36) : List Nat :=
  if ctl.getLsbD 4 then (List.range ((ctl.extractLsb' 2 2).toNat + 1)).map fun i => (mem.extractLsb' (9 * i) 9).toNat else []

/-- A write of `SGCTL`: while EN = 1 only EN changes (R338). -/
def writeSgctl (v : Word) (s : State) : State :=
  let old := s.pk.sgctl
  let n : BitVec 5 := if old.getLsbD 4 then (v.extractLsb' 4 1).append (old.extractLsb' 0 4) else v.extractLsb' 0 5
  { mapPk (fun p => { p with sgctl := n }) s with shard := shardMembers n s.pk.sgmem }

/-- A write of `SGMEM`: ignored while EN = 1 (R338). -/
def writeSgmem (v : Word) (s : State) : State :=
  if s.pk.sgctl.getLsbD 4 then s else mapPk (fun p => { p with sgmem := v.extractLsb' 0 36 }) s

/-- `SHARD_GROUP_ENABLE` (R338, R339). -/
def execShardGroupEnable (v : Word) (s : State) : Out := .next (writeSgctl v s)

/-- The link field of `SGLINK` with UCIe modules set or cleared (R338). -/
def setLink (link : Nat) (f : BitVec 4 → BitVec 4) (x : BitVec 12) : BitVec 12 :=
  BitVec.ofNat 12 (setField x.toNat (4 * link) 4 (f (x.extractLsb' (4 * link) 4)).toNat)

/-- `UCIE_LINK_DOWN` (R340): no UCIe module of the link is trained; what was in flight goes over Spool, once. -/
def execUcieLinkDown (link : Nat) (s : State) : Out :=
  if link < 3 then .next (mapPk (fun p => { p with sglink := setLink link (fun _ => 0) p.sglink }) s) else .next s

/-- `UCIE_LINK_TRAINED` (R338, R340). -/
def execUcieLinkTrained (link umod : Nat) (s : State) : Out :=
  if link < 3 ∧ umod < 4 then
    .next (mapPk (fun p => { p with sglink := setLink link (fun x => x ||| BitVec.ofNat 4 (2 ^ umod)) p.sglink }) s)
  else .next s

-- ## The host port (R342, R343)

/-- What a host access of a range of offsets reaches: memory that is fitted. -/
def hostReaches (off n : Nat) : Bool := isMemory off && isMemory (off + n - 1)

/-- The host as the maker of an access: of scope `ho`, outside the clusters (R343). -/
def hostWho : Who := { cl := 16, co := outside, queue := 0, sup := true, wb := 0, wn := 0, redir := false }

/-- The host as an agent. -/
def hostAgent : Nat := 2 ^ 23

/-- An offset of this module's memory as the place of a host access. -/
def hostSpot (s : State) (off : Nat) : Place := ⟨myModule s * 2 ^ 43 + off, .dev 0⟩

/-- The line lies in a range with HC = 1 (R259). -/
def hostCached (s : State) (off : Nat) : Bool :=
  s.ranges.toList.any fun r => r.v && r.hc && decide (r.base ≤ off) && decide (off < r.limit)

/-- The host holds a copy of a line's region, whose entry needs a way (R271, R272, R274). -/
def hostShares (off : Nat) (s : State) : State :=
  let line := (myModule s * 2 ^ 43 + off) / 64
  if hostCached s off then makeRoom (line / 8) (putRegion s { regionAt s line with host := true }) else s

/-- What the host gets (none for an error). -/
def hostGets (x : Option (List Byte)) (s : State) : State := mapPk (fun p => { p with hostOut := p.hostOut ++ [x] }) s

/-- A host read within a line (R343): in a range with HC = 1 the host then holds a copy, which the home keeps; elsewhere the
home performs it as UNC. -/
def hostRead (off n : Nat) : M (List Byte) := do
  let p ← ask fun s => hostSpot s off
  let keeps ← ask fun s => hostCached s off
  if keeps then
    let busy ← ask fun s => blocked (hlineAt s (p.key / 64)) || linePending s (p.key / 64)
    waitIf busy .line
    let bad ← ask fun s => poisoned s p.key n
    trapIf bad .dataError 0
    change (hostShares off)
    let v ← fun s => .ok (readThrough hostAgent p.key n s).1 (readThrough hostAgent p.key n s).2
    pure (leBytes n v)
  else
    let v ← phaseFreeRead hostAgent hostWho p n 0
    pure (leBytes n v)

/-- A host write within a line, performed by the home as UNC (R343, R345). -/
def hostWrite (off : Nat) (bs : List Byte) : M Unit := do
  let p ← ask fun s => hostSpot s off
  checkPhaseFree hostAgent hostWho p 0
  let _ ← phaseFreeAt false hostAgent hostWho p bs.length 0 fun _ => some (leNat bs)

/-- A host AtomicOp of four or eight bytes, at the home (R197, R342, R343). -/
def hostAtomic (off : Nat) (wide : Bool) (f : Nat → Option Nat) : M (List Byte) := do
  let n := if wide then 8 else 4
  trapIf (off % n != 0 || !hostReaches off n) .misaligned 0
  let p ← ask fun s => hostSpot s off
  checkPhaseFree hostAgent hostWho p 0
  let old ← atomicAt hostAgent hostWho p n 0 fun o => (f o).map fun v => v % 2 ^ (8 * n)
  pure (leBytes n old)

/-- The bytes of registers that a read through a BAR returns (R342). -/
def barBytes (s : State) (off n : Nat) : List Byte := leBytes n (regNat s (myModule s * 2 ^ 43 + off) n)

/-- What a host access does; the bytes that it answers, if it is one that is answered (R342, R343). A read through the BAR follows the
writes of registers before it. -/
def hostWork (x : HostAccess) : M (Option (List Byte)) :=
  match x with
  | .read off n => do
    if isRegister off && n != 0 then
      let busy ← ask fun s => !s.regq.isEmpty
      waitIf busy .line
      let bs ← ask fun s => barBytes s off n
      return some bs
    trapIf (n == 0 || !hostReaches off n) .protection 0
    let bs ← hostRead off n
    pure (some bs)
  | .write off bs => do
    if isRegister off && !bs.isEmpty then change fun s => writeReg (myModule s * 2 ^ 43 + off) bs s
    else if !bs.isEmpty && hostReaches off bs.length then hostWrite off bs
    pure none
  | .add off wide v => do
    let bs ← hostAtomic off wide fun o => some (o + v.toNat)
    pure (some bs)
  | .swap off wide v => do
    let bs ← hostAtomic off wide fun _ => some v.toNat
    pure (some bs)
  | .cas off wide a b => do
    let bs ← hostAtomic off wide fun o => if o = a.toNat % 2 ^ (if wide then 64 else 32) then some b.toNat else none
    pure (some bs)
  | .hostMemWrite a bs => do
    change (homePoke (hostBase + a % 2 ^ 64) bs)
    pure none
  | .backInvAck _ => pure none

/-- A read is answered with an error where it fails; a write that fails is dropped. -/
def hostFails (x : HostAccess) (s : State) : State :=
  match x with
  | .write _ _ | .hostMemWrite _ _ | .backInvAck _ => s
  | _ => hostGets none s

/-- The host accesses that wait are served in order, as far as they go, at most n (R274, R275). -/
def serveHost : Nat → State → State
  | 0, s => s
  | n + 1, s =>
    match s.hostq with
    | [] => s
    | x :: r =>
      match hostWork x s with
      | .ok none s1 => serveHost n { s1 with hostq := r }
      | .ok (some bs) s1 => serveHost n (hostGets (some bs) { s1 with hostq := r })
      | .error (.trap _ _) s1 => serveHost n (hostFails x (dropUnc hostAgent { s1 with hostq := r }))
      | .error (.wait _) s1 => s1

/-- The parts of a range of offsets that lie in one line each. -/
def linePieces (off n : Nat) : List (Nat × Nat) :=
  (span (off / 64) ((off + n - 1) / 64 + 1)).map fun l =>
    let lo := Nat.max off (64 * l)
    (lo, Nat.min (off + n) (64 * (l + 1)) - lo)

/-- A host access as accesses within a line, in order of address. -/
def hostParts (x : HostAccess) : List HostAccess :=
  match x with
  | .read off n => if n = 0 then [x] else (linePieces off n).map fun p => .read p.1 p.2
  | .write off bs => (linePieces off bs.length).map fun p => .write p.1 ((bs.drop (p.1 - off)).take p.2)
  | x => [x]

/-- `HOST_CXL_MEM_ACCESS` (R343, R274): a host access is served by the home in its turn, or reads or writes registers through the
BAR (R342); a write of host memory is the host's own; an acknowledged back-invalidation reaches its home. -/
def execHostCxlMemAccess (x : HostAccess) (s : State) : Out :=
  let q := s.hostq ++ hostParts x
  match x with
  | .hostMemWrite a bs => .next (homePoke (hostBase + a % 2 ^ 64) bs s)
  | .backInvAck line =>
    match s.net.find? (fun m => (m.kind == .inv || m.kind == .upd) && m.dst == 16 && m.line == line) with
    | some m => .next (settle (deliver m (takeMsg m s)))
    | none => .next s
  | _ => .next (serveHost q.length { s with hostq := q })

-- ## Bulk memory (R344, R345)

/-- `EXPANDER_LINK_DOWN` (R345). -/
def execExpanderLinkDown (port : Nat) (s : State) : Out :=
  if port < 2 then .next (logError 7 port 0 (mapPk (fun p => { p with expDown := insertN p.expDown port }) s)) else .next s

-- ## Signed images (R346, R347)

/-- A little-endian field of an image's header. -/
def headerField (img : SignedImage) (off n : Nat) : Nat := leNat ((img.header.drop off).take n)

/-- The DIGEST of an image. -/
def imgDigest (img : SignedImage) : BitVec 512 := BitVec.ofNat 512 (headerField img 16 64)

/-- Bytes that must be zero. -/
def allZero (l : List Byte) : Bool := l.all fun b => b == 0

/-- The minimum security version of an image kind: as fused at manufacture, or as raised since (R346). -/
def svnFloor (s : State) (kind : Nat) : Nat := Nat.max (Config.svnMin kind) ((s.pk.svn[kind]?).getD 0)

/-- Onacy's signed manufacturing command raises a minimum, never lowers it; one whose signature does not verify does nothing
(R346). -/
def raiseSvn (kind svn : Nat) (signature : List Byte) (s : State) : State :=
  if Config.ecdsaVerifies Config.onacyKey signature (Config.sha512 (Config.svnCommand kind svn)) then
    mapPk (fun p => { p with svn := p.svn.setIfInBounds kind (Nat.max ((p.svn[kind]?).getD 0) svn) }) s
  else s

/-- Why an image of a kind fails, as `BOOTST`.FWHY gives it; 0 for an image that verifies (R346, R347). `floor`: the minimum
security version of its kind. -/
def imageFault (floor kind : Nat) (img : SignedImage) : Nat :=
  if img.header.length ≠ 256 ∨ headerField img 0 4 ≠ 0x4E474953 ∨ headerField img 4 1 ≠ kind ∨ !allZero ((img.header.drop 5).take 3) ∨
      headerField img 12 4 ≠ img.body.length ∨ !allZero (img.header.drop 212) then 1
  else if Config.sha512 img.body ≠ imgDigest img then 2
  else if !Config.ecdsaVerifies Config.onacyKey ((img.header.drop 80).take 132) (Config.sha512 (img.header.take 80)) then 3
  else if headerField img 8 4 < floor then 4
  else 0

/-- The first image that fails, as KIND and FWHY. -/
def bootFault (s : State) (m q sp : SignedImage) : Option (Nat × Nat) :=
  ([(1, imageFault (svnFloor s 1) 1 m), (2, imageFault (svnFloor s 2) 2 q), (3, imageFault (svnFloor s 3) 3 sp)] :
    List (Nat × Nat)).find? fun x => x.2 != 0

/-- The measurements of the images that were verified (R349). -/
def bootMeasure (s : State) (m q sp : SignedImage) : Vector (BitVec 512) 5 :=
  let a := imageFault (svnFloor s 1) 1 m = 0
  let b := a ∧ imageFault (svnFloor s 2) 2 q = 0
  let c := b ∧ imageFault (svnFloor s 3) 3 sp = 0
  #v[Config.romMeasurement, if a then imgDigest m else 0, if b then imgDigest q else 0, if c then imgDigest sp else 0, 0]

/-- What a module reset leaves: every register and table at its reset value; memory and fuses stay (log 1). -/
def afterReset (s : State) : State :=
  { State.reset with
    mem := s.mem, poison := s.poison, softErr := s.softErr, stepNo := s.stepNo, eager := s.eager, sched := s.sched
    pk := { Package.reset with svn := s.pk.svn } }

/-- `MODULE_RESET` (R347): the images are verified in order; one that fails leaves the module in recovery. -/
def execModuleReset (mooring sequencer spool : SignedImage) (s : State) : Out :=
  let v := bootMeasure s mooring sequencer spool
  let s1 := mapPk (fun p => { p with meas := v, alias_ := v }) (afterReset s)
  match bootFault s mooring sequencer spool with
  | some x => .next (mapPk (fun p => { p with bootst := BitVec.ofNat 8 (1 + x.1 * 4 + x.2 * 32) }) s1)
  | none =>
    .next { s1 with
      spid := (Config.tablesSpid spool.body).setWidth 64
      routes := Config.tablesRoutes spool.body }

/-- A job of some sequencer is running (R228). -/
def sequencerRuns (s : State) : Bool := s.clusters.any fun c => c.2.lk.any fun j => j.state == .running && !j.swept

/-- Apply the patches held, oldest first, with their measurement (R228, R349). -/
def applyHeld (s : State) : State :=
  mapPk (fun p => { p with
    patches := []
    meas := p.patches.foldl (fun v d =>
      v.set 4 (Config.sha512 (leBytes 64 v[4].toNat ++ leBytes 64 d.toNat))) p.meas }) s

/-- `SEQUENCER_PATCH` (R228, R347): a patch that verifies is applied when no job runs, else held; one that fails is
discarded. -/
def execSequencerPatch (img : SignedImage) (s : State) : Out :=
  if imageFault (svnFloor s 4) 4 img ≠ 0 then .next s
  else
    let s1 := mapPk (fun p => { p with patches := p.patches ++ [imgDigest img] }) s
    .next (if sequencerRuns s1 then s1 else applyHeld s1)

/-- `CLUSTER_RESET` (R132, R233). -/
def execClusterReset (cl : Nat) (s : State) : Out :=
  .next (mapCluster cl (fun c => { c with
    book := resetBook
    reel := c.reel.map fun ch => { ch with next := 1 } }) s)

-- ## Attestation (R348, R349)

/-- A reply of the Responder. -/
def answer (n : Nat) (r : SpdmReply) (s : State) : State :=
  mapPk (fun p => { p with spdm := n, replies := p.replies ++ [r] }) s

/-- The measurements on which the key and the chain of a slot depend: none for the identity key, those of the boot for the
alias key (R348). -/
def slotBasis (s : State) (slot : Nat) : List (BitVec 512) := if slot = 0 then [] else s.pk.alias_.toList

/-- The chain in a certificate slot: 0 the identity chain, 1 the alias chain. -/
def chainOf (s : State) (slot : Nat) : List Byte := Config.certChain slot (slotBasis s slot)

/-- A signature with the key of a slot (R348, R349). -/
def signWith (s : State) (slot : Nat) (msg : List Byte) : List Byte :=
  Config.ecdsaSign slot (slotBasis s slot) (Config.sha512 msg)

/-- `SPDM_GET_VERSION`: the dialogue starts; version 1.3, and no other (R349). -/
def execSpdmGetVersion (s : State) : Out := .next (answer 1 (.version [0x13]) s)

/-- `SPDM_GET_CAPABILITIES`: certificates, challenges and signed measurements (R349; the bits as SPDM numbers them, log 18). -/
def execSpdmGetCapabilities (s : State) : Out :=
  if s.pk.spdm = 1 then .next (answer 2 (.capabilities 0x16) s) else .next (answer s.pk.spdm .error s)

/-- `SPDM_NEGOTIATE_ALGORITHMS`: ECDSA on P-521 and SHA-512, and no other (R349; the bits as SPDM numbers them, log 18). -/
def execSpdmNegotiateAlgorithms (baseAsym baseHash : BitVec 32) (s : State) : Out :=
  if s.pk.spdm = 2 ∧ baseAsym.getLsbD 8 ∧ baseHash.getLsbD 2 then
    .next (answer 3 (.algorithms (BitVec.ofNat 32 256) (BitVec.ofNat 32 4)) s)
  else .next (answer s.pk.spdm .error s)

/-- A request that needs the algorithms agreed. -/
def whenAgreed (ok : Bool) (r : SpdmReply) (s : State) : Out :=
  .next (answer s.pk.spdm (if s.pk.spdm = 3 ∧ ok then r else .error) s)

/-- `SPDM_GET_DIGESTS`. -/
def execSpdmGetDigests (s : State) : Out :=
  whenAgreed true (.digests [Config.sha512 (chainOf s 0), Config.sha512 (chainOf s 1)]) s

/-- `SPDM_GET_CERTIFICATE`. -/
def execSpdmGetCertificate (slot offset length : Nat) (s : State) : Out :=
  let c := chainOf s slot
  let p := (c.drop offset).take length
  whenAgreed (decide (slot < 2) && decide (offset < c.length)) (.certificate slot p (c.length - offset - p.length)) s

/-- `SPDM_CHALLENGE`: the signature, with the key of the slot, covers the nonce and the chain (log 18). -/
def execSpdmChallenge (slot : Nat) (nonce : BitVec 256) (s : State) : Out :=
  let d := Config.sha512 (chainOf s slot)
  whenAgreed (decide (slot < 2)) (.challengeAuth slot d
    (signWith s slot (leBytes 32 nonce.toNat ++ leBytes 64 d.toNat))) s

/-- The bytes of measurement blocks that a signature covers (log 18). -/
def blockBytes (l : List (Nat × BitVec 512)) : List Byte := l.flatMap fun x => BitVec.ofNat 8 x.1 :: leBytes 64 x.2.toNat

/-- `SPDM_GET_MEASUREMENTS`: one measurement by its index, all of them for index 255, or their number alone for index 0,
signed where that is asked for (log 18). -/
def execSpdmGetMeasurements (ask : MeasurementAsk) (s : State) : Out :=
  let all := s.pk.meas.toList.zipIdx.map fun x => (x.2 + 1, x.1)
  let l := if ask.index = 255 then all else all.filter fun x => x.1 == ask.index
  let sig := (ask.sign.map fun x => signWith s x.1 (leBytes 32 x.2.toNat ++ blockBytes l)).getD []
  whenAgreed ((ask.index == 0 || !l.isEmpty) && (ask.sign.map fun x => decide (x.1 < 2)).getD true) (.measurements 5 l sig) s

-- ## The test port (R350)

/-- `TEST_MODE_ENTRY` (R350): from recovery, or from reset while no record has been taken; never with a queue enabled. -/
def execTestModeEntry (s : State) : Out :=
  let idle := s.queues.toList.all fun q => !q.ctl.getLsbD 0
  let from_ := s.pk.bootst.extractLsb' 0 2 == 1#2 || s.nextFlight == 0
  if idle && from_ then .next (mapPk (fun p => { p with bootst := (p.bootst.extractLsb' 2 6).append 2#2 }) s) else .next s

-- ## Power and cooling (R351 to R354)

/-- A field of `PWRST`. -/
def setPwrst (lo w x : Nat) (s : State) : State := mapPk (fun p => { p with pwrst := BitVec.ofNat 25 (setField p.pwrst.toNat lo w x) }) s

/-- The arithmetic clock in MHz. -/
def clockMhz (s : State) : Nat := bits s.pk.pwrst.toNat 23 12

/-- The clock steps down, to no lower than 800 MHz. -/
def slower (s : State) : State := setPwrst 12 12 (Nat.max 800 (clockMhz s - 100)) s

/-- The power limit in force (R351). -/
def capWatts (s : State) : Nat := Nat.min 1500 (bits s.pk.pwrcap.toNat 11 0)

/-- `POWER_MEASUREMENT` (R352): the measured power, and a step of the clock unless throttling holds it. -/
def execPowerMeasurement (watts : BitVec 12) (s : State) : Out :=
  let s1 := setPwrst 0 12 watts.toNat s
  if !s.pk.pwrcap.getLsbD 12 || s.pk.pwrst.getLsbD 24 then .next s1
  else if capWatts s < watts.toNat then .next (slower s1)
  else if 100 * watts.toNat < 95 * capWatts s then .next (setPwrst 12 12 (Nat.min 1800 (clockMhz s1 + 100)) s1)
  else .next s1

/-- `THERMAL_THROTTLE` (R354): one step of throttling. -/
def execThermalThrottle (s : State) : Out := .next (setPwrst 24 1 1 (slower s))

/-- `THERMAL_THROTTLE_END` (R354). -/
def execThermalThrottleEnd (s : State) : Out := .next (setPwrst 24 1 0 s)

/-- Bulk and host memory, which outlive a loss of this module's power (R354), and the memory of other modules. -/
def keepsPower (s : State) (key : Nat) : Bool :=
  decide (hostBase ≤ key) ||
    decide (key < 2 ^ 52) && (decide (0x10000000000 ≤ moduleOffset key) || key / 2 ^ 43 != myModule s)

/-- What a loss of power leaves (R354): bulk and host memory, and the fuses. -/
def powerLost (s : State) : State :=
  { State.reset with
    mem := s.mem.filter fun c => keepsPower s c.1
    poison := s.poison.filter fun u => keepsPower s (if 2 ^ 52 ≤ u then u else 32 * u)
    pk := { Package.reset with svn := s.pk.svn }
    stepNo := s.stepNo, eager := s.eager, sched := s.sched, powered := false }

/-- `THERMAL_TRIP` (R354): the power is cut, and every state outside bulk and host memory is lost. -/
def execThermalTrip (s : State) : Out := .next (powerLost s)

/-- A power cycle: the module has its power again, and goes through a module reset (R347, R354). -/
def restored (s : State) : State := { powerLost s with powered := true }

end Sys2Proof.Machine
end

