-- ==== Sys2Proof/Machine/Fabric.lean ====
section
/-! DEFINITION. The fabric: Spool links, group tables, multicast stores, reducing loads, and the Bridle (R356 to R374). -/

namespace Sys2Proof.Machine

-- ## Links (R357 to R359)

/-- A Spool port goes down; what was in flight takes another route (R357, R358). -/
def portDown (port : Nat) (s : State) : State :=
  mapPk (fun p => { p with ports := p.ports &&& ~~~BitVec.ofNat 16 (2 ^ port), naks := p.naks.filter fun x => x.1 != port }) s

/-- `SPOOL_LINK_DOWN` (R357, R358): the link has lost lock. -/
def execSpoolLinkDown (port : Nat) (s : State) : Out := .next (if port < 16 then portDown port s else s)

/-- `FLIT_NAK` (R357): a replay of a port has failed; the sixteenth in a row takes the link down. -/
def execFlitNak (port : Nat) (s : State) : Out :=
  if port < 16 then
    let n := findD s.pk.naks port 0 + 1
    .next (if n < 16 then mapPk (fun p => { p with naks := putK p.naks port n }) s else portDown port s)
  else .next s

/-- A replay of a port has succeeded: the failures after it are counted anew (R357). -/
def replayDone (port : Nat) (s : State) : State := mapPk (fun p => { p with naks := p.naks.filter fun x => x.1 != port }) s

/-- `REMOTE_TIMEOUT` (R359): the next access to a module goes unanswered. -/
def execRemoteTimeout (module : Nat) (s : State) : Out :=
  .next (if module = myModule s then s else { s with silent := insertN s.silent module })

-- ## Group tables (R361, R362)

/-- A group that nothing has installed (R361). -/
def Group.empty : Group := { mem := 0, ctl := 0 }

/-- A group's entry. -/
def groupAt (s : State) (k : Nat) : Group := findD s.groups k Group.empty

/-- GO of `SPGCTL`. -/
def spgGo (s : State) : Bool := s.spgCtl.getLsbD 18

/-- A write of `SPGSEL` (R361): the group's entry is loaded; ignored while GO reads 1. -/
def writeSpgsel (v : Word) (s : State) : State :=
  if spgGo s then s
  else
    let g := groupAt s (v.toNat % 4096)
    { s with
      spgSel := word (v.toNat % 4096)
      spgMem := Vector.ofFn fun (j : Fin 8) => g.mem.extractLsb' (64 * j.val) 64
      spgCtl := word (g.ctl.toNat + b2n (s.spgCtl.getLsbD 19) * 2 ^ 19) }

/-- `SPGSEL_WRITE` (R361). -/
def execSpgselWrite (v : Word) (s : State) : Out := .next (writeSpgsel v s)

/-- A write of `SPGMEMj` (R361). -/
def writeSpgmem (j : Nat) (v : Word) (s : State) : State :=
  if spgGo s then s else { s with spgMem := s.spgMem.setIfInBounds j v }

/-- The member bits in the data registers. -/
def spgMembers (s : State) : BitVec 512 :=
  BitVec.ofNat 512 ((s.spgMem.toList.zipIdx.map fun x => x.1.toNat * 2 ^ (64 * x.2)).sum)

/-- An install is refused: ROP = 3 with RD set, or V = 1 with no member (R361). -/
def installBad (ctl : Nat) (mem : BitVec 512) : Bool := (bit ctl 2 && bits ctl 5 4 == 3) || (bit ctl 0 && mem == 0)

/-- A write of `SPGCTL` (R361): GO = 1 installs the data registers as the group's entry. -/
def writeSpgctl (v : Word) (s : State) : State :=
  if spgGo s then s
  else
    let c := v.toNat % 2 ^ 18
    if !v.getLsbD 18 then { s with spgCtl := word (c + b2n (s.spgCtl.getLsbD 19) * 2 ^ 19) }
    else if installBad c (spgMembers s) then { s with spgCtl := word (c + 2 ^ 19) }
    else
      { s with
        spgCtl := word (c + 2 ^ 18)
        groups := putK s.groups (s.spgSel.toNat % 4096) { mem := spgMembers s, ctl := BitVec.ofNat 18 c } }

/-- An install by another module of the domain, the last one so far in the order of the group's installs, stands in this module's router
(R362). -/
def installFrom (k : Nat) (g : Group) (s : State) : State :=
  if installBad g.ctl.toNat g.mem then s else { s with groups := putK s.groups (k % 4096) g }

/-- `GROUP_INSTALL` (R361, R362). -/
def execGroupInstall (v : Word) (s : State) : Out := .next (writeSpgctl v s)

/-- A group with its entry as one number, as a multicast store or reducing load in progress holds it. -/
def groupCode (k : Nat) (g : Group) : Nat := g.mem.toNat + 2 ^ 512 * (g.ctl.toNat + 2 ^ 18 * k)

/-- An operation of a group is under way: of the Bridle, or a multicast store or reducing load (R362). -/
def groupBusy (s : State) (k : Nat) : Bool :=
  s.clusters.any (fun c => c.2.ops.any fun o => bits o.grp.toNat 11 0 == k) ||
    s.parts.any fun x => decide (x.1 < 2 ^ 18) && (x.2.head?.map fun y => decide (2 ^ 512 ≤ y) && y / 2 ^ 530 == k).getD false

/-- The version of a group that an operation of a strand uses: the one in force when it issued (R362). -/
def heldGroup (s : State) (a k : Nat) : Group :=
  match findD s.parts a [] with
  | x :: _ => { mem := BitVec.ofNat 512 x, ctl := BitVec.ofNat 18 (x / 2 ^ 512) }
  | [] => groupAt s k

/-- `GROUP_INSTALL_COMPLETE` (R362): GO clears when no operation may still use the older version. -/
def execGroupInstallComplete (s : State) : Out :=
  if spgGo s && !groupBusy s (s.spgSel.toNat % 4096) then
    .next { s with spgCtl := word (setField s.spgCtl.toNat 18 1 0) }
  else .next s

/-- The members of an entry, by module number (R361). -/
def membersOf (g : Group) : List Nat := (List.range 512).filter fun k => g.mem.getLsbD k

/-- An entry may be used: V, the bit of the use, and the address space (R361, R363, R368). -/
def groupUsable (g : Group) (useBit asid : Nat) : Bool :=
  g.ctl.getLsbD 0 && g.ctl.getLsbD useBit && bits g.ctl.toNat 17 6 == asid

-- ## Multicast store (R363, R364)

/-- The fault code that a member gives a write as it arrives, as `MCERR` counts it: a reserved offset, an RO or a ONCE range (R364,
R366). -/
def memberFault (s : State) (cl key : Nat) : Nat :=
  if !isMemory (moduleOffset key) then 1
  else
    match ruledSlot s cl (key / 64) with
    | some k => if k = 5 then 1 else 3
    | none => 0

/-- The code in `MCERR` of a fault that a member's home finds (R366). -/
def memberCode : Cause → Nat
  | .remote => 2
  | .writeOnce => 3
  | _ => 1

/-- Record a failure at a member in `MCERR` while EV = 0 (R364). -/
def noteMember (cause k : Nat) : State → State :=
  mapStrand fun t => if t.mcerr.getLsbD 4 then t else { t with mcerr := word (cause + 2 ^ 4 + k * 2 ^ 5) }

/-- The write of a multicast store at one member: a phase-free write at its home slice, ordered after the strand's own stores to the
bytes; a failure is recorded, and the write not performed (R363, R364). -/
def memberWrite (a : Nat) (w : Who) (off : Nat) (bs : List Byte) (va : Word) (k : Nat) : M Nat := fun s0 =>
  let key := k * 2 ^ 43 + off
  if !reachable s0 key then .ok 0 (noteMember 2 k (giveUp key s0))
  else
    let s := learnSlot w.cl (key / 64) s0
    let f := if underWay s (key / 64) a then 0 else memberFault s w.cl key
    if f ≠ 0 then .ok 0 (noteMember f k s)
    else
      match phaseFreeAt false a w ⟨key, .dev 0⟩ bs.length va (fun _ => some (leNat bs)) s with
      | .ok _ s1 => .ok 0 s1
      | .error (.trap c _) s1 => .ok 0 (noteMember (memberCode c) k s1)
      | .error (.wait z) s1 => .error (.wait z) s1

/-- The range check of a multicast store at its own address, made once, as it issues (R85, R363). -/
def rangeCheck (a : Nat) (w : Who) (p : Place) (va : Word) : M Unit := fun s0 =>
  let s := learnPlace w.cl p s0
  match (if s.parts.any fun x => x.1 == a then none else phaseFreeFault w p s) with
  | some c => .error (.trap c va) s
  | none => .ok () s

/-- The checks that `mcst` and `rld` share (R363): the group register, the access, and the group's entry. -/
def groupAccess (i : Instr) (n useBit : Nat) (acc : Acc) (accepts : Group → Bool) (va b : Word) : M (Group × Nat) := do
  illegalIf (b.toNat / 2 ^ 12 != 0) i
  let me' ← ask me
  let g ← ask fun s => heldGroup s me' b.toNat
  illegalIf (!accepts g) i
  let w ← ask whoAmI
  let p ← checkAccess w va n acc
  if acc = .store then rangeCheck me' w p va
  let asid ← ask fun s => asidOf (queueAt s s.strand.queue)
  trapIf (!groupUsable g useBit asid || (match p.space with
    | .dev _ => false
    | _ => true)) .protection va
  pure (g, moduleOffset p.key)

/-- Do a multicast store's or a reducing load's access at each member in rank order, each once; the entry that it uses is held while one
waits (R362, R363; log 3). Answers what the members answered. -/
def eachMember (a k : Nat) (g : Group) (f : Nat → M Nat) : M (List Nat) := fun s =>
  let ms := membersOf g
  match eachWith a (1 + ms.length) (fun _ i => if i = 0 then fun s => .ok (groupCode k g) s else f (nthD ms (i - 1) 0)) s with
  | .ok vs s1 => .ok (vs.drop 1) s1
  | .error e s1 => .error e s1

/-- `mcst` (R363, R364). -/
def execMcst (g : Guard) (ty : Ty) (d a b : BitVec 5) (off : BitVec 24) (s : State) : Out :=
  plainOp g [d, a, b] [] [] (do
    fenceWait
    let t ← ask fun s => s.strand
    let va := effAddr t a off
    let x ← groupAccess (.mcst g ty d a b off) ty.bytes 1 .store (fun _ => true) va (getS t b)
    let me' ← ask me
    let w ← ask whoAmI
    let _ ← eachMember me' (getS t b).toNat x.1 (memberWrite me' w x.2 (leBytes ty.bytes (getS t d).toNat) va)) s

-- ## Reducing load (R365)

/-- One combination of two values (R365): RED 0 sum, 1 min, 2 max. -/
def combine (red : Nat) (ty : Ty) (x y : Nat) : FpRes :=
  match red with
  | 0 => if ty = .f32 then fpAdd (fmtOf .f32) .rne x y else ((x + y) % 2 ^ ty.width, flNone)
  | 1 => (intPick ty false x y, flNone)
  | _ => (intPick ty true x y, flNone)

/-- One level of the tree (R365). -/
def treeLevel (op : Nat → Nat → FpRes) : List Nat → List Nat × BitVec 6
  | x :: y :: r =>
    let z := op x y
    let q := treeLevel op r
    (z.1 :: q.1, z.2 ||| q.2)
  | l => (l, flNone)

/-- The tree over the members' values in rank order (R365); 13 levels serve 8,192 members. -/
def treeOver (op : Nat → Nat → FpRes) : Nat → List Nat → FpRes
  | 0, l => (l.headD 0, flNone)
  | n + 1, l =>
    if l.length ≤ 1 then (l.headD 0, flNone)
    else
      let q := treeLevel op l
      let r := treeOver op n q.1
      (r.1, q.2 ||| r.2)

/-- The reduction of values in rank order (R365): a NaN result is canonical, a signalling NaN raises NV. -/
def reduceTree (red : Nat) (ty : Ty) (l : List Nat) : FpRes :=
  let r := treeOver (combine red ty) 13 l
  if ty = .f32 then (canon (fmtOf .f32) r.1, r.2 ||| snanFlag (fmtOf .f32) l) else r

/-- The type is accepted for a reduction (R363, R367). -/
def redAccepts (red : Nat) (ty : Ty) : Bool :=
  ty == .i32 || ty == .i64 || ty == .n32 || ty == .n64 || (ty == .f32 && red == 0)

/-- The value of one member for a reducing load: a phase-free read at its home slice (R363, R365). -/
def memberRead (a : Nat) (w : Who) (off n : Nat) (va : Word) (k : Nat) : M Nat := phaseFreeRead a w ⟨k * 2 ^ 43 + off, .dev 0⟩ n va

/-- `rld` (R363, R365). -/
def execRld (g : Guard) (ty : Ty) (d a b : BitVec 5) (off : BitVec 24) (s : State) : Out :=
  plainOp g [a, b] [d] [] (do
    fenceWait
    let t ← ask fun s => s.strand
    let va := effAddr t a off
    let x ← groupAccess (.rld g ty d a b off) ty.bytes 2 .load (fun q => redAccepts (bits q.ctl.toNat 5 4) ty) va (getS t b)
    let me' ← ask me
    let w ← ask whoAmI
    let vs ← eachMember me' (getS t b).toNat x.1 (memberRead me' w x.2 ty.bytes va)
    let r := reduceTree (bits x.1.ctl.toNat 5 4) ty vs
    addFlags r.2
    wrS d (toReg ty r.1)) s

-- ## The Bridle: launching (R367, R368)

/-- The operation code of `COLCTL`. -/
def colOp (ctl : Word) : Nat := bits ctl.toNat 2 0
/-- RED. -/
def colRed (ctl : Word) : Nat := bits ctl.toNat 4 3
/-- TY as a code. -/
def colTyCode (ctl : Word) : Nat := bits ctl.toNat 8 5
/-- TY. -/
def colTy (ctl : Word) : Ty := (tyOf (BitVec.ofNat 4 (colTyCode ctl))).getD .i32
/-- ROOT. -/
def colRoot (ctl : Word) : Nat := bits ctl.toNat 21 9
/-- L in bytes. -/
def colLen (ctl : Word) : Nat := 16 * bits ctl.toNat 63 38

/-- A reserved field or value of `COLCTL` or `COLGRP` (R367, R368). -/
def colBad (ctl grp : Word) : Bool :=
  let reduces := colOp ctl == 1 || colOp ctl == 2
  decide (3 < colOp ctl) || colRed ctl == 3 || grp.toNat / 2 ^ 29 != 0 || colLen ctl == 0 ||
    (!reduces && (colRed ctl != 0 || colTyCode ctl != 0)) || (colOp ctl != 3 && colRoot ctl != 0) ||
    (reduces && !((tyOf (BitVec.ofNat 4 (colTyCode ctl))).map (redAccepts (colRed ctl))).getD false)

/-- This module's domain (R356). -/
def myDomain (s : State) : Nat := bits s.spid.toNat 12 9

/-- The domains that take part in a collective (R368, R374). -/
def colDomains (s : State) (grp : Word) : List Nat :=
  if grp.getLsbD 28 then (List.range 16).filter fun d => bit grp.toNat (12 + d) else [myDomain s]

/-- The members of a group in a domain, where it exists there (R374). -/
def domainMembers (s : State) (g : Group) (grp : Word) (d : Nat) : Option (List Nat) :=
  if d = myDomain s then some (membersOf g)
  else (Config.domainGroup s.stepNo d (bits grp.toNat 11 0)).map fun m => membersOf { g with mem := m }

/-- The group exists in every domain that takes part (R374). -/
def groupEverywhere (s : State) (g : Group) (grp : Word) : Bool := (colDomains s grp).all fun d => (domainMembers s g grp d).isSome

/-- The members of a collective by global number, in rank order: those of each domain (R368, R374). -/
def colMembers (s : State) (g : Group) (grp : Word) : List Nat :=
  (colDomains s grp).flatMap fun d => ((domainMembers s g grp d).getD []).map fun k => 512 * d + k

/-- This module's global number (R374). -/
def myGlobal (s : State) : Nat := s.spid.toNat % 2 ^ 13

/-- Bytes read at SRC (R368). -/
def colReads (ctl : Word) (k r : Nat) : Nat :=
  match colOp ctl with
  | 1 => k * colLen ctl
  | 3 => if r = colRoot ctl then colLen ctl else 0
  | _ => colLen ctl

/-- Bytes written at DST (R368). -/
def colWrites (ctl : Word) (k : Nat) : Nat := if colOp ctl = 0 then k * colLen ctl else colLen ctl

/-- A Bridle part as the maker of an access, in its issuer's context: it is no agent of the cluster, and forwarding pairs do not
redirect it (R199, R252). -/
def bridleWho (cl : Nat) (b : Issuer) : Who := { engineWho cl b false with co := bridleSide }

/-- What a launch takes along: the part reads every store that the issuer has published by the release of issue (R199). -/
def takeAlong (a to_ : Nat) (l : List PStore) : List PStore :=
  l.map fun p => if releases a p && decide (2 ≤ p.lvl) && !p.takers.contains to_ then { p with takers := to_ :: p.takers } else p

/-- Append an operation to the Bridle and the sequencer; answers its ID (R368). -/
def appendOp (cl : Nat) (ms : List Nat) (s : State) : BitVec 32 × State :=
  let t := s.strand
  let b := issuerNow s
  let r := ms.findIdx fun m => m == myGlobal s
  let (info, s1) := receive cl (asidOf (queueAt s b.queue)) [flatFoot t.colsrc (colReads t.colctl ms.length r)]
    [flatFoot t.coldst (colWrites t.colctl ms.length)] s
  let c := clusterAt s1 cl
  let s2 := { s1 with stores := takeAlong (me s) (bridleAgent cl) s1.stores }
  let o : BridleOp :=
    { id := c.opNext, by_ := b, seq := info, src := t.colsrc, dst := t.coldst, grp := t.colgrp, ctl := t.colctl, members := ms,
      peers := none, written := [], ecause := 0, stop := false, lines := [], wait := none, cancel := false }
  (c.opNext, putCluster s2 cl { c with opNext := c.opNext + 1, ops := c.ops ++ [o] })

/-- The launch that a read of `COLGO` makes (R368). DESIGN CHOICE: a collective that names a domain without the group is refused as one
whose group is not usable here, since R374 gives no other outcome (log 94). -/
def launchCollective (head : Word) (d : BitVec 5) : M Unit := do
  let t ← ask fun s => s.strand
  waitIf (!t.vq.isEmpty) .drain
  trapIf (colBad t.colctl t.colgrp) .illegal head
  trapIf (t.colsrc.toNat % 16 != 0) .misaligned t.colsrc
  trapIf (t.coldst.toNat % 16 != 0) .misaligned t.coldst
  let g ← ask fun s => groupAt s (bits t.colgrp.toNat 11 0)
  let ms ← ask fun s => colMembers s g t.colgrp
  let asid ← ask fun s => asidOf (queueAt s t.queue)
  let inside ← ask fun s => ms.contains (myGlobal s)
  let everywhere ← ask fun s => groupEverywhere s g t.colgrp
  trapIf (!groupUsable g 3 asid || !inside || !everywhere) .protection t.colgrp
  let cl ← ask myCluster
  let full ← ask fun s => decide (16 ≤ (clusterAt s cl).ops.length)
  waitIf full .engine
  releaseAt .cl
  let id ← fun s =>
    let r := appendOp cl ms s
    .ok r.1 r.2
  wrS d (id.setWidth 64)

/-- `BRIDLE_LAUNCH` (R368): the acting strand reads `COLGO`. -/
def execBridleLaunch (d : BitVec 5) (s : State) : Out :=
  plainOp ⟨0, false, false⟩ [] [d] [] (launchCollective (headWord (.csrrd ⟨0, false, false⟩ d 0x510)) d) s

/-- `COLLOW` (R237, R368). -/
def colLow (c : ClusterState) : BitVec 32 := (c.ops.head?.map fun o => o.id).getD c.opNext

/-- `colwait` (R371). -/
def execColwait (g : Guard) (sc : Scope) (d a : BitVec 5) (s : State) : Out :=
  plainOp g [a] [d] [] (do
    illegalIf (decide (scopeNum sc < 2)) (.colwait g sc d a)
    let id ← ask fun s => (getS s.strand a).setWidth 32
    let c ← ask fun s => clusterAt s (myCluster s)
    waitIf (isPending (colLow c) c.opNext id) .engine
    acquireAt sc
    let e ← ask fun s => s.strand.colerr
    wrS d e) s

-- ## The Bridle: running (R369 to R373)

/-- An operation of a cluster by its ID. -/
def opAt (s : State) (cl id : Nat) : Option BridleOp := (clusterAt s cl).ops.find? fun o => o.id.toNat == id
/-- Change an operation. -/
def mapOp (cl id : Nat) (f : BridleOp → BridleOp) : State → State :=
  mapCluster cl fun c => { c with ops := c.ops.map fun o => if o.id.toNat = id then f o else o }

/-- The rank of this module in an operation. -/
def rankOf (s : State) (o : BridleOp) : Nat := o.members.findIdx fun m => m == myGlobal s

/-- The parts of the collective that an operation belongs to, by TAG (R367). -/
def partsOf (o : BridleOp) (peers : List PeerPart) : List PeerPart := peers.filter fun p => p.tag == bits o.ctl.toNat 37 22

/-- Every part of the collective is announced (R369). -/
def allAnnounced (s : State) (o : BridleOp) (peers : List PeerPart) : Bool :=
  (List.range o.members.length).all fun r => r == rankOf s o || peers.any fun p => p.rank == r

/-- The parts agree on OP, RED, TY, ROOT and L (R369). -/
def partsAgree (o : BridleOp) (peers : List PeerPart) : Bool :=
  peers.all fun p => p.op == colOp o.ctl && p.red == colRed o.ctl && p.ty == colTyCode o.ctl && p.root == colRoot o.ctl &&
    p.len == colLen o.ctl

/-- Note the first error of a part (R372). -/
def noteOp (cl id cause : Nat) (stop : Bool) : State → State :=
  mapOp cl id fun o => { o with ecause := if o.ecause = 0 then cause else o.ecause, stop := o.stop || stop }

/-- A part starts: it takes in every store published at `pk` by now (R199). -/
def startPart (cl : Nat) (s : State) : State := acquireLines (bridleAgent cl) cl (scopeNum .pk) s

/-- `COLLECTIVE_CHECK` (R367, R369): once every part is there, they are compared before any byte moves. -/
def execCollectiveCheck (cl id : Nat) (announced : List PeerPart) (s : State) : Out :=
  match opAt s cl id with
  | some o =>
    let peers := partsOf o announced
    if o.seq.disp && !o.stop && o.peers.isNone && allAnnounced s o peers then
      if partsAgree o peers then .next (mapOp cl id (fun o => { o with peers := some peers }) (startPart cl s))
      else .next (noteOp cl id 4 true s)
    else .next s
  | none => .next s

/-- Sixteen bytes of this module's source at an offset, and bit 128 for bytes with an uncorrectable error (R368, R372). -/
def ownGranule (cl : Nat) (o : BridleOp) (off : Nat) : M Nat := do
  let va := o.src + word off
  let w := bridleWho cl o.by_
  let p ← checkAccess w va 16 .load
  notCore p va
  mustAnswer p va
  let x ← engineRead (bridleAgent cl) w p 16 va
  pure (x.1 % 2 ^ 128 + b2n x.2 * 2 ^ 128)

/-- Sixteen bytes of a rank's source at an offset, and whether they are uncorrectable: what has been read of this module's own, or what
the peer announced; bytes that a peer's data lacks were uncorrectable there (R360). -/
def rankBytes (s : State) (own : Nat) (me' : Nat) (peers : List PeerPart) (off r : Nat) : List Byte × Bool :=
  if r = me' then (leBytes 16 own, bit own 128)
  else
    match peers.find? (fun p => p.rank == r) with
    | some p => ((List.range 16).map (fun k => nthD p.data (off + k) 0), decide (p.data.length < off + 16))
    | none => ((List.range 16).map (fun k => Config.freeByte s.stepNo k), false)

/-- The ranks that a granule takes bytes from, and the offset in their source (R368). -/
def granuleFrom (o : BridleOp) (me' g : Nat) : List Nat × Nat :=
  let l := colLen o.ctl
  match colOp o.ctl with
  | 0 => ([16 * g / l], 16 * g % l)
  | 1 => (List.range o.members.length, me' * l + 16 * g)
  | 2 => (List.range o.members.length, 16 * g)
  | _ => ([colRoot o.ctl], 16 * g)

/-- What a granule reads of this module's own source: the offsets, that of its own value first. A reduce-scatter reads there what the
granules of every other rank take as well, the whole of its read footprint over its granules (R368, R372). -/
def granuleReads (o : BridleOp) (me' g : Nat) : List Nat :=
  let x := granuleFrom o me' g
  if !x.1.contains me' then []
  else if colOp o.ctl = 1 then
    x.2 :: ((List.range o.members.length).filter fun r => r != me').map fun r => r * colLen o.ctl + 16 * g
  else [x.2]

/-- The final value of a granule (R368, R369). -/
def granuleValue (o : BridleOp) (xs : List (List Byte)) : List Byte :=
  if colOp o.ctl = 1 ∨ colOp o.ctl = 2 then
    let n := (colTy o.ctl).bytes
    (List.range (16 / n)).flatMap fun e =>
      leBytes n (reduceTree (colRed o.ctl) (colTy o.ctl) (xs.map fun b => leNat ((b.drop (n * e)).take n))).1
  else xs.headD []

/-- A write that is not answered ends the part; whether it has taken effect is free (R359; log 14). -/
def answeredWrite (p : Place) (va : Word) (bs : List Byte) (bad : Bool) : M Unit := fun s =>
  if reachable s p.key then .ok () s
  else
    let s1 := if lostWrite s p.key then homePoke p.key bs s else s
    .error (.trap .remote va) (giveUp p.key (if lostWrite s p.key && bad then poisonBytes p.key 16 s1 else s1))

/-- The place of a destination granule (R368). -/
def granulePlace (cl : Nat) (o : BridleOp) (g : Nat) : M Place := do
  let va := o.dst + word (16 * g)
  let p ← checkAccess (bridleWho cl o.by_) va 16 .store
  notCore p va
  pure p

/-- The range check of a destination granule (R270). -/
def checkGranule (cl id : Nat) (o : BridleOp) (bs : List Byte) (bad : Bool) (g : Nat) : M Unit := do
  let va := o.dst + word (16 * g)
  let p ← granulePlace cl o g
  answeredWrite p va bs bad
  engineCheck (bridleAgent cl) (bridleWho cl o.by_) p (fun s => ((opAt s cl id).map fun o => o.lines).getD [])
    (fun l => mapOp cl id fun o => { o with lines := l :: o.lines }) va

/-- The Bridle writes a destination granule (R370). -/
def putGranule (cl id : Nat) (o : BridleOp) (bs : List Byte) (bad : Bool) (g : Nat) : M Unit := do
  let va := o.dst + word (16 * g)
  let w := bridleWho cl o.by_
  let p ← granulePlace cl o g
  answeredWrite p va bs bad
  if bad then
    writePoison (bridleAgent cl) cl p bs
    change (noteOp cl id 3 false)
  else engineWrite (bridleAgent cl) w p bs va
  match p.space with
  | .clScratch _ => change (setGranule cl ((va.toNat - 0x00FFFFFF00000000) / 16) true)
  | _ => pure ()
  change (mapOp cl id fun o => { o with written := insertN o.written g })

/-- The error cause of a trap that the Bridle's access meets (R366, R372). -/
def colCause : Cause → Nat
  | .remote => 2
  | .dataError => 3
  | _ => 1

/-- The granules of an operation's destination. -/
def granulesOf (o : BridleOp) : Nat := colWrites o.ctl o.members.length / 16

/-- What a part has gathered for the granules it works on. -/
def partKey (cl id : Nat) : Nat := 2 ^ 40 + cl * 2 ^ 32 + id

/-- A part forgets what it has gathered, and no access of its cluster's Bridle stays under way for it. -/
def leavePart (cl id : Nat) (s : State) : State :=
  let s1 := dropUnc (bridleAgent cl) s
  { s1 with parts := s1.parts.filter fun x => x.1 / 2 ^ 40 != partKey cl id }

/-- What comes of the work on a granule: a page fault goes to Mooring, another error ends the part (R372). -/
def afterGranule (cl id : Nat) (o : BridleOp) (r : EStateM.Result Stop State Unit) : State :=
  match r with
  | .ok _ s1 => s1
  | .error (.wait _) s1 => s1
  | .error (.trap c v) s1 =>
    if isPageFault c then
      queueFault v (causeAcc c) o.seq.asid o.by_.strand (.bridle cl id)
        (mapOp cl id (fun o => { o with wait := some (s1.faultNo % 2 ^ 16) }) (dropUnc (bridleAgent cl) s1))
    else noteOp cl id (colCause c) true s1

/-- The final value of a granule, from what has been read of this module's own source, and whether it is uncorrectable. -/
def granuleResult (s : State) (o : BridleOp) (peers : List PeerPart) (g : Nat) (own : List Nat) : List Byte × Bool :=
  let me' := rankOf s o
  let x := granuleFrom o me' g
  let xs := x.1.map (rankBytes s (own.headD 0) me' peers x.2)
  (granuleValue o (xs.map fun y => y.1), xs.any fun y => y.2)

/-- The work on a granule, step by step, each done once (R370): the reads of this module's own source, the check of the destination, and
the write. An uncorrectable error in what only other ranks take is noted here too (R372). -/
def workGranule (cl id : Nat) (o : BridleOp) (peers : List PeerPart) (g : Nat) : M Unit := do
  let me' ← ask fun s => rankOf s o
  let rs := granuleReads o me' g
  let _ ← eachWith (partKey cl id * 2 ^ 40 + g) (rs.length + 2) fun got i =>
    if i < rs.length then ownGranule cl o (nthD rs i 0)
    else do
      let x ← ask fun s => granuleResult s o peers g got
      if i = rs.length then
        checkGranule cl id o x.1 x.2 g
        pure 0
      else
        if (got.take rs.length).any fun v => bit v 128 then change (noteOp cl id 3 false)
        putGranule cl id o x.1 x.2 g
        pure 0

/-- `COLLECTIVE_GRANULE` (R370): a destination granule is written once, with its final value. -/
def execCollectiveGranule (cl id : Nat) (granule : Nat) (s : State) : Out :=
  match opAt s cl id with
  | some o =>
    match o.peers with
    | some peers =>
      if !o.stop && !o.cancel && o.wait.isNone && !o.written.contains granule && decide (granule < granulesOf o) then
        .next (afterGranule cl id o (workGranule cl id o peers granule s))
      else .next s
    | none => .next s
  | none => .next s

/-- Record a part's error with its issuer while `COLERR.EV` is 0 (R372). -/
def recordOp (o : BridleOp) (s : State) : State :=
  if o.ecause = 0 then s
  else
    atStrand o.by_.crew o.by_.idx (fun t =>
      if t.colerr.getLsbD 4 then t else { t with colerr := word (o.ecause + 2 ^ 4 + o.id.toNat * 2 ^ 32) }) s

/-- A part has nothing left to do. -/
def opDone (o : BridleOp) : Bool := o.stop || (o.peers.isSome && (List.range (granulesOf o)).all fun g => o.written.contains g)

/-- `COLLECTIVE_COMPLETE` (R370): the part publishes its writes at `dm`, records its error, and is complete. A line whose home does not
answer is an error of the part (R359, R372). -/
def execCollectiveComplete (cl id : Nat) (s0 : State) : Out :=
  match opAt s0 cl id with
  | some o =>
    let s := if o.stop then leavePart cl id s0 else s0
    if opDone o && o.wait.isNone then
      match releaseFor (bridleAgent cl) .dm s with
      | .error (.wait _) s1 => .next s1
      | .error (.trap _ _) s1 => .next (noteOp cl id 2 false s1)
      | .ok _ s1 => .next (recordOp o (mapCluster cl (fun c => { c with ops := c.ops.filter fun x => x.id.toNat != id }) s1))
    else .next s
  | none => .next s0

/-- `COLLECTIVE_FAIL` (R372, R373): a part ends with a cause: a peer lost, a peer's part failed, or its flight was cancelled. -/
def execCollectiveFail (cl id : Nat) (ecause : BitVec 4) (s : State) : Out :=
  match opAt s cl id with
  | some o =>
    if o.stop || ecause == 0 then .next s
    else
      let s1 := { s with faultq := s.faultq.filter fun f => !(f.who == .bridle cl id) }
      .next (noteOp cl id ecause.toNat true (mapOp cl id (fun o => { o with wait := none }) s1))
  | none => .next s

end Sys2Proof.Machine
end

