-- ==== Sys2Proof/Machine/Csr.lean ====
section
/-! DEFINITION. The CSRs and the four CSR instructions (R14 to R17, R90, R91, R208, R223, R224, R230 to R233, R321, R366). -/

namespace Sys2Proof.Machine

-- ## Numbers (R15, R16, R208, R230, R321, R366)

/-- The number names a CSR. -/
def csrAssigned (n : Nat) : Bool :=
  decide (n ≤ 3) || (decide (8 ≤ n) && decide (n ≤ 9)) || (decide (0x10 ≤ n) && decide (n ≤ 0x12)) ||
    (decide (0x100 ≤ n) && decide (n ≤ 0x105)) || (decide (0x200 ≤ n) && decide (n ≤ 0x205)) ||
    (decide (0x300 ≤ n) && decide (n ≤ 0x307)) || (decide (0x310 ≤ n) && decide (n ≤ 0x313)) ||
    (decide (0x318 ≤ n) && decide (n ≤ 0x31B)) || (decide (0x380 ≤ n) && decide (n ≤ 0x382)) ||
    (decide (0x400 ≤ n) && decide (n ≤ 0x402)) || (decide (0x500 ≤ n) && decide (n ≤ 0x503)) ||
    (decide (0x506 ≤ n) && decide (n ≤ 0x507)) || (decide (0x510 ≤ n) && decide (n ≤ 0x511))

/-- The checks of a CSR access, made before the guard (R14). -/
def csrCheck (i : Instr) (n : Nat) : M Unit := fun s =>
  if !csrAssigned n then .error (.trap .illegal (headWord i)) s
  else if 0x100 ≤ n ∧ n ≤ 0x1FF ∧ !priv s.strand then .error (.trap .privileged (headWord i)) s
  else .ok () s

/-- `CPGO0` to `CPGO3` and `COLGO`, whose reads launch work (R233, R368). -/
def csrLaunches (n : Nat) : Bool := (decide (0x310 ≤ n) && decide (n ≤ 0x313)) || n == 0x510

-- ## Reading

/-- The shadow set that CH names (R229). -/
def copySetOf (t : Strand) : CopySet := t.cps[t.ch.toNat]

/-- The fields of `CPCTL` (R231). -/
def cpctlOf (t : Strand) : Nat :=
  let q := copySetOf t
  t.ch.toNat + q.esz * 2 ^ 2 + b2n q.fe * 2 ^ 4 + q.cscp * 2 ^ 5

/-- `TICKST` (R321). -/
def tickst (s : State) : Nat := b2n s.ws.lock + clockSource s * 2 + s.ws.steps.toNat * 2 ^ 16

/-- `VCP` (R21). -/
def vcpOf (t : Strand) : Word := (t.vq.head?.map fun e => e.pc).getD t.pc

/-- The value of a strand or vector CSR (R16). -/
def csrStrandValue (s : State) (n : Nat) : Word :=
  let t := s.strand
  match n with
  | 0x000 => (identity t)[0]
  | 0x001 => (identity t)[1]
  | 0x002 => (identity t)[2]
  | 0x003 => (identity t)[3]
  | 0x008 => if dieOf t.id = 0 then s.cycle[0] else s.cycle[1]
  | 0x009 => word (nowNs s)
  | 0x010 => t.fflags.setWidth 64
  | 0x011 => t.frm.setWidth 64
  | 0x012 => t.status
  | 0x100 => t.xpc
  | 0x101 => t.xvcp
  | 0x102 => t.xcause
  | 0x103 => t.xval
  | 0x104 => t.xscratch
  | 0x105 => t.xvec
  | 0x200 => word t.vl
  | 0x201 => word t.vlmax
  | 0x202 => word (vcfgValue t)
  | 0x203 => word t.vstart
  | 0x204 => vcpOf t
  | _ => t.tether

/-- The value of a CSR of the engines, of time or of the fabric. -/
def csrUnitValue (s : State) (n : Nat) : Word :=
  let t := s.strand
  match n with
  | 0x300 => (copySetOf t).src
  | 0x301 => (copySetOf t).dst
  | 0x302 => (copySetOf t).ext
  | 0x303 => (copySetOf t).sstr
  | 0x304 => (copySetOf t).dstr
  | 0x305 => word (cpctlOf t)
  | 0x306 => t.cperr
  | 0x307 => t.cperra
  | 0x380 => t.tsh
  | 0x381 => t.lkst
  | 0x382 => (lkLow s).setWidth 64
  | 0x400 => word (nowNs s)
  | 0x401 => t.timefr.setWidth 64
  | 0x402 => word (tickst s)
  | 0x500 => t.colsrc
  | 0x501 => t.coldst
  | 0x502 => t.colgrp
  | 0x503 => t.colctl
  | 0x506 => t.colerr
  | 0x507 => t.mcerr
  | 0x511 => (colLow (clusterAt s (myCluster s))).setWidth 64
  | _ => if 0x318 ≤ n ∧ n ≤ 0x31B then (cpLow (channelAt s (myCluster s) (n - 0x318))).setWidth 64 else 0

/-- The value that a CSR shows. -/
def csrValue (s : State) (n : Nat) : Word := if n < 0x300 then csrStrandValue s n else csrUnitValue s n

/-- A read of the clock latches its fraction (R321). -/
def csrLatch (n : Nat) (s : State) : State :=
  if n = 0x009 ∨ n = 0x400 then mapStrand (fun t => { t with timefr := BitVec.ofNat 16 s.ptime }) s else s

-- ## Waiting (R20, R91)

/-- An older entry writes the CSR (R16, R20): each entry writes `VSTART` when it commits. -/
def csrBusy (t : Strand) (n : Nat) : Bool :=
  match n with
  | 0x200 => t.vq.any entryWritesVl
  | 0x201 | 0x202 => t.vq.any fun e => entryOp e == 0x40
  | 0x203 => !t.vq.isEmpty
  | _ => false

/-- The waits of a CSR instruction. -/
def csrWait (n : Nat) (reads writes : Bool) : M Unit := fun s =>
  let t := s.strand
  if n = 0x010 ∧ !t.vq.isEmpty then .error (.wait .drain) s
  else if reads ∧ csrBusy t n then .error (.wait .interlock) s
  else if writes ∧ (n = 0x203 ∨ n = 0x205) ∧ !t.vq.isEmpty then .error (.wait .drain) s
  else .ok () s

-- ## Writing (R7, R90)

/-- The low bits of a value. -/
def lowBits (v : Word) (n : Nat) : Word := word (v.toNat % 2 ^ n)

/-- A write of `STATUS` (R17): a user-mode write leaves PPRIV. -/
def writeStatus (v : Word) (t : Strand) : Strand :=
  { t with status := withModes v (priv t) (if priv t then v.getLsbD 9 else ppriv t) }

/-- A write of `CPCTL` (R229, R231): CH first, then the fields of the set that it names. -/
def writeCpctl (v : Word) (t : Strand) : Strand :=
  let ch : BitVec 2 := v.extractLsb' 0 2
  { t with
    ch := ch
    cps := t.cps.setIfInBounds ch.toNat { (t.cps[ch.toNat]'(ch.isLt)) with
      esz := bits v.toNat 3 2, fe := v.getLsbD 4, cscp := bits v.toNat 8 5 } }

/-- A write of a data register of the set that CH names (R229). -/
def writeCopySet (f : CopySet → CopySet) (t : Strand) : Strand :=
  { t with cps := t.cps.setIfInBounds t.ch.toNat (f (copySetOf t)) }

/-- Clear a bit of a record where the operand has a one (R7 RW1C, R90). -/
def clearWhere (k : Nat) (a v : Word) : Word := if a.getLsbD k then word (setField v.toNat k 1 0) else v

/-- A write of `LKST` (R223): EV clears by ones, TRAP is set. -/
def writeLkst (v a : Word) (t : Strand) : Strand :=
  { t with lkst := word (setField (clearWhere 26 a t.lkst).toNat 27 1 (b2n (v.getLsbD 27))) }

/-- A write of a CSR: `v` is the value, `a` the operand whose ones clear RW1C fields; RO CSRs ignore it (R7, R90). -/
def csrStore (n : Nat) (v a : Word) (t : Strand) : Strand :=
  match n with
  | 0x010 => { t with fflags := v.setWidth 6 }
  | 0x011 => { t with frm := v.setWidth 3 }
  | 0x012 => writeStatus v t
  | 0x100 => { t with xpc := v }
  | 0x101 => { t with xvcp := v }
  | 0x102 => { t with xcause := lowBits v 9 }
  | 0x103 => { t with xval := v }
  | 0x104 => { t with xscratch := v }
  | 0x105 => { t with xvec := v }
  | 0x203 => { t with vstart := v.toNat }
  | 0x205 => { t with tether := v }
  | 0x300 => writeCopySet (fun q => { q with src := lowBits v 57 }) t
  | 0x301 => writeCopySet (fun q => { q with dst := lowBits v 57 }) t
  | 0x302 => writeCopySet (fun q => { q with ext := lowBits v 48 }) t
  | 0x303 => writeCopySet (fun q => { q with sstr := lowBits v 63 }) t
  | 0x304 => writeCopySet (fun q => { q with dstr := lowBits v 63 }) t
  | 0x305 => writeCpctl v t
  | 0x306 => { t with cperr := clearWhere 6 a t.cperr }
  | 0x381 => writeLkst v a t
  | 0x500 => { t with colsrc := lowBits v 57 }
  | 0x501 => { t with coldst := lowBits v 57 }
  | 0x502 => { t with colgrp := lowBits v 29 }
  | 0x503 => { t with colctl := v }
  | 0x506 => { t with colerr := clearWhere 4 a t.colerr }
  | 0x507 => { t with mcerr := clearWhere 4 a t.mcerr }
  | _ => t

-- ## The instructions (R90)

/-- What a `csrrd` whose guard is true does. -/
def csrReadWork (head : Word) (n : Nat) (d : BitVec 5) : M Unit :=
  if n = 0x510 then launchCollective head d
  else if csrLaunches n then launchTransfer head (n - 0x310) d
  else do
    csrWait n true false
    let v ← ask fun s => csrValue s n
    change (csrLatch n)
    wrS d v

/-- `csrrd` (R90, R233, R368). -/
def execCsrrd (g : Guard) (d : BitVec 5) (csr : BitVec 12) (s : State) : Out :=
  scalarOp g [] [d] [] (csrCheck (.csrrd g d csr) csr.toNat)
    (thenNext (csrReadWork (headWord (.csrrd g d csr)) csr.toNat d)) s

/-- What a CSR write whose guard is true does. `reads`: it needs the CSR's value; with D = 0 this is no read, and has no side
effect (R90). `f`: the new value from the old one and sa. -/
def csrWriteWork (n : Nat) (reads : Bool) (d a : BitVec 5) (f : Word → Word → Word) : M Unit :=
  if csrLaunches n then wrS d 0
  else do
    csrWait n reads true
    let old ← ask fun s => if reads then csrValue s n else 0
    let x ← ask fun s => getS s.strand a
    change fun s => if d = 0 then s else csrLatch n s
    onStrand (csrStore n (f old x) x)
    wrS d old

/-- `csrwr` (R90). -/
def execCsrwr (g : Guard) (d : BitVec 5) (csr : BitVec 12) (a : BitVec 5) (s : State) : Out :=
  scalarOp g [a] [d] [] (csrCheck (.csrwr g d csr a) csr.toNat)
    (thenNext (csrWriteWork csr.toNat (d != 0) d a (fun _ x => x))) s
/-- `csrset` (R90). -/
def execCsrset (g : Guard) (d : BitVec 5) (csr : BitVec 12) (a : BitVec 5) (s : State) : Out :=
  scalarOp g [a] [d] [] (csrCheck (.csrset g d csr a) csr.toNat)
    (thenNext (csrWriteWork csr.toNat true d a (fun o x => o ||| x))) s
/-- `csrclr` (R90). -/
def execCsrclr (g : Guard) (d : BitVec 5) (csr : BitVec 12) (a : BitVec 5) (s : State) : Out :=
  scalarOp g [a] [d] [] (csrCheck (.csrclr g d csr a) csr.toNat)
    (thenNext (csrWriteWork csr.toNat true d a (fun o x => o &&& ~~~x))) s

end Sys2Proof.Machine
end

