-- ==== Sys2Proof/Machine/Registers.lean ====
section
/-! DEFINITION. Writes of the device registers (R198, R287, R288, R306, R318, R330, R338, R351, R361). -/

namespace Sys2Proof.Machine

/-- Bits h down to l of a value, in place. -/
def keepBits (v : Word) (h l : Nat) : Word := word (bits v.toNat h l * 2 ^ l)

/-- A write of a register of a launch queue (R288, R306): the configuration changes only while EN = 0. -/
def writeQueue (k o : Nat) (v : Word) (s : State) : State :=
  let q := queueAt s k
  let conf (q' : LaunchQueue) : State := if qBit q 0 then s else putQueue k q' s
  match o / 8 with
  | 0 => conf { q with base := keepBits v 51 6 }
  | 1 => writeCtl k v s
  | 2 => conf { q with pt := keepBits v 51 12 }
  | 3 => conf { q with stk := keepBits v 56 4 }
  | 4 => conf { q with stksz := keepBits v 4 0 }
  | 5 => conf { q with xvec := keepBits v 56 1 }
  | 7 => writeTail k v s
  | 8 => conf { q with bank := keepBits v 31 0 }
  | _ => s

/-- A write of a register of Mooring (R288). -/
def writeMooring (k : Nat) (v : Word) (s : State) : State :=
  let m := s.mooring
  match k with
  | 0 => { s with mooring := { m with csaBase := keepBits v 51 12 } }
  | 1 => { s with mooring := { m with csaCnt := v.setWidth 16 } }
  | 2 => { s with mooring := { m with fqBase := keepBits v 63 2 } }
  | 3 => { s with mooring := { m with fqCtl := v.setWidth 16 } }
  | 5 => { s with mooring := { m with fqHead := v.setWidth 32 } }
  | 6 => writeFresp v s
  | _ => s

/-- A write of a register of Windsock (R318, R330). -/
def writeWindsock (k : Nat) (v : Word) (s : State) : State :=
  match k with
  | 0 => writeWsctl v s
  | 3 => { s with ws := { s.ws with irBase := keepBits v 42 4 } }
  | 4 => { s with ws := { s.ws with irCtl := v.setWidth 6 } }
  | 6 => writeIngestTail v s
  | _ => s

/-- A write of a register of the configuration block, by its offset in words (R287). -/
def writeBlock (k : Nat) (v : Word) (s : State) : State :=
  if k < 0x40 then writeMooring k v s
  else if k < 0x60 then writeWindsock (k - 0x40) v s
  else
    match k with
    | 0x60 => writeSgctl v s
    | 0x61 => writeSgmem v s
    | 0x64 => mapPk (fun p => { p with pwrcap := v.setWidth 13 }) s
    | 0x80 => writeSpgsel v s
    | 0x89 => writeSpgctl v s
    | _ => if 0x81 ≤ k ∧ k < 0x89 then writeSpgmem (k - 0x81) v s else s

/-- A write of the sticky flags of a slice: ones clear NX, UF, OF and NV (R198). -/
def writeSliceFlags (k : Nat) (v : Word) (s : State) : State :=
  { s with aflags := s.aflags.setIfInBounds k (((s.aflags[k]?).getD 0) &&& ~~~(v.setWidth 5 &&& 0x17#5)) }

/-- A write of 8 bytes at an offset of the device registers; one of no register, or of a read-only one, is ignored (R287). -/
def writeRegister (off : Nat) (v : Word) (s : State) : State :=
  let r := off - regBase
  if off < regBase then s
  else if r < 0x1000 then writeBlock (r / 8) v s
  else if 0x10000 ≤ r ∧ r < 0x11000 then writeQueue ((r - 0x10000) / 0x100) (r % 0x100) v s
  else if 0x100000 ≤ r ∧ r < 0x140000 ∧ r % 0x1000 < 8 then writeSliceFlags ((r - 0x100000) / 0x1000) v s
  else s

/-- The RW1C bits of the register at an offset (R198, R288): a byte that is not written clears none of them (R7). -/
def clearOnOne (off : Nat) : Word :=
  let r := off - regBase
  if 0x10000 ≤ r ∧ r < 0x11000 ∧ r % 0x100 / 8 = 1 then word (2 ^ 41) else if 0x100000 ≤ r then 0x17#64 else 0

/-- The bits of the bytes that an access writes. -/
def byteBits (be : BitVec 8) : Word :=
  (List.range 8).foldl (fun m k => if be.getLsbD k then m ||| (0xFF#64 <<< (8 * k)) else m) 0

/-- A write of bytes of `FRESP` that are none of TAG's: it answers nothing (R7, R286; log 93). -/
def answersNothing (off : Nat) (be : BitVec 8) : Bool := off == regBase + 8 * 6 && be &&& 3#8 == 0#8

/-- A write of some bytes of a register: the other bytes keep what they hold (R7). DESIGN CHOICE: a write of part of the write-only
`FRESP` acts when it writes a byte of TAG, with zeros in the bytes that it does not write (log 93). -/
def writeBytes (off : Nat) (v : Word) (be : BitVec 8) (s : State) : State :=
  if answersNothing off be then s
  else
  let held := word (readRegister s (myModule s * 2 ^ 43 + off)) &&& ~~~(clearOnOne off)
  writeRegister off ((v &&& byteBits be) ||| (held &&& ~~~(byteBits be))) s

/-- `REGISTER_WRITE` (R7, R287): a register is written, by a store through an NC page or by the host through the BAR. -/
def execRegisterWrite (off : Nat) (v : Word) (s : State) : Out := .next (writeRegister off v s)

end Sys2Proof.Machine
end

