-- ==== Sys2Proof/Machine/Waits.lean ====
section
/-! DEFINITION. The strand's own events: issue to the VQ, traps, and the wakes and yields of its waits (R19, R20, R33, R97, R98,
R94, R114, R121, R173, R174, R188). -/

namespace Sys2Proof.Machine

/-- The causes in the order of their codes (R102). -/
def causeList : List Cause :=
  [.illegal, .badTarget, .badLine, .privileged, .misaligned, .loadFault, .storeFault, .protection, .writeOnce, .noFullEmpty,
   .fpTrap, .dataError, .lookupError, .codebook, .protocolCheck, .protocolInUse, .remote, .breakpoint, .systemCall, .timeOut]

/-- The cause of a code (R102). -/
def causeOf (c : Nat) : Option Cause := if c = 0 then none else causeList[c - 1]?

-- ## Issue to the VQ (R19, R20, R33, R34)

/-- An entry that a false guard does not keep out of the VQ: `vfence` and `bar.cl` (R34). -/
def entersAlways (op : Nat) : Bool := op == 0x8B || op == 0xAB

/-- The scalar stream issues a VQ-class head that passes step 1 of R33. -/
def issueEntry (head : BitVec 16) (tail : BitVec 96) (s : State) : State :=
  let t := s.strand
  let on := guardOn (headGuard head) t
  match upsetValue t [] [(headGuard head).p] with
  | some v => raiseScalar .dataError v t.pc s
  | none =>
    if !on && !entersAlways (headOp head) then advance s
    else if on && headOp head == 0x40 && priv t then raiseScalar .illegal (head.setWidth 64) t.pc s
    else if 64 ≤ t.vq.length then waitScalar .vqFull s
    else if vqWritesAny t.vq (entryReads (headOp head) tail) then waitScalar .interlock s
    else
      match upsetValue t (entryReads (headOp head) tail) [] with
      | some v => raiseScalar .dataError v t.pc s
      | none => pushVq (capture t head tail (!on)) s

/-- `VQ_ENQUEUE` (R19, R20, R33, R34, R104): the acting strand's next instruction goes to its VQ. -/
def execVqEnqueue (head : BitVec 16) (tail : BitVec 96) (s : State) : Out :=
  if !runs s.strand then .next s
  else
    match classify head tail with
    | .queue h t => .next (issueEntry h t s)
    | .bad h => .next (raiseScalar .illegal (h.setWidth 64) s.strand.pc s)
    | .scalar _ => .next s

-- ## Traps (R97, R98)

/-- `SCALAR_TRAP` (R97): the acting strand's scalar stream raises a trap. -/
def execScalarTrap (cause : BitVec 8) (val xpc : Word) (s : State) : Out :=
  match causeOf cause.toNat with
  | some c => if runs s.strand then .next (raiseScalar c val xpc s) else .next s
  | none => .next s

/-- `VQ_TRAP` (R98): the acting strand's head entry raises a trap at an element. -/
def execVqTrap (cause : BitVec 8) (val : Word) (elem : Nat) (s : State) : Out :=
  match causeOf cause.toNat with
  | some c => if runs s.strand && !s.strand.vq.isEmpty then .next (raiseVq c val elem s) else .next s
  | none => .next s

-- ## Waits (R94, R114, R121, R173, R174, R188)

/-- The acting strand waits in one of its streams. -/
def waiting (t : Strand) : Bool := t.scalarWait.isSome || t.vqWait.isSome

/-- `WAIT_YIELD` (R94, R296): the acting strand's wait yields its slot; no watch state survives (R174). -/
def execWaitYield (s : State) : Out :=
  if runs s.strand && waiting s.strand then .next (mapStrand (fun t => { t with yielded := true, watch := 0 }) s) else .next s

/-- Something that waits has looked again 4,096 times and has not yielded yet (R94). -/
def yieldDue (t : Strand) : Bool :=
  !t.yielded &&
    decide (4096 ≤ Nat.max ((t.scalarWait.map fun w => w.polls).getD 0) ((t.vqWait.map fun w => w.polls).getD 0))

/-- Execute again the scalar instruction that waits. -/
def againScalar (f : Instr → State → Option Out) (s : State) : Out :=
  if !runs s.strand || s.strand.scalarWait.isNone then .next s
  else
    match fetchIssue s with
    | .ok (.scalar i) s1 => (f i s1).getD (.next s)
    | _ => .next s

/-- Execute again the head entry that waits. -/
def againVq (f : Instr → State → Option Out) (s : State) : Out :=
  if !runs s.strand || s.strand.vqWait.isNone then .next s
  else
    match vqNow s with
    | some i => (f i s).getD (.next s)
    | none => .next s

/-- The `park` that waits, again. -/
def parkAgain (i : Instr) (s : State) : Option Out :=
  match i with
  | .park g d a b => some (execPark g d a b s)
  | _ => none

/-- `PARK_WAKE` (R94): a write to the word has taken effect. -/
def execParkWake (s : State) : Out := againScalar parkAgain s

/-- The `vcfg` that waits, again. -/
def vcfgAgain (i : Instr) (s : State) : Option Out :=
  match i with
  | .vcfg g d a => some (execVcfg g d a s)
  | _ => none

/-- `VCFG_GRANT_WAIT` (R114): the storage may now be free. -/
def execVcfgGrantWait (s : State) : Out := againVq vcfgAgain s

/-- The `setvl.w` that waits, again. -/
def setvlAgain (i : Instr) (s : State) : Option Out :=
  match i with
  | .setvlW g d a b => some (execSetvlW g d a b s)
  | _ => none

/-- `SETVL_W_WAKE` (R121): the tether word has been written. -/
def execSetvlWWake (s : State) : Out := againVq setvlAgain s

/-- The `vwait` that waits, again. -/
def vwaitAgain (i : Instr) (s : State) : Option Out :=
  match i with
  | .vwait g d a b c m => some (execVwait g d a b c m s)
  | _ => none

/-- `VWAIT_WAKE` (R173): a watched word has been written. -/
def execVwaitWake (s : State) : Out := againVq vwaitAgain s

/-- `VWAIT_TIMEOUT` (R173, R174): the time-out of the `vwait` has passed; before that it does nothing. -/
def execVwaitTimeout (s : State) : Out :=
  match s.strand.vq with
  | e :: _ => if s.strand.watch != 0 && vwaitDue s e.c then againVq vwaitAgain s else .next s
  | [] => .next s

/-- The full/empty access that waits, again. -/
def granuleAgain (i : Instr) (s : State) : Option Out :=
  match i with
  | .ldfeKeep g ty d a off => some (execLdfeKeep g ty d a off s)
  | .ldfeClr g ty d a off => some (execLdfeClr g ty d a off s)
  | .stfeFill g ty d a off => some (execStfeFill g ty d a off s)
  | .stfeWait g ty d a off => some (execStfeWait g ty d a off s)
  | _ => none

/-- `FULL_EMPTY_WAKE` (R188): the granule's state has changed. -/
def execFullEmptyWake (s : State) : Out := againScalar granuleAgain s

/-- `WAIT_POLL_TIMER` (R94, R121, R173, R188): 1 µs has passed, and the waiting instruction looks again. -/
def execWaitPollTimer (s : State) : Out :=
  if s.strand.vqWait.isSome then
    againVq (fun i s => match vwaitAgain i s with
      | some r => some r
      | none => setvlAgain i s) s
  else
    againScalar (fun i s => match parkAgain i s with
      | some r => some r
      | none => granuleAgain i s) s

end Sys2Proof.Machine
end

