-- ==== Sys2Proof/Machine/Dispatch.lean ====
section
/-! DEFINITION. What each instruction and each event does: one arm per constructor. -/

namespace Sys2Proof.Machine

/-- The meaning of an instruction or event. -/
def exec (i : Instr) (s : State) : Host.Outcome State Fault Refusal :=
  match i with
  | .add g d a b => Sys2Proof.Machine.execAdd g d a b s
  | .sub g d a b => Sys2Proof.Machine.execSub g d a b s
  | .mul g d a b => Sys2Proof.Machine.execMul g d a b s
  | .mulh g d a b => Sys2Proof.Machine.execMulh g d a b s
  | .mulhn g d a b => Sys2Proof.Machine.execMulhn g d a b s
  | .div g d a b => Sys2Proof.Machine.execDiv g d a b s
  | .divn g d a b => Sys2Proof.Machine.execDivn g d a b s
  | .rem g d a b => Sys2Proof.Machine.execRem g d a b s
  | .remn g d a b => Sys2Proof.Machine.execRemn g d a b s
  | .and g d a b => Sys2Proof.Machine.execAnd g d a b s
  | .or g d a b => Sys2Proof.Machine.execOr g d a b s
  | .xor g d a b => Sys2Proof.Machine.execXor g d a b s
  | .andn g d a b => Sys2Proof.Machine.execAndn g d a b s
  | .orn g d a b => Sys2Proof.Machine.execOrn g d a b s
  | .min g d a b => Sys2Proof.Machine.execMin g d a b s
  | .max g d a b => Sys2Proof.Machine.execMax g d a b s
  | .minn g d a b => Sys2Proof.Machine.execMinn g d a b s
  | .maxn g d a b => Sys2Proof.Machine.execMaxn g d a b s
  | .shl g d a b => Sys2Proof.Machine.execShl g d a b s
  | .shr g d a b => Sys2Proof.Machine.execShr g d a b s
  | .sar g d a b => Sys2Proof.Machine.execSar g d a b s
  | .rot g d a b => Sys2Proof.Machine.execRot g d a b s
  | .clz g d a => Sys2Proof.Machine.execClz g d a s
  | .ctz g d a => Sys2Proof.Machine.execCtz g d a s
  | .popc g d a => Sys2Proof.Machine.execPopc g d a s
  | .sel g d a b c => Sys2Proof.Machine.execSel g d a b c s
  | .ext g d a ty => Sys2Proof.Machine.execExt g d a ty s
  | .bfx g d a pos len1 sx => Sys2Proof.Machine.execBfx g d a pos len1 sx s
  | .bfi g d a pos len1 => Sys2Proof.Machine.execBfi g d a pos len1 s
  | .lea g d a b sh => Sys2Proof.Machine.execLea g d a b sh s
  | .cmp g cc d a b => Sys2Proof.Machine.execCmp g cc d a b s
  | .addi g d a imm => Sys2Proof.Machine.execAddi g d a imm s
  | .andi g d a imm => Sys2Proof.Machine.execAndi g d a imm s
  | .ori g d a imm => Sys2Proof.Machine.execOri g d a imm s
  | .xori g d a imm => Sys2Proof.Machine.execXori g d a imm s
  | .cmpi g cc d a imm => Sys2Proof.Machine.execCmpi g cc d a imm s
  | .li g d imm => Sys2Proof.Machine.execLi g d imm s
  | .lpc g d imm => Sys2Proof.Machine.execLpc g d imm s
  | .pop g op d a b => Sys2Proof.Machine.execPop g op d a b s
  | .fadd g f rm d a b => Sys2Proof.Machine.execFadd g f rm d a b s
  | .fsub g f rm d a b => Sys2Proof.Machine.execFsub g f rm d a b s
  | .fmul g f rm d a b => Sys2Proof.Machine.execFmul g f rm d a b s
  | .fma g f rm d a b c => Sys2Proof.Machine.execFma g f rm d a b c s
  | .fdiv g f rm d a b => Sys2Proof.Machine.execFdiv g f rm d a b s
  | .fsqrt g f rm d a => Sys2Proof.Machine.execFsqrt g f rm d a s
  | .fmin g f d a b => Sys2Proof.Machine.execFmin g f d a b s
  | .fmax g f d a b => Sys2Proof.Machine.execFmax g f d a b s
  | .fcmp g f cc d a b => Sys2Proof.Machine.execFcmp g f cc d a b s
  | .fcvt g dty sty rm d a => Sys2Proof.Machine.execFcvt g dty sty rm d a s
  | .fclass g f d a => Sys2Proof.Machine.execFclass g f d a s
  | .ld g ty d a off => Sys2Proof.Machine.execLd g ty d a off s
  | .st g ty d a off => Sys2Proof.Machine.execSt g ty d a off s
  | .br g dl sl => Sys2Proof.Machine.execBr g dl sl s
  | .jal g dl sl => Sys2Proof.Machine.execJal g dl sl s
  | .jr g d a => Sys2Proof.Machine.execJr g d a s
  | .ret g => Sys2Proof.Machine.execRet g s
  | .dbnz g c dl sl => Sys2Proof.Machine.execDbnz g c dl sl s
  | .csrrd g d csr => Sys2Proof.Machine.execCsrrd g d csr s
  | .csrwr g d csr a => Sys2Proof.Machine.execCsrwr g d csr a s
  | .csrset g d csr a => Sys2Proof.Machine.execCsrset g d csr a s
  | .csrclr g d csr a => Sys2Proof.Machine.execCsrclr g d csr a s
  | .sys g imm => Sys2Proof.Machine.execSys g imm s
  | .trap g imm => Sys2Proof.Machine.execTrap g imm s
  | .eret g => Sys2Proof.Machine.execEret g s
  | .park g d a b => Sys2Proof.Machine.execPark g d a b s
  | .endStrand g => Sys2Proof.Machine.execEndStrand g s
  | .nop g => Sys2Proof.Machine.execNop g s
  | .yield g => Sys2Proof.Machine.execYield g s
  | .hint g op tl tail => Sys2Proof.Machine.execHint g op tl tail s
  | .vcfg g d a => Sys2Proof.Machine.execVcfg g d a s
  | .setvl g d a => Sys2Proof.Machine.execSetvl g d a s
  | .setvlW g d a b => Sys2Proof.Machine.execSetvlW g d a b s
  | .vadd g ty d a b m => Sys2Proof.Machine.execVadd g ty d a b m s
  | .vsub g ty d a b m => Sys2Proof.Machine.execVsub g ty d a b m s
  | .vmul g ty d a b m => Sys2Proof.Machine.execVmul g ty d a b m s
  | .vmulh g ty d a b m => Sys2Proof.Machine.execVmulh g ty d a b m s
  | .vmin g ty d a b m => Sys2Proof.Machine.execVmin g ty d a b m s
  | .vmax g ty d a b m => Sys2Proof.Machine.execVmax g ty d a b m s
  | .vand g ty d a b m => Sys2Proof.Machine.execVand g ty d a b m s
  | .vor g ty d a b m => Sys2Proof.Machine.execVor g ty d a b m s
  | .vxor g ty d a b m => Sys2Proof.Machine.execVxor g ty d a b m s
  | .vshl g ty d a b m => Sys2Proof.Machine.execVshl g ty d a b m s
  | .vshr g ty d a b m => Sys2Proof.Machine.execVshr g ty d a b m s
  | .vsar g ty d a b m => Sys2Proof.Machine.execVsar g ty d a b m s
  | .vadds g ty d a b m => Sys2Proof.Machine.execVadds g ty d a b m s
  | .vsubs g ty d a b m => Sys2Proof.Machine.execVsubs g ty d a b m s
  | .vabs g ty d a m => Sys2Proof.Machine.execVabs g ty d a m s
  | .vneg g ty d a m => Sys2Proof.Machine.execVneg g ty d a m s
  | .vadc g ty d a b mo mi => Sys2Proof.Machine.execVadc g ty d a b mo mi s
  | .vsbc g ty d a b mo mi => Sys2Proof.Machine.execVsbc g ty d a b mo mi s
  | .vfadd g ty rm d a b m => Sys2Proof.Machine.execVfadd g ty rm d a b m s
  | .vfsub g ty rm d a b m => Sys2Proof.Machine.execVfsub g ty rm d a b m s
  | .vfmul g ty rm d a b m => Sys2Proof.Machine.execVfmul g ty rm d a b m s
  | .vfma g ty rm d a b c m => Sys2Proof.Machine.execVfma g ty rm d a b c m s
  | .vfdiv g ty rm d a b m => Sys2Proof.Machine.execVfdiv g ty rm d a b m s
  | .vfsqrt g ty rm d a m => Sys2Proof.Machine.execVfsqrt g ty rm d a m s
  | .vfrcp g ty rm d a m => Sys2Proof.Machine.execVfrcp g ty rm d a m s
  | .vfrsq g ty rm d a m => Sys2Proof.Machine.execVfrsq g ty rm d a m s
  | .vfexp2 g ty rm d a m => Sys2Proof.Machine.execVfexp2 g ty rm d a m s
  | .vflog2 g ty rm d a m => Sys2Proof.Machine.execVflog2 g ty rm d a m s
  | .vfmin g ty d a b m => Sys2Proof.Machine.execVfmin g ty d a b m s
  | .vfmax g ty d a b m => Sys2Proof.Machine.execVfmax g ty d a b m s
  | .vfclamp g ty d a scalars lo hi m => Sys2Proof.Machine.execVfclamp g ty d a scalars lo hi m s
  | .vfcvt g dty sty rm d a m => Sys2Proof.Machine.execVfcvt g dty sty rm d a m s
  | .vquant g ty d a e m => Sys2Proof.Machine.execVquant g ty d a e m s
  | .vdequant g ty d a e m => Sys2Proof.Machine.execVdequant g ty d a e m s
  | .vcmp g cc ty d a b m => Sys2Proof.Machine.execVcmp g cc ty d a b m s
  | .vfcmp g cc ty d a b m => Sys2Proof.Machine.execVfcmp g cc ty d a b m s
  | .mop g op d a b => Sys2Proof.Machine.execMop g op d a b s
  | .mpop g d a => Sys2Proof.Machine.execMpop g d a s
  | .mfirst g d a => Sys2Proof.Machine.execMfirst g d a s
  | .mshup g d a b c => Sys2Proof.Machine.execMshup g d a b c s
  | .mshdn g d a b c => Sys2Proof.Machine.execMshdn g d a b c s
  | .vslideUp g ty d a k m => Sys2Proof.Machine.execVslideUp g ty d a k m s
  | .vslideDown g ty d a k m => Sys2Proof.Machine.execVslideDown g ty d a k m s
  | .vperm g ty d a b m => Sys2Proof.Machine.execVperm g ty d a b m s
  | .vcompress g ty d a m => Sys2Proof.Machine.execVcompress g ty d a m s
  | .vexpand g ty d a m => Sys2Proof.Machine.execVexpand g ty d a m s
  | .vbcast g ty d b m => Sys2Proof.Machine.execVbcast g ty d b m s
  | .vid g ty d m => Sys2Proof.Machine.execVid g ty d m s
  | .vmvs g ty d a ix => Sys2Proof.Machine.execVmvs g ty d a ix s
  | .vsv g ty d a ix => Sys2Proof.Machine.execVsv g ty d a ix s
  | .vredsumF g ty rm d a start m => Sys2Proof.Machine.execVredsumF g ty rm d a start m s
  | .vredsumC g ty rm d a start m => Sys2Proof.Machine.execVredsumC g ty rm d a start m s
  | .vredsumCs g ty rm d a start c m => Sys2Proof.Machine.execVredsumCs g ty rm d a start c m s
  | .vredmax g ty d a start m => Sys2Proof.Machine.execVredmax g ty d a start m s
  | .vredmin g ty d a start m => Sys2Proof.Machine.execVredmin g ty d a start m s
  | .vredand g ty d a start m => Sys2Proof.Machine.execVredand g ty d a start m s
  | .vredor g ty d a start m => Sys2Proof.Machine.execVredor g ty d a start m s
  | .vscan g op ty rm d a start m => Sys2Proof.Machine.execVscan g op ty rm d a start m s
  | .vsmax g d a sm sl sk m => Sys2Proof.Machine.execVsmax g d a sm sl sk m s
  | .vld g ty tyv d a off m => Sys2Proof.Machine.execVld g ty tyv d a off m s
  | .vlds g ty tyv d a b off m => Sys2Proof.Machine.execVlds g ty tyv d a b off m s
  | .vldx g ty tyv d a b off m => Sys2Proof.Machine.execVldx g ty tyv d a b off m s
  | .vldseg g ty tyv d a nf off m => Sys2Proof.Machine.execVldseg g ty tyv d a nf off m s
  | .vldff g ty tyv d a off m => Sys2Proof.Machine.execVldff g ty tyv d a off m s
  | .vst g ty tyv d a off m => Sys2Proof.Machine.execVst g ty tyv d a off m s
  | .vsts g ty tyv d a b off m => Sys2Proof.Machine.execVsts g ty tyv d a b off m s
  | .vstx g ty tyv ord d a b off m => Sys2Proof.Machine.execVstx g ty tyv ord d a b off m s
  | .vstseg g ty tyv d a nf off m => Sys2Proof.Machine.execVstseg g ty tyv d a nf off m s
  | .vsadd g ty sc ord d a b off m => Sys2Proof.Machine.execVsadd g ty sc ord d a b off m s
  | .vwait g d a b c m => Sys2Proof.Machine.execVwait g d a b c m s
  | .vfenceSv g => Sys2Proof.Machine.execVfenceSv g s
  | .vfenceVs g => Sys2Proof.Machine.execVfenceVs g s
  | .vfenceAll g => Sys2Proof.Machine.execVfenceAll g s
  | .vop g e4m3 d a b r1 => Sys2Proof.Machine.execVop g e4m3 d a b r1 s
  | .vopm g e4m3 d a b c r1 => Sys2Proof.Machine.execVopm g e4m3 d a b c r1 s
  | .vopz g d => Sys2Proof.Machine.execVopz g d s
  | .vopr g d a row mo m => Sys2Proof.Machine.execVopr g d a row mo m s
  | .mkiv g d a => Sys2Proof.Machine.execMkiv g d a s
  | .tshape g d a => Sys2Proof.Machine.execTshape g d a s
  | .cbload g a => Sys2Proof.Machine.execCbload g a s
  | .tbuild g nogate a b c => Sys2Proof.Machine.execTbuild g nogate a b c s
  | .lkaccOw g d a b c => Sys2Proof.Machine.execLkaccOw g d a b c s
  | .lkaccAcc g d a b c => Sys2Proof.Machine.execLkaccAcc g d a b c s
  | .lkaccDrn g d a fc ncon1 => Sys2Proof.Machine.execLkaccDrn g d a fc ncon1 s
  | .vdrn g d c => Sys2Proof.Machine.execVdrn g d c s
  | .lkwait g d a => Sys2Proof.Machine.execLkwait g d a s
  | .cpwait g sc d a ch => Sys2Proof.Machine.execCpwait g sc d a ch s
  | .claim g d a b => Sys2Proof.Machine.execClaim g d a b s
  | .pubh g a b => Sys2Proof.Machine.execPubh g a b s
  | .barCl g => Sys2Proof.Machine.execBarCl g s
  | .slabgrow g d a b z ch => Sys2Proof.Machine.execSlabgrow g d a b z ch s
  | .slabgrowRetire g d a => Sys2Proof.Machine.execSlabgrowRetire g d a s
  | .slabst g d a => Sys2Proof.Machine.execSlabst g d a s
  | .phase g sc => Sys2Proof.Machine.execPhase g sc s
  | .rel g sc => Sys2Proof.Machine.execRel g sc s
  | .acq g sc => Sys2Proof.Machine.execAcq g sc s
  | .amoadd g ty sc acq rel d a b off => Sys2Proof.Machine.execAmoadd g ty sc acq rel d a b off s
  | .amofadd g ty sc acq rel d a b off => Sys2Proof.Machine.execAmofadd g ty sc acq rel d a b off s
  | .amomin g ty sc acq rel d a b off => Sys2Proof.Machine.execAmomin g ty sc acq rel d a b off s
  | .amomax g ty sc acq rel d a b off => Sys2Proof.Machine.execAmomax g ty sc acq rel d a b off s
  | .amoand g ty sc acq rel d a b off => Sys2Proof.Machine.execAmoand g ty sc acq rel d a b off s
  | .amoor g ty sc acq rel d a b off => Sys2Proof.Machine.execAmoor g ty sc acq rel d a b off s
  | .amoxor g ty sc acq rel d a b off => Sys2Proof.Machine.execAmoxor g ty sc acq rel d a b off s
  | .amoswap g ty sc acq rel d a b off => Sys2Proof.Machine.execAmoswap g ty sc acq rel d a b off s
  | .amocas g ty sc acq rel d a b off => Sys2Proof.Machine.execAmocas g ty sc acq rel d a b off s
  | .ldfeKeep g ty d a off => Sys2Proof.Machine.execLdfeKeep g ty d a off s
  | .ldfeClr g ty d a off => Sys2Proof.Machine.execLdfeClr g ty d a off s
  | .stfeFill g ty d a off => Sys2Proof.Machine.execStfeFill g ty d a off s
  | .stfeWait g ty d a off => Sys2Proof.Machine.execStfeWait g ty d a off s
  | .bankrole g d a b => Sys2Proof.Machine.execBankrole g d a b s
  | .rangeset g d a b c slot v hc => Sys2Proof.Machine.execRangeset g d a b c slot v hc s
  | .rangesetQ g d a b c slot v hc => Sys2Proof.Machine.execRangesetQ g d a b c slot v hc s
  | .rangerd g d a => Sys2Proof.Machine.execRangerd g d a s
  | .prtload g d a b => Sys2Proof.Machine.execPrtload g d a b s
  | .tlbinv g d a b => Sys2Proof.Machine.execTlbinv g d a b s
  | .launch g d a b => Sys2Proof.Machine.execLaunch g d a b s
  | .ctxsave g d a => Sys2Proof.Machine.execCtxsave g d a s
  | .ctxload g d a => Sys2Proof.Machine.execCtxload g d a s
  | .strmset g d a b => Sys2Proof.Machine.execStrmset g d a b s
  | .stappend g d a b => Sys2Proof.Machine.execStappend g d a b s
  | .tickarm g d a b => Sys2Proof.Machine.execTickarm g d a b s
  | .tickoff g d a => Sys2Proof.Machine.execTickoff g d a s
  | .mcst g ty d a b off => Sys2Proof.Machine.execMcst g ty d a b off s
  | .rld g ty d a b off => Sys2Proof.Machine.execRld g ty d a b off s
  | .colwait g sc d a => Sys2Proof.Machine.execColwait g sc d a s
  | .vqEnqueue head tail => Sys2Proof.Machine.execVqEnqueue head tail s
  | .scalarTrap cause val xpc => Sys2Proof.Machine.execScalarTrap cause val xpc s
  | .vqTrap cause val elem => Sys2Proof.Machine.execVqTrap cause val elem s
  | .pageFaultIntercept va acc fromVq elem => Sys2Proof.Machine.execPageFaultIntercept va acc fromVq elem s
  | .lkJobStart cl => Sys2Proof.Machine.execLkJobStart cl s
  | .lkSegment cl => Sys2Proof.Machine.execLkSegment cl s
  | .lkJobComplete cl => Sys2Proof.Machine.execLkJobComplete cl s
  | .lkJobSuspend cl => Sys2Proof.Machine.execLkJobSuspend cl s
  | .lkJobCancel cl => Sys2Proof.Machine.execLkJobCancel cl s
  | .reelStep cl ch => Sys2Proof.Machine.execReelStep cl ch s
  | .reelComplete cl ch => Sys2Proof.Machine.execReelComplete cl ch s
  | .reelCancel cl ch => Sys2Proof.Machine.execReelCancel cl ch s
  | .barrierGeneration crew => Sys2Proof.Machine.execBarrierGeneration crew s
  | .slabMoveStep cl pair => Sys2Proof.Machine.execSlabMoveStep cl pair s
  | .jobSequencerDispatch cl => Sys2Proof.Machine.execJobSequencerDispatch cl s
  | .clusterInv m => Sys2Proof.Machine.execClusterInv m s
  | .clusterUpd m => Sys2Proof.Machine.execClusterUpd m s
  | .clusterData m => Sys2Proof.Machine.execClusterData m s
  | .clusterAck m => Sys2Proof.Machine.execClusterAck m s
  | .clusterNack m => Sys2Proof.Machine.execClusterNack m s
  | .nackBackoffRetry cl line ev => Sys2Proof.Machine.execNackBackoffRetry cl line ev s
  | .homeGets m => Sys2Proof.Machine.execHomeGets m s
  | .homeGetx m => Sys2Proof.Machine.execHomeGetx m s
  | .homePutd m => Sys2Proof.Machine.execHomePutd m s
  | .homePush m => Sys2Proof.Machine.execHomePush m s
  | .homeClaim m => Sys2Proof.Machine.execHomeClaim m s
  | .homeUnc m => Sys2Proof.Machine.execHomeUnc m s
  | .homeInvAck m => Sys2Proof.Machine.execHomeInvAck m s
  | .homeMem line => Sys2Proof.Machine.execHomeMem line s
  | .scatterAddChainClose addr => Sys2Proof.Machine.execScatterAddChainClose addr s
  | .pageWalk va acc => Sys2Proof.Machine.execPageWalk va acc s
  | .teardownComplete q => Sys2Proof.Machine.execTeardownComplete q s
  | .lqRecordIntake q => Sys2Proof.Machine.execLqRecordIntake q s
  | .flightReady f => Sys2Proof.Machine.execFlightReady f s
  | .bindCrew f => Sys2Proof.Machine.execBindCrew f s
  | .quantumExpiry crew => Sys2Proof.Machine.execQuantumExpiry crew s
  | .recall crew => Sys2Proof.Machine.execRecall crew s
  | .flightComplete f => Sys2Proof.Machine.execFlightComplete f s
  | .stackReply stack port tag => Sys2Proof.Machine.execStackReply stack port tag s
  | .tickDue stream => Sys2Proof.Machine.execTickDue stream s
  | .tickSigmaDeadline stream => Sys2Proof.Machine.execTickSigmaDeadline stream s
  | .collectiveCheck cl id peers => Sys2Proof.Machine.execCollectiveCheck cl id peers s
  | .collectiveGranule cl id granule => Sys2Proof.Machine.execCollectiveGranule cl id granule s
  | .collectiveComplete cl id => Sys2Proof.Machine.execCollectiveComplete cl id s
  | .collectiveFail cl id ecause => Sys2Proof.Machine.execCollectiveFail cl id ecause s
  | .waitYield => Sys2Proof.Machine.execWaitYield s
  | .waitPollTimer => Sys2Proof.Machine.execWaitPollTimer s
  | .parkWake => Sys2Proof.Machine.execParkWake s
  | .vcfgGrantWait => Sys2Proof.Machine.execVcfgGrantWait s
  | .setvlWWake => Sys2Proof.Machine.execSetvlWWake s
  | .vwaitWake => Sys2Proof.Machine.execVwaitWake s
  | .vwaitTimeout => Sys2Proof.Machine.execVwaitTimeout s
  | .sequencerPatch img => Sys2Proof.Machine.execSequencerPatch img s
  | .fullEmptyWake => Sys2Proof.Machine.execFullEmptyWake s
  | .atsInvalidation pasid base len => Sys2Proof.Machine.execAtsInvalidation pasid base len s
  | .atsInvalidationTimeout => Sys2Proof.Machine.execAtsInvalidationTimeout s
  | .priResponse tag success => Sys2Proof.Machine.execPriResponse tag success s
  | .faultRecordPost => Sys2Proof.Machine.execFaultRecordPost s
  | .frespWrite v => Sys2Proof.Machine.execFrespWrite v s
  | .lqtailWrite q v => Sys2Proof.Machine.execLqtailWrite q v s
  | .lqEnable q v => Sys2Proof.Machine.execLqEnable q v s
  | .queueTeardown q => Sys2Proof.Machine.execQueueTeardown q s
  | .queueReset q => Sys2Proof.Machine.execQueueReset q s
  | .registerWrite off v => Sys2Proof.Machine.execRegisterWrite off v s
  | .stackRd stack r => Sys2Proof.Machine.execStackRd stack r s
  | .stackWr stack r => Sys2Proof.Machine.execStackWr stack r s
  | .stackWrm stack r => Sys2Proof.Machine.execStackWrm stack r s
  | .scrubUnit stack unit => Sys2Proof.Machine.execScrubUnit stack unit s
  | .ptpAnnounce h priority1 clockClass clockAccuracy variance priority2 gm => Sys2Proof.Machine.execPtpAnnounce h priority1 clockClass clockAccuracy variance priority2 gm s
  | .ptpSync h twoStep seq origin => Sys2Proof.Machine.execPtpSync h twoStep seq origin s
  | .ptpDelayResponse h sent reply => Sys2Proof.Machine.execPtpDelayResponse h sent reply s
  | .ptmDialogue master => Sys2Proof.Machine.execPtmDialogue master s
  | .lockTimeout => Sys2Proof.Machine.execLockTimeout s
  | .ppsInEdge => Sys2Proof.Machine.execPpsInEdge s
  | .ppsOutEdge => Sys2Proof.Machine.execPpsOutEdge s
  | .wsctlWrite v => Sys2Proof.Machine.execWsctlWrite v s
  | .wsirtailWrite v => Sys2Proof.Machine.execWsirtailWrite v s
  | .ingestEntry => Sys2Proof.Machine.execIngestEntry s
  | .shardGroupEnable v => Sys2Proof.Machine.execShardGroupEnable v s
  | .ucieLinkDown link => Sys2Proof.Machine.execUcieLinkDown link s
  | .hostCxlMemAccess x => Sys2Proof.Machine.execHostCxlMemAccess x s
  | .expanderLinkDown port => Sys2Proof.Machine.execExpanderLinkDown port s
  | .moduleReset mooring sequencer spool => Sys2Proof.Machine.execModuleReset mooring sequencer spool s
  | .clusterReset cl => Sys2Proof.Machine.execClusterReset cl s
  | .spdmGetVersion => Sys2Proof.Machine.execSpdmGetVersion s
  | .spdmGetCapabilities => Sys2Proof.Machine.execSpdmGetCapabilities s
  | .spdmNegotiateAlgorithms baseAsym baseHash => Sys2Proof.Machine.execSpdmNegotiateAlgorithms baseAsym baseHash s
  | .spdmGetDigests => Sys2Proof.Machine.execSpdmGetDigests s
  | .spdmGetCertificate slot offset length => Sys2Proof.Machine.execSpdmGetCertificate slot offset length s
  | .spdmChallenge slot nonce => Sys2Proof.Machine.execSpdmChallenge slot nonce s
  | .spdmGetMeasurements ask => Sys2Proof.Machine.execSpdmGetMeasurements ask s
  | .testModeEntry => Sys2Proof.Machine.execTestModeEntry s
  | .powerMeasurement watts => Sys2Proof.Machine.execPowerMeasurement watts s
  | .thermalThrottle => Sys2Proof.Machine.execThermalThrottle s
  | .thermalTrip => Sys2Proof.Machine.execThermalTrip s
  | .flitNak port => Sys2Proof.Machine.execFlitNak port s
  | .spoolLinkDown port => Sys2Proof.Machine.execSpoolLinkDown port s
  | .spgselWrite v => Sys2Proof.Machine.execSpgselWrite v s
  | .groupInstall v => Sys2Proof.Machine.execGroupInstall v s
  | .groupInstallComplete => Sys2Proof.Machine.execGroupInstallComplete s
  | .thermalThrottleEnd => Sys2Proof.Machine.execThermalThrottleEnd s
  | .ucieLinkTrained link umod => Sys2Proof.Machine.execUcieLinkTrained link umod s
  | .ptpFollowUp h seq origin => Sys2Proof.Machine.execPtpFollowUp h seq origin s
  | .atsTranslationCompletion va granted hostPage r w more => Sys2Proof.Machine.execAtsTranslationCompletion va granted hostPage r w more s
  | .registerFileUpset file reg elem => Sys2Proof.Machine.execRegisterFileUpset file reg elem s
  | .memoryDataError key correctable table => Sys2Proof.Machine.execMemoryDataError key correctable table s
  | .reelLaunch d ch => Sys2Proof.Machine.execReelLaunch d ch s
  | .scatterAddArrive addr ty v => Sys2Proof.Machine.execScatterAddArrive addr ty v s
  | .priorityAgeing f => Sys2Proof.Machine.execPriorityAgeing f s
  | .remoteTimeout module => Sys2Proof.Machine.execRemoteTimeout module s
  | .bridleLaunch d => Sys2Proof.Machine.execBridleLaunch d s

end Sys2Proof.Machine
end

