-- ==== Sys2Proof/Machine/Schedule.lean ====
section
/-! DEFINITION. What happens next, where the spec fixes no order (log 3): the turns of the strands (R296), the events that the
units have ready, and the explicit schedule. -/

namespace Sys2Proof.Machine

/-- The state that an outcome of a meaning leaves. -/
def stateOf (o : Out) (s : State) : State :=
  match o with
  | .next s1 => s1
  | _ => s

/-- What a step does: it runs an instruction or event, or the choice itself was all. -/
inductive Chosen where
  | run (i : Instr) (s : State)
  | done (s : State)

/-- Time passes (R16 `CYCLE`, R317; log 4); a patch that was held is applied when no sequencer runs (R228). -/
def clock (s : State) : State :=
  let s1 := { passTime s with
    cycle := #v[s.cycle[0] + word (Config.cyclesOf (2 * s.stepNo)), s.cycle[1] + word (Config.cyclesOf (2 * s.stepNo + 1))]
    stepNo := s.stepNo + 1 }
  if !s1.pk.patches.isEmpty && !sequencerRuns s1 then applyHeld s1 else s1

-- ## The turns of a strand (R35, R296)

/-- The head at the PC of a strand whose line has been fetched. -/
def headNow (t : Strand) : BitVec 16 := (t.pass.map fun p => lineHead p.bytes (slotNo t.pc)).getD 0

/-- An instruction with Y = 1 is the last of its strand's turn (R35, R296). -/
def lastOfTurn (s : State) : State := if (headGuard (headNow s.strand)).y then { s with slice := 16 } else s

/-- The scalar stream issues its next instruction, or meets the trap that fetching it raises (R29, R33). -/
def scalarTurn (s : State) : Chosen :=
  match fetchIssue s with
  | .ok (.scalar i) s1 => .run i (lastOfTurn s1)
  | .ok (.queue h t) s1 => .run (.vqEnqueue h t) (lastOfTurn s1)
  | .ok (.bad h) s1 => .run (.scalarTrap 1 (h.setWidth 64) s1.strand.pc) s1
  | .error (.wait k) s1 => .done (waitScalar k s1)
  | .error (.trap c v) s1 =>
    if isPageFault c then
      (if s1.strand.vq.isEmpty then .run (.pageFaultIntercept v .fetch false 0) s1 else .done (waitScalar .drain s1))
    else .run (.scalarTrap (BitVec.ofNat 8 (causeCode c)) v s1.strand.pc) s1

/-- The head entry of the VQ executes; one whose tail is not an instruction traps (R33). -/
def vqTurn (s : State) : Chosen :=
  match s.strand.vq with
  | [] => .done s
  | e :: _ =>
    match decode e.head e.tail with
    | .ok i => .run i s
    | .error _ => .run (.vqTrap 1 (e.head.setWidth 64) (refusedAt e s.strand)) s

/-- Whether the VQ's head is the one to go on: it does not wait, or its turn to look again has come. -/
def vqGoes (s : State) : Bool :=
  !s.strand.vq.isEmpty && (s.strand.vqWait.isNone || s.strand.pendTrap.isSome || s.stepNo % 2 == 1)

/-- What the acting strand does first of all: a trap, or the refusal of a page fault, whose handler's line was being translated
(R30), or a trap for which the VQ drains (R97). -/
def trapTurn (s : State) : Option Chosen :=
  let t := s.strand
  match t.refused, t.vqTrap, t.pendTrap with
  | some f, _, _ => some (.done (refuseFault f s))
  | none, some x, _ => some (.done (takeVq x.cause x.val x.elem s))
  | none, none, some p =>
    some (if t.vq.isEmpty then .run (.scalarTrap (BitVec.ofNat 8 (causeCode p.cause)) p.val p.xpc) s else vqTurn s)
  | none, none, none => none

/-- The acting strand's turn. -/
def strandTurn (s : State) : Chosen :=
  if yieldDue s.strand then .run .waitYield s
  else (trapTurn s).getD (if vqGoes s then vqTurn s else scalarTurn s)

/-- Make a bound strand the acting one. -/
def actAs (t : Strand) (rest : List Strand) (s : State) : State :=
  { s with strand := t, others := (if s.strand.bound then rest ++ [s.strand] else rest), slice := 0 }

/-- The strand with the lowest number. -/
def lowest (l : List Strand) : Option Strand :=
  l.foldl (fun o t => match o with
    | some x => if t.id.toNat < x.id.toNat then some t else o
    | none => some t) none

/-- The next strand that can run, in the order of strand numbers, which is the slot order of each core (R296), becomes the
acting one. -/
def rotate (s : State) : State :=
  let l := s.others.filter runs
  match (lowest (l.filter fun t => decide (s.strand.id.toNat < t.id.toNat))).or (lowest l) with
  | some t => actAs t (s.others.erase t) s
  | none => s

/-- A strand stalls: all that it could go on with waits. -/
def stalls (t : Strand) : Bool := t.scalarWait.isSome && (t.vq.isEmpty || t.vqWait.isSome)

/-- The acting strand after its slice: another one, when it has had 16 turns, stalls in what it last did, or cannot run (R296). -/
def nextStrand (s : State) : State :=
  let s1 := if !runs s.strand || decide (16 ≤ s.slice) || stalls s.strand then rotate s else s
  { s1 with slice := s1.slice + 1 }

-- ## Events that the units have ready

/-- Something a unit has ready. -/
inductive Job where
  | event (i : Instr)
  | age (f : Nat)
  | windows
  | count
  | host
  | carry (m : Msg)

/-- The event of a message. -/
def msgEvent (m : Msg) : Job :=
  match m.kind with
  | .gets => .event (.homeGets m)
  | .getx => .event (.homeGetx m)
  | .putd => .event (.homePutd m)
  | .push => .event (.homePush m)
  | .claim => .event (.homeClaim m)
  | .unc => .event (.homeUnc m)
  | .none => .event (.homeMem m.line)
  | .add | .quit => .carry m
  | .inv => if m.dst = 16 then .carry m else .event (.clusterInv m)
  | .upd => if m.dst = 16 then .carry m else .event (.clusterUpd m)
  | .data => .event (.clusterData m)
  | .ack => .event (if m.dst = atHome then .homeInvAck m else .clusterAck m)
  | .nack => .event (.clusterNack m)

/-- What the protocol engine has ready. -/
def engineJobs (s : State) : List Job :=
  (s.net.head?.map msgEvent).toList ++ ((refusedPub s).map fun x => Job.event (.nackBackoffRetry x.1 x.2 .pub)).toList ++
    s.chains.map fun c => .event (.scatterAddChainClose c.addr)

/-- What a Reel channel has ready. -/
def channelJobs (s : State) (cl ch : Nat) : List Job :=
  match reelHead s cl ch with
  | none => []
  | some j =>
    if (channelAt s cl ch).jobs.any fun j => j.cancel && !j.stop && j.todo.isEmpty then [.event (.reelCancel cl ch)]
    else if reelDone s cl j && j.wait.isNone then [.event (.reelComplete cl ch)]
    else if canStep j && decide (j.step < stepsOf s cl j) then
      [.event (match j.pair with
        | some k => .slabMoveStep cl k
        | none => .reelStep cl ch)]
    else []

/-- What the lookup queue has ready. -/
def lookupJobs (s : State) (cl : Nat) (c : ClusterState) : List Job :=
  if c.lk.any fun j => j.cancel && j.state != .complete then [.event (.lkJobCancel cl)]
  else if c.lk.any lkDone then [.event (.lkJobComplete cl)]
  else
    match runningJob s cl, nextJob s cl with
    | some j, n =>
      if canRun s cl j then [.event (.lkSegment cl)]
      else if (n.map fun x => canRun s cl x).getD false then [.event (.lkJobSuspend cl)]
      else []
    | none, some _ => [.event (.lkJobStart cl)]
    | none, none => []

/-- What the Bridle has ready; a part whose group is this module alone has no peers to wait for. -/
def bridleJobs (s : State) (cl : Nat) (o : BridleOp) : List Job :=
  let id := o.id.toNat
  if o.cancel && !o.stop then [.event (.collectiveFail cl id 5)]
  else if opDone o && o.wait.isNone then [.event (.collectiveComplete cl id)]
  else if o.peers.isNone then
    (if o.seq.disp && o.members == [myGlobal s] then [.event (.collectiveCheck cl id [])] else [])
  else
    match (List.range (granulesOf o)).find? (fun g => !o.written.contains g) with
    | some g => if o.wait.isNone then [.event (.collectiveGranule cl id g)] else []
    | none => []

/-- What a cluster's engines have ready. -/
def clusterJobs (s : State) (x : Nat × ClusterState) : List Job :=
  (if (openJobs s x.1).any fun q => !q.disp && !(bankroles s x.1).contains q && clearToStart s x.1 q then
    [.event (.jobSequencerDispatch x.1)] else []) ++
    ((List.range 4).flatMap fun ch => channelJobs s x.1 ch) ++ lookupJobs s x.1 x.2 ++ x.2.ops.flatMap fun o => bridleJobs s x.1 o

/-- A crew is to be recalled: a strand's page fault is being resolved, a context is lost, or all of it has yielded (R103, R297,
R380). -/
def toRecall (s : State) (c : Crew) : Bool :=
  let ts := (boundStrands s).filter fun t => t.crew == c.id
  !ts.isEmpty && !holdsLock s c.id &&
    (ts.any (fun t => t.fault.isSome || t.lost) || ts.all fun t => t.yielded)

/-- What a crew has ready; the quantum is 4 ms (R296). -/
def crewJobs (s : State) (c : Crew) : List Job :=
  (if !c.here.isEmpty && allArrived c then [.event (.barrierGeneration c.id)] else []) ++
    if toRecall s c then [.event (.recall c.id)]
    else if (boundStrands s).any (fun t => t.crew == c.id) && decide (c.boundAt + 4000000 ≤ nowNs s) &&
        (slotWaiters s c.cl).any fun p => decide (p ≤ c.prio) then [.event (.quantumExpiry c.id)]
    else []

/-- The flight of which a crew can be placed, of the lowest priority number, and of those the first (R296). -/
def flightToBind (s0 : State) : Option Nat :=
  let s := returnEnded s0
  [0, 1, 2, 3].findSome? fun p =>
    (s.flights.find? fun x => (placements s x).any fun y => y.1 == p).map fun x => x.no

/-- A crew to recall for one of strictly higher priority that waits for slots (R297). -/
def crewToYield (s : State) : Option Nat :=
  (s.crews.find? fun c => !holdsLock s c.id && (boundStrands s).any (fun t => t.crew == c.id) &&
    (slotWaiters s c.cl).any fun p => decide (p < c.prio)).map fun c => c.id

/-- What a flight has ready; ageing after 2 ms (R296). -/
def flightJobs (s : State) (x : Flight) : List Job :=
  if flightOver s x then [.event (.flightComplete x.no)]
  else if !x.ready && !x.shut then [.event (.flightReady x.no)]
  else if (x.ready && !x.shut && ageDue s x.prio x.readyAt && decide (x.bound < crewCount x.words)) ||
      (resumable s x.no).any fun c => ageDue s c.prio c.readyAt then [.age x.no]
  else []

/-- What a launch queue has ready. -/
def queueJobs (s : State) (k : Nat) : List Job :=
  let q := queueAt s k
  if tearingDown q then [.event (.teardownComplete k)]
  else if qBit q 0 && q.head != q.tail then [.event (.lqRecordIntake k)]
  else []

/-- A tick that is due, or a waiting tick at its deadline (R333, R334). -/
def streamJobs (s : State) (k : Nat) (x : Stream) : List Job :=
  if tickReady s k x then [.event (if deadlineDue s x then .tickSigmaDeadline k else .tickDue k)] else []

/-- What the rest of the module has ready: fault records, replies of the stack, the ingest ring, edges of 1PPS out, counts and
host accesses that wait, windows of crews that have ended, the lock's time-out (3 s, R319), and a group install. -/
def otherJobs (s : State) : List Job :=
  (if s.faultq.any fun f => !f.posted then [.event .faultRecordPost] else []) ++
    (s.stackq.head?.map fun x => Job.event (.stackReply x.stack x.port (repTag x))).toList ++
    (if s.ws.irCtl.getLsbD 0 && s.ws.irHead != s.ws.irTail then [.event .ingestEntry] else []) ++
    (if !s.ws.ppsDue.isEmpty then [.event .ppsOutEdge] else []) ++ (if !s.countq.isEmpty then [.count] else []) ++
    (if !s.hostq.isEmpty then [.host] else []) ++ (if s.crews.any (crewDone s) then [.windows] else []) ++
    (if (s.ws.lock || s.ws.slew != 0) && decide (s.ws.last + 3000000000 * 65536 ≤ s.ptime) then [.event .lockTimeout] else []) ++
    (if spgGo s && !groupBusy s (s.spgSel.toNat % 4096) then [.event .groupInstallComplete] else [])

/-- All that is ready. -/
def readyJobs (s : State) : List Job :=
  engineJobs s ++ s.clusters.flatMap (clusterJobs s) ++ s.crews.flatMap (crewJobs s) ++
    ((flightToBind s).map fun f => Job.event (.bindCrew f)).toList ++
    ((crewToYield s).map fun c => Job.event (.recall c)).toList ++ s.flights.flatMap (flightJobs s) ++
    (List.range 16).flatMap (queueJobs s) ++ (s.streams.flatMap fun x => streamJobs s x.1 x.2) ++ otherJobs s

/-- Do one of them. -/
def doJob (j : Job) (s : State) : Chosen :=
  match j with
  | .event i => .run i s
  | .age f => .done (stateOf (execPriorityAgeing f s) s)
  | .windows => .done (returnEnded s)
  | .count => .done (retryCount s)
  | .host => .done (serveHost s.hostq.length s)
  | .carry m => .done (settle (deliver m (takeMsg m s)))

/-- The units' turn: what is ready is served in rotation. -/
def unitTurn (s : State) : Option Chosen :=
  let l := readyJobs s
  match l[s.stepNo / 2 % l.length]? with
  | some j => some (doJob j s)
  | none => none

-- ## The choice

/-- A power cycle is next. -/
def startsAgain (s : State) : Bool :=
  match s.sched with
  | .powerCycle _ _ _ :: _ => true
  | _ => false

/-- An event, as an explicit schedule may name it: an instruction has words, an event has none. -/
def isEvent (i : Instr) : Bool := (encode i).isNone

/-- An entry of the explicit schedule. -/
def takeTurn (t : Turn) (s : State) : Chosen :=
  match t with
  | .event i => if isEvent i then .run i s else .done s
  | .strand k =>
    match s.others[k]? with
    | some x => .done (actAs x (s.others.eraseIdx k) s)
    | none => .done s
  | .scalar => if runs s.strand && (trapTurn s).isNone then scalarTurn s else .done s
  | .vq => if runs s.strand && s.strand.vqTrap.isNone && s.strand.refused.isNone then vqTurn s else .done s
  | .evict cl line => .done (settle (evictCopy cl line s))
  | .displace region => .done (settle (displaceRegion (slotOfLine s 0 (8 * region) 0) region s))
  | .replayed port => .done (replayDone port s)
  | .groupInstalled k g => .done (installFrom k g s)
  | .raiseSvn kind svn sig => .done (raiseSvn kind svn sig s)
  | .powerCycle m q p => .done (stateOf (execModuleReset m q p (restored s)) s)

/-- The turn of the strands, or of the units when no strand can run. -/
def strandsOrUnits (s : State) : Chosen :=
  let s1 := nextStrand s
  if runs s1.strand then strandTurn s1 else (unitTurn s1).getD (.done s1)

/-- The turn that no explicit schedule names: register writes first, then strands and units in turn. -/
def ownTurn (s : State) : Chosen :=
  match s.regq with
  | x :: r => .done (writeBytes x.1 x.2.1 x.2.2 { s with regq := r })
  | [] =>
    if s.engineTurn then
      let s1 := { s with engineTurn := false }
      (unitTurn s1).getD (strandsOrUnits s1)
    else strandsOrUnits { s with engineTurn := true }

/-- What the machine does next. -/
def select (s : State) : Chosen :=
  let s1 := clock s
  match s1.sched with
  | t :: r => takeTurn t { s1 with sched := r }
  | [] => ownTurn s1

end Sys2Proof.Machine
end

