-- ==== Sys2Proof/Machine/Step.lean ====
section
/-! DEFINITION. One step of the module, and how an instruction is placed where the next step fetches it. -/

namespace Sys2Proof.Machine

/-- One step: what is next is chosen, and the instruction or event runs. Without power nothing happens but a power cycle
(R354). -/
def step (s : State) : Host.Outcome State Fault Refusal :=
  if s.powered || startsAgain s then
    match select s with
    | .run i s1 => exec i s1
    | .done s1 => .next s1
  else .fault .poweredOff

/-- A code line with one instruction (R24 to R26). -/
def oneLine (head : BitVec 16) (tail : BitVec 96) : List Byte :=
  let n := 2 * headTl head
  leBytes 64 (1 + head.toNat * 2 ^ 16 + tail.toNat % 2 ^ (8 * n) * 2 ^ (8 * (64 - n)))

/-- Memory with a page table that maps the first GiB onto itself for every use (R280), and a code line at 0x1000. -/
def placed (line : List Byte) : Memory :=
  memWrite (memWrite (memWrite (memWrite [] 0x1000 line) 0x10000 (leBytes 8 0x11001)) 0x11000 (leBytes 8 0x12001))
    0x12000 (leBytes 8 0xDF)

/-- A strand bound in user mode on queue 0, at an address. -/
def placedStrand (pc : Word) : Strand := { Strand.unbound with bound := true, pc := pc }

/-- The state with an instruction placed as the next one that a step runs (log 5): a strand is bound to queue 0, whose page
table maps it; an instruction of the vector queue whose guard is true stands at the head of that queue. -/
def State.withFetchWord (s : State) (nbits w : Nat) : State :=
  let head := tableHead nbits w
  let tail := tableTail nbits w
  let t := placedStrand 0x1002
  let strand :=
    match classify head tail with
    | .queue h tl =>
      if guardOn (headGuard h) t then { t with pc := 0x1042, vq := [capture t h tl false] } else t
    | _ => t
  { s with
    strand := strand, others := [], mem := placed (oneLine head tail)
    queues := s.queues.setIfInBounds 0 { queueAt s 0 with pt := 0x10000 }
    cores := [], clusters := [], walks := [], regq := [], sched := [], slice := 0, engineTurn := false, powered := true }

end Sys2Proof.Machine
end

