-- ==== Sys2Proof/Safety.lean ====
section
/-! DEFINITION. What claims call a safe step, the invariants they name, and the conditions under which an instruction executes
with its own effect. -/

namespace Sys2Proof.Machine

/-- A step is safe when the machine goes on. -/
def Safe (s : State) : Prop := ∃ t, step s = .next t

/-- The memory is in its canonical form. -/
def MemOk (s : State) : Prop := Memory.wf s.mem = true

-- ## Scalar instructions

/-- A scalar instruction executes with its own effect (R20, R32 to R34, R105): its guard is true, no queued instruction
writes a register among `rs` that it reads or `ws` that it writes, and its guard, `rs` and the predicates `ps` hold no
register-file error. -/
def Ready (g : Guard) (rs ws : List (BitVec 5)) (ps : List (BitVec 3)) (s : State) : Prop :=
  guardOn g s.strand = true ∧ vqWritesAny s.strand.vq (rs ++ ws) = false ∧ upsetValue s.strand [] [g.p] = none ∧
    upsetValue s.strand rs ps = none

/-- The state after a scalar instruction whose only effect is on the strand's registers: the stream goes on at the successor
(R28). -/
def doneWith (f : Strand → Strand) (s : State) : State := advance (mapStrand f s)

/-- A scalar memory access does not wait for a queued fence or barrier (R171, R245). -/
def NoFence (s : State) : Prop := s.strand.vq.any holdsScalarMemory = false

/-- A load of `n` bytes by the acting strand is answered with `x`; the access leaves `s1`. -/
def Loads (s : State) (va : Word) (n x : Nat) (s1 : State) : Prop := loadVa (me s) (whoAmI s) va n s = .ok x s1

/-- A store of `n` bytes by the acting strand passes its checks at place `p` and is made; it leaves `s1`. -/
def Stores (s : State) (va : Word) (n v : Nat) (p : Place) (s1 : State) : Prop :=
  ∃ a, checkAccess (whoAmI s) va n .store s = .ok p a ∧
    storeChecked (me s) (whoAmI s) p (me s) (leBytes n v) va a = .ok () s1

/-- The offset in the core scratch window of an address there whose bank is in role S (R279), for an aligned access. -/
def coreScratch (s : State) (va : Word) (n off : Nat) : Prop :=
  va.toNat = 0x00FFFFFF40000000 + off ∧ off < 0x40000 ∧ va.toNat % n = 0 ∧
    coSlotOk s (whoAmI s) (off / 0x4000) = true

/-- No forwarding pair of the strand's cluster is in use (R247). -/
def NoPairs (s : State) : Prop := ∀ p ∈ (clusterAt s (myCluster s)).pairs.toList, p.state = .free

/-- The byte at a key as the acting strand sees it in scratch or host memory (R192). -/
def seen (s : State) (key : Nat) : Byte :=
  viewByte s.stores s.stepNo false (me s) (sideOf (whoAmI s)) (myCore s) key (memByte s.mem key)

/-- A transfer by the acting strand to an address passes the check of R30: the line it leads to, and the state that the check
leaves. -/
def Reaches (s : State) (a : Word) (p : Pass) (s1 : State) : Prop := targetCheck (priv s.strand) a s = .ok p s1

-- ## Vector instructions

/-- Entry `e` is at the head of the VQ. -/
def AtHead (e : VqEntry) (s : State) : Prop := s.strand.vq.head? = some e

/-- No register-file error lies in the vector registers `vs` or the masks `ms` (R105). -/
def Clean (s : State) (vs : List (BitVec 5)) (ms : List (BitVec 3)) : Prop :=
  ∀ u ∈ s.strand.upsets, ¬ (u.file = .vec ∧ ∃ r ∈ vs, u.reg = r.toNat) ∧ ¬ (u.file = .mask ∧ ∃ r ∈ ms, u.reg = r.toNat)

/-- The vector registers exist and elements of width `w` are granted (R12, R118). -/
def Granted (s : State) (rs : List (BitVec 5)) (w : Nat) : Prop := (∀ r ∈ rs, r.toNat < s.strand.nreg) ∧ w ≤ s.strand.ew

/-- The value that a B operand gives element k (R137). -/
def bValue (e : VqEntry) (b : BOp) (ty : Ty) (t : Strand) (k : Nat) : Nat :=
  match b with
  | .vec r => velem t r ty.width k
  | .scal _ => e.b.toNat % 2 ^ ty.width
  | .imm i => if ty.isSigned then (i.signExtend 64).toNat % 2 ^ ty.width else i.toNat

/-- The elements from VSTART to VL − 1 execute in ascending order, the active ones with effect `f` (R138). -/
def elementFold (m : BitVec 3) (f : Nat → Strand → Strand) (t : Strand) : Strand :=
  (span t.vstart t.vl).foldl (fun t k => if maskBit t m k then f k t else t) t

/-- The same for elements that raise FP flags: `f` gives an active element's flags and its effect. An element whose flags trap
ends the run with none; another ORs its flags into `FFLAGS` and has its effect (R127, R138). -/
def elementRun (m : BitVec 3) (f : Nat → Strand → BitVec 6 × (Strand → Strand)) (t : Strand) : Option Strand :=
  (span t.vstart t.vl).foldlM (fun t k =>
    if maskBit t m k then
      let z := f k t
      if flagTraps t z.1 then none else some (z.2 { t with fflags := t.fflags ||| z.1 })
    else some t) t

/-- Some instructions of the VQ, whole and element-wise ones, for claims about how any of them enters it. -/
def vqSample (g : Guard) (ty : Ty) (d a b : BitVec 5) (m : BitVec 3) (off : BitVec 24) : List Instr :=
  [.vcfg g d a, .setvl g d a, .setvlW g d a b, .vadd g ty d a (.vec b) m, .vabs g ty d a m, .vperm g ty d a b m, .vid g ty d m,
   .mpop g d m, .vld g ty ty d a off m, .vst g ty ty d a off m, .vopz g 0, .tshape g d a, .lkwait g d a]

/-- The instruction at the head of the VQ commits after its effect on the strand (R100). -/
def commits (f : Strand → Strand) (s : State) : State := commitVq (mapStrand f s)

-- ## Vector memory

/-- The answer of a piece of work that completes. -/
def okOf {α : Type} (r : EStateM.Result Stop State α) : Option (α × State) :=
  match r with
  | .ok a s => some (a, s)
  | .error _ _ => none

/-- Do a step for each member of a list in turn and collect the answers; none when a step stops. -/
def inTurn {α β : Type} (f : α → State → Option (β × State)) : List α → State → Option (List β × State)
  | [], s => some ([], s)
  | x :: r, s => do
    let (y, s1) ← f x s
    let (ys, s2) ← inTurn f r s1
    some (y :: ys, s2)

/-- The elements from VSTART to n − 1 in ascending order: `VSTART` names the element, and the active ones have effect `f` on
the state; none when one of them stops (R138, R163). -/
def elementSteps (m : BitVec 3) (n : Nat) (f : Nat → State → Option State) (s : State) : Option State :=
  (span s.strand.vstart n).foldlM (fun s k =>
    let s1 := mapStrand (fun t => { t with vstart := k }) s
    if m ≠ 0 ∧ s1.strand.upsets.contains ⟨.mask, m.toNat, k⟩ then none
    else if maskBit s1.strand m k then f k s1 else some s1) s

/-- Element k of a vector register read as a source, none where a register-file error lies in its bits (R105). -/
def goodElem (t : Strand) (r : BitVec 5) (w k : Nat) : Option Nat :=
  if t.upsets.any (fun u => u.file == .vec && u.reg == r.toNat && decide (k * w ≤ u.elem) && decide (u.elem < k * w + w))
  then none else some (velem t r w k)

/-- The flags of an access's conversions are delivered: none where one of them traps (R127). -/
def keepFlags (l : List FpRes) (s : State) : Option State :=
  let fl := l.foldl (fun f x => f ||| x.2) 0
  if flagTraps s.strand fl then none else some (mapStrand (fun t => { t with fflags := t.fflags ||| fl }) s)

/-- One element of a vector load (R163, R167): each field's address is checked, then each is read, once, in order; the values are
converted and written to the fields' registers. `vas`: the addresses of the fields. -/
def loadsElem (ty tyv : Ty) (r : Rm) (d : BitVec 5) (k : Nat) (vas : List Word) (s : State) : Option State := do
  let w := vecWho s
  let (ps, s1) ← inTurn (fun va s => (okOf (checkAccess w va ty.bytes .load s)).map fun x => ((x.1, va), x.2)) vas s
  let (xs, s2) ← okOf (eachOnce (uncWriter (me s) w) vas.length (fun f =>
    match ps[f]? with
    | some (p, va) => loadAt (me s) w p ty.bytes va
    | none => fun s => .ok 0 s) s1)
  let ys := xs.map (memConvert r tyv ty)
  let s3 ← keepFlags ys s2
  some (mapStrand (fun t => ys.zipIdx.foldl (fun t y =>
    putElem t (BitVec.ofNat 5 (d.toNat + y.2)) tyv.width k y.1.1) t) s3)

/-- One element of a vector store (R161, R163, R167, R270): each field's address and write is checked; the registers are read
and converted; then the fields, all of whose targets answer, are stored, once, in order, and the flags of the conversions
delivered. -/
def storesElem (ty tyv : Ty) (r : Rm) (d : BitVec 5) (k : Nat) (vas : List Word) (s : State) : Option State := do
  let w := vecWho s
  let (ps, s1) ← inTurn (fun va s => do
    let (p, a) ← okOf (checkAccess w va ty.bytes .store s)
    let (_, b) ← okOf (checkElemWrite w p va a)
    some ((p, va), b)) vas s
  let xs ← (List.range vas.length).mapM fun f => goodElem s1.strand (BitVec.ofNat 5 (d.toNat + f)) tyv.width k
  let ys := xs.map (memConvert r ty tyv)
  let _ ← keepFlags ys s1
  let (_, s2) ← okOf (unanswered (me s) w ty.bytes ps ys s1)
  let (_, s3) ← okOf (eachOnce (uncWriter (me s) w) vas.length (fun f =>
    match ps[f]? with
    | some (p, va) => done0 (storeSure false (me s) w p (leBytes ty.bytes (nthD ys f (0, flNone)).1) va)
    | none => fun s => .ok 0 s) s2)
  keepFlags ys s3

/-- One addition of a `vsadd` (R169, R270, R277): its checks, and the addition at the slice of its address, accepted there; one
write-once claim serves the entry's additions to a line. -/
def addsElem (ty : Ty) (sc : Scope) (d : BitVec 5) (k : Nat) (va : Word) (s : State) : Option State := do
  let w := vecWho s
  let (p, s1) ← okOf (addTarget w ty sc va s)
  if !reachable s1 p.key then none
  let x ← goodElem s1.strand d ty.width k
  let m := addMsg w.cl (uncWriter (me s) w) p.key (placeSlot s1 w.cl p) ty (word x) ((claimedLines s1).contains (p.key / 64))
  let (_, s2) ← okOf (arriveAdd m va s1)
  let (_, s3) ← if !m.checked && onceLine s2 w.cl p then okOf (claimLine (p.key / 64) s2) else some ((), s2)
  some (closeEager s3)

/-- The byte offset of element k in an index register of width EW (R162). -/
def indexAddr (base : Word) (b : BitVec 5) (k : Nat) (s : State) : Option Word :=
  (goodElem s.strand b s.strand.ew k).map fun x => base + word x

end Sys2Proof.Machine
end

