-- ==== Sys2Proof/Certificates/Slice0/Obligations.lean ====
section
/-! DEFINITION. What is claimed of the model: one statement per definition, its docstring with the rules it rests on. -/

open Sys2Proof Sys2Proof.Machine

-- ## Scalar integer instructions

/-- R63, R73: each three-register integer instruction that is ready writes sd with the result of the rule, computed from the
values its sources hold before, goes on at its successor, and changes nothing else. R63, R65, R68 to R72: the one-register,
immediate, field and selection instructions that are ready write sd with the result of the rule and change nothing else. For
`clz`, `ctz`, `popc` and `bfi` the result is given bit by bit. `lpc` has the sum of R71, and not the successor of which R28
speaks (log 95). R66, R67, R74: comparisons and predicate operations that are ready write the predicate of the rule and change
nothing else. -/
def Obligations.ScalarIntegerResults : Prop :=
  (∀ (g : Guard) (d a b : BitVec 5) (sh : BitVec 3) (s : State), Ready g [a, b] [d] [] s →
     let x := getS s.strand a
     let y := getS s.strand b
     let out := fun v : Word => (Host.Outcome.next (doneWith (fun t => setS t d v) s) : Out)
     exec (.add g d a b) s = out (x + y) ∧ exec (.sub g d a b) s = out (x - y) ∧ exec (.mul g d a b) s = out (x * y) ∧
     exec (.mulh g d a b) s = out (((x.signExtend 128 * y.signExtend 128) >>> 64).setWidth 64) ∧
     exec (.mulhn g d a b) s = out (((x.setWidth 128 * y.setWidth 128) >>> 64).setWidth 64) ∧
     exec (.and g d a b) s = out (x &&& y) ∧ exec (.or g d a b) s = out (x ||| y) ∧ exec (.xor g d a b) s = out (x ^^^ y) ∧
     exec (.andn g d a b) s = out (x &&& ~~~y) ∧ exec (.orn g d a b) s = out (x ||| ~~~y) ∧
     exec (.min g d a b) s = out (if x.toInt ≤ y.toInt then x else y) ∧
     exec (.max g d a b) s = out (if x.toInt ≤ y.toInt then y else x) ∧
     exec (.minn g d a b) s = out (if x.toNat ≤ y.toNat then x else y) ∧
     exec (.maxn g d a b) s = out (if x.toNat ≤ y.toNat then y else x) ∧
     exec (.shl g d a b) s = out (x <<< (y.toNat % 64)) ∧ exec (.shr g d a b) s = out (x >>> (y.toNat % 64)) ∧
     exec (.sar g d a b) s = out (x.sshiftRight (y.toNat % 64)) ∧ exec (.rot g d a b) s = out (x.rotateLeft (y.toNat % 64)) ∧
     exec (.lea g d a b sh) s = out (x + y <<< sh.toNat)) ∧
  (∀ (g : Guard) (d a b : BitVec 5) (c : BitVec 3) (ty : Ty) (pos len1 : BitVec 6) (imm : BitVec 22) (imm64 : Word) (s : State),
     let x := getS s.strand a
     let out := fun v : Word => (Host.Outcome.next (doneWith (fun t => setS t d v) s) : Out)
     let field := x.toNat / 2 ^ pos.toNat % 2 ^ (len1.toNat + 1)
     (Ready g [a] [d] [] s →
       (∃ n ≤ 64, exec (.clz g d a) s = out (BitVec.ofNat 64 n) ∧ (∀ i < n, x.getMsbD i = false) ∧
         (n < 64 → x.getMsbD n = true)) ∧
       (∃ n ≤ 64, exec (.ctz g d a) s = out (BitVec.ofNat 64 n) ∧ (∀ i < n, x.getLsbD i = false) ∧
         (n < 64 → x.getLsbD n = true)) ∧
       exec (.popc g d a) s = out (BitVec.ofNat 64 ((List.range 64).countP fun i => x.getLsbD i)) ∧
       exec (.ext g d a ty) s = out (if ty.isSigned then BitVec.signExtend 64 (x.setWidth ty.width)
         else BitVec.setWidth 64 (x.setWidth ty.width)) ∧
       exec (.bfx g d a pos len1 false) s = out (BitVec.ofNat 64 field) ∧
       exec (.bfx g d a pos len1 true) s = out (BitVec.signExtend 64 (BitVec.ofNat (len1.toNat + 1) field)) ∧
       exec (.addi g d a imm) s = out (x + imm.signExtend 64) ∧ exec (.andi g d a imm) s = out (x &&& imm.signExtend 64) ∧
       exec (.ori g d a imm) s = out (x ||| imm.setWidth 64) ∧ exec (.xori g d a imm) s = out (x ^^^ imm.setWidth 64)) ∧
     (Ready g [a, d] [d] [] s →
       ∃ v : Word, exec (.bfi g d a pos len1) s = out v ∧ ∀ i < 64, v.getLsbD i =
         (if pos.toNat ≤ i ∧ i < pos.toNat + (len1.toNat + 1) then x.getLsbD (i - pos.toNat)
          else (getS s.strand d).getLsbD i)) ∧
     (Ready g [a, b] [d] [c] s → exec (.sel g d a b c) s = out (if getP s.strand c then x else getS s.strand b)) ∧
     (Ready g [] [d] [] s →
       exec (.li g d imm64) s = out imm64 ∧ exec (.lpc g d imm) s = out ((s.strand.pc &&& ~~~63#64) + imm.signExtend 64))) ∧
  (∀ (g : Guard) (d p q : BitVec 3) (a b : BitVec 5) (imm : BitVec 18) (s : State),
     let x := getS s.strand a
     let y := getS s.strand b
     let is := imm.signExtend 64
     let iz := imm.setWidth 64
     let out := fun v : Bool => (Host.Outcome.next (doneWith (fun t => setP t d v) s) : Out)
     let cmp := fun cc => exec (.cmp g cc d a b) s
     let cmpi := fun cc => exec (.cmpi g cc d a imm) s
     let pop := fun op => exec (.pop g op d p q) s
     (Ready g [a, b] [] [] s →
      cmp .eq = out (decide (x = y)) ∧ cmp .ne = out (decide (x ≠ y)) ∧ cmp .lt = out (decide (x.toInt < y.toInt)) ∧
      cmp .ge = out (decide (y.toInt ≤ x.toInt)) ∧ cmp .le = out (decide (x.toInt ≤ y.toInt)) ∧
      cmp .gt = out (decide (y.toInt < x.toInt)) ∧ cmp .ltn = out (decide (x.toNat < y.toNat)) ∧
      cmp .gen = out (decide (y.toNat ≤ x.toNat)) ∧ cmp .len = out (decide (x.toNat ≤ y.toNat)) ∧
      cmp .gtn = out (decide (y.toNat < x.toNat))) ∧
     (Ready g [a] [] [] s →
      cmpi .eq = out (decide (x = is)) ∧ cmpi .ne = out (decide (x ≠ is)) ∧ cmpi .lt = out (decide (x.toInt < is.toInt)) ∧
      cmpi .ge = out (decide (is.toInt ≤ x.toInt)) ∧ cmpi .le = out (decide (x.toInt ≤ is.toInt)) ∧
      cmpi .gt = out (decide (is.toInt < x.toInt)) ∧ cmpi .ltn = out (decide (x.toNat < iz.toNat)) ∧
      cmpi .gen = out (decide (iz.toNat ≤ x.toNat)) ∧ cmpi .len = out (decide (x.toNat ≤ iz.toNat)) ∧
      cmpi .gtn = out (decide (iz.toNat < x.toNat))) ∧
     (Ready g [] [] [p, q] s →
      pop .and = out (getP s.strand p && getP s.strand q) ∧ pop .or = out (getP s.strand p || getP s.strand q) ∧
      pop .xor = out (xor (getP s.strand p) (getP s.strand q)) ∧ pop .andn = out (getP s.strand p && !getP s.strand q) ∧
      pop .not = out (!getP s.strand p)))

/-- R64: the division instructions write the quotient and the remainder of the rule, for a zero divisor and for the overflowing
quotient too, and none of them traps or changes anything else. -/
def Obligations.DivisionResults : Prop :=
  ∀ (g : Guard) (d a b : BitVec 5) (s : State), Ready g [a, b] [d] [] s →
    let x := getS s.strand a
    let y := getS s.strand b
    let out := fun v : Word => (Host.Outcome.next (doneWith (fun t => setS t d v) s) : Out)
    let ovf := x = BitVec.intMin 64 ∧ y = BitVec.allOnes 64
    let q : Word := if y = 0 then 0xFFFFFFFFFFFFFFFF else if ovf then BitVec.intMin 64
      else BitVec.ofInt 64 (x.toInt.tdiv y.toInt)
    let qn : Word := if y = 0 then 0xFFFFFFFFFFFFFFFF else BitVec.ofNat 64 (x.toNat / y.toNat)
    exec (.div g d a b) s = out q ∧ exec (.divn g d a b) s = out qn ∧
    exec (.rem g d a b) s = out (if y = 0 then x else if ovf then 0 else x - q * y) ∧
    exec (.remn g d a b) s = out (if y = 0 then x else x - qn * y)

-- ## Scalar floating point

/-- R75 to R79, R81 to R83, R125: a ready floating-point instruction whose flags enable no trap ORs its flags into `FFLAGS`,
writes the result rounded in the mode that RM or `FRM` selects, and changes nothing else. R77, R80: `fcmp` of a state whose
flags enable no trap ORs its flags into `FFLAGS` and writes the predicate of the rule; NV is the only flag, raised by a
signalling NaN, and for `.lt` and `.le` by any NaN. With a trap enabled it raises *FP trap*, its flags delivered when the trap
is taken. R77, R97, R101: a ready floating-point instruction that raises a flag with its `FTE` bit set leaves its destination
and raises *FP trap* with the flags as its value. With an empty VQ and a valid handler the trap is taken, and `FFLAGS` then has
its flags; behind older entries it is held, and `FFLAGS` stays as it was until they have drained. -/
def Obligations.ScalarFpResults : Prop :=
  (∀ (g : Guard) (f : FFmt) (rm r : Rm) (dty sty : Ty) (d a b c : BitVec 5) (s : State),
     let k := fmtOf (ffmtTy f)
     let x := (getS s.strand a).toNat % 2 ^ k.w
     let y := (getS s.strand b).toNat % 2 ^ k.w
     let z := (getS s.strand c).toNat % 2 ^ k.w
     let writes := fun (fl : BitVec 6) (v : Word) =>
       (Host.Outcome.next (doneWith (fun t => setS { t with fflags := t.fflags ||| fl } d v) s) : Out)
     (Ready g [a, b] [d] [] s → rmode rm s.strand.frm = some r →
       ∀ p ∈ [(Instr.fadd g f rm d a b, fpAdd k r x y), (.fsub g f rm d a b, fpSub k r x y),
              (.fmul g f rm d a b, fpMul k r x y), (.fdiv g f rm d a b, fpDiv k r x y)],
         flagTraps s.strand p.2.2 = false → exec p.1 s = writes p.2.2 (word p.2.1)) ∧
     (Ready g [a, b, c] [d] [] s → rmode rm s.strand.frm = some r → flagTraps s.strand (fpFma k r x y z).2 = false →
       exec (.fma g f rm d a b c) s = writes (fpFma k r x y z).2 (word (fpFma k r x y z).1)) ∧
     (Ready g [a] [d] [] s → rmode rm s.strand.frm = some r → flagTraps s.strand (fpSqrt k r x).2 = false →
       exec (.fsqrt g f rm d a) s = writes (fpSqrt k r x).2 (word (fpSqrt k r x).1)) ∧
     (Ready g [a] [d] [] s → rmode rm s.strand.frm = some r →
       let q := convert r dty sty ((getS s.strand a).toNat % 2 ^ sty.width)
       flagTraps s.strand q.2 = false → exec (.fcvt g dty sty rm d a) s = writes q.2 (toReg dty q.1)) ∧
     (Ready g [a, b] [d] [] s →
       ∀ p ∈ [(Instr.fmin g f d a b, fpMin k x y), (.fmax g f d a b, fpMaxN k x y)],
         flagTraps s.strand p.2.2 = false → exec p.1 s = writes p.2.2 (word p.2.1)) ∧
     (Ready g [a] [d] [] s → exec (.fclass g f d a) s = .next (doneWith (fun t => setS t d (word (fpClass k x))) s))) ∧
  (∀ (g : Guard) (f : FFmt) (cc : FCond) (d : BitVec 3) (a b : BitVec 5) (s : State), Ready g [a, b] [] [] s →
     let k := fmtOf (ffmtTy f)
     let x := fpRead k ((getS s.strand a).toNat % 2 ^ k.w)
     let y := fpRead k ((getS s.strand b).toNat % 2 ^ k.w)
     let un := isNan x || isNan y
     let nv := if cc = .lt ∨ cc = .le then un else isSnan x || isSnan y
     let fl : BitVec 6 := if nv then 16 else 0
     let v := match cc with
       | .eq => !un && valCmp x y == .eq
       | .ne => un || valCmp x y != .eq
       | .lt => !un && valCmp x y == .lt
       | .le => !un && valCmp x y != .gt
       | .un => un
       | .ord => !un
     (flagTraps s.strand fl = false → exec (.fcmp g f cc d a b) s =
       .next (doneWith (fun t => setP { t with fflags := t.fflags ||| fl } d v) s)) ∧
     (flagTraps s.strand fl = true → exec (.fcmp g f cc d a b) s =
       .next (raiseWith s.strand.fflags .fpTrap (fl.setWidth 64) s.strand.pc
         (mapStrand (fun t => { t with fflags := t.fflags ||| fl }) s)))) ∧
  (∀ (g : Guard) (f : FFmt) (rm r : Rm) (dty sty : Ty) (d a b c : BitVec 5) (s : State), s.strand.pendTrap = none →
     let k := fmtOf (ffmtTy f)
     let x := (getS s.strand a).toNat % 2 ^ k.w
     let y := (getS s.strand b).toNat % 2 ^ k.w
     let z := (getS s.strand c).toNat % 2 ^ k.w
     let traps := fun (i : Instr) (fl : BitVec 6) => fl &&& s.strand.status.extractLsb' 0 6 ≠ 0 →
       (∀ q s1, s.strand.vq = [] → targetCheck true s.strand.xvec s = .ok q s1 → ∃ t, exec i s = .next t ∧
         t.strand.fflags = s.strand.fflags ||| fl ∧ t.strand.xcause = word (causeCode .fpTrap) ∧
         t.strand.xval = fl.setWidth 64 ∧ t.strand.xpc = s.strand.pc ∧ t.strand.pc = s.strand.xvec ∧
         (∀ r, getS t.strand r = getS s.strand r) ∧ t = { abandonAll s1 with strand := t.strand }) ∧
       (s.strand.vq ≠ [] → exec i s = .next (mapStrand (fun t => { t with
         pendTrap := some ⟨.fpTrap, fl.setWidth 64, s.strand.pc, s.strand.fflags ||| fl⟩, scalarWait := none }) s))
     (rmode rm s.strand.frm = some r →
       (Ready g [a, b] [d] [] s → ∀ p ∈ [(Instr.fadd g f rm d a b, fpAdd k r x y), (.fsub g f rm d a b, fpSub k r x y),
           (.fmul g f rm d a b, fpMul k r x y), (.fdiv g f rm d a b, fpDiv k r x y)], traps p.1 p.2.2) ∧
       (Ready g [a, b, c] [d] [] s → traps (.fma g f rm d a b c) (fpFma k r x y z).2) ∧
       (Ready g [a] [d] [] s → traps (.fsqrt g f rm d a) (fpSqrt k r x).2 ∧
         traps (.fcvt g dty sty rm d a) (convert r dty sty ((getS s.strand a).toNat % 2 ^ sty.width)).2)) ∧
     (Ready g [a, b] [d] [] s → traps (.fmin g f d a b) (fpMin k x y).2 ∧ traps (.fmax g f d a b) (fpMaxN k x y).2))

-- ## Scalar loads and stores

/-- R85, R86: a ready load whose access is answered writes sd with the value, sign-extended for i types and zero-extended for
others, in the state that the access leaves; so does a ready store for its bytes. R85: a load or store first checks bits 63:57
of its address (a page fault), then its alignment (*misaligned*); either leaves the address as the trap's value and makes no
access. -/
def Obligations.LoadStoreResults : Prop :=
  (∀ (g : Guard) (ty : Ty) (d a : BitVec 5) (off : BitVec 24) (v : Nat) (p : Place) (s s1 : State), NoFence s →
     let va := getS s.strand a + off.signExtend 64
     (Ready g [a] [d] [] s → Loads s va ty.bytes v s1 →
       exec (.ld g ty d a off) s = .next (doneWith (fun t => setS t d
         (if ty.isSigned then (BitVec.ofNat ty.width v).signExtend 64 else (BitVec.ofNat ty.width v).setWidth 64)) s1)) ∧
     (Ready g [a, d] [] [] s → Stores s va ty.bytes (getS s.strand d).toNat p s1 →
       exec (.st g ty d a off) s = .next (advance s1))) ∧
  (∀ (g : Guard) (ty : Ty) (d a : BitVec 5) (off : BitVec 24) (s : State), NoFence s →
     let va := getS s.strand a + off.signExtend 64
     (Ready g [a] [d] [] s → va.toNat / 2 ^ 57 ≠ 0 →
       exec (.ld g ty d a off) s = .next (raiseScalar .loadFault va s.strand.pc s)) ∧
     (Ready g [a, d] [] [] s → va.toNat / 2 ^ 57 ≠ 0 →
       exec (.st g ty d a off) s = .next (raiseScalar .storeFault va s.strand.pc s)) ∧
     (Ready g [a] [d] [] s → va.toNat / 2 ^ 57 = 0 → va.toNat % ty.bytes ≠ 0 →
       exec (.ld g ty d a off) s = .next (raiseScalar .misaligned va s.strand.pc s)) ∧
     (Ready g [a, d] [] [] s → va.toNat / 2 ^ 57 = 0 → va.toNat % ty.bytes ≠ 0 →
       exec (.st g ty d a off) s = .next (raiseScalar .misaligned va s.strand.pc s)))

/-- R85, R86, R279: in the core scratch window a ready aligned load of a bank in role S completes with the bytes that the
strand sees there; a ready aligned store completes, the strand then sees the stored bytes there and every other byte as before,
and the store's frame holds: no other part of the state changes. -/
def Obligations.ScratchLoadStore : Prop :=
  ∀ (g : Guard) (ty : Ty) (d a : BitVec 5) (off : BitVec 24) (o : Nat) (s : State), NoFence s → NoPairs s →
    coreScratch s (getS s.strand a + off.signExtend 64) ty.bytes o →
    let key := coKey (myCore s) o
    (Ready g [a] [d] [] s → poisoned s key ty.bytes = false →
      exec (.ld g ty d a off) s = .next (doneWith (fun t => setS t d
        (toReg ty (leNat ((List.range ty.bytes).map fun k => seen s (key + k))))) s)) ∧
    (Ready g [a, d] [] [] s → ∃ t, exec (.st g ty d a off) s = .next t ∧
      (∀ k < ty.bytes, seen t (key + k) = BitVec.ofNat 8 ((getS s.strand d).toNat / 256 ^ k)) ∧
      (∀ j, j < key ∨ key + ty.bytes ≤ j → seen t j = seen s j) ∧
      t = advance { s with stores := t.stores })

-- ## Control transfers

/-- R38, R87 to R89: a ready transfer whose target passes the check of R30 goes on at the target, in the line checked; `jal`
and `jr` write their link after the check, and `dbnz` its counter; a counter that becomes 0 falls through. R30, R87 to R89: a
transfer to an address that is not the form of an instruction address, or beyond the address space, raises *bad target* with
the target as its value, and so does one with slot 31 in its word; a target that fails its check in another way raises the
fault of the check. No register changes: neither the link nor the counter. -/
def Obligations.TransferResults : Prop :=
  (∀ (g : Guard) (d a : BitVec 5) (c : BitVec 3) (dl : BitVec 24) (sl : BitVec 5) (p : Pass) (s s1 : State),
     let near := (s.strand.pc &&& ~~~63#64) + dl.signExtend 64 * 64 + 2 + 2 * sl.setWidth 64
     let ctr : BitVec 5 := 12 + c.setWidth 5
     let enter := fun (tgt : Word) (f : Strand → Strand) =>
       (Host.Outcome.next (mapStrand (fun t => goTo tgt (f { t with pass := some p })) s1) : Out)
     (Ready g [] [] [] s → Reaches s near p s1 → exec (.br g dl sl) s = enter near id) ∧
     (Ready g [] [1] [] s → Reaches s near p s1 →
       exec (.jal g dl sl) s = enter near (fun t => setS t 1 (successor s.strand))) ∧
     (Ready g [a] [d] [] s → Reaches s (getS s.strand a) p s1 →
       exec (.jr g d a) s = enter (getS s.strand a) (fun t => setS t d (successor s.strand))) ∧
     (Ready g [1] [] [] s → Reaches s (getS s.strand 1) p s1 → exec (.ret g) s = enter (getS s.strand 1) id) ∧
     (Ready g [ctr] [ctr] [] s → getS s.strand ctr ≠ 1 → Reaches s near p s1 →
       exec (.dbnz g c dl sl) s = enter near (fun t => setS t ctr (getS s.strand ctr - 1))) ∧
     (Ready g [ctr] [ctr] [] s → getS s.strand ctr = 1 →
       exec (.dbnz g c dl sl) s = .next (doneWith (fun t => setS t ctr 0) s))) ∧
  (∀ (g : Guard) (d a : BitVec 5) (c : BitVec 3) (dl : BitVec 24) (sl : BitVec 5) (s : State),
     let near := (s.strand.pc &&& ~~~63#64) + dl.signExtend 64 * 64 + 2 + 2 * sl.setWidth 64
     let ctr : BitVec 5 := 12 + c.setWidth 5
     let bad := fun (i : Instr) (tgt : Word) =>
       (tgt.toNat % 2 ≠ 0 ∨ tgt.toNat % 64 < 2 ∨ tgt.toNat / 2 ^ 57 ≠ 0 →
         exec i s = .next (raiseScalar .badTarget tgt s.strand.pc s)) ∧
       (∀ e v s1, targetCheck (priv s.strand) tgt s = .error (.trap e v) s1 →
         exec i s = .next (raiseWith s.strand.fflags e v s.strand.pc s1))
     (near.toNat % 64 = (2 + 2 * sl.toNat) % 64) ∧
     (Ready g [] [] [] s → bad (.br g dl sl) near) ∧
     (Ready g [] [1] [] s → bad (.jal g dl sl) near) ∧
     (Ready g [a] [d] [] s → bad (.jr g d a) (getS s.strand a)) ∧
     (Ready g [1] [] [] s → bad (.ret g) (getS s.strand 1)) ∧
     (Ready g [ctr] [ctr] [] s → getS s.strand ctr ≠ 1 → bad (.dbnz g c dl sl) near))

-- ## CSRs

/-- R14, R90, R91: a CSR instruction that passes the checks and waits of its CSR reads the CSR into sd; `csrwr`, `csrset` and
`csrclr` write the value of their operation through the access codes of the CSR; with s0 as sd none of them reads it. R14:
before its guard is looked at, a CSR instruction that names an unassigned number raises *illegal instruction*, and in user mode
one that names a number from 0x100 to 0x1FF raises *privileged*. -/
def Obligations.CsrResults : Prop :=
  (∀ (g : Guard) (d a : BitVec 5) (n : BitVec 12) (s : State), csrAssigned n.toNat = true → csrLaunches n.toNat = false →
     (0x100 ≤ n.toNat ∧ n.toNat ≤ 0x1FF → priv s.strand = true) →
     (n.toNat = 0x010 → s.strand.vq = []) → csrBusy s.strand n.toNat = false →
     let old := csrValue s n.toNat
     let x := getS s.strand a
     (Ready g [] [d] [] s → exec (.csrrd g d n) s = .next (doneWith (fun t => setS t d old) (csrLatch n.toNat s))) ∧
     (Ready g [a] [d] [] s → (n.toNat = 0x203 ∨ n.toNat = 0x205 → s.strand.vq = []) →
       exec (.csrwr g d n a) s = .next (doneWith (fun t => setS (csrStore n.toNat x x t) d (if d = 0 then 0 else old))
         (if d = 0 then s else csrLatch n.toNat s)) ∧
       exec (.csrset g d n a) s = .next (doneWith (fun t => setS (csrStore n.toNat (old ||| x) x t) d old)
         (if d = 0 then s else csrLatch n.toNat s)) ∧
       exec (.csrclr g d n a) s = .next (doneWith (fun t => setS (csrStore n.toNat (old &&& ~~~x) x t) d old)
         (if d = 0 then s else csrLatch n.toNat s)))) ∧
  (∀ (g : Guard) (d a : BitVec 5) (n : BitVec 12) (s : State),
     ∀ i ∈ [Instr.csrrd g d n, .csrwr g d n a, .csrset g d n a, .csrclr g d n a],
       (csrAssigned n.toNat = false → exec i s = .next (raiseScalar .illegal (headWord i) s.strand.pc s)) ∧
       (csrAssigned n.toNat = true → 0x100 ≤ n.toNat → n.toNat ≤ 0x1FF → priv s.strand = false →
         exec i s = .next (raiseScalar .privileged (headWord i) s.strand.pc s)))

/-- R16, R17, R101: after a write of a CSR that holds its writable bits, it reads as those bits of the value; a user-mode write
of `STATUS` sets the trap enables and `WTE` and leaves the mode bits. -/
def Obligations.CsrReadsBack : Prop :=
  ∀ (v a : Word) (s : State),
    (∀ p ∈ [(0x010, 6), (0x011, 3), (0x100, 64), (0x101, 64), (0x102, 9), (0x103, 64), (0x104, 64), (0x105, 64), (0x205, 64),
            (0x300, 57), (0x301, 57), (0x302, 48), (0x303, 63), (0x304, 63), (0x500, 57), (0x501, 57), (0x502, 29),
            (0x503, 64)],
      csrValue (mapStrand (csrStore p.1 v a) s) p.1 = word (v.toNat % 2 ^ p.2)) ∧
    (let st := csrValue (mapStrand (csrStore 0x012 v a) s) 0x012
     (∀ i < 7, st.getLsbD i = v.getLsbD i) ∧ st.getLsbD 8 = s.strand.status.getLsbD 8 ∧
     st.getLsbD 9 = (if s.strand.status.getLsbD 8 then v.getLsbD 9 else s.strand.status.getLsbD 9) ∧
     ∀ i < 64, i = 7 ∨ 10 ≤ i → st.getLsbD i = false) ∧
    (∀ n ∈ [0x000, 0x001, 0x002, 0x003, 0x008, 0x009, 0x200, 0x201, 0x202, 0x204, 0x307, 0x380, 0x382, 0x400, 0x401, 0x402],
      csrStore n v a s.strand = s.strand)

-- ## Traps, return and the end of a strand

/-- R92, R97, R101: `sys` and `trap` with an empty VQ enter the handler at `XVEC`: `XPC` is the successor, `XVCP` is 0,
`XCAUSE` the cause, `XVAL` the immediate, the mode is supervisor with the old mode saved, and no other part of the strand
changes but what an instruction in progress held; without a valid target at `XVEC` the context is lost, and while its line's
host page is being translated the trap stands. Behind older entries of the VQ the trap is held with the same values until they
have drained. With the guard false neither instruction traps. Their words have zero D and A and the immediate above. -/
def Obligations.SoftTraps : Prop :=
  (∀ (h : BitVec 16) (tl : BitVec 96) (i : Instr), decode h tl = .ok i →
    (headOp h = 0xD0 → tl.extractLsb' 0 10 = 0 ∧ i = .sys (headGuard h) (tl.extractLsb' 10 22)) ∧
    (headOp h = 0xD1 → tl.extractLsb' 0 10 = 0 ∧ i = .trap (headGuard h) (tl.extractLsb' 10 22))) ∧
  (∀ (g : Guard) (imm : BitVec 22) (s : State), upsetValue s.strand [] [g.p] = none → s.strand.pendTrap = none →
    ∀ x ∈ [(Instr.sys g imm, 0x13, Cause.systemCall), (.trap g imm, 0x12, Cause.breakpoint)],
      (guardOn g s.strand = true → s.strand.vq = [] →
        (∀ p s1, targetCheck true s.strand.xvec s = .ok p s1 → ∃ t, exec x.1 s = .next t ∧
          t.strand = { s.strand with
            status := t.strand.status, xcause := x.2.1, xval := imm.setWidth 64, xpc := successor s.strand, xvcp := 0
            pc := s.strand.xvec, pass := some p, scalarWait := none, vqWait := none, pendTrap := none, vqTrap := none
            returning := none, watch := 0, place := none } ∧
          priv t.strand = true ∧ ppriv t.strand = priv s.strand ∧
          (∀ i < 7, t.strand.status.getLsbD i = s.strand.status.getLsbD i) ∧
          t = { abandonAll s1 with strand := t.strand }) ∧
        (∀ c v s1, targetCheck true s.strand.xvec s = .error (.trap c v) s1 → ∃ t, exec x.1 s = .next t ∧
          t.strand.stopped = true ∧ t.strand.lost = true) ∧
        (∀ k s1, targetCheck true s.strand.xvec s = .error (.wait k) s1 → exec x.1 s = .next (waitScalar .ats
          (mapStrand (fun t => { t with
            pendTrap := some ⟨x.2.2, imm.setWidth 64, successor s.strand, s.strand.fflags⟩ }) s)))) ∧
      (guardOn g s.strand = true → s.strand.vq ≠ [] → exec x.1 s = .next (mapStrand (fun t => { t with
        pendTrap := some ⟨x.2.2, imm.setWidth 64, successor s.strand, s.strand.fflags⟩, scalarWait := none }) s)) ∧
      (guardOn g s.strand = false → exec x.1 s = .next (advance s)))

/-- R93, R107: a ready `eret` in supervisor mode whose `XPC` passes the check in the saved mode restores that mode, clears the
saved one, and goes on at `XPC`; with `XCAUSE` bit 8 set and an empty VQ the saved queue becomes the VQ, with bit 8 clear the
saved queue stays. With bit 8 set and entries in the VQ the mode changes and the `eret` waits; when they have committed it goes
on without another check. -/
def Obligations.EretReturns : Prop :=
  ∀ (g : Guard) (s : State), Ready g [] [] [] s →
    let x := s.strand
    let returned := fun (t s1 : State) (p : Pass) => t = { s1 with strand := t.strand } ∧ t.strand.pc = x.xpc ∧
      t.strand.pass = some p ∧ t.strand.returning = none ∧
      (x.xcause.getLsbD 8 = true → t.strand.vq = x.vq ++ x.saved ∧ t.strand.saved = []) ∧
      (x.xcause.getLsbD 8 = false → t.strand.vq = x.vq ∧ t.strand.saved = x.saved) ∧
      (∀ r, getS t.strand r = getS x r) ∧ (∀ r, getP t.strand r = getP x r) ∧ t.strand.vregs = x.vregs ∧
      t.strand.masks = x.masks ∧ t.strand.vstart = x.vstart ∧ t.strand.fflags = x.fflags ∧ t.strand.xpc = x.xpc ∧
      t.strand.xcause = x.xcause ∧ (∀ i < 7, t.strand.status.getLsbD i = x.status.getLsbD i)
    (∀ p s1, x.returning = none → priv x = true → targetCheck (ppriv x) x.xpc s = .ok p s1 →
      (x.xcause.getLsbD 8 = true → x.vq = [] ) → ∃ t, exec (.eret g) s = .next t ∧ returned t s1 p ∧
        priv t.strand = ppriv x ∧ ppriv t.strand = false) ∧
    (∀ p s1, x.returning = none → priv x = true → targetCheck (ppriv x) x.xpc s = .ok p s1 →
      x.xcause.getLsbD 8 = true → x.vq ≠ [] → ∃ t, exec (.eret g) s = .next t ∧ priv t.strand = ppriv x ∧
        ppriv t.strand = false ∧ t.strand.returning = some (p, x.status) ∧ t.strand.pc = x.pc ∧ t.strand.vq = x.vq ∧
        t.strand.saved = x.saved ∧ t = { s1 with strand := t.strand }) ∧
    (∀ p st, x.returning = some (p, st) →
      (x.vq = [] → ∃ t, exec (.eret g) s = .next t ∧ returned t s p ∧ t.strand.status = x.status) ∧
      (x.vq ≠ [] → exec (.eret g) s = .next (waitScalar .drain s)))

/-- R42: in user mode a supervisor-only instruction whose guard is true raises *privileged* with its head as the value,
whatever its registers hold; with its guard false it has no effect. A ready user-mode `bankrole` raises it just for the changes
other than between S and F on a bank of the crew's own window (R189), where it goes on to wait for an empty VQ; that the role
which the bank already has may be asked for is the model's choice (log 77). -/
def Obligations.SupervisorOnly : Prop :=
  (∀ (g : Guard) (d a b c : BitVec 5) (slot : BitVec 3) (v hc : Bool) (s : State), priv s.strand = false →
    s.strand.returning = none → upsetValue s.strand [] [g.p] = none →
    ∀ i ∈ [Instr.eret g, .tlbinv g d a b, .ctxsave g d a, .ctxload g d a, .rangeset g d a b c slot v hc,
           .rangesetQ g d a b c slot v hc, .rangerd g d a, .prtload g d a b, .strmset g d a b],
      (guardOn g s.strand = true → exec i s = .next (raiseScalar .privileged (headWord i) s.strand.pc s)) ∧
      (guardOn g s.strand = false → exec i s = .next (advance s))) ∧
  (∀ (g : Guard) (d a b : BitVec 5) (s : State), priv s.strand = false → Ready g [a, b] [d] [] s →
    let x := (getS s.strand a).toNat
    let y := (getS s.strand b).toNat
    let bank := x % 64
    let old := (clusterAt s (myCluster s)).banks[bank]?
    let own := x = bank + 256 ∧ s.strand.wb ≤ bank ∧ bank < s.strand.wb + s.strand.wn ∧ (old = some .s ∨ old = some .f) ∧ y ≠ 0
    x = bank ∧ bank < 16 ∨ x = bank + 256 ∧ bank < 48 → y < 3 →
      (¬ own → exec (.bankrole g d a b) s = .next (raiseScalar .privileged (headWord (.bankrole g d a b)) s.strand.pc s)) ∧
      (own → s.strand.vq ≠ [] → exec (.bankrole g d a b) s = .next (waitScalar .drain s)))

-- ## Hints, waits and the end of a strand

/-- R35, R41: a ready hint only goes on at its successor; `yield`, and a hint with its yield bit, ends the strand's turn of
issue cycles. R94: a ready `park` whose word differs from sb writes the word to sd, acquires at `dm` and goes on; while the
word equals sb it waits with no register changed. R95: `end` with its guard true and an empty VQ releases at `dm`, gives its
slot back to Mooring and is counted as an end of its crew; with an older entry in the VQ it waits; with its guard false it has
no effect. -/
def Obligations.HintParkEndResults : Prop :=
  (∀ (g : Guard) (op tl : BitVec 3) (tail : BitVec 96) (s : State), Ready g [] [] [] s →
     exec (.nop g) s = .next (advance s) ∧ exec (.yield g) s = .next (advance { s with slice := 16 }) ∧
     exec (.hint g op tl tail) s = .next (advance { s with slice := if g.y then 16 else s.slice })) ∧
  (∀ (g : Guard) (d a b : BitVec 5) (v : Nat) (s s1 : State), Ready g [a, b] [d] [] s → NoFence s →
     atomicRead (me s) (whoAmI s) (getS s.strand a) 8 s = .ok v s1 → s1.strand = s.strand →
     (word v ≠ getS s.strand b → exec (.park g d a b) s =
       .next (advance (acquireFor (me s) (myCluster s) (myCore s) .dm (mapStrand (fun t => setS t d (word v)) s1)))) ∧
     (word v = getS s.strand b → exec (.park g d a b) s = .next (waitScalar .watch s1))) ∧
  (∀ (g : Guard) (s s1 : State), upsetValue s.strand [] [g.p] = none →
     (guardOn g s.strand = true → s.strand.vq = [] → releaseFor (me s) .dm s = .ok () s1 →
       exec (.endStrand g) s = .next (closeStrand s1) ∧ (closeStrand s1).strand = Strand.unbound ∧
       (∀ c ∈ s1.crews, c.id = s1.strand.crew →
         { c with ended := insertN c.ended s1.strand.idx.toNat } ∈ (closeStrand s1).crews)) ∧
     (guardOn g s.strand = true → s.strand.vq ≠ [] → exec (.endStrand g) s = .next (waitScalar .drain s)) ∧
     (guardOn g s.strand = false → exec (.endStrand g) s = .next (advance s)))

-- ## Entering the VQ

/-- R19, R20, R34: with an empty VQ an instruction of the VQ whose guard is true enters it with its operands captured and the
scalar stream at its successor, and then executes as its only entry; with a false guard it only goes on. R19, R20, R33, R34:
the issue of a VQ-class head whose guard is true appends its entry, with the operands captured, to a VQ that has room and
writes nothing that it reads, and the stream goes on; a full VQ or such a write makes it wait; a false guard only goes on, but
for `vfence` and `bar.cl`; `vcfg` in supervisor mode is illegal, and a bad head too. That exec enters an instruction into an
empty VQ is the model's convention (log 69). -/
def Obligations.VqIssues : Prop :=
  (∀ (g : Guard) (ty : Ty) (d a b : BitVec 5) (m : BitVec 3) (off : BitVec 24) (s : State), s.strand.vq = [] →
     ∀ i ∈ vqSample g ty d a b m off,
       (∀ h t, guardOn g s.strand = true → encode i = some (h, t) →
         exec i s = exec i (pushVq (capture s.strand h t false) s)) ∧
       (guardOn g s.strand = false → exec i s = .next (advance s))) ∧
  (∀ (head : BitVec 16) (tail : BitVec 96) (s : State), runs s.strand = true → upsetValue s.strand [] [(headGuard head).p] = none →
     let t := s.strand
     let on := guardOn (headGuard head) t
     let reads := entryReads (headOp head) tail
     let always := headOp head = 0x8B ∨ headOp head = 0xAB
     (classify head tail = .bad head → exec (.vqEnqueue head tail) s = .next (raiseScalar .illegal (head.setWidth 64) t.pc s)) ∧
     (classify head tail = .queue head tail →
       (on = false → ¬ always → exec (.vqEnqueue head tail) s = .next (advance s)) ∧
       (on = true → headOp head = 0x40 → priv t = true →
         exec (.vqEnqueue head tail) s = .next (raiseScalar .illegal (head.setWidth 64) t.pc s)) ∧
       (on = true ∨ always → ¬ (on = true ∧ headOp head = 0x40 ∧ priv t = true) →
         (64 ≤ t.vq.length → exec (.vqEnqueue head tail) s = .next (waitScalar .vqFull s)) ∧
         (t.vq.length < 64 → vqWritesAny t.vq reads = true → exec (.vqEnqueue head tail) s = .next (waitScalar .interlock s)) ∧
         (t.vq.length < 64 → vqWritesAny t.vq reads = false → upsetValue t reads [] = none →
           ∃ u e, exec (.vqEnqueue head tail) s = .next u ∧ u.strand = { goTo (successor t) t with vq := t.vq ++ [e] } ∧
             u = { s with strand := u.strand } ∧ e.pc = t.pc ∧ e.head = head ∧ e.tail = tail ∧ e.frm = t.frm ∧
             e.a = getS t (fA tail) ∧ e.b = getS t (fB tail) ∧ e.c = getS t (fC tail) ∧ e.d = getS t (fD tail) ∧
             e.age = s.stepNo ∧ e.guardOff = !on))))

/-- R98, R100: a whole instruction with a nonzero VSTART raises *illegal instruction* at VCP with VSTART 0, and does nothing
else. -/
def Obligations.WholeNeedsVstartZero : Prop :=
  ∀ (g : Guard) (ty : Ty) (d a b : BitVec 5) (m c : BitVec 3) (e : VqEntry) (s : State), AtHead e s → s.strand.vstart ≠ 0 →
    ∀ i ∈ [Instr.vcfg g d a, .setvl g d a, .setvlW g d a b, .mpop g d m, .mfirst g d m, .mshup g m c a b, .mshdn g m c a b,
           .vslideUp g ty d a (.scal b) m, .vslideDown g ty d a (.scal b) m, .vperm g ty d a b m, .vcompress g ty d a m,
           .vexpand g ty d a m, .vredmax g ty d a none m, .vsmax g d a b b b m, .vopz g 0, .vop g false 0 a b 0, .mkiv g 0 a,
           .vwait g m a (.vec b) d m, .vfenceSv g, .vfenceVs g, .vfenceAll g, .tshape g d a, .lkwait g d a, .barCl g],
      exec i s = .next (raiseVq .illegal (e.head.setWidth 64) 0 s)

-- ## Vector configuration

/-- R109, R111, R113, R114: a granted `vcfg` sets the configuration that the request and the free banks and accumulators give,
zeroes the vector registers and masks, sets VL to 0, gives fresh accumulators, and writes VLMAX to sd. The V banks of its slot
return to role C and the highest-numbered C banks, as many as the grant needs, go to role V for it; the other banks, the other
cores and the rest of the state stay, but that where banks have left role C the copies of the core are no longer noted. Behind
a strand of its core whose VQ has at its head an older `vcfg` that can be granted, it waits. An older one that cannot have all
that its WAIT = 1 asks for does not hold it back, which is the model's choice (log 88). R119, R121: `setvl` sets VL to the
smaller of its operand and VLMAX; `setvl.w` does so within what its tether word allows, and acquires at `dm`; both write the
new VL to sd. -/
def Obligations.VectorConfiguration : Prop :=
  (∀ (g : Guard) (d a : BitVec 5) (e : VqEntry) (q : VcfgReq) (s : State), AtHead e s → s.strand.vstart = 0 →
     readVcfg e.a = some q →
     let s0 := releaseGrant s
     let co := myCore s
     let slot := slotOf s.strand.id
     let c := coreAt s0 co
     let free := 4 - accsClaimed s0 co
     let ext := Nat.min q.ext (canLeave c)
     let vlmax := grantLen s.strand.base ext q
     let used := grantExt s.strand.base vlmax q
     (olderVcfg s e = false → q.wait = false ∨ q.ext ≤ canLeave c ∧ q.nacc ≤ free →
       ∃ t, exec (.vcfg g d a) s = .next t ∧ t = { commits (fun u => setS { u with
         vlmax := vlmax, vl := 0, nreg := q.nreg, ew := q.ew, ext := used
         accs := List.replicate (Nat.min q.nacc free) Accum.fresh, vregs := Vector.replicate 32 0
         masks := Vector.replicate 8 0, upsets := s.strand.upsets.filter fun u => u.file == .scalar || u.file == .pred } d
           (word vlmax)) s with cores := t.cores, clines := t.clines } ∧
         (used = 0 → t.clines = s.clines) ∧
         (∀ k, k ≠ co → coreAt t k = coreAt s k) ∧
         coreAt t co = { coreAt s co with banks := (coreAt t co).banks } ∧
         ∀ k (h : k < 16), c.banks[k] = (if (coreAt s co).banks[k] = .v slot then .c else (coreAt s co).banks[k]) ∧
           (coreAt t co).banks[k] = (if k ∈ (cBanks c).take used then .v slot else c.banks[k])) ∧
     (∀ u ∈ s.others, ∀ x r, coreOf u.id = coreOf s.strand.id → headVcfg u = some (x, r) → couldGrant s u r = true →
       x.age < e.age → exec (.vcfg g d a) s = .next (waitVq .grant s))) ∧
  (∀ (g : Guard) (d a b : BitVec 5) (e : VqEntry) (s : State), AtHead e s → s.strand.vstart = 0 →
     exec (.setvl g d a) s = .next (commits (fun t =>
       setS { t with vl := Nat.min e.a.toNat t.vlmax } d (word (Nat.min e.a.toNat t.vlmax))) s) ∧
     (∀ w n s1, e.tether.toNat % 8 = 0 → atomicRead (me s) (vecWho s) e.tether 8 s = .ok w s1 → s1.strand = s.strand →
       tetherLen w e.a.toNat e.b.toNat s.strand.vlmax = some n →
       exec (.setvlW g d a b) s = .next (commitVq (acquireFor (me s) (myCluster s) (myCore s) .dm
         (mapStrand (fun t => setS { t with vl := n } d (word n)) s1)))))

-- ## Vector integer instructions

/-- R138, R141: an integer element-wise instruction at the head of the VQ, its registers granted and free of errors, computes
its result for each active element from VSTART to VL − 1, then commits; nothing else of the strand or the state changes. -/
def Obligations.VectorIntegerResults : Prop :=
  ∀ (g : Guard) (ty : Ty) (d a : BitVec 5) (b : BOp) (m : BitVec 3) (e : VqEntry) (s : State), AtHead e s →
    let w := ty.width
    (Granted s (d :: a :: bRegs b) w → Clean s (a :: bRegs b) [m] →
      ∀ p ∈ ([(Instr.vadd, fun x y => (x + y) % 2 ^ w), (.vsub, fun x y => wrapTo w ((x : Int) - y)),
              (.vmul, fun x y => x * y % 2 ^ w), (.vmulh, fun x y => wrapTo w (intOf ty x * intOf ty y / 2 ^ w)),
              (.vmin, fun x y => if intOf ty x ≤ intOf ty y then x else y),
              (.vmax, fun x y => if intOf ty x ≤ intOf ty y then y else x),
              (.vand, fun x y => x &&& y), (.vor, fun x y => x ||| y), (.vxor, fun x y => x ^^^ y),
              (.vshl, fun x y => x * 2 ^ (y % w) % 2 ^ w), (.vshr, fun x y => x / 2 ^ (y % w)),
              (.vsar, fun x y => wrapTo w (signedOf w x / 2 ^ (y % w))),
              (.vadds, fun x y => wrapTo w (clampInt (intMin ty) (intMax ty) (intOf ty x + intOf ty y))),
              (.vsubs, fun x y => wrapTo w (clampInt (intMin ty) (intMax ty) (intOf ty x - intOf ty y)))] :
             List ((Guard → Ty → BitVec 5 → BitVec 5 → BOp → BitVec 3 → Instr) × (Nat → Nat → Nat))),
        exec (p.1 g ty d a b m) s = .next (commits (elementFold m fun k t =>
          putElem t d w k (p.2 (velem t a w k) (bValue e b ty t k))) s)) ∧
    (Granted s [d, a] w → Clean s [a] [m] →
      exec (.vabs g ty d a m) s = .next (commits (elementFold m fun k t =>
        putElem t d w k ((intOf ty (velem t a w k)).natAbs % 2 ^ w)) s) ∧
      exec (.vneg g ty d a m) s = .next (commits (elementFold m fun k t =>
        putElem t d w k (wrapTo w (-(velem t a w k : Int)))) s))

/-- R142, R149, R150, R153, R154: carry, comparison, mask, broadcast and single-element instructions at the head of the VQ
write what the rules say, element by element, and commit. R150, R151: the mask instructions that read a whole mask count its
active elements, find the first, or shift it by one with a bit in from a scalar and the bit shifted out to a scalar; they read
the mask before they write. -/
def Obligations.VectorMaskAndMoveResults : Prop :=
  (∀ (g : Guard) (cc : Cond) (op : PredOp) (ty : Ty) (d a : BitVec 5) (b : BOp) (md ma mb m : BitVec 3) (e : VqEntry) (s : State),
     AtHead e s →
     let w := ty.width
     (Granted s (d :: a :: bRegs b) w → Clean s (a :: bRegs b) [ma] →
       exec (.vadc g ty d a b md ma) s = .next (commits (elementFold 0 fun k t =>
         let sum := velem t a w k + bValue e b ty t k + b2n (maskBit t ma k)
         putMask (putElem t d w k (sum % 2 ^ w)) md k (decide (2 ^ w ≤ sum))) s) ∧
       exec (.vsbc g ty d a b md ma) s = .next (commits (elementFold 0 fun k t =>
         let x := velem t a w k
         let y := bValue e b ty t k + b2n (maskBit t ma k)
         putMask (putElem t d w k (wrapTo w ((x : Int) - y))) md k (decide (x < y))) s)) ∧
     (Granted s (a :: bRegs b) w → Clean s (a :: bRegs b) [m] →
       exec (.vcmp g cc ty md a b m) s = .next (commits (elementFold m fun k t =>
         let y := match b with
           | .imm i => (match cc with
             | .ltn | .gen | .len | .gtn => i.toNat
             | _ => (i.signExtend 64).toNat % 2 ^ w)
           | _ => bValue e b ty t k
         putMask t md k (elemCond cc w (velem t a w k) y)) s)) ∧
     (Clean s [] [ma, mb] → exec (.mop g op md ma mb) s = .next (commits (elementFold 0 fun k t =>
       putMask t md k (predOp op (maskBit t ma k) (maskBit t mb k))) s)) ∧
     (Granted s (d :: bRegs b) w → Clean s (bRegs b) [m] →
       exec (.vbcast g ty d b m) s = .next (commits (elementFold m fun k t => putElem t d w k (bValue e b ty t k)) s)) ∧
     (Granted s [d] w → Clean s [] [m] →
       exec (.vid g ty d m) s = .next (commits (elementFold m fun k t => putElem t d w k (k % 2 ^ w)) s)) ∧
     (Granted s [a] w → Clean s [a] [] → s.strand.vstart = 0 →
       exec (.vmvs g ty d a b) s = .next (commits (fun t =>
         setS t d (if indexOf e b < t.vlmax then toReg ty (velem t a w (indexOf e b)) else 0)) s)) ∧
     (Granted s [d] w → s.strand.vstart = 0 →
       exec (.vsv g ty d a b) s = .next (commits (fun t =>
         if indexOf e b < t.vlmax then putElem t d w (indexOf e b) (e.a.toNat % 2 ^ w) else t) s))) ∧
  (∀ (g : Guard) (d b c : BitVec 5) (md ma : BitVec 3) (e : VqEntry) (s : State), AtHead e s → s.strand.vstart = 0 →
     Clean s [] [ma] →
     let vl := s.strand.vl
     let bitIn := e.b.getLsbD 0
     let x := fun i => maskBit s.strand ma i
     exec (.mpop g d ma) s = .next (commits (fun t => setS t d (word ((List.range vl).countP x))) s) ∧
     exec (.mfirst g d ma) s = .next (commits (fun t =>
       setS t d (match (List.range vl).find? x with | some k => word k | none => 0xFFFFFFFFFFFFFFFF)) s) ∧
     (0 < vl →
       exec (.mshup g md ma b c) s = .next (commits (fun t => setS ((List.range vl).foldl (fun t i =>
         putMask t md i (if i = 0 then bitIn else x (i - 1))) t) c (word (b2n (x (vl - 1))))) s) ∧
       exec (.mshdn g md ma b c) s = .next (commits (fun t => setS ((List.range vl).foldl (fun t i =>
         putMask t md i (if i = vl - 1 then bitIn else x (i + 1))) t) c (word (b2n (x 0)))) s)) ∧
     (vl = 0 → exec (.mshup g md ma b c) s = .next (commits (fun t => setS t c (e.b &&& 1)) s) ∧
       exec (.mshdn g md ma b c) s = .next (commits (fun t => setS t c (e.b &&& 1)) s)))

/-- R152: a permutation reads every source element before it writes, and writes its active elements. -/
def Obligations.PermutationResults : Prop :=
  ∀ (g : Guard) (ty : Ty) (d a b : BitVec 5) (k : BOp) (m : BitVec 3) (e : VqEntry) (s : State), AtHead e s →
    s.strand.vstart = 0 → Clean s [a, b] [m] →
    let w := ty.width
    let vl := s.strand.vl
    let act := (List.range vl).filter fun i => maskBit s.strand m i
    let x := fun i => velem s.strand a w i
    let n := indexOf e k
    let out := fun (l : List (Nat × Nat)) =>
      (Host.Outcome.next (commits (fun t => l.foldl (fun t p => putElem t d w p.1 p.2) t) s) : Out)
    (Granted s [d, a] w →
      exec (.vslideUp g ty d a k m) s = out ((act.filter fun i => decide (n ≤ i)).map fun i => (i, x (i - n))) ∧
      exec (.vslideDown g ty d a k m) s = out (act.map fun i => (i, if i + n < vl then x (i + n) else 0)) ∧
      exec (.vcompress g ty d a m) s = out (act.zipIdx.map fun p => (p.2, x p.1)) ∧
      exec (.vexpand g ty d a m) s = out (act.zipIdx.map fun p => (p.1, x p.2))) ∧
    (Granted s [d, a, b] w →
      exec (.vperm g ty d a b m) s = out (act.map fun i =>
        (i, if velem s.strand b w i < vl then x (velem s.strand b w i) else 0)))

-- ## Vector floating point

/-- R125 to R127, R138, R143 to R149: a floating-point element-wise instruction at the head of the VQ, no flag of which traps,
writes the rounded result of each active element, ORs the flags into `FFLAGS`, and commits. R129, R147: `vquant` of a block of
32 writes the common exponent of its active elements once, at the block's first element executed, and each active element's
rounded and clamped quotient. -/
def Obligations.VectorFpResults : Prop :=
  (∀ (g : Guard) (ty dty sty : Ty) (rm r : Rm) (cc : FCond) (d a c hi : BitVec 5) (b : BOp) (md m : BitVec 3) (e : VqEntry)
     (s : State) (t' : Strand), AtHead e s →
     let w := ty.width
     let k := fmtOf ty
     let done := (Host.Outcome.next (commits (fun _ => t') s) : Out)
     let run := fun (f : Nat → Strand → BitVec 6 × (Strand → Strand)) => elementRun m f s.strand = some t'
     (Granted s (d :: a :: bRegs b) w → Clean s (a :: bRegs b) [m] → rmode rm e.frm = some r →
       ∀ p ∈ ([(Instr.vfadd, fpAdd k r), (.vfsub, fpSub k r), (.vfmul, fpMul k r), (.vfdiv, fpDiv k r)] :
              List ((Guard → Ty → Rm → BitVec 5 → BitVec 5 → BOp → BitVec 3 → Instr) × (Nat → Nat → FpRes))),
         run (fun i t => let z := p.2 (velem t a w i) (bValue e b ty t i); (z.2, fun t => putElem t d w i z.1)) →
         exec (p.1 g ty rm d a b m) s = done) ∧
     (Granted s (d :: a :: c :: bRegs b) w → Clean s (a :: c :: bRegs b) [m] → rmode rm e.frm = some r →
       run (fun i t => let z := fpFma k r (velem t a w i) (bValue e b ty t i) (velem t c w i)
         (z.2, fun t => putElem t d w i z.1)) →
       exec (.vfma g ty rm d a b c m) s = done) ∧
     (Granted s [d, a] w → Clean s [a] [m] → rmode rm e.frm = some r →
       ∀ p ∈ ([(Instr.vfsqrt, fpSqrt k r), (.vfrcp, fpRcp k r), (.vfrsq, fpRsq k r), (.vfexp2, fpExp2 k r),
               (.vflog2, fpLog2 k r)] :
              List ((Guard → Ty → Rm → BitVec 5 → BitVec 5 → BitVec 3 → Instr) × (Nat → FpRes))),
         run (fun i t => let z := p.2 (velem t a w i); (z.2, fun t => putElem t d w i z.1)) →
         exec (p.1 g ty rm d a m) s = done) ∧
     (Granted s (d :: a :: bRegs b) w → Clean s (a :: bRegs b) [m] →
       ∀ p ∈ ([(Instr.vfmin, fpMin k), (.vfmax, fpMaxN k)] :
              List ((Guard → Ty → BitVec 5 → BitVec 5 → BOp → BitVec 3 → Instr) × (Nat → Nat → FpRes))),
         run (fun i t => let z := p.2 (velem t a w i) (bValue e b ty t i); (z.2, fun t => putElem t d w i z.1)) →
         exec (p.1 g ty d a b m) s = done) ∧
     (Granted s [d, a, c, hi] w → Clean s [a, c, hi] [m] →
       run (fun i t =>
         let x := fpMaxN k (velem t a w i) (velem t c w i)
         let y := fpMin k x.1 (velem t hi w i)
         (x.2 ||| y.2, fun t => putElem t d w i y.1)) →
       exec (.vfclamp g ty d a false c hi m) s = done) ∧
     (Granted s [d, a] w → Clean s [a] [m] →
       run (fun i t =>
         let x := fpMaxN k (velem t a w i) (e.b.toNat % 2 ^ w)
         let y := fpMin k x.1 (e.c.toNat % 2 ^ w)
         (x.2 ||| y.2, fun t => putElem t d w i y.1)) →
       exec (.vfclamp g ty d a true c hi m) s = done) ∧
     (Granted s (a :: bRegs b) w → Clean s (a :: bRegs b) [m] →
       run (fun i t => let z := fpCond k cc (velem t a w i) (bValue e b ty t i); (z.2, fun t => putMask t md i z.1)) →
       exec (.vfcmp g cc ty md a b m) s = done) ∧
     (Granted s [d, a] (Nat.max dty.width sty.width) → Clean s [a] [m] → rmode rm e.frm = some r →
       run (fun i t => let z := convert r dty sty (velem t a sty.width i); (z.2, fun t => putElem t d dty.width i z.1)) →
       exec (.vfcvt g dty sty rm d a m) s = done) ∧
     (Granted s [d, a, c] w → Clean s [a, c] [m] →
       run (fun i t => let z := bx8Value k (signedOf 8 (velem t a 8 i)) (velem t c 8 (i / 32))
         (z.2, fun t => putElem t d w i z.1)) →
       exec (.vdequant g ty d a c m) s = done)) ∧
  (∀ (g : Guard) (ty : Ty) (d a ev : BitVec 5) (m : BitVec 3) (e : VqEntry) (s : State) (t' : Strand), AtHead e s →
     Granted s [d, a, ev] ty.width → Clean s [a] [m] →
     elementRun m (fun i t =>
       let blk := (List.range t.vl).filter fun j => maskBit t m j && j / 32 == i / 32
       let vs := blk.map fun j => fpRead (fmtOf ty) (velem t a ty.width j)
       let ex := bx8Exp vs
       let q := bx8Q ex (fpRead (fmtOf ty) (velem t a ty.width i))
       let bad := vs.any fun v => match v with | .inf _ => true | .nan sg => sg | _ => false
       let first := blk.find? fun j => decide (s.strand.vstart ≤ j)
       ((if bad then 16 else 0) ||| (if q.2 then 1 else 0), fun t =>
         let u := putElem t d 8 i (wrapTo 8 q.1)
         if first = some i then putElem u ev 8 (i / 32) ex else u)) s.strand = some t' →
     exec (.vquant g ty d a ev m) s = .next (commits (fun _ => t') s))

/-- R133, R155 to R158: a reduction or scan at the head of the VQ, no flag of which traps, computes its result over the active
elements in the order of the rules, with the start value if there is one, and commits. `vredsum.f` of floating-point elements
uses the implementation's tree, which is a free value. R159: `vsmax` at the head of the VQ, whose flags trap nothing, writes
the running maximum to its register, e^(x − max) to each active element, the scale of the old sum to its register, and the new
sum, old sum times scale plus the elements in the canonical order, to its register. What it writes where the maximum is minus
infinity, a NaN element included, and that a signalling sm raises nothing without an active element, is the model's choice (log
46). -/
def Obligations.ReductionResults : Prop :=
  (∀ (g : Guard) (op : ScanOp) (ty : Ty) (rm r : Rm) (d a c : BitVec 5) (st : Option (BitVec 5)) (m : BitVec 3) (e : VqEntry)
     (s : State), AtHead e s → s.strand.vstart = 0 → Granted s [a, c] ty.width → Clean s [a, c] [m] →
     rmode rm e.frm = some r →
     let w := ty.width
     let acc := accTy ty
     let k := fmtOf acc
     let act := (List.range s.strand.vl).filter fun i => maskBit s.strand m i
     let xs := act.map fun i => (i, velem s.strand a w i)
     let start := fun (u : Ty) => st.map fun _ => e.b.toNat % 2 ^ u.width
     let ops := (start ty).toList ++ xs.map fun x => x.2
     let wide := fun i => (xs.find? fun x => x.1 == i).map fun x => widen k (fmtOf ty) x.2
     let sum : FpRes := ((((xs.map fun x => x.2).sum + (start acc).getD 0) % 2 ^ w), 0)
     let scale := fun b => if xs.any (fun x => x.1 / 32 == b) then signedOf 8 (velem s.strand c 8 b) else 0
     let out := fun (u : Ty) (z : FpRes) =>
       (Host.Outcome.next (commits (fun t => setS { t with fflags := t.fflags ||| z.2 } d (toReg u z.1)) s) : Out)
     (∀ p ∈ [(Instr.vredmax g ty d a st m, redPick ty true ops), (.vredmin g ty d a st m, redPick ty false ops),
             (.vredand g ty d a st m, (ops.foldl (· &&& ·) (2 ^ w - 1), 0)), (.vredor g ty d a st m, (ops.foldl (· ||| ·) 0, 0))],
       flagTraps s.strand p.2.2 = false → exec p.1 s = out ty p.2) ∧
     (ty.isInt = true →
       exec (.vredsumF g ty rm d a st m) s = out acc sum ∧ exec (.vredsumC g ty rm d a st m) s = out acc sum) ∧
     (ty.isInt = false →
       (let z := canonSum k r s.strand.vl wide (start acc) fun _ => 0
        flagTraps s.strand z.2 = false → exec (.vredsumC g ty rm d a st m) s = out acc z) ∧
       (let l := (start acc).toList ++ xs.map fun x => widen k (fmtOf ty) x.2
        let y := fastSum k r (Config.fastTree s.strand.vl s.strand.vlmax (vcfgValue s.strand) (getM s.strand m).toNat) l.length
          (l.map (quiet k))
        let z : FpRes := (y.1, y.2 ||| snanFlag k l)
        flagTraps s.strand z.2 = false → exec (.vredsumF g ty rm d a st m) s = out acc z)) ∧
     (let z := canonSum k r s.strand.vl wide (start acc) scale
      flagTraps s.strand z.2 = false → exec (.vredsumCs g ty rm d a st c m) s = out acc z) ∧
     (let z := scanList op ty r (start ty) xs
      let fl := z.2 ||| (if ty.isInt then 0 else snanFlag (fmtOf ty) ops)
      d.toNat < s.strand.nreg → flagTraps s.strand fl = false → exec (.vscan g op ty rm d a st m) s = .next (commits (fun t =>
        z.1.foldl (fun t p => putElem t d w p.1 p.2) { t with fflags := t.fflags ||| fl }) s))) ∧
  (∀ (g : Guard) (d a sm sl sk : BitVec 5) (m : BitVec 3) (e : VqEntry) (s : State), AtHead e s → s.strand.vstart = 0 →
     Granted s [d, a] 32 → Clean s [a] [m] →
     let k := fmtOf .f32
     let act := (List.range s.strand.vl).filter fun i => maskBit s.strand m i
     let xs := act.map fun i => velem s.strand a 32 i
     let mo := e.b.toNat % 2 ^ 32
     let mx := xs.foldl (fun (z : FpRes) x => ((fpMaxN k z.1 x).1, z.2 ||| (fpMaxN k z.1 x).2)) (mo, 0)
     let same := act = [] ∨ (isNan (fpRead k mx.1) = false ∧ isNan (fpRead k mo) = false ∧
       valCmp (fpRead k mx.1) (fpRead k mo) = .eq)
     let scale : FpRes := if same then (fpOne k, 0) else expDiff mo mx.1
     let es := act.map fun i => (i, if fpRead k mx.1 = .inf true then ((0, 0) : FpRes) else expDiff (velem s.strand a 32 i) mx.1)
     let old := fpMul k .rne (e.c.toNat % 2 ^ 32) scale.1
     let sum := canonSum k .rne s.strand.vl (fun i => (es.find? fun z => z.1 == i).map fun z => z.2.1) (some old.1) fun _ => 0
     let fl := mx.2 ||| scale.2 ||| (es.map fun z => z.2.2).foldl (· ||| ·) 0 ||| old.2 ||| sum.2
     flagTraps s.strand fl = false →
     exec (.vsmax g d a sm sl sk m) s = .next (commits (fun t =>
       let t1 := es.foldl (fun t z => putElem t d 32 z.1 z.2.1) { t with fflags := t.fflags ||| fl }
       setS (setS (setS t1 sm (word mx.1)) sl (word sum.1)) sk (word scale.1)) s))

-- ## Vector memory

/-- R161 to R163, R167: a vector load or store at the head of the VQ whose accesses are answered runs its active elements from
VSTART up: element k of a unit-stride form lies at base + k × bytes, of a strided one at base + k × stride, of an indexed one
at base + its offset, and field f of a segment of NF fields at base + (k × NF + f) × bytes; then it commits. R168, R102: a
fault of cause 0x06, 0x07, 0x08, 0x0C or 0x11 at an active element k of `vldff`, found by the check of its address or by its
access, shortens VL to k and commits when an active element before it has completed, in this execution or one that waited; when
none has, and for another cause in either case, it is raised at the entry with `VSTART` k. Bits 63:57 of the address that are
not zero are such a fault. R162, R169: a `vsadd` at the head of the VQ whose additions pass their checks performs them at the
slices of their addresses, in element order under `.o`, and commits; without `.o` it commits too. The order without `.o` is
free (log 17). -/
def Obligations.VectorMemoryResults : Prop :=
  (∀ (g : Guard) (ty tyv : Ty) (d a b : BitVec 5) (nf : BitVec 4) (off : BitVec 24) (m : BitVec 3) (r : Rm) (e : VqEntry)
     (s : State), AtHead e s → (ty ≠ tyv → rmode .dyn e.frm = some r) → (ty = tyv → r = .rne) →
     let base := e.a + off.signExtend 64
     let n := ty.bytes
     let unit := fun (nf : Nat) (k : Nat) => (List.range nf).map fun f => base + word ((k * nf + f) * n)
     let stride := fun (k : Nat) => [base + word k * e.b]
     let vl := s.strand.vl
     let run := fun f => elementSteps m vl f s
     (Granted s [d] tyv.width → ∀ t,
       (run (fun k => loadsElem ty tyv r d k (unit 1 k)) = some t →
         exec (.vld g ty tyv d a off m) s = .next (commitVq t) ∧ exec (.vldff g ty tyv d a off m) s = .next (commitVq t)) ∧
       (run (fun k => loadsElem ty tyv r d k (stride k)) = some t →
         exec (.vlds g ty tyv d a b off m) s = .next (commitVq t)) ∧
       (run (fun k => storesElem ty tyv r d k (unit 1 k)) = some t →
         exec (.vst g ty tyv d a off m) s = .next (commitVq t)) ∧
       (run (fun k => storesElem ty tyv r d k (stride k)) = some t →
         exec (.vsts g ty tyv d a b off m) s = .next (commitVq t))) ∧
     (Granted s [d, b] tyv.width → ∀ t,
       (run (fun k s => do loadsElem ty tyv r d k [← indexAddr base b k s] s) = some t →
         exec (.vldx g ty tyv d a b off m) s = .next (commitVq t)) ∧
       (run (fun k s => do storesElem ty tyv r d k [← indexAddr base b k s] s) = some t →
         exec (.vstx g ty tyv true d a b off m) s = .next (commitVq t) ∧
         ∃ u, exec (.vstx g ty tyv false d a b off m) s = .next (commitVq u))) ∧
     (d.toNat + nf.toNat ≤ s.strand.nreg → tyv.width ≤ s.strand.ew → ∀ t,
       (run (fun k => loadsElem ty tyv r d k (unit nf.toNat k)) = some t →
         exec (.vldseg g ty tyv d a nf off m) s = .next (commitVq t)) ∧
       (run (fun k => storesElem ty tyv r d k (unit nf.toNat k)) = some t →
         exec (.vstseg g ty tyv d a nf off m) s = .next (commitVq t)))) ∧
  (∀ (g : Guard) (ty tyv : Ty) (d a : BitVec 5) (off : BitVec 24) (m : BitVec 3) (r : Rm) (e : VqEntry) (k : Nat) (s t : State),
     AtHead e s → (ty ≠ tyv → rmode .dyn e.frm = some r) → (ty = tyv → r = .rne) → Granted s [d] tyv.width →
     let n := ty.bytes
     let va := fun (k : Nat) => e.a + off.signExtend 64 + word (k * n)
     s.strand.vstart ≤ k → k < s.strand.vl →
     elementSteps m k (fun k => loadsElem ty tyv r d k [va k]) s = some t →
     maskBit t.strand m k = true → (m ≠ 0 → ⟨.mask, m.toNat, k⟩ ∉ t.strand.upsets) →
     let u := mapStrand (fun x => { x with vstart := k }) t
     let w := vecWho u
     let early := e.done = true ∨ ∃ j, s.strand.vstart ≤ j ∧ j < k ∧ maskBit t.strand m j = true
     let soft := fun (c : Cause) => c ∈ [Cause.loadFault, .storeFault, .protection, .dataError, .remote]
     (∀ c v x, checkAccess w (va k) n .load u = .error (.trap c v) x ∨
         (∃ p y, checkAccess w (va k) n .load u = .ok p y ∧
           eachOnce (uncWriter (me u) w) 1 (fun _ => loadAt (me u) w p n (va k)) y = .error (.trap c v) x) →
       x.strand = u.strand →
       (early ∧ soft c → exec (.vldff g ty tyv d a off m) s =
         .next (commitVq (mapStrand (fun y => { y with vl := k }) (dropUnc (me x + 2 ^ 18) x)))) ∧
       (¬ (early ∧ soft c) → exec (.vldff g ty tyv d a off m) s = .next (raiseVq c v k x))) ∧
     ((va k).toNat / 2 ^ 57 ≠ 0 → checkAccess w (va k) n .load u = .error (.trap .loadFault (va k)) u)) ∧
  (∀ (g : Guard) (ty : Ty) (sc : Scope) (d a b : BitVec 5) (off : BitVec 24) (m : BitVec 3) (e : VqEntry) (s t : State),
     AtHead e s → Granted s [d, b] ty.width →
     elementSteps m s.strand.vl (fun k s => do
       addsElem ty sc d k (← indexAddr (e.a + off.signExtend 64) b k s) s) s = some t →
     exec (.vsadd g ty sc true d a b off m) s = .next (commitVq t) ∧
     ∃ u, exec (.vsadd g ty sc false d a b off m) s = .next (commitVq u))

/-- R172 to R174: a `vwait` with no active element acquires at `dm` and commits. With active elements, no watch entry taken,
and every word read at least its element of B, it marks each active element of its mask not timed out, acquires and commits. VL
is written with the mask at the commit (log 26). R171: a typed fence at the head of the VQ commits: every older store of the VQ
has taken effect then, because the VQ executes in order, and `vfence.sv` and `vfence.all` leave no scalar store of the strand
issued before them that a younger vector access could pass. Guarded off a fence still enters the VQ. The steps that mark what
was issued before are the model's (log 7). -/
def Obligations.VwaitAndFenceResults : Prop :=
  (∀ (g : Guard) (md m : BitVec 3) (a : BitVec 5) (b : BOp) (c : BitVec 5) (e : VqEntry) (xs : List Nat) (ps : List Place)
     (s s1 s2 : State), AtHead e s → s.strand.vstart = 0 → Granted s (a :: bRegs b) 64 → Clean s (a :: bRegs b) [m] →
     let act := (List.range s.strand.vl).filter fun i => maskBit s.strand m i
     let w := vecWho s
     (act = [] → exec (.vwait g md a b c m) s =
       .next (commitVq (acquireFor (me s) (myCluster s) (myCore s) .dm s))) ∧
     (act ≠ [] → act.length ≤ 256 → s.strand.watch = 0 → watchUsed s (myCluster s) = 0 →
       inTurn (fun k s => okOf (checkAccess w (word (velem s.strand a 64 k)) 8 .load s)) act s = some (ps, s1) →
       eachOnce (uncWriter (me s) w) act.length
         (fun j => atomicRead (me s) w (word (nthD (act.map fun k => velem s.strand a 64 k) j 0)) 8)
         (mapStrand (fun t => { t with watch := act.length, armedAt := s1.ptime }) s1) = .ok xs s2 →
       s2.strand = { s.strand with watch := act.length, armedAt := s1.ptime } →
       s1.others = s.others → s1.strand = s.strand →
       (∀ i (h : i < act.length) (h' : i < xs.length), bValue e b .n64 s.strand act[i] ≤ xs[i]) →
       exec (.vwait g md a b c m) s = .next (commitVq (acquireFor (me s) (myCluster s) (myCore s) .dm
         (mapStrand (fun t => { act.foldl (fun t k => putMask t md k false) t with watch := 0 }) s2))))) ∧
  (∀ (g : Guard) (e : VqEntry) (s : State), s.strand.vstart = 0 →
     (AtHead e s → exec (.vfenceVs g) s = .next (commitVq s) ∧ ∀ i ∈ [Instr.vfenceSv g, .vfenceAll g],
       ∃ t, exec i s = .next t ∧ t = { commitVq s with stores := t.stores } ∧
         (∀ p ∈ t.stores, p.owner = me s → p.made ≤ e.age → p.scal = false) ∧
         t.stores.map (fun p => { p with scal := false }) = s.stores.map fun p => { p with scal := false }) ∧
     (s.strand.vq = [] → exec (.vfenceVs g) s = .next (commitVq (advance s)) ∧ ∀ i ∈ [Instr.vfenceSv g, .vfenceAll g],
       ∃ t, exec i s = .next t ∧ t = { commitVq (advance s) with stores := t.stores } ∧
         ∀ p ∈ t.stores, p.owner = me s → p.made ≤ s.stepNo → p.scal = false))

-- ## The softmax step and the accumulators

/-- R177, R178: an outer product at the head of the VQ adds r products, each rounded once, into every entry [i][j] with j <
min(VL, 32), for `vopm` only where the intervals of row i allow key base + j, and leaves every other entry; it records the base
and whether the tile is masked, ORs its flags into `FFLAGS`, and commits. R176, R179, R180: at the head of the VQ `vopz` zeroes
a claimed accumulator, `vopr` copies the active entries of a row into a register and writes which entries of it count, and
`mkiv` loads four interval entries whose reserved bits are zero. -/
def Obligations.AccumulatorResults : Prop :=
  (∀ (g : Guard) (f8 : Bool) (d : BitVec 2) (a b c : BitVec 5) (r1 : BitVec 8) (e : VqEntry) (s : State), AtHead e s →
     s.strand.vstart = 0 → d.toNat < s.strand.accs.length →
     let ty : Ty := if f8 then .e4m3 else .bf16
     let r := r1.toNat + 1
     Granted s [a, b] ty.width → r ≤ 128 → 32 * r ≤ s.strand.vlmax → Clean s [a, b] [] →
     (∀ u ∈ s.strand.upsets, u.file ≠ .accum) →
     let x := getAcc s.strand d
     let n := Nat.min s.strand.vl 32
     let entry := fun i j => (List.range r).foldl (fun (z : FpRes) t =>
       let y := valFma (fmtOf .f32) .rne (fpRead (fmtOf ty) (velem s.strand a ty.width (32 * t + i)))
         (fpRead (fmtOf ty) (velem s.strand b ty.width (32 * t + j))) (fpRead (fmtOf .f32) z.1)
       (y.1, z.2 ||| y.2)) (accGet x i j, 0)
     ∀ masked, let ok := fun i j => !masked || x.intervals.toList.any fun v => inInterval v i (e.c.toNat + j)
     let i := if masked then Instr.vopm g f8 d a b c r1 else .vop g f8 d a b r1
     let fl := ((List.range 32).flatMap fun i => (List.range n).map fun j => if ok i j then (entry i j).2 else 0).foldl (· ||| ·) 0
     flagTraps s.strand fl = false →
     ∃ t, exec i s = .next t ∧
       (∀ i < 32, ∀ j < 32, accGet (getAcc t.strand d) i j =
         if j < n ∧ ok i j = true then (entry i j).1 else accGet x i j) ∧
       (getAcc t.strand d).intervals = x.intervals ∧ (getAcc t.strand d).masked = masked ∧
       (masked = true → (getAcc t.strand d).base = e.c) ∧
       t = commits (fun u => { u with accs := t.strand.accs, fflags := u.fflags ||| fl }) s ∧
       ∀ k, k ≠ d → getAcc t.strand k = getAcc s.strand k) ∧
  (∀ (g : Guard) (d : BitVec 5) (a : BitVec 2) (sa : BitVec 5) (row : BOp) (mo m : BitVec 3) (e : VqEntry) (s s1 : State) (v : Nat),
     AtHead e s → s.strand.vstart = 0 → a.toNat < s.strand.accs.length → (∀ u ∈ s.strand.upsets, u.file ≠ .accum) →
     let x := getAcc s.strand a
     let i := indexOf e row
     exec (.vopz g a) s = .next (commits (putAcc a { x with data := 0, masked := false }) s) ∧
     (Granted s [d] 32 → Clean s [] [m] → i < 32 →
       exec (.vopr g d a row mo m) s = .next (commits (fun t => (List.range (Nat.min s.strand.vl 32)).foldl (fun t j =>
         putMask (if maskBit s.strand m j then putElem t d 32 j (accGet x i j) else t) mo j
           (!x.masked || x.intervals.toList.any fun v => inInterval v i (x.base.toNat + j))) t) s)) ∧
     (loadVa (me s) (vecWho s) e.a 32 s = .ok v s1 → s1.strand = s.strand →
       let iv := Vector.ofFn fun (k : Fin 4) => word (v / 2 ^ (64 * k.val))
       (∀ y ∈ iv.toList, y.toNat / 2 ^ 29 % 8 = 0 ∧ y.toNat / 2 ^ 62 % 4 = 0) →
       exec (.mkiv g a sa) s = .next (commits (putAcc a { x with intervals := iv }) s1)))

-- ## The lookup path

/-- R206, R207: `tshape` of a request with reserved bits, no first shape or an impossible one raises *illegal instruction*;
another writes `TSH` and sd with the grant: the greatest height up to R and M, and then for each valid shape the greatest group
size up to its own, whose tables fit 16384 bytes; the other fields stay. R209, R210, R131: `cbload` of sixteen valid entries
makes them the cluster's codebook; with an invalid entry it raises *codebook* with the first such entry's number and leaves the
codebook. R211: `tbuild` with its four addresses and strides multiples of 16 sets the table source; otherwise it raises
*misaligned* with the first that is not. R212, R213, R218, R308: with activations of 8 bits, a valid codebook, and a shape
whose tables fit a half, the sum of the entries that a block's codes select in the half just built, for a row of the pass and
the kind of a rank, is the exact block sum; the swap leaves the half that was active as the one to load. -/
def Obligations.LookupSetup : Prop :=
  (∀ (g : Guard) (d a : BitVec 5) (e : VqEntry) (s : State), AtHead e s → s.strand.vstart = 0 →
     let x := e.a.toNat
     (badShapes x = true → exec (.tshape g d a) s = .next (raiseVq .illegal (e.head.setWidth 64) 0 s)) ∧
     (badShapes x = false → ∃ v : Word, exec (.tshape g d a) s = .next (commits (fun t => setS { t with tsh := v } d v) s) ∧
       let y := v.toNat
       let r := tileR y
       let most := Nat.min (tileR x) (tileM x)
       let fits := fun (k gc r : Nat) => tableNeed (shapeAt x k) gc r ≤ 16384
       tileM y = tileM x ∧ tileN y = tileN x ∧ tileKb y = tileKb x ∧ r ≤ most ∧
       (r = 1 ∨ ∀ k < 2, (shapeAt x k).v = true → fits k 0 r) ∧
       (∀ q, r < q → q ≤ most → ∃ k < 2, (shapeAt x k).v = true ∧ ¬ fits k 0 q) ∧
       ∀ k < 2, (shapeAt y k).v = (shapeAt x k).v ∧ (shapeAt y k).b = (shapeAt x k).b ∧ (shapeAt y k).km = (shapeAt x k).km ∧
         ((shapeAt x k).v = true → (shapeAt y k).gc ≤ (shapeAt x k).gc ∧ ((shapeAt y k).gc = 0 ∨ fits k (shapeAt y k).gc r) ∧
           ∀ c, (shapeAt y k).gc < c → c ≤ (shapeAt x k).gc → ¬ fits k c r))) ∧
  (∀ (g : Guard) (a : BitVec 5) (e : VqEntry) (v : Nat) (s s1 : State), AtHead e s → s.strand.vstart = 0 →
     loadVa (me s) (vecWho s) e.a 32 s = .ok v s1 → s1.strand = s.strand →
     let entry := fun i => v / 2 ^ (16 * i) % 2 ^ 16
     ((∀ i < 16, bookOk (entry i) = true) → ∃ t, exec (.cbload g a) s = .next t ∧
       (∀ i (h : i < 16), ((clusterAt t (myCluster s)).book[i]).toNat = entry i) ∧
       (∀ c, c ≠ myCluster s → clusterAt t c = clusterAt s1 c) ∧ t = { commitVq s1 with clusters := t.clusters }) ∧
     (∀ i < 16, bookOk (entry i) = false → (∀ j < i, bookOk (entry j) = true) →
       exec (.cbload g a) s = .next (raiseVq .codebook (word i) s1.strand.vstart s1))) ∧
  (∀ (g : Guard) (nogate : Bool) (a b c : BitVec 5) (e : VqEntry) (s : State), AtHead e s → s.strand.vstart = 0 →
     let qs := e.c.toNat % 2 ^ 32
     let es := e.c.toNat / 2 ^ 32
     (e.a.toNat % 16 = 0 → e.b.toNat % 16 = 0 → qs % 16 = 0 → es % 16 = 0 →
       exec (.tbuild g nogate a b c) s = .next (commits (fun t =>
         { t with tsrc := some { qb := e.a, eb := e.b, qs := qs, es := es, gate := !nogate } }) s)) ∧
     (∀ v, [e.a, e.b, word qs, word es].find? (fun v => v.toNat % 16 != 0) = some v →
       exec (.tbuild g nogate a b c) s = .next (raiseVq .misaligned v 0 s))) ∧
  (∀ (book : Vector (BitVec 16) 16) (q : Shape) (rows : List (List Int)) (ts : TableStore) (r s kind code : Nat) (row : List Int),
     1 ≤ q.b → q.b ≤ 4 → q.gc ≤ 4 → q.km < 16 → (∀ e ∈ book.toList, (bookValue e.toNat).natAbs ≤ 2 ^ 11) →
     (∀ l ∈ rows, l.length = 32 ∧ ∀ v ∈ l, -128 ≤ v ∧ v ≤ 127) → rows[r]? = some row → (kindList q.km)[s]? = some kind →
     let l := tableEntries book q rows
     24 * l.length ≤ 131072 →
     tableSum (ts.build l).active q r s code = blockDot row code book kind q.b ∧ (ts.build l).loading = ts.active)

/-- R216, R217: a lookup job that passes its checks, with fewer than four jobs of the strand and 32 of the cluster not
complete, releases at `cl` and joins the end of the cluster's jobs under the strand's next job ID, which goes to sd. R221:
`vdrn` with VL 0 writes 0 to its status register. With a row to drain that holds no poison, it pops min(VL, length) values into
the elements of vd, ORs their flags into `FFLAGS`, and writes how many, the column, the row and whether the consumer's last
value is out. Without a row it waits. R224: `lkwait` waits until every job of the strand up to its operand is complete; then,
with TRAP clear or no error to report, it ORs their flags into `FFLAGS`, forgets those with no error left to report, acquires
at `cl` and writes `LKST` to sd; with TRAP set and an error to report it records the oldest, marks it reported, and raises
*lookup error* with `LKST`. -/
def Obligations.LookupInstructions : Prop :=
  (∀ (g : Guard) (mode : Fin 3) (d a b c : BitVec 5) (fc : BitVec 5) (n1 : BitVec 3) (e : VqEntry) (src : TableSrc) (desc : Nat)
     (s s1 s2 : State), AtHead e s → s.strand.vstart = 0 → s.strand.tsh.getLsbD 35 = true → s.strand.tsrc = some src →
     (mode = 2 → fc.toNat + n1.toNat + 1 ≤ crewSize s) →
     (mode ≠ 2 → e.b.toNat % 16 = 0 ∧ e.c.toNat % 16 = 0) →
     loadVa (me s) (vecWho s) e.a 32 s = .ok desc s1 → s1.strand = s.strand →
     let cl := myCluster s
     notComplete (jobsOf s1 s.strand.crew s.strand.idx.toNat) < 4 → notComplete (clusterAt s1 cl).lk < 32 →
     releaseFor (me s) .cl s1 = .ok () s2 → s2.strand = s.strand →
     let i := match mode with
       | 0 => Instr.lkaccOw g d a b c
       | 1 => .lkaccAcc g d a b c
       | 2 => .lkaccDrn g d a fc n1
     ∃ t j, exec i s = .next t ∧ (clusterAt t cl).lk = (clusterAt s2 cl).lk ++ [j] ∧
       j.id = s.strand.lkNext ∧ j.by_ = issuerNow s ∧ j.desc = BitVec.ofNat 256 desc ∧ j.tsh = s.strand.tsh ∧
       j.book = (clusterAt s2 cl).book ∧ j.src = src ∧ j.mode = mode.val ∧ j.state = .queued ∧ j.seq.disp = false ∧
       (mode ≠ 2 → j.cb = e.b ∧ j.cs = e.c.toNat) ∧ (mode = 2 → j.fc = fc.toNat ∧ j.ncon = n1.toNat + 1) ∧
       t = { commits (fun u => setS { u with lkNext := u.lkNext + 1 } d (u.lkNext.setWidth 64)) s2 with clusters := t.clusters }) ∧
  (∀ (g : Guard) (d c : BitVec 5) (e : VqEntry) (s : State), AtHead e s → s.strand.vstart = 0 → Granted s [d] 32 →
     (s.strand.vl = 0 → exec (.vdrn g d c) s = .next (commits (fun t => setS t c 0) s)) ∧
     (s.strand.vl ≠ 0 → drainJob s = none → exec (.vdrn g d c) s = .next (waitVq .engine s)) ∧
     (∀ j r, s.strand.vl ≠ 0 → drainJob s = some j → j.rows.find? (fun r => r.cons == s.strand.idx.toNat) = some r →
       let i := s.strand.idx.toNat
       let n := Nat.min s.strand.vl r.vals.length
       let vs := r.vals.take n
       let last := n = r.vals.length ∧ moreRows j i (r.row + 1) = false
       (∀ v ∈ vs, v.poison = false) →
       exec (.vdrn g d c) s = .next (commitVq (mapStrand (fun t =>
           setS t c (word (n + r.col * 2 ^ 16 + r.row * 2 ^ 32 + if last then 2 ^ 63 else 0)))
         (putLk (myCluster s) { j with rows := popRow i n j.rows } (mapStrand (fun t =>
           let u := vs.zipIdx.foldl (fun t x => putElem t d 32 x.2 x.1.val) t
           { u with fflags := u.fflags ||| vs.foldl (fun f v => f ||| v.flags) 0 }) s)))))) ∧
  (∀ (g : Guard) (d a : BitVec 5) (e : VqEntry) (s : State), AtHead e s → s.strand.vstart = 0 →
     let cl := myCluster s
     let mine := fun (j : LkJob) => j.by_.crew == s.strand.crew && j.by_.idx == s.strand.idx.toNat &&
       atOrBefore j.id (e.a.setWidth 32)
     let js := (clusterAt s cl).lk.filter mine
     ((∃ j ∈ js, j.state ≠ .complete) → exec (.lkwait g d a) s = .next (waitVq .engine s)) ∧
     let i := s.strand.idx.toNat
     let told := fun (j : LkJob) => j.err = 0 ∨ reportedTo j i = true
     let keeps := fun (j : LkJob) =>
       if mine j = true then (if told j then none else some { j with flags := 0 }) else some j
     ((∀ j ∈ js, j.state = .complete) → (s.strand.lkst.getLsbD 27 = false ∨ ∀ j ∈ js, told j) →
       exec (.lkwait g d a) s = .next (commitVq (mapStrand (fun t => setS t d s.strand.lkst)
         (acquireFor (me s) cl (myCore s) .cl (mapCluster cl (fun c => { c with lk := c.lk.filterMap keeps })
           (mapStrand (fun t => { t with fflags := t.fflags ||| js.foldl (fun f j => f ||| j.flags) 0 }) s)))))) ∧
     (∀ n (h : n < js.length), (∀ j ∈ js, j.state = .complete) → s.strand.lkst.getLsbD 27 = true →
       ¬ told js[n] → (∀ j ∈ js.take n, told j) →
       exec (.lkwait g d a) s = .next (raiseVq .lookupError (withRecord js[n].err js[n].id s.strand).lkst 0
         (putLk cl (markReported js[n] i) (mapStrand (withRecord js[n].err js[n].id) s)))))

-- ## The Reel

/-- R233, R237: a read of `CPGOn` with an empty VQ, a legal scope, aligned values and room in the channel releases at `cl`,
appends the transfer that `CPSRC` to `CPCFG` describe under the channel's next ID, and writes the ID to sd. R237, R238:
`cpwait` waits while the transfer it names is pending in its channel, the test taken modulo 2^32; then it acquires at its scope
and writes `CPERR` to sd. -/
def Obligations.ReelInstructions : Prop :=
  (∀ (g : Guard) (d : BitVec 5) (ch : BitVec 2) (s s1 : State), Ready g [] [d] [] s → s.strand.vq = [] →
     let q := (s.strand.cps[ch.toNat]?).getD CopySet.bind
     let cl := myCluster s
     2 ≤ q.cscp → q.cscp ≤ 9 → (∀ v ∈ alignedValues q, v.toNat % 2 ^ q.esz = 0) →
     (channelAt s cl ch.toNat).jobs.length < 16 → releaseFor (me s) .cl s = .ok () s1 → s1.strand = s.strand →
     ∀ i, i = Instr.csrrd g d (0x310 + ch.setWidth 12) ∨ (g = ⟨0, false, false⟩ ∧ i = .reelLaunch d ch) →
     ∃ t j, exec i s = .next t ∧ channelAt t cl ch.toNat =
         { next := (channelAt s1 cl ch.toNat).next + 1, jobs := (channelAt s1 cl ch.toNat).jobs ++ [j] } ∧
       j.id = (channelAt s1 cl ch.toNat).next ∧ j.set = q ∧ j.l0 = s.strand.vl ∧ j.by_ = issuerNow s ∧ j.step = 0 ∧
       j.seq.disp = false ∧ j.pair = none ∧ t = { doneWith (fun u => setS u d (j.id.setWidth 64)) s1 with clusters := t.clusters }) ∧
  (∀ (g : Guard) (sc : Scope) (d a : BitVec 5) (ch : BitVec 2) (e : VqEntry) (s : State), AtHead e s → s.strand.vstart = 0 →
     let cl := myCluster s
     let c := channelAt s cl ch.toNat
     let low := match c.jobs with
       | [] => c.next
       | j :: _ => j.id
     let pending := (e.a.setWidth 32 - low).toNat < (c.next - low).toNat
     (pending → exec (.cpwait g sc d a ch) s = .next (waitVq .engine s)) ∧
     (¬ pending → exec (.cpwait g sc d a ch) s = .next (commitVq (mapStrand (fun t => setS t d t.cperr)
       (acquireFor (me s) cl (myCore s) sc s)))))

/-- R248, R250, R251: `slabgrow` of aligned slabs that meet no pair in use takes the first free pair, starts the move on its
channel and answers the transfer's ID and the pair; a clash, or no free pair, answers bit 63. `slabgrow.retire` frees a pair
that does not move, and `slabst` reads a pair. That the new range of a pair in use counts as 2^(Z+1) bytes there is the model's
choice (log 84). -/
def Obligations.SlabResults : Prop :=
  ∀ (g : Guard) (d a b : BitVec 5) (z : BitVec 6) (ch : BitVec 2) (e : VqEntry) (s s1 : State), AtHead e s →
    s.strand.vstart = 0 →
    let cl := myCluster s
    let n := z.toNat
    let out := fun (f : State → State) (v : Word) =>
      (Host.Outcome.next (commitVq (mapStrand (fun t => setS t d v) (f s))) : Out)
    let k := (clusterAt s cl).pairs.toList.findIdx fun q => q.state == .free
    (16 ≤ n → n ≤ 40 → e.a.toNat % 2 ^ n = 0 → e.b.toNat % 2 ^ (n + 1) = 0 →
      (slabClash (clusterAt s cl) e.a.toNat e.b.toNat n = true ∨ 16 ≤ k →
        exec (.slabgrow g d a b z ch) s = out id 0x8000000000000000) ∧
      (slabClash (clusterAt s cl) e.a.toNat e.b.toNat n = false → k < 16 →
        (channelAt s cl ch.toNat).jobs.length < 16 → releaseFor (me s) .cl s = .ok () s1 → s1.strand = s.strand →
        ∃ t j, exec (.slabgrow g d a b z ch) s = .next t ∧
          (channelAt t cl ch.toNat).jobs = (channelAt s1 cl ch.toNat).jobs ++ [j] ∧ j.pair = some k ∧ j.by_ = issuerNow s ∧
          pairAt t cl k = { old := e.a, new := e.b, z := n, ch := ch.toNat, id := j.id, wm := 0, state := .moving,
                            flight := s.strand.flight } ∧
          t = { commits (fun u => setS u d (word (j.id.toNat + k * 2 ^ 32))) s1 with clusters := t.clusters })) ∧
    (e.a.toNat < 16 →
      let q := pairAt s cl e.a.toNat
      exec (.slabgrowRetire g d a) s = (match q.state with
        | .free => out id 2
        | .moving => out id 1
        | _ => out (mapPair cl e.a.toNat fun _ => Pair.free) 0) ∧
      exec (.slabst g d a) s = out id (word ((match q.state with
        | .free => 0 | .moving => 1 | .forwarding => 2 | .failed => 3) + q.z * 4 + q.ch * 256 + q.wm * 2 ^ 32)))

-- ## Claims, publication and the crew barrier

/-- R242, R243: `claim` on an aligned pair of words whose checks pass takes min(count, VLMAX, what is left) from next to limit
in one read-modify-write of the pair, sets VL to what it took and answers the old next; `pubh` on an aligned word releases at
`cl` and then writes the word at its point of coherence. -/
def Obligations.ClaimAndPubResults : Prop :=
  ∀ (g : Guard) (d a b : BitVec 5) (e : VqEntry) (p q : Place) (x : Nat) (s s1 s2 s3 s4 : State), AtHead e s →
    s.strand.vstart = 0 →
    let w := vecWho s
    let left := fun x : Nat => x / 2 ^ 64 - x % 2 ^ 64
    let take := fun x => Nat.min (Nat.min e.b.toNat s.strand.vlmax) (left x)
    (e.a.toNat % 16 = 0 → checkAccess w e.a 16 .store s = .ok p s1 → checkAccess w e.a 16 .load s1 = .ok q s2 →
      p.space ≠ .host true → checkPhaseFree (me s) w p e.a s2 = .ok () s3 → s3.strand.vlmax = s.strand.vlmax →
      atomicAt (me s) w p 16 e.a (fun x => if take x = 0 then none else some (setField x 0 64 (x % 2 ^ 64 + take x))) s3 = .ok x s4 →
      exec (.claim g d a b) s = .next (commitVq (mapStrand (fun t => setS { t with vl := take x } d (word (x % 2 ^ 64))) s4))) ∧
    (e.a.toNat % 8 = 0 → checkAccess w e.a 8 .store s = .ok p s1 → checkPhaseFree (me s) w p e.a s1 = .ok () s2 →
      releaseFor (me s2) .cl s2 = .ok () s3 → phaseFreeAt false (me s) w p 8 e.a (fun _ => some e.b.toNat) s3 = .ok x s4 →
      exec (.pubh g a b) s = .next (commitVq s4))

/-- R245, R246: `bar.cl` releases at `cl`, arrives, and waits with the arrival noted unless it is the last of its crew; the
last strand to arrive ends the generation and goes on, acquiring at `cl`. In a crew of one it never waits; with its guard off
it only orders the streams. R246: the event of the barrier ends a generation in which every strand has arrived or ended, and
changes nothing else. -/
def Obligations.BarrierResults : Prop :=
  (∀ (g : Guard) (e : VqEntry) (c : Crew) (s s1 : State), AtHead e s → s.strand.vstart = 0 →
     let id := s.strand.crew
     let join := fun (c : Crew) => { c with here := insertN c.here s.strand.idx.toNat }
     let note := fun (s : State) => mapStrand (fun t => { t with vq := match t.vq with
       | e :: r => { e with arrived := some c.gen } :: r
       | [] => [] }) s
     (e.guardOff = true → exec (.barCl g) s = .next (commitVq (orderStores (me s) e.age s))) ∧
     (e.guardOff = false → e.arrived = none → releaseFor (me s) .cl s = .ok () s1 → s1.strand = s.strand →
       crewAt s id = some c → crewAt s1 id = some c →
       (allArrived (join c) = false →
         exec (.barCl g) s = .next (waitVq .barrier (mapCrew id (fun c => barrierStep (join c)) (note s1)))) ∧
       (allArrived (join c) = true → exec (.barCl g) s = .next (commitVq
         (acquireFor (me s) (myCluster s) (myCore s) .cl (mapCrew id (fun c => barrierStep (join c)) (note s1)))))) ∧
     (e.guardOff = false → ∀ n, e.arrived = some n → crewAt s id = some c →
       (c.gen = n → exec (.barCl g) s = .next (waitVq .barrier s)) ∧
       (c.gen ≠ n → exec (.barCl g) s = .next (commitVq (acquireFor (me s) (myCluster s) (myCore s) .cl s))))) ∧
  (∀ (id : Nat) (s : State), ∃ t, exec (.barrierGeneration id) s = .next t ∧ t = { s with crews := t.crews } ∧
     t.crews = s.crews.map fun c => if c.id = id ∧ c.here ≠ [] ∧ (∀ k < c.size, k ∈ c.here ∨ k ∈ c.ended) then
       { c with gen := c.gen + 1, here := [] } else c)

-- ## Ordering, atomics and full/empty granules

/-- R34, R193, R194: with its guard true `rel` waits for every older VQ store and releases at its scope, `acq` acquires at it,
and `phase` does both; with its guard false `rel` and `phase` still wait for the older VQ stores, and each orders the strand's
two streams and has no other effect. -/
def Obligations.BoundaryResults : Prop :=
  ∀ (g : Guard) (sc : Scope) (s s1 : State), upsetValue s.strand [] [g.p] = none →
    let acquire := fun s : State => acquireFor (me s) (myCluster s) (myCore s) sc s
    let older := s.strand.vq.any entryStores
    (guardOn g s.strand = true → exec (.acq g sc) s = .next (advance (acquire s))) ∧
    (guardOn g s.strand = true → older = false → releaseFor (me s) sc s = .ok () s1 →
      exec (.rel g sc) s = .next (advance s1) ∧ exec (.phase g sc) s = .next (advance (acquire s1))) ∧
    (older = true → exec (.rel g sc) s = .next (waitScalar .drain s) ∧ exec (.phase g sc) s = .next (waitScalar .drain s)) ∧
    let order := advance (orderStores (me s) (2 ^ 64) s)
    (guardOn g s.strand = false → exec (.acq g sc) s = .next order ∧
      (older = false → exec (.rel g sc) s = .next order ∧ exec (.phase g sc) s = .next order))

/-- R196 to R198: an atomic whose checks pass, and whose release completes if it has `.rl`, reads the location, writes the new
value of its rule there as one access, and writes the old value to sd with its flags to `FFLAGS`, or without an sd its flags to
the slice; with `.aq` it then acquires. In core scratch with nothing pending the location is the bytes of the bank. What an
atomic at scope `co` or `cl` acts on is the model's reading (log 27). -/
def Obligations.AtomicResults : Prop :=
  ∀ (g : Guard) (ty : Ty) (sc : Scope) (acq rel : Bool) (d a b : BitVec 5) (off : BitVec 24) (s : State),
    NoFence s → Ready g [a, b] [d] [] s → Ready g [a, b, d] [d] [] s → (rel = true → s.strand.vq.any entryStores = false) →
    let va := getS s.strand a + off.signExtend 64
    let n := ty.bytes
    let low := fun (t : Strand) (r : BitVec 5) => (getS t r).toNat % 2 ^ ty.width
    let fin := fun s : State => if acq then acquireFor (me s) (myCluster s) (myCore s) sc s else s
    ∀ p ∈ ([(Instr.amoadd g ty sc acq rel d a b off, fun _ o x => some ((o + x) % 2 ^ ty.width), fun _ _ => 0, true),
            (.amofadd g ty sc acq rel d a b off, fun _ o x => some (fpAdd (fmtOf ty) .rne o x).1,
              fun o x => (fpAdd (fmtOf ty) .rne o x).2, false),
            (.amomin g ty sc acq rel d a b off, fun _ o x => some (if intOf ty x < intOf ty o then x else o), fun _ _ => 0, false),
            (.amomax g ty sc acq rel d a b off, fun _ o x => some (if intOf ty o < intOf ty x then x else o), fun _ _ => 0, false),
            (.amoand g ty sc acq rel d a b off, fun _ o x => some (o &&& x), fun _ _ => 0, false),
            (.amoor g ty sc acq rel d a b off, fun _ o x => some (o ||| x), fun _ _ => 0, false),
            (.amoxor g ty sc acq rel d a b off, fun _ o x => some (o ^^^ x), fun _ _ => 0, false),
            (.amoswap g ty sc acq rel d a b off, fun _ _ x => some x, fun _ _ => 0, true),
            (.amocas g ty sc acq rel d a b off, fun t o x => if o = low t d then some x else none, fun _ _ => 0, true)] :
           List (Instr × (Strand → Nat → Nat → Option Nat) × (Nat → Nat → BitVec 6) × Bool)),
      (∀ o, coreScratch s va n o → NoPairs s → s.stores = [] → s.chains = [] → s.stale = [] → poisoned s (coKey (myCore s) o) n = false →
        let key := coKey (myCore s) o
        let old := memNat s.mem key n
        let x := low s.strand b
        let m := match p.2.1 s.strand old x with
          | some v => memWrite s.mem key (leBytes n v)
          | none => s.mem
        exec p.1 s = .next (advance (fin (mapStrand (fun t =>
          if d = 0 then t else setS { t with fflags := t.fflags ||| p.2.2.1 old x } d (toReg ty old)) { s with mem := m })))) ∧
      (∀ (q : Place) (old : Nat) (s1 s2 s3 : State), atomicCheck (whoAmI s) va n p.2.2.2 s = .ok q s1 →
        s1.strand.vq = s.strand.vq →
        (if rel then releaseFor (me s1) sc s1 else .ok () s1) = .ok () s2 →
        let x := low s2.strand b
        let f := fun o => p.2.1 s2.strand o x
        (if near s2 (myCluster s) q sc then atomicNear (me s) (whoAmI s) q n (scopeNum sc) va f s2
          else atomicAt (me s) (whoAmI s) q n va f s2) = .ok old s3 →
        let dev := match q.space with
          | .dev _ => true
          | _ => false
        exec p.1 s = .next (advance (fin (
          if d ≠ 0 then mapStrand (fun t => setS { t with fflags := t.fflags ||| p.2.2.1 old x } d (toReg ty old)) s3
          else if dev && !near s2 (myCluster s) q sc then addSliceFlags q.key (p.2.2.1 old x) s3 else s3))))

/-- R186 to R188: at an aligned address of an S or F slot of its window with nothing pending, a `ldfe` waits for a full
granule, and then reads it, empties it under `.clr`, and acquires at `cl`; `stfe` writes its bytes at the bank and fills the
granule, under `.wait` once it is empty. At a C slot, in core scratch, and at any other place that no S or F slot holds, each
raises *no full/empty*; a store there whose range check fails raises the fault of that check first. That `ldfe` and `stfe` act
on the bank directly is the model's reading (log 25). -/
def Obligations.FullEmptyResults : Prop :=
  ∀ (g : Guard) (ty : Ty) (d a : BitVec 5) (off : BitVec 24) (o : Nat) (s : State), NoFence s → NoPairs s →
    let va := getS s.strand a + off.signExtend 64
    let cl := myCluster s
    let key := clKey cl o
    let k := o / 16
    let loads := fun (c : Cause) (t : State) => Ready g [a] [d] [] s →
      ∀ i ∈ [Instr.ldfeKeep g ty d a off, .ldfeClr g ty d a off], exec i s = .next (raiseWith s.strand.fflags c va s.strand.pc t)
    let stores := fun (c : Cause) (t : State) => Ready g [a, d] [] [] s →
      ∀ i ∈ [Instr.stfeFill g ty d a off, .stfeWait g ty d a off], exec i s = .next (raiseWith s.strand.fflags c va s.strand.pc t)
    (coreScratch s va ty.bytes o → loads .noFullEmpty s ∧ stores .noFullEmpty s) ∧
    (cRoleSlot s (whoAmI s) va.toNat = false → ∀ p t, (∀ b, p.space ≠ .clScratch b) →
      (checkAccess (whoAmI s) va ty.bytes .load s = .ok p t → loads .noFullEmpty t) ∧
      (checkAccess (whoAmI s) va ty.bytes .store s = .ok p t → probeWrite (whoAmI s) p t = none → stores .noFullEmpty t) ∧
      (∀ c, checkAccess (whoAmI s) va ty.bytes .store s = .ok p t → probeWrite (whoAmI s) p t = some c → stores c t)) ∧
    (va.toNat = 0x00FFFFFF00000000 + o → o < 0x1800000 → va.toNat % ty.bytes = 0 →
    (clSlotOk s (whoAmI s) (o / 0x80000) = true → s.stores = [] →
      (Ready g [a] [d] [] s → poisoned s key ty.bytes = false →
        let got := mapStrand fun t => setS t d (toReg ty (memNat s.mem key ty.bytes))
        let fin := fun s : State => advance (acquireFor (me s) (myCluster s) (myCore s) .cl s)
        (granuleFull s cl k = false → exec (.ldfeKeep g ty d a off) s = .next (waitScalar .granule s) ∧
          exec (.ldfeClr g ty d a off) s = .next (waitScalar .granule s)) ∧
        (granuleFull s cl k = true → exec (.ldfeKeep g ty d a off) s = .next (fin (got s)) ∧
          exec (.ldfeClr g ty d a off) s = .next (fin (got (setGranule cl k false s))))) ∧
      (Ready g [a, d] [] [] s → s.strand.vq.any entryStores = false →
        let done := advance (setGranule cl k true (healPoison (span key (key + ty.bytes))
          { s with mem := memWrite s.mem key (leBytes ty.bytes (getS s.strand d).toNat) }))
        exec (.stfeFill g ty d a off) s = .next done ∧
        (granuleFull s cl k = false → exec (.stfeWait g ty d a off) s = .next done) ∧
        (granuleFull s cl k = true → exec (.stfeWait g ty d a off) s = .next (waitScalar .granule s)))) ∧
    ((clusterAt s cl).banks[o / 0x80000]? = some .c →
      (Ready g [a] [d] [] s → exec (.ldfeKeep g ty d a off) s = .next (raiseScalar .noFullEmpty va s.strand.pc s) ∧
        exec (.ldfeClr g ty d a off) s = .next (raiseScalar .noFullEmpty va s.strand.pc s)) ∧
      (Ready g [a, d] [] [] s → exec (.stfeFill g ty d a off) s = .next (raiseScalar .noFullEmpty va s.strand.pc s) ∧
        exec (.stfeWait g ty d a off) s = .next (raiseScalar .noFullEmpty va s.strand.pc s))))

/-- R111, R185, R189, R200: a permitted `bankrole` with an empty VQ and its release done takes its place in the job sequencer,
once, and waits there for the jobs received before it on its bank. Then it answers 1 when too few C banks would be left, for
the core store 2 for a V bank and 3 for role F, and otherwise 0 with the bank in the new role; a change to or from C leaves its
bytes zero and its granules empty, and no other byte changes. That what the cluster holds of lines in a C bank stays held, and
that a V bank of which role F is asked answers 3, is the model's choice (logs 75, 76). -/
def Obligations.BankroleResults : Prop :=
  ∀ (g : Guard) (d a b : BitVec 5) (q : SeqInfo) (s s0 s1 : State), Ready g [a, b] [d] [] s → priv s.strand = true →
    s.strand.vq = [] → releaseFor (me s) .cl s = .ok () s0 → s0.strand = s.strand →
    let x := (getS s.strand a).toNat
    let y := (getS s.strand b).toNat
    let bank := x % 64
    let cl := myCluster s
    let co := myCore s
    let c := clusterAt s0 cl
    let foot := if x = bank then [flatFoot (word (0x00FFFFFF40000000 + bank * 0x4000)) 0x4000] else [flatFoot (word (0x00FFFFFF00000000 + bank * 0x80000)) 0x80000]
    let placed := s.strand.place = some q ∧ s1 = s0 ∨
      s.strand.place = none ∧ q = { order := c.order, asid := anyAsid, reads := [], writes := foot, disp := false } ∧
        s1 = mapStrand (fun t => { t with place := some q }) (putCluster s0 cl { c with order := c.order + 1 })
    let left := { s.strand with place := none }
    let answer := fun (v : Nat) =>
      exec (.bankrole g d a b) s = .next { s1 with strand := goTo (successor s.strand) (setS left d (word v)) }
    let moved := fun (lo hi : Nat) (t : State) => exec (.bankrole g d a b) s = .next t ∧
      t.strand = goTo (successor s.strand) (setS left d 0) ∧
      (∀ k, lo ≤ k → k < hi → memByte t.mem k = 0) ∧ (∀ k, k < lo ∨ hi ≤ k → memByte t.mem k = memByte s1.mem k)
    y < 3 → (x = bank ∨ x = bank + 256) → placed →
    (x = bank ∧ bank < 16 ∨ x = bank + 256 ∧ bank < 48 → clearToStart s1 cl q = false →
      exec (.bankrole g d a b) s = .next (waitScalar .engine s1)) ∧
    (x = bank + 256 → bank < 48 → clearToStart s1 cl q = true →
      let old := (clusterAt s1 cl).banks[bank]?
      (old = some .c → y ≠ 0 → clCount (clusterAt s1 cl) ≤ 8 → answer 1) ∧
      (old = some (clRole y) → ¬ (old = some .c ∧ y ≠ 0) → answer 0) ∧
      (old ≠ some (clRole y) → ¬ (old = some .c ∧ clCount (clusterAt s1 cl) ≤ 8) →
        (old = some .c ∨ y = 0 → ∃ t, moved (clKey cl (bank * 0x80000)) (clKey cl (bank * 0x80000) + 0x80000) t ∧
          (clusterAt t cl).banks[bank]? = some (clRole y) ∧
          ∀ k, bank * 0x8000 ≤ k → k < (bank + 1) * 0x8000 → granuleFull t cl k = false) ∧
        (old ≠ some .c ∧ y ≠ 0 → ∃ t, moved 0 0 t ∧ (clusterAt t cl).banks[bank]? = some (clRole y)))) ∧
    (x = bank → bank < 16 → clearToStart s1 cl q = true →
      let old := (coreAt s1 co).banks[bank]?
      (y = 2 → answer 3) ∧
      (y ≠ 2 → (∃ k, old = some (.v k)) → answer 2) ∧
      (y = 0 → old = some .c → answer 0) ∧ (y = 1 → old = some .s → answer 0) ∧
      (y = 1 → old = some .c → (cBanks (coreAt s1 co)).length ≤ 4 → answer 1) ∧
      (y = 1 ∧ old = some .c ∧ 4 < (cBanks (coreAt s1 co)).length ∨ y = 0 ∧ old = some .s →
        ∃ t, moved (coKey co (bank * 0x4000)) (coKey co (bank * 0x4000) + 0x4000) t ∧
          (coreAt t co).banks[bank]? = some (if y = 0 then .c else .s)))

-- ## Ranges and protocols

/-- R256 to R259: a legal `rangeset` in supervisor mode with an empty VQ and the lock free, none before it, answers 1 when the
new extent overlaps another entry, 2 when its slot holds no protocol, 3 when a line of the old or new extent is held, and
otherwise writes the entry and answers 0; `rangeset.q` with no protocol activity does the same without status 3. `rangerd`
reads an entry or a slot. R265, R266: `prtload` in supervisor mode on a 64-byte aligned image and a slot from 6 up that no
entry uses loads the image into the slot and answers its ID when it passes every check; an image that fails raises *protocol
check* with the first failure; a slot below 6 raises it with check 9, and a slot in use raises *protocol in use*. -/
def Obligations.RangeAndProtocolResults : Prop :=
  (∀ (g : Guard) (d a b c : BitVec 5) (slot : BitVec 3) (v hc : Bool) (s : State), priv s.strand = true →
     let k := (getS s.strand a).toNat
     let lo := (getS s.strand b).toNat
     let hi := (getS s.strand c).toNat
     let r : RangeEntry := if v then { base := lo, limit := hi, slot := slot.toNat, v := true, hc := hc, pend := false }
       else { base := 0, limit := 0, slot := 0, v := false, hc := false, pend := false }
     let clash := v = true ∧ ∃ j, ∃ h : j < 64, j ≠ k ∧ s.ranges[j].v = true ∧ s.ranges[j].base < hi ∧ lo < s.ranges[j].limit
     let empty := v = true ∧ 6 ≤ slot.toNat ∧ (protoAt s slot.toNat).loaded = false
     let answer := fun (i : Instr) (n : Nat) =>
       exec i s = .next (advance (mapStrand (fun t => setS t d (word n)) { s with lock := none }))
     let done := fun (i : Instr) => ∃ t, exec i s = .next t ∧ t.ranges = s.ranges.setIfInBounds k r ∧ t.lock = none ∧
       t.strand = goTo (successor s.strand) (setS s.strand d 0) ∧ t.mem = s.mem ∧ t.clines = s.clines ∧ t.stores = s.stores
     (Ready g [a, b, c] [d] [] s → s.strand.vq = [] → s.lock = none ∧ s.lockq = [] ∨ s.lock = some (me s) → k < 64 →
       (v = true → lo < 2 ^ 43 ∧ hi ≤ 2 ^ 43 ∧ lo < hi ∧ lo % 65536 = 0 ∧ hi % 65536 = 0) →
       ∀ i, i = Instr.rangeset g d a b c slot v hc ∨ i = .rangesetQ g d a b c slot v hc →
         (clash → answer i 1) ∧ (¬ clash → empty → answer i 2) ∧
         (¬ clash → ¬ empty → i = .rangeset g d a b c slot v hc →
           (linesHeld s [extentOf (rangeAt s k), extentOf r] = true → answer i 3) ∧
           (linesHeld s [extentOf (rangeAt s k), extentOf r] = false → done i)) ∧
         (¬ clash → ¬ empty → i = .rangesetQ g d a b c slot v hc → s.gate = [] → s.net = [] → s.clines = [] → s.hlines = [] →
           s.regions = [] → done i)) ∧
     (Ready g [a] [d] [] s →
       let out := fun n => exec (.rangerd g d a) s = .next (doneWith (fun t => setS t d (word n)) s)
       (k < 64 → let q := rangeAt s k
         out (q.base / 2 ^ 16 % 2 ^ 27 + q.limit / 2 ^ 16 % 2 ^ 28 * 2 ^ 27 + q.slot * 2 ^ 55 + b2n q.v * 2 ^ 58 + b2n q.hc * 2 ^ 59 +
           b2n q.pend * 2 ^ 60)) ∧
       (256 ≤ k → k < 264 → let p := protoAt s (k - 256)
         out (b2n p.loaded + (s.ranges.toList.countP fun r => (r.v || r.pend) && r.slot == k - 256) * 2 + p.id * 2 ^ 16)))) ∧
  (∀ (g : Guard) (d a b : BitVec 5) (ws : List Nat) (s s1 : State), Ready g [a, b] [d] [] s → priv s.strand = true →
     NoFence s → s.lock = none ∧ s.lockq = [] ∨ s.lock = some (me s) →
     let x := getS s.strand a
     let slot := (getS s.strand b).toNat
     let locked := { s with lock := some (me s) }
     let free := fun s : State => { s with lock := none }
     let out := fun (c : Cause) (v : Word) => exec (.prtload g d a b) s = .next (raiseScalar c v s.strand.pc (free s))
     x.toNat % 64 = 0 → slot < 8 →
     (slot < 6 → out .protocolCheck 9) ∧
     (6 ≤ slot → usersOf s slot ≠ 0 → out .protocolInUse (word slot)) ∧
     (6 ≤ slot → usersOf s slot = 0 →
       eachOnce (me s) 392 (fun k => loadVa (me s) (whoAmI s) (x + word (8 * k)) 8) locked = .ok ws s1 →
       s1.strand = s.strand →
       let img := ws.foldr (fun v n => v + 2 ^ 64 * n) 0
       (∀ v, checkImage img = some v →
         exec (.prtload g d a b) s = .next (raiseScalar .protocolCheck (word v) s.strand.pc (free s1))) ∧
       (checkImage img = none → exec (.prtload g d a b) s = .next (advance (mapStrand
         (fun t => setS t d (word (imgField img 8 4))) (free { s1 with slots := s1.slots.set slot (protoOfImage img) }))))))

-- ## Mooring's instructions and the context save area

/-- R284: `tlbinv` in supervisor mode, its operands legal, its release at `pk` done and the stores translated with the entries
that go at their completer, writes 0 to sd, leaves in every TLB exactly the entries that KIND does not select, and in every
walk cache those of other address spaces. R292: `launch` of a 64-byte aligned record answers bit 63 with 2 for a queue not
enabled or in teardown, 3 for one that strands may not use, 4 for another address space, 1 for a full ring; otherwise the
record stands in the ring at the tail, the tail goes up by 1, and sd is the old tail. -/
def Obligations.TlbAndLaunchResults : Prop :=
  (∀ (g : Guard) (d a b : BitVec 5) (s s0 s1 : State), Ready g [a, b] [d] [] s → priv s.strand = true →
     s.strand.vq.any entryStores = false → releaseFor (me s) .pk s = .ok () s0 →
     let va := (getS s.strand a).toNat
     let x := (getS s.strand b).toNat
     let asid := x % 2 ^ 12
     let kind := x / 2 ^ 12
     drainFor (tlbDrops kind asid va) s0 = .ok () s1 → s1.strand = s.strand →
     x < 2 ^ 14 → (kind = 0 → va < 2 ^ 57) →
     let gone := fun (e : TlbEntry) => match kind with
       | 0 => e.page == va / 2 ^ e.size && (e.asid == asid || e.glob)
       | 1 => !e.glob && e.asid == asid
       | 2 => true
       | _ => e.host && e.asid == asid
     ∃ t, exec (.tlbinv g d a b) s = .next t ∧ t.strand = goTo (successor s.strand) (setS s.strand d 0) ∧ t.mem = s1.mem ∧ t.stores = s1.stores ∧
       (∀ co, (coreAt t co).l1tlb = (coreAt s1 co).l1tlb.filter fun e => !gone e) ∧
       (∀ cl, (clusterAt t cl).l2tlb = (clusterAt s1 cl).l2tlb.filter fun e => !gone e) ∧
       t.walks = s1.walks.filter fun w => kind != 2 && w.2.asid != asid) ∧
  (∀ (g : Guard) (d a b : BitVec 5) (v : Nat) (s s1 s2 : State), Ready g [a, b] [d] [] s → NoFence s →
     s.strand.vq.any entryStores = false →
     let va := getS s.strand a
     let k := (getS s.strand b).toNat
     k < 16 → va.toNat % 64 = 0 → atomicRead (me s) (whoAmI s) va 64 s = .ok v s1 → s1.strand = s.strand →
     releaseFor (me s) .dm s1 = .ok () s2 → s2.strand = s.strand → s2.chains = [] →
     let q := queueAt s2 k
     let down := q.ctl.getLsbD 0 = false ∨ q.ctl.getLsbD 18 = true ∨ q.ctl.getLsbD 19 = true
     let answer := fun (n : Nat) => exec (.launch g d a b) s = .next (advance (mapStrand (fun t => setS t d (word (2 ^ 63 + n))) s2))
     (down → answer 2) ∧ (¬ down → q.ctl.getLsbD 1 = false → answer 3) ∧
     (¬ down → q.ctl.getLsbD 1 = true → asidOf q ≠ asidOf (queueAt s2 s.strand.queue) → answer 4) ∧
     (¬ down → q.ctl.getLsbD 1 = true → asidOf q = asidOf (queueAt s2 s.strand.queue) →
       (inRing q = ringSize q → answer 1) ∧
       (inRing q ≠ ringSize q → ∃ t, exec (.launch g d a b) s = .next t ∧ queueAt t k = { q with tail := q.tail + 1 } ∧
         (∀ j, j ≠ k → queueAt t j = queueAt s2 j) ∧
         (∀ i < 64, memByte t.mem (recordKey q q.tail + i) = BitVec.ofNat 8 (v / 256 ^ i)) ∧
         (∀ m, m < recordKey q q.tail ∨ recordKey q q.tail + 64 ≤ m → memByte t.mem m = memByte s2.mem m) ∧
         t.strand = goTo (successor s.strand) (setS s.strand d (q.tail.setWidth 64)))))

/-- R298 to R300: in supervisor mode with an empty VQ, `ctxsave` to an aligned area answers 1 while a lookup job of the strand
is open, and otherwise stores the area's words and answers 0; `ctxload` answers 1 for an area without the format or marked
lost, 2 for another configuration or cluster, 3 for an entry that fails its check, and otherwise gives the strand every item of
the area and returns from the loaded trap as `eret` does. The order of the words in an area (log 13), and that register files
with an uncorrectable error are saved as they stand (log 87), is the model's choice. -/
def Obligations.ContextResults : Prop :=
  ∀ (g : Guard) (d a : BitVec 5) (s : State), Ready g [a] [d] [] s → priv s.strand = true → s.strand.vq = [] →
    s.strand.returning = none →
    let base := getS s.strand a
    base.toNat % 4096 = 0 →
    let w := whoAmI s
    let fetch := fun (l : List Nat) (s : State) =>
      (inTurn (fun off s => okOf (loadVa (me s) w (base + word off) 8 s)) l s).map fun x => (l.zip x.1, x.2)
    let heads := (List.range headCount).map fun k => 8 * k
    (lookupBusy s = true → exec (.ctxsave g d a) s = .next (doneWith (fun t => setS t d 1) s)) ∧
    (∀ u s1, lookupBusy s = false →
      let area := areaWords (setS s.strand a s.strand.xscratch) (decide (s.strand.upsets ≠ [])) (lkLow s).toNat s
      inTurn (fun (x : Nat × Nat) t => okOf (storeVa (me s) w (me s) (base + word x.1) 8 x.2 t)) area.1 area.2 = some (u, s1) →
      exec (.ctxsave g d a) s = .next (doneWith (fun t => setS t d 0) s1)) ∧
    (∀ h s1, fetch heads s = some (h, s1) →
      let at_ := fun off => findD h off 0
      let fails := fun (n : Nat) => exec (.ctxload g d a) s = .next (doneWith (fun t => setS t d (word n)) s1)
      let sound := at_ 0 % 2 ^ 32 = 0x43530001 ∧ bit (at_ 0) 32 = false
      let same := at_ 8 = vcfgValue s.strand ∧ at_ 16 = myCluster s
      (¬ sound → fails 1) ∧ (sound → ¬ same → fails 2) ∧
      (∀ qs fs s2 s3, sound → same →
        fetch (((List.range (16 * Nat.min (at_ 760) 64)).map fun k => 0x1000 + 8 * k) ++
          (List.range (16 * Nat.min (at_ 768) 64)).map fun k => 0x3000 + 8 * k) s1 = some (qs, s2) →
        (queuesOf s2 (fun off => findD (h ++ qs) off 0) = none →
          exec (.ctxload g d a) s = .next (doneWith (fun t => setS t d 3) s2)) ∧
        (queuesOf s2 (fun off => findD (h ++ qs) off 0) ≠ none → fetch (fileOffsets s.strand) s2 = some (fs, s3) →
          ∀ t p s4, strandOf s3 (fun off => findD (h ++ qs ++ fs) off 0) s.strand = some t →
            targetCheck (ppriv t) t.xpc s3 = .ok p s4 →
            (t.xcause.getLsbD 8 = false ∨ t.vq = [] →
              exec (.ctxload g d a) s = .next { s4 with strand := goTo t.xpc (leaveHandler p (restoreMode t)) }) ∧
            (t.xcause.getLsbD 8 = true → t.vq ≠ [] →
              exec (.ctxload g d a) s = .next (waitScalar .drain { s4 with strand :=
                { restoreMode t with pc := s4.strand.pc, pass := s4.strand.pass, returning := some (p, t.status) } })))))

-- ## Windsock's instructions

/-- R326, R329, R331, R336: `strmset`, `stappend`, `tickarm` and `tickoff` on a legal stream number, with their items loaded,
answer as the rules say: the refusals by number, and otherwise the stream set or cleared, the record appended, the stream armed
at the first tick at least 10 µs ahead, or disarmed. An append and a `tickoff` follow what has come due at the stream by then,
and wait while a count of the stream does. -/
def Obligations.StreamInstructions : Prop :=
  ∀ (g : Guard) (d a b : BitVec 5) (v : Nat) (s s1 : State), (getS s.strand a).toNat < 4096 →
    let k := (getS s.strand a).toNat
    let item := eightWords v
    let answer := fun (i : Instr) (n : Nat) (t : State) => exec i s = .next (advance (mapStrand (fun u => setS u d (word n)) t))
    let armed := (streamAt s1 k).any fun x => x.armed
    (Ready g [a, b] [d] [] s → NoFence s → (getS s.strand b).toNat % 64 = 0 → Loads s (getS s.strand b) 64 v s1 → s1.strand = s.strand →
      (priv s.strand = true → let i := Instr.strmset g d a b
        let q := streamQ item
        let slots := sinkS item + winW item
        (armed = true → answer i (2 ^ 63 + 1) s1) ∧
        (armed = false → bit (rw item 6) 24 = false → answer i 0 { s1 with streams := s1.streams.filter fun x => x.1 != k }) ∧
        (armed = false → bit (rw item 6) 24 = true → descBad item = true → answer i (2 ^ 63 + 2) s1) ∧
        (armed = false → bit (rw item 6) 24 = true → descBad item = false → ∀ x y s2 s3,
          allMapped q (rw item 0) (slots * recSize item) s1 = .ok x s2 →
          allMapped q (rw item 1) (slots * kvSize item) s2 = .ok y s3 →
          (x = true ∧ y = true → answer i 0 (putStream k (newStream item) s3)) ∧
          (¬ (x = true ∧ y = true) → answer i (2 ^ 63 + 3) s3))) ∧
      (let i := Instr.tickarm g d a b;
        (streamAt s1 k = none → answer i (2 ^ 63 + 1) s1) ∧
        (∀ x, streamAt s1 k = some x →
          (x.armed = true → answer i (2 ^ 63 + 2) s1) ∧
          (x.armed = false → s.strand.queue ≠ streamQ x.desc → answer i (2 ^ 63 + 3) s1) ∧
          (x.armed = false → s.strand.queue = streamQ x.desc →
            recordBad (queueAt s1 s.strand.queue) item = true ∨ recNw item ≠ 0 → answer i (2 ^ 63 + 4) s1) ∧
          (x.armed = false → s.strand.queue = streamQ x.desc → recordBad (queueAt s1 s.strand.queue) item = false →
            recNw item = 0 → ∀ l s2, recordChecks (me s) s.strand.queue item s1 = .ok l s2 → s2.strand = s.strand →
            ∃ n, answer i n (putStream k { x with
                armed := true, tmpl := item, next := n, cnts := [], ladm := 0, skp := 0, waiting := false, deferred := false } s2) ∧
              (0 < period x.desc → nowNs s2 + 10000 ≤ tickTime x.desc n ∧
                ∀ m < n, tickTime x.desc m < nowNs s2 + 10000))))) ∧
    (Ready g [a, b] [d] [] s → NoFence s → (getS s.strand b).toNat % 64 = 0 → s.strand.vq.any entryStores = false → ∀ vs s2 s3 code,
      let n := ((streamAt s k).map fun x => recSize x.desc).getD 64
      eachOnce (me s) (n / 64) (fun j => loadVa (me s) (whoAmI s) (getS s.strand b + word (64 * j)) 64) s = .ok vs s1 → s1.strand = s.strand →
      releaseFor (me s) .pk s1 = .ok () s2 → s2.strand = s.strand →
      let bs := vs.flatMap fun v => leBytes 64 v
      (streamAt s2 k = none → countPending s2 k = false → answer (.stappend g d a b) (2 ^ 63 + 6) s2) ∧
      (appendToken k (some (asidOf (queueAt s2 s.strand.queue))) bs s2 = .ok code s3 →
        answer (.stappend g d a b) (if code < 2 then leNat ((bs.drop 8).take 4) + code * 2 ^ 32 else 2 ^ 63 + code) s3)) ∧
    (Ready g [a] [d] [] s → let i := Instr.tickoff g d a;
      let now := decideDue k s
      (countPending now k = true → exec i s = .next (waitScalar .ats now)) ∧ (countPending now k = false →
      (streamAt now k = none → answer i (2 ^ 63 + 1) now) ∧
      (∀ x, streamAt now k = some x →
        (x.armed = false → answer i (2 ^ 63 + 2) now) ∧
        (x.armed = true → now.strand.queue ≠ streamQ x.desc → answer i (2 ^ 63 + 3) now) ∧
        (x.armed = true → now.strand.queue = streamQ x.desc → answer i 0 (disarmStream k now) ∧
          (streamAt (disarmStream k now) k).any (fun y => y.armed) = false))))

-- ## Groups and collectives

/-- R362 to R365, R368, R371, R374: with a usable group and an access to device memory, `mcst` writes its value at every member
in turn, and `rld` reads every member and combines the values in the tree of the rule, both with the entry that was in force
when the instruction issued; a launch on the Bridle appends an operation under the next ID; `colwait` waits while an operation
is pending, then acquires and answers `COLERR`. That mcst has taken effect at every member when it commits is the model's
reading (log 31), and so is that a launch for a domain without the group raises *protection* (log 94). -/
def Obligations.GroupInstructions : Prop :=
  ∀ (g : Guard) (ty : Ty) (sc : Scope) (d a b : BitVec 5) (off : BitVec 24) (q : Place) (vs : List Nat) (s s1 s2 s3 : State),
    let va := getS s.strand a + off.signExtend 64
    let k := (getS s.strand b).toNat
    let held := heldGroup s (me s) k
    let asid := fun s : State => asidOf (queueAt s s.strand.queue)
    let cl := myCluster s
    let device := match q.space with
      | .dev _ => true
      | _ => false
    (findD s.parts (me s) [] = [] → held = groupAt s k) ∧
    (Ready g [d, a, b] [] [] s → NoFence s → k < 4096 → checkAccess (whoAmI s) va ty.bytes .store s = .ok q s1 →
      rangeCheck (me s) (whoAmI s) q va s1 = .ok () s2 →
      s2.strand = s.strand → device = true → groupUsable held 1 (asid s2) = true →
      eachMember (me s) k held
        (memberWrite (me s) (whoAmI s) (moduleOffset q.key) (leBytes ty.bytes (getS s.strand d).toNat) va) s2 = .ok vs s3 →
      exec (.mcst g ty d a b off) s = .next (advance s3)) ∧
    (Ready g [a, b] [d] [] s → NoFence s → k < 4096 → redAccepts (bits held.ctl.toNat 5 4) ty = true →
      checkAccess (whoAmI s) va ty.bytes .load s = .ok q s1 → s1.strand = s.strand → device = true →
      groupUsable held 2 (asid s1) = true →
      eachMember (me s) k held (memberRead (me s) (whoAmI s) (moduleOffset q.key) ty.bytes va) s1 = .ok vs s2 →
      let r := reduceTree (bits held.ctl.toNat 5 4) ty vs
      exec (.rld g ty d a b off) s = .next (doneWith (fun t => setS { t with fflags := t.fflags ||| r.2 } d (toReg ty r.1)) s2)) ∧
    (Ready g [] [d] [] s → s.strand.vq = [] → colBad s.strand.colctl s.strand.colgrp = false →
      s.strand.colsrc.toNat % 16 = 0 → s.strand.coldst.toNat % 16 = 0 →
      let e := groupAt s (s.strand.colgrp.toNat % 4096)
      let ms := colMembers s e s.strand.colgrp
      groupUsable e 3 (asid s) = true → ms.contains (myGlobal s) = true →
      ∀ i, i = Instr.csrrd g d 0x510 ∨ (g = ⟨0, false, false⟩ ∧ i = .bridleLaunch d) →
      (groupEverywhere s e s.strand.colgrp = false → exec i s = .next (raiseScalar .protection s.strand.colgrp s.strand.pc s)) ∧
      (groupEverywhere s e s.strand.colgrp = true → (clusterAt s cl).ops.length < 16 → releaseFor (me s) .cl s = .ok () s1 →
        s1.strand = s.strand → ∃ t o, exec i s = .next t ∧
        (clusterAt t cl).ops = (clusterAt s1 cl).ops ++ [o] ∧ o.id = (clusterAt s1 cl).opNext ∧
        (clusterAt t cl).opNext = (clusterAt s1 cl).opNext + 1 ∧ o.by_ = issuerNow s ∧ o.src = s.strand.colsrc ∧
        o.dst = s.strand.coldst ∧ o.ctl = s.strand.colctl ∧ o.members = ms ∧ o.peers = none ∧ o.seq.disp = false ∧
        t.strand = goTo (successor s.strand) (setS s.strand d (o.id.setWidth 64)) ∧ t.mem = s1.mem)) ∧
    (Ready g [a] [d] [] s → 2 ≤ scopeNum sc →
      let c := clusterAt s cl
      let low := match c.ops with
        | [] => c.opNext
        | o :: _ => o.id
      let pending := ((getS s.strand a).setWidth 32 - low).toNat < (c.opNext - low).toNat
      (pending → exec (.colwait g sc d a) s = .next (waitScalar .engine s)) ∧
      (¬ pending → exec (.colwait g sc d a) s = .next (doneWith (fun t => setS t d t.colerr)
        (acquireFor (me s) cl (myCore s) sc s))))

-- ## The strand's events

/-- R97, R98, R101, R103, R104: a scalar trap with an empty VQ enters the handler with `XPC` as given and `XVCP` 0; behind
older entries it is held until they have drained. A VQ trap moves the queue to the saved queue, and enters the handler with
`XCAUSE` bit 8 set, `XVCP` the entry, `XPC` the next scalar instruction and `VSTART` the element; over a saved queue the
context is lost. While the line of the handler is being translated the trap waits. A page fault of either stream is queued for
Mooring instead, and the strand stops, one of the VQ with its queue moved to an empty saved queue and `VSTART` at the element.
An `eret` that waits for the VQ is abandoned by a VQ trap, its change of mode undone. -/
def Obligations.TrapEvents : Prop :=
  ∀ (cause : BitVec 8) (c : Cause) (v xpc va : Word) (acc : Acc) (fromVq : Bool) (elem : Nat) (p : Pass) (k : WaitKind)
    (s s1 : State),
    causeOf cause.toNat = some c → runs s.strand = true →
    let t := s.strand
    let flags := (t.pendTrap.map fun p => p.flags).getD 0
    let held := { t with pendTrap := some ⟨c, v, xpc, t.fflags ||| flags⟩ }
    let mode := priv { t with status := (t.returning.map fun r => r.2).getD t.status }
    let entered := fun (u : State) (was : Bool) (code : Nat) (pc vcp : Word) => priv u.strand = true ∧ ppriv u.strand = was ∧
      u.strand.xcause = word code ∧ u.strand.xval = v ∧ u.strand.xpc = pc ∧ u.strand.xvcp = vcp ∧ u.strand.pc = t.xvec ∧
      (∀ r, getS u.strand r = getS t r) ∧ (∀ r, getP u.strand r = getP t r) ∧ u.strand.vregs = t.vregs ∧
      u.strand.masks = t.masks ∧ u.mem = s1.mem ∧ u.stores = s1.stores
    let faulted := fun (o : Out) (va : Word) (acc : Acc) (fromVq : Bool) (elem : Nat) (q : List VqEntry) => ∃ u, o = .next u ∧
      u.strand.fault = some { va := va, acc := acc, fromVq := fromVq, elem := elem, tag := s.faultNo % 2 ^ 16 } ∧
      runs u.strand = false ∧ u.faultNo = s.faultNo + 1 ∧ u.faultq.length = s.faultq.length + 1 ∧ u.strand.pc = t.pc ∧
      (fromVq = false → u.strand.vq = q ∧ u.strand.saved = t.saved ∧ u.strand.vstart = t.vstart) ∧
      (fromVq = true → u.strand.vstart = elem ∧ (t.saved = [] → u.strand.vq = [] ∧ u.strand.saved = q) ∧
        (t.saved ≠ [] → u.strand.vq = q ∧ u.strand.saved = t.saved)) ∧
      (∀ r, getS u.strand r = getS t r) ∧ u.mem = s.mem
    faulted (exec (.pageFaultIntercept va acc fromVq elem) s) va acc fromVq elem t.vq ∧
    (t.vq ≠ [] → exec (.scalarTrap cause v xpc) s =
      .next { s with strand := { held with scalarWait := none } }) ∧
    (t.vq = [] → c = .loadFault ∨ c = .storeFault →
      faulted (exec (.scalarTrap cause v xpc) s) v (if c = .storeFault then .store else .load) false 0 []) ∧
    (t.vq = [] → c ≠ .loadFault → c ≠ .storeFault → handlerWait s = some k →
      exec (.scalarTrap cause v xpc) s = .next (waitScalar .ats { s with strand := held })) ∧
    (t.vq = [] → c ≠ .loadFault → c ≠ .storeFault → targetCheck true t.xvec s = .ok p s1 →
      ∃ u, exec (.scalarTrap cause v xpc) s = .next u ∧ entered u (priv t) (causeCode c) xpc 0 ∧
        u.strand.vq = [] ∧ u.strand.saved = t.saved ∧ u.strand.fflags = t.fflags ||| flags) ∧
    (∀ e, AtHead e s → c = .loadFault ∨ c = .storeFault →
      faulted (exec (.vqTrap cause v elem) s) v (if c = .storeFault then .store else .load) true elem
        (stopEntry t.vq)) ∧
    (∀ e, AtHead e s → c ≠ .loadFault → c ≠ .storeFault → t.saved = [] → targetCheck true t.xvec s = .ok p s1 →
      ∃ u, exec (.vqTrap cause v elem) s = .next u ∧ entered u mode (causeCode c + 256) t.pc e.pc ∧
        u.strand.vq = [] ∧ u.strand.saved = stopEntry t.vq ∧ u.strand.vstart = elem ∧ u.strand.returning = none) ∧
    (∀ e, AtHead e s → c ≠ .loadFault → c ≠ .storeFault → t.saved ≠ [] →
      ∃ u, exec (.vqTrap cause v elem) s = .next u ∧ u.strand.stopped = true ∧ u.strand.lost = true)

/-- R94, R114, R121, R173, R174, R188: a wake, and the poll timer, execute the waiting instruction again; a `vwait`'s time-out
does so once its time has passed; a yield marks the waiting strand and drops its watch entries. -/
def Obligations.WakeEvents : Prop :=
  ∀ (g : Guard) (ty : Ty) (d a b c : BitVec 5) (bo : BOp) (md m : BitVec 3) (off : BitVec 24) (s s1 : State),
    runs s.strand = true →
    let same := fun (i j : Instr) (s1 : State) => ∃ t, exec i s = .next t ∧ exec j s1 = .next t
    (s.strand.scalarWait ≠ none →
      (fetchIssue s = .ok (.scalar (.park g d a b)) s1 → same .parkWake (.park g d a b) s1 ∧
        (s.strand.vqWait = none → same .waitPollTimer (.park g d a b) s1)) ∧
      (∀ i ∈ [Instr.ldfeKeep g ty d a off, .ldfeClr g ty d a off, .stfeFill g ty d a off, .stfeWait g ty d a off],
        fetchIssue s = .ok (.scalar i) s1 → same .fullEmptyWake i s1 ∧
          (s.strand.vqWait = none → same .waitPollTimer i s1))) ∧
    (s.strand.vqWait ≠ none →
      (vqNow s = some (.vcfg g d a) → same .vcfgGrantWait (.vcfg g d a) s) ∧
      (vqNow s = some (.setvlW g d a b) → same .setvlWWake (.setvlW g d a b) s ∧
        same .waitPollTimer (.setvlW g d a b) s) ∧
      (vqNow s = some (.vwait g md a bo c m) → same .vwaitWake (.vwait g md a bo c m) s ∧
        same .waitPollTimer (.vwait g md a bo c m) s ∧
        ∀ e, AtHead e s →
          (e.c ≠ BitVec.allOnes 64 → s.strand.armedAt + e.c.toNat * 65536 ≤ s.ptime → s.strand.watch ≠ 0 →
            same .vwaitTimeout (.vwait g md a bo c m) s) ∧
          (e.c = BitVec.allOnes 64 ∨ s.ptime < s.strand.armedAt + e.c.toNat * 65536 ∨ s.strand.watch = 0 →
            exec .vwaitTimeout s = .next s))) ∧
    (s.strand.scalarWait ≠ none ∨ s.strand.vqWait ≠ none →
      exec .waitYield s = .next (mapStrand (fun t => { t with yielded := true, watch := 0 }) s))

-- ## The engines' events

/-- R189, R200, R247: the sequencer dispatches every job of the cluster that no earlier open one of its address space, and no
earlier `bankrole`, with a common line, one of the two writing it, holds back; an address in a forwarding pair counts as both
of its locations. It changes nothing else. R199, R234, R236, R237, R239, R241, R249: at its start a transfer takes in what has
been published in its cluster; a step of a transfer checks and reads all its elements, each once, then writes them in order,
each once, and raises the step number; a wait keeps what has been read, or what is left to be written. A step that meets a page
fault waits for Mooring, and one that meets another trap ends the transfer with the cause; a finished transfer publishes its
writes, leaves its channel, and its first error goes to its issuer; a cancelled one stops with cause 7 once no step is in
progress. A slab move's step whose places answer copies the 4 KiB of the old range, as the cluster's point of coherence holds
them, to the new one and raises the pair's watermark; that the step is one unit with the cluster's own stores moved along is
the model's reading (log 28). -/
def Obligations.SequencerAndReelEvents : Prop :=
  (∀ (cl : Nat) (s : State), ∃ t, exec (.jobSequencerDispatch cl) s = .next t ∧ t = { s with clusters := t.clusters } ∧
     (∀ c, c ≠ cl → clusterAt t c = clusterAt s c) ∧
     let c := clusterAt s cl
     let ps := c.pairs.toList
     let seqs := fun (c : ClusterState) =>
       (c.reel.toList.flatMap fun ch => ch.jobs.map fun j => j.seq) ++ (c.lk.map fun j => j.seq) ++ c.ops.map fun o => o.seq
     let held := fun (q : SeqInfo) => ∃ e ∈ openJobs s cl, e.order < q.order ∧
       (e.asid = q.asid ∨ e.asid = anyAsid ∨ q.asid = anyAsid) ∧
       (feetMeet ps e.writes q.reads = true ∨ feetMeet ps e.reads q.writes = true ∨ feetMeet ps e.writes q.writes = true)
     seqs (clusterAt t cl) = (seqs c).map (fun q => { q with disp := q.disp || clearToStart s cl q }) ∧
     ∀ q, clearToStart s cl q = true ↔ ¬ held q) ∧
  (∀ (cl ch : Nat) (j : ReelJob) (s : State), ch < 4 → reelHead s cl ch = some j →
     let s0 := startReel cl ch j s
     let trapped := fun (c : Cause) (v : Word) (x : State) (i : Instr) =>
       (c = .loadFault ∨ c = .storeFault → ∃ t, exec i s = .next t ∧ t.mem = x.mem ∧ t.stores = x.stores ∧
         t.faultNo = x.faultNo + 1 ∧
         ∀ h, reelHead x cl ch = some h → reelHead t cl ch = some { h with wait := some (x.faultNo % 2 ^ 16) }) ∧
       (c ≠ .loadFault → c ≠ .storeFault → ∃ t, exec i s = .next t ∧ t.mem = x.mem ∧ t.stores = x.stores ∧
         ∀ h, reelHead x cl ch = some h → ∃ k, reelHead t cl ch = some k ∧ k.stop = true ∧ k.step = h.step ∧ k.todo = [] ∧
           (h.ecause = 0 → k.ecause = reelCause c ∧ k.eaddr = v) ∧ (h.ecause ≠ 0 → k.ecause = h.ecause))
     (j.started = true → s0 = s) ∧
     (j.started = false → s0 = mapHead cl ch (fun j => { j with started := true }) (acquireFor (reelAgent cl ch) cl 255 .cl s)) ∧
     (canStep j = true → j.step < stepsOf s cl j → j.pair = none →
       let f := j.step * stepElems j
       let n := Nat.min (totalElems j) (f + stepElems j)
       let r := if j.full then .ok j.todo s0 else readAllOf cl ch j j.todo (span (f + j.todo.length) n) s0
       (∀ c v s1, r = .error (.trap c v) s1 → trapped c v s1 (.reelStep cl ch)) ∧
       (∀ k s1, r = .error (.wait k) s1 → exec (.reelStep cl ch) s = .next s1) ∧
       (∀ l s1, r = .ok l s1 →
         (∀ s2, writeAll cl ch j l s1 = .ok () s2 → exec (.reelStep cl ch) s =
           .next (mapHead cl ch (fun j => { j with step := j.step + 1 }) (fillGranules cl j f n (totalElems j) s2))) ∧
         (∀ k s2, writeAll cl ch j l s1 = .error (.wait k) s2 → exec (.reelStep cl ch) s = .next s2) ∧
         (∀ c v s2, writeAll cl ch j l s1 = .error (.trap c v) s2 → trapped c v s2 (.reelStep cl ch)))) ∧
     (∀ k, canStep j = true → j.step < stepsOf s cl j → j.pair = some k → (pairAt s cl k).ch = ch →
       (∃ t, exec (.slabMoveStep cl k) s = .next t ∧ exec (.reelStep cl ch) s = .next t) ∧
       let q := pairAt s0 cl k
       let w := engineWho cl j.by_ false
       let sv := q.old + word (4096 * j.step)
       let dv := q.new + word (4096 * j.step)
       (∀ c v s1, moveEnds cl k j s0 = .error (.trap c v) s1 → trapped c v s1 (.slabMoveStep cl k)) ∧
       ∀ sp dp s1 us s2 ls s3 h, moveEnds cl k j s0 = .ok (sp, dp) s1 → onTheWay s1 cl sp.key 4096 = false →
         onTheWay s1 cl dp.key 4096 = false →
         eachOnce (reelAgent cl ch) 64 (openMove cl ch w sp dp sv dv) s1 = .ok us s2 →
         mapEach (List.range 64) (readMove cl ch w sp sv) s2 = .ok ls s3 → s3.chains = [] → k < 16 →
         reelHead s3 cl ch = some h →
         ∃ t, exec (.slabMoveStep cl k) s = .next t ∧ (pairAt t cl k).wm = (pairAt s3 cl k).wm + 1 ∧
           reelHead t cl ch = some { h with step := h.step + 1 } ∧
           (∀ i < 64, ∀ c < 64, memByte t.mem (dp.key + 64 * i + c) = (ls[i]?.bind fun l => l[c]?).getD 0) ∧
           (∀ a, a < dp.key ∨ dp.key + 4096 ≤ a → a < sp.key ∨ sp.key + 4096 ≤ a → memByte t.mem a = memByte s3.mem a)) ∧
     (∀ s1, reelDone s cl j = true → j.wait = none →
       releaseFor (reelAgent cl ch) (if j.pair.isSome then .dm else scopeOf j.set.cscp) (dropUnc (reelAgent cl ch) s) = .ok () s1 →
       (channelAt s1 cl ch).jobs = (channelAt s cl ch).jobs →
       ∃ t, exec (.reelComplete cl ch) s = .next t ∧ (channelAt t cl ch).jobs = (channelAt s cl ch).jobs.tail ∧
         (channelAt t cl ch).next = (channelAt s1 cl ch).next ∧ t.mem = s1.mem ∧
         (s1.strand.bound = true → s1.strand.crew = j.by_.crew → s1.strand.idx.toNat = j.by_.idx →
           s1.strand.cperr.getLsbD 6 = false → j.ecause ≠ 0 →
           t.strand.cperr = word (j.ecause + ch * 2 ^ 4 + 2 ^ 6 + j.id.toNat * 2 ^ 32))) ∧
     (∃ t, exec (.reelCancel cl ch) s = .next t ∧ (channelAt t cl ch).jobs = (channelAt s cl ch).jobs.map (fun k =>
       if k.cancel = true ∧ k.stop = false ∧ k.todo = [] then
         { k with stop := true, wait := none, ecause := if k.ecause = 0 then 7 else k.ecause } else k) ∧ t.mem = s.mem))

/-- R217 to R220, R226, R227: a lookup job starts on idle pseudo-channels with its queue's bank registers, refused with its
cause or running; the first segment of a pass starts from zero, or under `.acc` from the C tile, poison where it cannot be
read; a segment adds its blocks in ascending order to every partial sum, the tables of a block built first, and writes no
memory but for the delivery that ends the pass with the last: the rows of the C tile in memory with their granules full, or for
`.drn` the rows handed to the consumers in turn. A job with nothing left is complete; a running job is suspended, and its table
errors go; cancelled jobs are complete with cause 8 and no rows. Ties between jobs go to the oldest (log 29). -/
def Obligations.LookupJobEvents : Prop :=
  ∀ (cl : Nat) (j : LkJob) (s : State),
    (runningJob s cl = none → nextJob s cl = some j →
      let bank := (queueAt s j.by_.queue).bank
      let s1 := mapCluster cl (fun c => { c with bbase := bank.setWidth 16, blim := bank.extractLsb' 16 16, tblErr := [] }) s
      (refuseCause s1 cl j = none → exec (.lkJobStart cl) s = .next (putLk cl { j with state := .running } s1)) ∧
      (∀ c, refuseCause s1 cl j = some c → ∃ k t, exec (.lkJobStart cl) s = .next (putLk cl k t) ∧ t.mem = s.mem ∧
        k.swept = true ∧ (j.err = 0 → k.err = errRecord 0 0 0 0 c) ∧ (j.mode ≠ 2 → k.rows = []))) ∧
    (runningJob s cl = some j → j.cancel = false → canRun s cl j = true → j.seg < segsOf j →
      let n := tileN j.tsh.toNat
      let cells := (passRows j).flatMap fun m => (List.range n).map fun c => (m, c)
      let start : List LkVal := if j.seg ≠ 0 then j.acc else cells.map fun x =>
        let key := scratchKey cl (cAddr j x.1 x.2)
        if j.mode ≠ 1 then { val := 0, flags := 0, poison := false }
        else if badUnit s key 4 then { val := 0x7FF000FF, flags := 0, poison := true }
        else { val := memNat s.mem key 4, flags := 0, poison := false }
      let j0 := if j.seg = 0 then { j with acc := start, errs := [], noted := [], words := [] } else j
      let errs := if j.seg = 0 ∧ start.any (fun v => v.poison) = true then [(⟨0, 0, 0, 9⟩ : LkErr)] else []
      let sums := ((span (32 * j.seg) (Nat.min (32 * j.seg + 32) (tileKb j.tsh.toNat))).foldl (runBlock cl j0 cells)
        (start, errs, s)).1
      (j.seg + 1 < segsOf j →
        ∃ k t, exec (.lkSegment cl) s = .next (putLk cl k t) ∧ k.seg = j.seg + 1 ∧ k.pass = j.pass ∧ k.rows = j.rows ∧
          t.mem = s.mem ∧ t.stores = s.stores ∧ k.acc = sums) ∧
      (j.seg + 1 = segsOf j →
        let rows := (passRows j).zipIdx.map fun x => (x.1, (sums.drop (x.2 * n)).take n)
        let at_ := fun m => scratchKey cl (cAddr j m 0)
        ∃ k t, exec (.lkSegment cl) s = .next (putLk cl k t) ∧ k.pass = j.pass + 1 ∧ k.seg = 0 ∧ k.acc = [] ∧
          (k.swept = true ↔ tileM j.tsh.toNat ≤ (j.pass + 1) * tileR j.tsh.toNat) ∧ t.stores = s.stores ∧
          (j.mode = 2 → t.mem = s.mem ∧ k.flags = j.flags ∧ k.rows = rows.map fun x =>
            { row := x.1, cons := j.fc + x.1 % j.ncon, col := 0, vals := x.2 }) ∧
          (j.mode ≠ 2 → k.rows = j.rows ∧ k.flags = sums.foldl (fun f v => f ||| v.flags) j.flags ∧
            t.mem = rows.foldl (fun m x => memWrite m (at_ x.1) (x.2.flatMap fun v => leBytes 4 v.val)) s.mem ∧
            ∀ x ∈ rows, ∀ g ∈ span (granuleOf cl (at_ x.1)) (granuleOf cl (at_ x.1 + 4 * x.2.length - 1) + 1),
              granuleFull t cl g = true))) ∧
    ((clusterAt s cl).lk.find? lkDone = some j →
      exec (.lkJobComplete cl) s = .next (putLk cl { j with state := .complete } s)) ∧
    (runningJob s cl = some j → j.seg < segsOf j → exec (.lkJobSuspend cl) s =
      .next (mapCluster cl (fun c => { c with tblErr := [] }) (putLk cl { j with state := .suspended } s))) ∧
    ((clusterAt s cl).lk = [j] → j.cancel = true → j.state ≠ .complete →
      ∃ t k, exec (.lkJobCancel cl) s = .next t ∧ (clusterAt t cl).lk = [k] ∧ k.state = .complete ∧ k.rows = [] ∧
        k.err = errRecord 0 0 0 0 8 ∧ k.id = j.id ∧ t.mem = s.mem)

-- ## The protocol engine's events

/-- R263, R264: an INV, UPD, DATA, ACK or NACK that reaches a cluster's line with nothing held there, and whose word is neither
UNX nor DEFER, enters the state of the word, sends the word's message to the home, and writes no memory and no other line of
the cluster; an UNX word leaves the line and logs a machine error, in a form that is the model's (log 67). -/
def Obligations.ClusterMessages : Prop :=
  ∀ (m : Msg) (s : State), m.dst < 16 →
    ∀ x ∈ [(Instr.clusterInv m, MsgKind.inv, 5), (.clusterUpd m, .upd, 6), (.clusterData m, .data, 7), (.clusterAck m, .ack, 8),
           (.clusterNack m, .nack, 9)],
      let k := { m with kind := x.2.1 }
      let net := s.net.erase k
      let slot := if x.2.1 = .inv ∨ x.2.1 = .upd then slotOfLine s m.dst m.line 0 else msgSlot s m
      let table := (protoAt s slot).clus
      let c := clineAt s m.dst m.line
      (wordOf table c.state x.2.2 = none → ∃ t, exec x.1 s = .next t ∧ t.mem = s.mem ∧ t.net = net ∧
        (clineAt t m.dst m.line).state = c.state ∧ t.errlog = s.errlog ++ [(1, m.dst, word m.line)]) ∧
      (∀ w, wordOf table c.state x.2.2 = some w → w.defer = false → c.held = [] → ∃ t, exec x.1 s = .next t ∧ t.mem = s.mem ∧
        (clineAt t m.dst m.line).state = w.next.getD c.state ∧
        (clineAt t m.dst m.line).data = (if w.write || (w.perf && w.flt == 0 && x.2.1 == .data) then
          patchLine c.data (if x.2.1 = .upd ∨ x.2.1 = .data then m.bytes else []) else c.data) ∧
        t.net.length = net.length + (if w.msg = .none then 0 else 1) ∧ net <+: t.net ∧
        (∀ o ∈ t.net.drop net.length, o.kind = w.msg ∧ o.line = m.line ∧ o.req = m.dst ∧ o.dst = atHome) ∧
        ∀ l, l ≠ m.line → clineAt t m.dst l = clineAt s m.dst l)

/-- R258, R264, R275: a request that reaches the home of a line waits in the line's queue under a range change, or when the
line is busy or others wait there and its slice has a node for it; without a node it is refused, a phase-free one to be tried
again. Of the 4,096 nodes the last 32 are for requests refused at least 8 times, and the free ones go first to the oldest of
these. At a free line with an empty queue, with room in the directory, the home enters the state of its word, and a word that
writes puts the message's bytes into memory; a word that counts waits for every target, or LAST_ACK follows at once when there
is none. A word that is UNX logs a machine error, in a form that is the model's (log 67). R271, R272: an entry of the directory
that is displaced has the message of its EVICT_DIR word sent to every sharer for every line of its region, and then serves its
region no longer: it is freed, or marked to be freed when the transactions of its lines have ended; other entries stay. A new
region whose set has a way free displaces none; one that needs a way displaces an entry of the set with no transaction under
way, which one is free (log 11), and then others while there are too many. No byte of memory changes, and nothing of a strand.
-/
def Obligations.HomeMessages : Prop :=
  (∀ (m : Msg) (s : State), m.req < 16 →
     ∀ x ∈ [(Instr.homeGets m, MsgKind.gets, 0), (.homeGetx m, .getx, 1), (.homePutd m, .putd, 2), (.homePush m, .push, 3),
            (.homeClaim m, .claim, 4), (.homeUnc m, .unc, 5)],
       let slot := msgSlot s m
       let k := { m with kind := x.2.1 }
       let h := hlineAt s m.line
       let st := fun n => if slot = 4 then 0 else n
       let used := queuedNodes s m.line
       let name := (m.req, m.line, m.writer)
       let first := s.starved.filter fun y => sliceIndex (64 * y.2.1) == sliceIndex (64 * m.line)
       let room := if name ∈ first then used + first.idxOf name < 4096 else used + first.length + 32 < 4096
       let taken := h.busy = true ∨ h.perf = true ∨ h.queue ≠ []
       (linePending s m.line = true ∨ taken ∧ room → ∃ t, exec x.1 s = .next t ∧ t.mem = s.mem ∧
         t.net = s.net.erase k ∧ hlineAt t m.line = { h with queue := h.queue ++ [k] }) ∧
       (linePending s m.line = false → taken → ¬ room → exec x.1 s = .next { s with
         net := s.net.erase k ++ [if x.2.1 = .unc then { k with tries := m.tries + 1 } else { k with kind := .nack, dst := m.req }]
         starved := if 7 ≤ m.tries ∧ name ∉ s.starved then s.starved ++ [name] else s.starved }) ∧
       (linePending s m.line = false → ¬ taken → s.regions.length < 12 →
         (wordOf (protoAt s slot).home (st h.state) x.2.2 = none → ∃ t, exec x.1 s = .next t ∧ t.mem = s.mem ∧
           t.errlog = s.errlog ++ [(1, 16 + m.req, word m.line)]) ∧
         (∀ w, wordOf (protoAt s slot).home (st h.state) x.2.2 = some w → w.cnt = false → ∃ t, exec x.1 s = .next t ∧
           (hlineAt t m.line).state = w.next.getD h.state ∧
           (w.write = false → t.mem = s.mem) ∧
           (w.write = true → t.mem = m.bytes.foldl (fun n y => memWrite n (64 * m.line + y.1) [y.2]) s.mem)) ∧
         (∀ w, wordOf (protoAt s slot).home (st h.state) x.2.2 = some w → w.cnt = true → (∀ c ∈ s.clines, c.held = []) →
           let r := if remoteLine s m.line then { region := m.line / 8, vec := 0, host := false } else regionAt s m.line
           let ts := homeTargets w m.req r
           let next := w.next.getD h.state
           let kept := fun t : State => (w.write = false → t.mem = s.mem) ∧
             (w.write = true → t.mem = m.bytes.foldl (fun n y => memWrite n (64 * m.line + y.1) [y.2]) s.mem)
           (ts ≠ [] → w.msg ≠ .none → w.rdm = false → (x.2.1 = .unc → w.dest ≠ 1) → ∃ t, exec x.1 s = .next t ∧ kept t ∧
             (hlineAt t m.line).state = next ∧ (hlineAt t m.line).acks = ts.length ∧
             t.net.map (fun o => (o.kind, o.line, o.dst)) =
               (s.net.erase k).map (fun o => (o.kind, o.line, o.dst)) ++ ts.map fun d => (w.msg, m.line, d)) ∧
           (ts = [] → ∀ w', wordOf (protoAt s slot).home (st next) 7 = some w' → w'.write = false → w'.cnt = false →
             ∃ t, exec x.1 s = .next t ∧ kept t ∧ (hlineAt t m.line).state = w'.next.getD next)))) ∧
  ((∀ (slot : Nat) (w : Nat → ActionWord) (r : Region) (s : State),
     let ls := (List.range 8).map fun k => 8 * r.region + k
     regionAt s (8 * r.region) = r →
     (∀ l ∈ ls, remoteLine s l = false ∧ wordOf (protoAt s slot).home (homeState slot (hlineAt s l)) 10 = some (w l) ∧
       (w l).msg ≠ .none ∧ (w l).shv = 4 ∧ (w l).write = false ∧ homeTargets (w l) 18 r ≠ []) →
     let t := displaceRegion slot r.region s
     (∀ l ∈ ls, ∀ d ∈ homeTargets (w l) 18 r, ∃ o ∈ t.net, o.kind = (w l).msg ∧ o.line = l ∧ o.dst = d) ∧
     (∀ x ∈ t.regions, x.region = r.region → x.going = true) ∧ (∀ x, x.region ≠ r.region → (x ∈ t.regions ↔ x ∈ s.regions))) ∧
   ∀ (region : Nat) (s : State), ((waysOf s region).length ≤ 12 → makeRoom region s = s) ∧
     (12 < (waysOf s region).length → displaceable s region ≠ [] → ∃ r ∈ displaceable s region, makeRoom region s =
       makeRoomN region (s.regions.length - 1) (displaceRegion (slotOfLine s 0 (8 * r.region) 0) r.region s)) ∧
     (makeRoom region s).mem = s.mem ∧ (makeRoom region s).strand = s.strand ∧ (makeRoom region s).others = s.others ∧
     (makeRoom region s).stores = s.stores)

/-- R260, R262, R264, R275, R277: an acknowledgement that is not the last lowers the count of its line, and the last is
followed by LAST_ACK; a memory read returned follows the word of MEM; a refused request is raised again. An addition joins a
chain of its address with room, whatever its type, opens a chain at a free line, or waits in the queue of its line; a chain
that closes writes its value once, its additions made in order, with the flags to its slice, and the line is free. -/
def Obligations.HomeEvents : Prop :=
  ∀ (m : Msg) (cl line addr : Nat) (ev : LocalEv) (ty : Ty) (v : Word) (c : Chain) (s : State),
    (let h := hlineAt s m.line
      let table := (protoAt s (msgSlot s m)).home
      ∀ cur, h.cur = some cur → cur.line = m.line → h.busy = true →
        wordOf table (homeState (msgSlot s m) h) 6 = some ActionWord.nil →
        (1 < h.acks → ∃ t, exec (.homeInvAck m) s = .next t ∧ t.mem = s.mem ∧ (hlineAt t m.line).acks = h.acks - 1 ∧
          (hlineAt t m.line).state = h.state ∧ (hlineAt t m.line).cur = some cur) ∧
        (∀ w', h.acks = 1 → h.queue = [] → wordOf table (homeState (msgSlot s m) h) 7 = some w' → w'.write = false →
          w'.cnt = false → ∃ t, exec (.homeInvAck m) s = .next t ∧ t.mem = s.mem ∧
            (hlineAt t m.line).state = w'.next.getD h.state)) ∧
    (let h := hlineAt s line
      let slot := slotOfLine s 0 line 0
      ∀ cur w, s.net = [] → s.regions.length < 12 → h.cur = some cur → cur.line = line → h.queue = [] →
      wordOf (protoAt s slot).home (homeState slot h) 8 = some w → w.write = false → w.cnt = false →
      ∃ t, exec (.homeMem line) s = .next t ∧ t.mem = s.mem ∧ (hlineAt t line).state = w.next.getD h.state ∧
        ((∀ c ∈ s.clines, c.held = []) → w.msg = .data → w.dest = 1 → cur.kind ≠ .unc → w.carry = true → w.rdm = false →
          t.net = [{ kind := .data, line := line, req := cur.req, dst := cur.req, bytes := lineCells (lineData s line),
                     flt := w.flt, writer := cur.writer }])) ∧
    (s.eager = false → exec (.nackBackoffRetry cl line ev) s = .next (clusterRaise (slotOfLine s cl line 0) cl line (localCode ev)
      (if ev = .pub then sentBytes s cl line else []) 0 (if ev = .pub then 0 else (clineAt s cl line).asker) s)) ∧
    (let line := addr / 64
      let h := hlineAt s line
      let slot := (ruledSlot s 17 line).getD (slotOfLine s 17 line 0)
      let msg := addMsg 17 outsideWriter addr 0 ty v false
      let val := (ty, word (v.toNat % 2 ^ (8 * ty.bytes)))
      let join := fun c : Chain => c.addr = addr ∧ c.vals.length < 64
      let waits := h.busy = true ∨ h.perf = true ∨ h.queue ≠ [] ∨ 256 ≤ s.chains.countP fun c => sliceIndex c.addr == sliceIndex addr
      let queued := ∃ t, exec (.scatterAddArrive addr ty v) s = .next t ∧ t.mem = s.mem ∧ t.chains = s.chains ∧
        hlineAt t line = { h with queue := h.queue ++ [msg] }
      (linePending s line = true → queued) ∧
      (linePending s line = false → (∀ p ∈ s.stores, p.owner ≠ outsideWriter) →
        ((∃ c ∈ s.chains, join c) → (∀ x ∈ h.queue, x.kind = .add → addKey x ≠ addr) → ∀ s1, claimMark slot line s = .ok s1 →
          ∃ t, exec (.scatterAddArrive addr ty v) s = .next t ∧ t.mem = s.mem ∧ t.hlines = s1.hlines ∧
            t.chains = s.chains.map fun x => if x.addr = addr then { x with vals := x.vals ++ [val] } else x) ∧
        ((∀ c ∈ s.chains, ¬ join c) ∨ (∃ x ∈ h.queue, x.kind = .add ∧ addKey x = addr) → waits → nodeFree s msg = true → queued) ∧
        ((∀ c ∈ s.chains, ¬ join c) → ¬ waits → ∀ s1, claimMark slot line s = .ok s1 →
          ∃ t, exec (.scatterAddArrive addr ty v) s = .next t ∧ t.mem = s.mem ∧ (hlineAt t line).busy = true ∧
            t.chains = s.chains ++ [{ addr := addr, vals := [val] }]))) ∧
    (s.chains.find? (fun c => c.addr == addr) = some c → s.net = [] → (∀ h ∈ s.hlines, h.queue = []) →
      let n := c.vals.foldl (fun n v => Nat.max n v.1.bytes) 0
      let r := c.vals.foldl (fun (z : List Byte × BitVec 6) v =>
        let old := leNat (z.1.take v.1.bytes)
        let y : FpRes := if v.1.isFp then fpAdd (fmtOf v.1) .rne old v.2.toNat else ((old + v.2.toNat) % 2 ^ v.1.width, 0)
        (leBytes v.1.bytes y.1 ++ z.1.drop v.1.bytes, z.2 ||| y.2)) (memBytes s.mem addr n, 0)
      ∃ t, exec (.scatterAddChainClose addr) s = .next t ∧ t.mem = memWrite s.mem addr r.1 ∧ t.chains = s.chains.erase c ∧
        (hlineAt t (addr / 64)).busy = false ∧ t.aflags = (addSliceFlags addr r.2 s).aflags)

-- ## Mooring's events

/-- R281, R283 to R286: a walk that finds its leaf leaves the state of the walk, one that fails queues the page fault, and an
uncorrectable entry stops no strand yet; the host's answer is cached in both TLBs, or for the space and the cluster that it is
for, and its invalidation leaves no entry of those pages, and no store translated with one; a time-out is logged; a fault
record is posted to the ring with its interrupt, or to the host; an answer of success lets the strand go on, and an unknown tag
is logged, or of a page request just no longer outstanding. The form of error-log entries is the model's (log 67). R288: a tail
beyond the ring's room sets OVF, another becomes the tail of a queue that the host owns; LQCTL changes its configuration only
while EN is 0, EN, TD, RST and OVF act, and in recovery EN stays 0; a write of no register is ignored, and a write of the ring
base of a queue not enabled reads back. That SZ 13 to 15, which are reserved, are stored and used as written is the model's
choice (log 45). -/
def Obligations.TranslationAndQueueEvents : Prop :=
  (∀ (va v : Word) (acc : Acc) (l : Leaf) (ok r w xe nc : Bool) (hp pasid base len tag asid cl : Nat) (f : FaultRec) (pf : PageFault)
     (s s1 : State),
     let answer := fun (x : TlbEntry) (a : Nat) => x.host = true ∧ x.asid = a ∧ x.page = va.toNat / 4096 ∧ x.size = 12 ∧
       x.pa = hp * 4096 ∧ x.perm.getLsbD 0 = r ∧ x.perm.getLsbD 1 = w ∧ x.perm.getLsbD 2 = xe ∧ (x.attr = 15 ↔ ok = false)
     (va.toNat / 2 ^ 56 = 0 → inLocal va.toNat = false →
       (deviceLeaf (whoAmI s) va.toNat acc s = .ok l s1 → exec (.pageWalk va acc) s = .next s1) ∧
       (∀ c x, deviceLeaf (whoAmI s) va.toNat acc s = .error (.trap c x) s1 → isPageFault c = false →
         exec (.pageWalk va acc) s = .next s1) ∧
       (∀ c x, deviceLeaf (whoAmI s) va.toNat acc s = .error (.trap c x) s1 → isPageFault c = true →
         ∃ t, exec (.pageWalk va acc) s = .next t ∧ t.mem = s1.mem ∧
         t.strand.fault = some { va := va, acc := acc, fromVq := false, elem := 0, tag := s1.faultNo % 2 ^ 16 } ∧
         t.faultq.length = s1.faultq.length + 1)) ∧
     (∃ t x, exec (.atsTranslationCompletion va ok hp r w ⟨xe, nc, none⟩) s = .next t ∧
       (coreAt t (myCore s)).l1tlb = (x :: (coreAt s (myCore s)).l1tlb).take 64 ∧
       (clusterAt t (myCluster s)).l2tlb = (x :: (clusterAt s (myCluster s)).l2tlb).take 2048 ∧
       answer x (asidOf (queueAt s s.strand.queue)) ∧ t.mem = s.mem) ∧
     (∃ t x, exec (.atsTranslationCompletion va ok hp r w ⟨xe, nc, some (asid, cl)⟩) s = .next t ∧
       (clusterAt t cl).l2tlb = (x :: (clusterAt s cl).l2tlb).take 2048 ∧ answer x asid ∧ t.cores = s.cores ∧ t.mem = s.mem) ∧
     (∃ t, exec (.atsInvalidation pasid base len) s = .next t ∧
       (s.stores = [] → (∀ j ∈ reelJobs s, j.2.2.todo = []) → t.mem = s.mem ∧ t.stores = []) ∧
       (∀ q ∈ s.queues.toList, q.ctl.getLsbD 40 = true → bits q.ctl.toNat 39 20 = pasid →
         ∀ p ∈ t.stores, storedBy (dropped (hostMeets (asidOf q) base len) s) p = false) ∧
       ∀ q ∈ s.queues.toList, q.ctl.getLsbD 40 = true → bits q.ctl.toNat 39 20 = pasid →
         ∀ co, ∀ x ∈ (coreAt t co).l1tlb, x.host = true → x.asid = asidOf q →
           ¬ (x.page * 2 ^ x.size < base + len ∧ base < (x.page + 1) * 2 ^ x.size)) ∧
     (∃ t, exec .atsInvalidationTimeout s = .next t ∧ t.errlog = s.errlog ++ [(8, 0, 0)] ∧ t.mem = s.mem) ∧
     (s.faultq = [f] → f.posted = false →
       (f.host = false → faultRingFull s.mooring = false →
         let key := hostBase + (s.mooring.fqBase.toNat + 32 * (s.mooring.fqTail.toNat % 2 ^ bits s.mooring.fqCtl.toNat 4 0)) % 2 ^ 64
         ∃ t, exec .faultRecordPost s = .next t ∧ t.faultq = [{ f with posted := true }] ∧
           t.mooring = { s.mooring with fqTail := s.mooring.fqTail + 1 } ∧ t.msix = s.msix ++ [bits s.mooring.fqCtl.toNat 15 5] ∧
           memNat t.mem key 8 = f.va.toNat % 2 ^ 57) ∧
       (f.host = true → s.pri.length < 256 →
         exec .faultRecordPost s = .next { s with pri := s.pri ++ [f.tag], faultq := [{ f with posted := true }] })) ∧
     (f.who = .strand → f.posted = true → s.faultq = [f] → f.tag < 2 ^ 16 → s.strand.bound = true →
       s.strand.fault = some pf → pf.tag = f.tag →
       (f.host = false → v = word f.tag → exec (.frespWrite v) s =
         .next { s with faultq := [], strand := replayed { s.strand with fault := none } }) ∧
       (f.host = true → ∃ t, exec (.priResponse f.tag true) s = .next t ∧ t.strand = replayed { s.strand with fault := none } ∧
         t.faultq = [] ∧ t.pri = s.pri.erase f.tag ∧ t.mem = s.mem)) ∧
     ((∀ x ∈ s.faultq, x.tag ≠ v.toNat % 2 ^ 16) → exec (.frespWrite v) s =
       .next { s with errlog := s.errlog ++ [(4, v.toNat % 2 ^ 16, v)] }) ∧
     ((∀ x ∈ s.faultq, x.tag ≠ tag) → exec (.priResponse tag ok) s = .next { s with pri := s.pri.erase tag })) ∧
  (∀ (k : Nat) (v : Word) (off : Nat) (s : State), k < 16 →
     let q := queueAt s k
     let moved : LaunchQueue := if q.ctl.getLsbD 1 then q
       else if ringSize q < (v.setWidth 32 - q.head).toNat then { q with ctl := q.ctl ||| 0x20000000000 }
       else { q with tail := v.setWidth 32 };
     (exec (.lqtailWrite k v) s = .next { s with queues := s.queues.setIfInBounds k moved }) ∧
     (∃ c, exec (.lqEnable k v) s = .next { s with queues := s.queues.setIfInBounds k { q with ctl := c } } ∧
       c.getLsbD 0 = (v.getLsbD 0 && decide (s.pk.bootst.extractLsb' 5 3 = 0)) ∧
       c.getLsbD 18 = (q.ctl.getLsbD 18 || v.getLsbD 18) ∧ c.getLsbD 19 = (q.ctl.getLsbD 19 || v.getLsbD 19) ∧
       c.getLsbD 41 = (q.ctl.getLsbD 41 && !v.getLsbD 41) ∧
       ∀ i, 2 ≤ i ∧ i < 18 ∨ 20 ≤ i ∧ i ≤ 40 → c.getLsbD i = if q.ctl.getLsbD 0 then q.ctl.getLsbD i else v.getLsbD i) ∧
     (off < regBase → exec (.registerWrite off v) s = .next s) ∧
     (q.ctl.getLsbD 0 = false → ∃ t, exec (.registerWrite (regBase + 0x10000 + k * 0x100) v) s = .next t ∧
       (queueAt t k).base = word (v.toNat / 64 % 2 ^ 46 * 64) ∧ (queueAt t k).ctl = q.ctl ∧ t.mem = s.mem))

/-- R289 to R291, R296, R301: Mooring takes the record at the head of an enabled ring as a flight, or refuses it; a flight is
ready when its counters have reached their values, and cancelled when one shows a status; a flight that is over is counted, its
counter's COUNT up by one and its STATUS the larger, and gone, and what has come due at the stream that fired it is decided
before and then; a counter that cannot be read cancels the flight, one that cannot be counted is logged, and a line or an
answer that is not there yet keeps it; a crew that has been ready and not bound for 2 ms rises one priority; a teardown of a
queue with nothing in it clears TD and EN, a reset enables it but in recovery. The refusal of a record with NW over 4 is the
model's choice (log 35), and so is that bits 63:56 of a value waited for and errors of the ring's bytes are not looked at (logs
89, 90). -/
def Obligations.FlightEvents : Prop :=
  ∀ (k : Nat) (x : Flight) (ws : List (Nat × Nat)) (vs : List Nat) (s s1 : State), k < 16 →
    let q := queueAt s k
    let s0 := readUnits (recordKey q q.head) 64 s
    let r := headRecord s0 q
    let look := eachOnce (counterAgent x.no) x.waits.length
      (fun i => readCounter (counterAgent x.no) x.queue (nthD x.waits i (0, 0)).1) s
    let cancelled_ := { x with shut := true, status := if x.status = 3 then 3 else 1 }
    let live := q.ctl.getLsbD 0 = true ∧ q.ctl.getLsbD 18 = false ∧ q.ctl.getLsbD 19 = false
    (live → q.head ≠ q.tail →
      (recordBad q r = true → ∃ t y, exec (.lqRecordIntake k) s = .next t ∧ t.flights = s.flights ++ [y] ∧ y.no = s.nextFlight ∧
        y.status = 3 ∧ y.shut = true ∧ (queueAt t k).head = q.head + 1) ∧
      (recordBad q r = false → ∀ c v, recordChecks (intakeAgent k) k r s0 = .error (.trap c v) s1 → s1.queues = s.queues →
        ∃ t y, exec (.lqRecordIntake k) s = .next t ∧ t.flights = s1.flights ++ [y] ∧ y.status = 3 ∧ y.shut = true ∧
          (queueAt t k).head = q.head + 1) ∧
      (recordBad q r = false → ∀ z, recordChecks (intakeAgent k) k r s0 = .error (.wait z) s1 →
        exec (.lqRecordIntake k) s = .next s1) ∧
      (recordBad q r = false → recordChecks (intakeAgent k) k r s0 = .ok ws s1 → s1.queues = s.queues → ∃ t y,
        exec (.lqRecordIntake k) s = .next t ∧ t.flights = s1.flights ++ [y] ∧ y.no = s1.nextFlight ∧ y.queue = k ∧ y.words = r ∧
        y.waits = ws ∧ y.ready = false ∧ y.shut = false ∧ y.status = 0 ∧ (queueAt t k).head = q.head + 1)) ∧
    (live → q.head = q.tail → exec (.lqRecordIntake k) s = .next s) ∧
    (flightAt s x.no = some x → x.ready = false → x.shut = false →
      (look = .ok vs s1 →
        ((∃ v ∈ vs, v / 2 ^ 56 ≠ 0) → exec (.flightReady x.no) s = .next (putFlight cancelled_ s1)) ∧
        ((∀ v ∈ vs, v / 2 ^ 56 = 0) →
          ((∀ y ∈ vs.zip x.waits, y.2.2 ≤ y.1 % 2 ^ 56) →
            exec (.flightReady x.no) s = .next (putFlight { x with ready := true, readyAt := s1.ptime / 2 ^ 16 } s1)) ∧
          ((∃ y ∈ vs.zip x.waits, y.1 % 2 ^ 56 < y.2.2) → exec (.flightReady x.no) s = .next s1))) ∧
      (∀ c v, look = .error (.trap c v) s1 → exec (.flightReady x.no) s =
        .next (putFlight cancelled_ (logError 2 x.no v (dropUnc (counterAgent x.no) s1)))) ∧
      (∀ z, look = .error (.wait z) s1 → exec (.flightReady x.no) s = .next s1)) ∧
    (flightAt s x.no = some x →
      (flightOver s x = false → exec (.flightComplete x.no) s = .next s) ∧
      (flightOver s x = true →
        let s2 := (x.tick.map fun y => decideDue y.1 s).getD s
        let gone := fun s3 : State =>
          let s4 := { s3 with flights := s3.flights.filter fun y => y.no != x.no }
          (x.tick.map fun y => decideDue y.1 s4).getD s4
        let count := countFlight x (putFlight { x with shut := true } (closeFlight x.no s2))
        ((∃ y, x.tick = some y ∧ countPending s2 y.1 = true) → exec (.flightComplete x.no) s = .next s2) ∧
        ((∀ y, x.tick = some y → countPending s2 y.1 = false) →
          (count = .ok () s1 → exec (.flightComplete x.no) s = .next (gone s1)) ∧
          (∀ c v, count = .error (.trap c v) s1 → exec (.flightComplete x.no) s =
            .next (gone (logError 3 x.no (word (recCompl x.words)) (dropUnc (counterAgent x.no) s1)))) ∧
          (∀ z, count = .error (.wait z) s1 → exec (.flightComplete x.no) s = .next s1)))) ∧
    (∀ status old, status < 8 → old < 2 ^ 64 → bumpCounter status old % 2 ^ 56 = (old % 2 ^ 56 + 1) % 2 ^ 56 ∧
      bumpCounter status old / 2 ^ 56 = max (old / 2 ^ 56) status) ∧
    (let due := fun (prio at_ : Nat) => 0 < prio ∧ at_ + 2000000 ≤ s.ptime / 2 ^ 16;
      s.flights = [x] → (s.crews = [] →
        (x.ready = true → due x.prio x.readyAt → exec (.priorityAgeing x.no) s =
          .next { s with flights := [{ x with prio := x.prio - 1, readyAt := x.readyAt + 2000000 }] }) ∧
        (x.ready = false ∨ ¬ due x.prio x.readyAt → exec (.priorityAgeing x.no) s = .next s)) ∧
      (∀ c, s.crews = [c] → c.flight = x.no → x.ready = false → waitsForPlace s c = true → due c.prio c.readyAt →
        exec (.priorityAgeing x.no) s =
          .next { s with crews := [{ c with prio := c.prio - 1, readyAt := c.readyAt + 2000000 }] })) ∧
    (s.flights = [] → s.streams = [] → s.tearing = [] → q.head = q.tail →
      (∃ t, exec (.queueTeardown k) s = .next t ∧ (queueAt t k).ctl.getLsbD 18 = false ∧ t.mem = s.mem ∧
        (queueAt t k).ctl.getLsbD 0 = (q.ctl.getLsbD 19 && decide (s.pk.bootst.extractLsb' 5 3 = 0))) ∧
      (∃ t, exec (.queueReset k) s = .next t ∧ (queueAt t k).ctl.getLsbD 19 = false ∧
        (queueAt t k).ctl.getLsbD 0 = decide (s.pk.bootst.extractLsb' 5 3 = 0) ∧ t.mem = s.mem) ∧
      (q.ctl.getLsbD 18 = true → ∃ t, exec (.teardownComplete k) s = .next t ∧ (queueAt t k).ctl.getLsbD 18 = false))

/-- R18, R117, R294 to R299: a flight that is ready and fits binds its next crew, one recalled first at equal priority, and
none while a crew of strictly higher priority can be placed; a fresh strand starts at the record's entry in user mode with the
registers of the rule; a recall saves every strand of a crew and leaves none of it bound; an expired quantum recalls a crew
when a ready one of at least its priority waits for slots, and else does nothing. Where a crew is placed is the model's choice
(log 12). -/
def Obligations.BindingEvents : Prop :=
  ∀ (x : Flight) (c : Crew) (i csa : Nat) (id : BitVec 18) (r : BitVec 5) (s s1 : State),
    (s.crews.any (crewDone s) = false →
      (s.flights = [x] → resumable s x.no = [] → (bindNext x s = some s1 → exec (.bindCrew x.no) s = .next s1) ∧
        (bindNext x s = none → exec (.bindCrew x.no) s = .next s)) ∧
      (s.flights = [x] → x.shut = false → resumable s x.no = [c] → resumeCrew c s = some s1 → c.prio ≤ x.prio →
        exec (.bindCrew x.no) s = .next s1) ∧
      (∀ y z, flightAt s x.no = some x → y ∈ s.flights → z ∈ placements s y → (∀ w ∈ placements s x, z.1 < w.1) →
        exec (.bindCrew x.no) s = .next s)) ∧
    (x.ready = false → bindNext x s = none) ∧
    (let t := freshStrand s x c i csa id
     t.pc = x.words[0] ∧ priv t = false ∧ t.vq = [] ∧ t.fflags = 0 ∧ t.frm = 0 ∧ t.xvec = (queueAt s x.queue).xvec ∧
     (getS t r = if r = 2 then (queueAt s x.queue).stk + word ((csa + 1) * 2 ^ ((queueAt s x.queue).stksz.toNat % 32))
       else if r = 30 then x.words[3]
       else if r = 31 then (if c.ws + c.wf = 0 then 0 else word (0x00FFFFFF00000000 + c.wb * 0x80000))
       else match x.tick with
         | none => if r = 4 then x.words[2] else 0
         | some y => if r = 4 then y.2[0] else if r = 5 then y.2[1] else if r = 6 then y.2[2] else if r = 7 then y.2[3]
             else if r = 8 then x.words[2] else 0)) ∧
    (holdsLock s c.id = false → (∀ t ∈ boundStrands s, t.crew = c.id → saveFails s t = false) → ∃ t,
      exec (.recall c.id) s = .next t ∧ (∀ u ∈ boundStrands t, u.crew ≠ c.id ∨ u.bound = false) ∧
      t.parked.length = s.parked.length + ((boundStrands s).filter fun u => u.crew == c.id).length) ∧
    (s.crews.find? (fun y => y.id == c.id) = some c →
      ((∃ p ∈ slotWaiters s c.cl, p ≤ c.prio) → ∃ t, exec (.quantumExpiry c.id) s = .next t ∧ exec (.recall c.id) s = .next t) ∧
      ((∀ p ∈ slotWaiters s c.cl, c.prio < p) → exec (.quantumExpiry c.id) s = .next s))

-- ## The stacks and errors

/-- R310 to R314, R345, R105: a read packet answers the unit's 32 bytes, a write packet writes them and clears poison, a masked
write merges; a reserved field answers 3, with 32 bytes after the header of a read's reply; an uncorrectable unit answers 2,
and a masked write to it is logged; a corrected one answers 1 and is counted; a reply that leaves frees its tag; the scrubber
corrects or logs; errors strike memory, a table store or a register, the last logged. Headers are those of R310. The form of
error-log entries is the model's (log 67), and a request with a tag in use waits outside (log 43). -/
def Obligations.StackEvents : Prop :=
  ∀ (stack port tag unit key : Nat) (q : StackReq) (f : RegFile) (r : BitVec 5) (elem : Nat) (s : State),
    let get := fun (lo n : Nat) => q.header.toNat / 2 ^ lo % 2 ^ n
    let u := myModule s * 2 ^ 43 + stack * 0xC00000000 + get 6 5 * 0x60000000 + get 11 6 * 0x2000000 + get 17 15 * 1024 + get 32 5 * 32
    let reply := fun (cmd stat : Nat) (data : List Byte) =>
      [{ stack := stack, port := get 6 5, header := word (get 0 3 + cmd * 2 ^ 3 + stat * 2 ^ 6), data := data : StackRep }]
    let bad := 47 < get 11 6 ∨ get 37 27 ≠ 0
    let bytes := fun (g : Nat → Byte) => (List.range 32).map g
    let merged := bytes fun k => if q.mask.getLsbD k then nthD q.data k 0 else memByte s.mem (u + k)
    (tagHeld s stack q = false →
      (3 ≤ get 3 3 → ∀ i ∈ [Instr.stackRd stack q, .stackWr stack q, .stackWrm stack q],
        exec i s = .next { s with stackq := s.stackq ++ reply (get 3 3) 3 [] }) ∧
      (get 3 3 < 3 → bad →
        (∃ d, d.length = 32 ∧ exec (.stackRd stack q) s = .next { s with stackq := s.stackq ++ reply 0 3 d }) ∧
        exec (.stackWr stack q) s = .next { s with stackq := s.stackq ++ reply 1 3 [] } ∧
        exec (.stackWrm stack q) s = .next { s with stackq := s.stackq ++ reply 2 3 [] }) ∧
      (get 3 3 < 3 → ¬ bad →
        (s.poison.contains (u / 32) = false → s.softErr.contains (u / 32) = false →
          exec (.stackRd stack q) s = .next { s with stackq := s.stackq ++ reply 0 0 (memBytes s.mem u 32) } ∧
          exec (.stackWrm stack q) s = .next { s with mem := memWrite s.mem u merged, stackq := s.stackq ++ reply 2 0 [] }) ∧
        (s.poison.contains (u / 32) = false → s.softErr.contains (u / 32) = true → ∃ t, exec (.stackRd stack q) s = .next t ∧
          t.stackq = s.stackq ++ reply 0 1 (memBytes s.mem u 32) ∧ t.softErr.contains (u / 32) = false ∧ t.mem = s.mem ∧
          findD t.corrected (32 * (u / 32) / 0x2000000) 0 = findD s.corrected (32 * (u / 32) / 0x2000000) 0 + 1) ∧
        (s.poison.contains (u / 32) = true →
          exec (.stackRd stack q) s = .next { s with stackq := s.stackq ++ reply 0 2 (memBytes s.mem u 32) } ∧
          exec (.stackWrm stack q) s = .next { s with
            mem := memWrite s.mem u merged, errlog := s.errlog ++ [(5, stack, word u)], stackq := s.stackq ++ reply 2 2 [] }) ∧
        exec (.stackWr stack q) s = .next { s with
          mem := memWrite s.mem u (bytes fun k => nthD q.data k 0)
          poison := s.poison.filter fun p => p != u / 32
          softErr := s.softErr.filter fun p => p != u / 32
          stackq := s.stackq ++ reply 1 0 [] })) ∧
    (∀ x, s.stackq.find? (fun x => x.stack == stack && x.port == port && repTag x == tag) = some x →
      exec (.stackReply stack port tag) s = .next { s with stackq := s.stackq.erase x, stackOut := s.stackOut ++ [x] }) ∧
    (let v := (myModule s * 2 ^ 43 + stack * 0xC00000000) / 32 + unit
     inTest s = false →
      (s.poison.contains v = true → exec (.scrubUnit stack unit) s =
        .next { s with errlog := s.errlog ++ [(5, stack, word (32 * v))] }) ∧
      (s.poison.contains v = false → s.softErr.contains v = true → ∃ t, exec (.scrubUnit stack unit) s = .next t ∧
        t.softErr.contains v = false ∧ findD t.corrected (32 * v / 0x2000000) 0 = findD s.corrected (32 * v / 0x2000000) 0 + 1 ∧
        t.mem = s.mem) ∧
      (s.poison.contains v = false → s.softErr.contains v = false → exec (.scrubUnit stack unit) s = .next s)) ∧
    (key < 2 ^ 40 → ∃ t, exec (.memoryDataError key false none) s = .next t ∧ t.poison.contains (key / 32) = true ∧ t.mem = s.mem) ∧
    (s.poison.contains (key / 32) = false → ∃ t, exec (.memoryDataError key true none) s = .next t ∧
      t.softErr.contains (key / 32) = true ∧ t.mem = s.mem ∧ t.poison = s.poison) ∧
    (∀ cl pc blk row,
      (runningJob s cl = none → ∀ c, exec (.memoryDataError key c (some (cl, pc, blk, row))) s = .next s) ∧
      (∀ j, runningJob s cl = some j →
        (∃ t, exec (.memoryDataError key false (some (cl, pc, blk, row))) s = .next t ∧
          (clusterAt t cl).tblErr = (clusterAt s cl).tblErr ++ [(pc, blk, row)] ∧ t = { s with clusters := t.clusters } ∧
          (∀ c, c ≠ cl → clusterAt t c = clusterAt s c) ∧
          ∀ y m n acc, n / 64 = pc → m = row → (blockStep s cl y m n blk acc).2 = none → acc.poison = false →
            ∃ e, (blockStep t cl y m n blk acc).2 = some e ∧ e.cause = 2 ∧ (blockStep t cl y m n blk acc).1.poison = true) ∧
        (∃ t b, exec (.memoryDataError key true (some (cl, pc, blk, row))) s = .next t ∧
          findD t.corrected b 0 = findD s.corrected b 0 + 1 ∧ (∀ c, c ≠ b → findD t.corrected c 0 = findD s.corrected c 0) ∧
          t = { s with corrected := t.corrected }))) ∧
    (let x : Upset := { file := f, reg := r.toNat, elem := if f = .scalar ∨ f = .pred then 0 else elem }
     ∃ t, exec (.registerFileUpset f r elem) s = .next t ∧ x ∈ t.strand.upsets ∧
      (x ∉ s.strand.upsets → t.errlog = s.errlog ++ [(9, me s, word (r.toNat * 2 ^ 32 + x.elem))]) ∧
      t = { s with strand := { s.strand with upsets := t.strand.upsets }, errlog := t.errlog })

-- ## Windsock's events

/-- R317 to R319, R330: a one-step Sync, a Follow_Up and a delay response of the chosen grandmaster, and a PTM dialogue,
measure the offset: up to 1 ms it slews the clock and counts towards LOCK, beyond it steps the clock, counts STEPS and drops
LOCK; with peer delay a response only measures the path. Messages of another domain or transport, or not of the grandmaster, do
nothing. A change of `WSCTL` below PPSO starts the lock anew; edges, time-outs and the ring's registers act as their rules say.
Offset and delay are those of IEEE 1588 (log 42), and so is it that a grandmaster not heard for the announce receipt time-out
gives way to any other (log 92). R328, R332 to R334: a tick of an armed stream whose last flight is complete and whose time has
come fires when its tokens are there, or under HOLD, or under WAIT from t_n + σ on; else it waits, or under DROP its tick is
closed and counted. While the last flight runs, the tick is deferred, and a deferred one is closed and the next deferred when
that falls due. R317, R319: as time passes `PTIME` never stops; its rate stays within the oscillator's 10 ppm, and 500 ppm of
slewing, of true time; and an edge of 1PPS out falls due for each whole second that the clock passes with PPSO and LOCK set,
and for no other time. How much true time a step takes is free (log 4). -/
def Obligations.ClockAndTickEvents : Prop :=
  (∀ (h : PtpHead) (p1 cc ca p2 : BitVec 8) (var seq : BitVec 16) (gm v : Word) (origin master sent received answered t2 : Nat)
     (s : State),
     let mine := s.ws.ctl.extractLsb' 0 2 = 1#2 ∧ s.ws.ctl.extractLsb' 2 8 = h.domain ∧ s.ws.ctl.extractLsb' 10 2 = h.transport
     let chosen := mine ∧ s.ws.master.map (fun m => m.source) = some h.source
     let small := fun (o : Out) (x : Int) (w : Windsock) => x.natAbs ≤ 65536000000 → ∃ t, o = .next t ∧ t.ptime = s.ptime ∧
       t = { s with ws := t.ws } ∧ t.ws = { w with
         ofs := BitVec.ofInt 64 x, last := s.ptime, good := if x.natAbs ≤ 65536000 then w.good + 1 else 0
         lock := w.lock || (decide (x.natAbs ≤ 65536000) && decide (8 ≤ w.good + 1)), slew := x }
     let large := fun (o : Out) (x : Int) => 65536000000 < x.natAbs → s.streams = [] → ∃ t, o = .next t ∧
       t.ptime = ((s.ptime : Int) - x).toNat ∧ t.ws.lock = false ∧ t.ws.good = 0 ∧ t.ws.steps = s.ws.steps + 1 ∧
       t.ws.sync = none ∧ t.ws.twoStep = none ∧ t.mem = s.mem
     (chosen →
       exec (.ptpSync h true seq origin) s = .next { s with ws := { s.ws with twoStep := some (seq, s.ptime) } } ∧
       small (exec (.ptpSync h false seq origin) s) (s.ptime - origin - s.ws.delay)
         { s.ws with sync := some (origin, s.ptime), twoStep := none } ∧
       large (exec (.ptpSync h false seq origin) s) (s.ptime - origin - s.ws.delay) ∧
       (s.ws.twoStep = some (seq, t2) → small (exec (.ptpFollowUp h seq origin) s) (t2 - origin - s.ws.delay)
         { s.ws with sync := some (origin, t2), twoStep := none }) ∧
       (s.ws.ctl.getLsbD 12 = false → s.ws.sync = some (origin, t2) →
         let d : Int := (((t2 : Int) - origin) + ((received : Int) - sent)) / 2
         small (exec (.ptpDelayResponse h sent ⟨received, answered⟩) s) (t2 - origin - d) { s.ws with delay := d, sync := none }) ∧
       (∃ x, exec (.ptpAnnounce h p1 cc ca var p2 gm) s = .next { s with ws := { s.ws with master := some x, heard := s.ptime } } ∧
         x.identity = gm ∧ x.source = h.source)) ∧
     (mine → s.ws.ctl.getLsbD 12 = true → exec (.ptpDelayResponse h sent ⟨received, answered⟩) s = .next { s with ws := { s.ws with
       delay := (((s.ptime : Int) - sent) - ((answered : Int) - received)) / 2 } }) ∧
     (mine → ¬ chosen → s.ws.master = none ∨ s.ws.heard + Config.announceTimeout < s.ptime →
       ∃ x, exec (.ptpAnnounce h p1 cc ca var p2 gm) s = .next { s with ws := { s.ws with
         master := some x, heard := s.ptime, twoStep := none, sync := none } } ∧ x.identity = gm ∧ x.source = h.source) ∧
     (¬ chosen → exec (.ptpSync h false seq origin) s = .next s ∧ exec (.ptpSync h true seq origin) s = .next s ∧
       exec (.ptpFollowUp h seq origin) s = .next s) ∧
     (¬ mine → exec (.ptpDelayResponse h sent ⟨received, answered⟩) s = .next s ∧
       exec (.ptpAnnounce h p1 cc ca var p2 gm) s = .next s) ∧
     (s.ws.ctl.extractLsb' 0 2 = 2#2 → small (exec (.ptmDialogue master) s) (s.ptime - master) s.ws) ∧
     exec .lockTimeout s = .next { s with ws := { s.ws with lock := false, good := 0, slew := 0 } } ∧
     exec .ppsInEdge s = .next { s with ws := { s.ws with pps := word (s.ptime / 2 ^ 16) } } ∧
     (s.ws.ppsDue = [] → exec .ppsOutEdge s = .next s) ∧
     (∀ e l, s.ws.ppsDue = e :: l → exec .ppsOutEdge s =
       .next { s with ws := { s.ws with ppsOut := s.ws.ppsOut ++ [e], ppsDue := l } }) ∧
     (∃ t, exec (.wsctlWrite v) s = .next t ∧ t.ws.ctl = v.setWidth 14 ∧ t = { s with ws := t.ws } ∧
       ((v.setWidth 14).extractLsb' 0 13 ≠ s.ws.ctl.extractLsb' 0 13 → t.ws.lock = false) ∧
       ((v.setWidth 14).extractLsb' 0 13 = s.ws.ctl.extractLsb' 0 13 → t.ws.lock = s.ws.lock)) ∧
     exec (.wsirtailWrite v) s = .next (if 2 ^ (s.ws.irCtl.toNat / 2 % 32 + 4) < (v.setWidth 32 - s.ws.irHead).toNat then s
       else { s with ws := { s.ws with irTail := v.setWidth 32 } }) ∧
     (s.ws.irCtl.getLsbD 0 = false ∨ s.ws.irHead = s.ws.irTail → exec .ingestEntry s = .next s) ∧
     (s.ws.irCtl.getLsbD 0 = true → s.ws.irHead ≠ s.ws.irTail →
       let past := fun s1 : State => { s1 with ws := { s1.ws with irHead := s.ws.irHead + 1 } }
       let off := bits s.ws.irBase.toNat 42 4 * 16 + 16 * (s.ws.irHead.toNat % 2 ^ (bits s.ws.irCtl.toNat 5 1 + 4))
       let s0 := readUnits (myModule s * 2 ^ 43 + off) 16 s
       let entry := readOffset s0 off 16
       (entry = none → exec .ingestEntry s = .next (past s0)) ∧
       ∀ en bs code s1, entry = some en →
         let rec_ := leNat (en.take 8)
         let k := leNat (en.drop 8)
         let n := ((streamAt s0 k).map fun x => recSize x.desc).getD 64
         (rec_ < 2 ^ 43 → rec_ % 64 = 0 → k < 4096 → readOffset s0 rec_ n = some bs →
           let token := appendToken k none bs (readUnits (ownKey s0 rec_) n s0)
           (token = .ok code s1 → exec .ingestEntry s = .next (past s1)) ∧
           (∀ z, token = .error (.wait z) s1 → exec .ingestEntry s = .next s1)) ∧
         (2 ^ 43 ≤ rec_ ∨ rec_ % 64 ≠ 0 ∨ 4096 ≤ k → ∃ t, exec .ingestEntry s = .next t ∧ t.ws.irHead = s.ws.irHead + 1 ∧
           t.mem = s0.mem))) ∧
  (∀ (k : Nat) (x : Stream) (s : State), streamAt s k = some x → x.armed = true → countPending s k = false →
     let due := tickTime x.desc x.next ≤ s.ptime / 2 ^ 16
     let full := expTokens x.desc ≤ cntOf x x.next
     let late := tickTime x.desc x.next + sigma x.desc ≤ s.ptime / 2 ^ 16
     let closed := { x with next := x.next + 1, cnts := x.cnts.drop 1, skp := x.skp + 1, waiting := false }
     let fires := fun (i : Instr) (gap : Bool) => ∃ t f y, exec i s = .next t ∧ t.flights = s.flights ++ [f] ∧ f.no = s.nextFlight ∧
       f.queue = streamQ x.desc ∧ f.words = x.tmpl ∧ f.ready = true ∧
       (∃ w, f.tick = some (k, #v[word x.next, word (tickTime x.desc x.next), (x.newest.map word).getD (BitVec.allOnes 64), w]) ∧
         w.getLsbD 0 = gap ∧ w.getLsbD 1 = x.deferred) ∧
       streamAt t k = some y ∧ y.next = x.next + 1 ∧ y.waiting = false ∧ y.deferred = false
     x.desc[7] = 0 →
     (flightRuns s k = false → x.waiting = true →
       (full → fires (.tickDue k) false) ∧
       (¬ full → late → polOf x.desc = 1 → fires (.tickDue k) true ∧ fires (.tickSigmaDeadline k) true) ∧
       (¬ full → ¬ late → exec (.tickDue k) s = .next s ∧ exec (.tickSigmaDeadline k) s = .next s)) ∧
     (flightRuns s k = false → x.waiting = false → x.deferred = true ∨ due →
       (full → fires (.tickDue k) false) ∧ (¬ full → polOf x.desc = 0 → fires (.tickDue k) true) ∧
       (¬ full → polOf x.desc = 1 → late → fires (.tickDue k) true) ∧
       (¬ full → polOf x.desc = 1 → ¬ late → exec (.tickDue k) s = .next (putStream k { x with waiting := true } s)) ∧
       (¬ full → polOf x.desc = 2 → exec (.tickDue k) s = .next (putStream k { closed with deferred := false } s))) ∧
     (flightRuns s k = false → x.deferred = false → x.waiting = false → ¬ due → exec (.tickDue k) s = .next s) ∧
     (bit (rw x.desc 6) 19 = false → flightRuns s k = true →
       (x.deferred = false → due → exec (.tickDue k) s = .next (putStream k { x with deferred := true } s)) ∧
       (x.deferred = false → ¬ due → exec (.tickDue k) s = .next s) ∧
       (x.deferred = true → tickTime x.desc (x.next + 1) ≤ s.ptime / 2 ^ 16 →
         exec (.tickDue k) s = .next (putStream k { closed with deferred := true } s)))) ∧
  (∀ (s : State), let t := passTime s
     let true_ : Int := (Config.elapsedOf s.stepNo + 1 : Nat)
     let gone : Int := (t.ptime : Int) - s.ptime
     s.ptime < t.ptime ∧ (gone - true_) * 1000000000 ≤ true_ * 510000 + 1000000000 ∧ (true_ - gone) * 1000000000 ≤ true_ * 510000 ∧
     (∀ e, e ∈ t.ws.ppsDue ↔ e ∈ s.ws.ppsDue ∨ (s.ws.ctl.getLsbD 13 = true ∧ s.ws.lock = true ∧ e % 1000000000 = 0 ∧
       s.ptime / 65536 < e ∧ e ≤ t.ptime / 65536)) ∧
     t = { s with ptime := t.ptime, ws := { s.ws with ppsDue := t.ws.ppsDue } })

-- ## The package and the fabric

/-- R338 to R343, R345: an enabled shard group keeps its members and size; a trained or lost UCIe module shows in `SGLINK`; a
host read, write or AtomicOp of fitted memory is performed by the home as a phase-free access, in order with the host's others,
and waits while the home has not granted it, but a read in a range with HC = 1 gives the host a copy; an access of no memory is
answered with an error; an access through the BAR acts on registers, a read there behind the writes before it; a host write of
host memory is the host's own, and an acknowledged back-invalidation reaches its home; a lost expander is logged. The form of
error-log entries is the model's (log 67). -/
def Obligations.HostAndShardEvents : Prop :=
  ∀ (v a b : Word) (wide : Bool) (link umod port off n addr line : Nat) (bs : List Byte) (s : State),
    let key := myModule s * 2 ^ 43 + off
    let lineNo := key / 64
    let slot := slotOfLine s 16 lineNo 0
    let waits := fun (x : HostAccess) => { s with hostq := [x] }
    let idle := fun (s : State) => s.chains = [] ∧ s.stores = [] ∧ s.softErr = []
    let sends := fun (x : HostAccess) (n : Nat) (act : State → State) =>
      let grant := uncBegin slot 16 lineNo true hostAgent 0 (waits x)
      phaseFreeFault hostWho (hostSpot s off) s = none →
      (∀ c s1 s2, grant = .ok c s1 →
        (if c then .ok () s1 else homeClaim ((ruledSlot s1 16 lineNo).getD slot) lineNo 0 s1) = .ok () s2 → idle s2 →
        poisoned s key n = false → exec (.hostCxlMemAccess x) s = .next { act s2 with hostq := [] }) ∧
      (∀ z s1, poisoned s key n = false → grant = .error (.wait z) s1 → exec (.hostCxlMemAccess x) s = .next s1)
    let put := fun (bs : List Byte) (s : State) =>
      uncDone lineNo (healPoison (span key (key + bs.length)) { s with mem := memWrite s.mem key bs })
    (∃ t, exec (.shardGroupEnable v) s = .next t ∧ t.pk.sgctl.getLsbD 4 = v.getLsbD 4 ∧
      (∀ i < 4, t.pk.sgctl.getLsbD i = if s.pk.sgctl.getLsbD 4 then s.pk.sgctl.getLsbD i else v.getLsbD i) ∧
      (v.getLsbD 4 = false → t.shard = []) ∧ t.mem = s.mem) ∧
    (link < 3 → ∃ t, exec (.ucieLinkDown link) s = .next t ∧
      (∀ i < 12, t.pk.sglink.getLsbD i = (decide (i / 4 ≠ link) && s.pk.sglink.getLsbD i)) ∧ t.mem = s.mem) ∧
    (link < 3 → umod < 4 → ∃ t, exec (.ucieLinkTrained link umod) s = .next t ∧
      (∀ i < 12, t.pk.sglink.getLsbD i = (decide (i = 4 * link + umod) || s.pk.sglink.getLsbD i)) ∧ t.mem = s.mem) ∧
    (port < 2 → ∃ t, exec (.expanderLinkDown port) s = .next t ∧ port ∈ t.pk.expDown ∧ t.errlog = s.errlog ++ [(7, port, 0)] ∧
      t.mem = s.mem) ∧
    (isRegister off = true → s.hostq = [] → 0 < n → off / 64 = (off + n - 1) / 64 →
      (s.regq = [] → ∃ l, exec (.hostCxlMemAccess (.read off n)) s =
        .next { s with pk := { s.pk with hostOut := s.pk.hostOut ++ [some l] } } ∧ l.length = n ∧
        ∀ i < n, l[i]! = BitVec.ofNat 8 (readRegister s ((key + i) / 8 * 8) / 2 ^ (8 * ((key + i) % 8)))) ∧
      (s.regq ≠ [] → exec (.hostCxlMemAccess (.read off n)) s = .next (waits (.read off n))) ∧
      (bs.length = n →
        exec (.hostCxlMemAccess (.write off bs)) s = .next { s with regq := s.regq ++ regWrites key bs } ∧
        (off % 8 + n ≤ 8 → regWrites key bs =
          [(off / 8 * 8, word (leNat bs * 2 ^ (8 * (off % 8))), BitVec.ofNat 8 ((2 ^ n - 1) * 2 ^ (off % 8)))]))) ∧
    (isRegister off = false → s.hostq = [] → 0 < n → off / 64 = (off + n - 1) / 64 →
      (hostReaches off n = false → s.net = [] → s.hlines = [] → s.added = [] → s.parts = [] →
        exec (.hostCxlMemAccess (.read off n)) s = .next { s with pk := { s.pk with hostOut := s.pk.hostOut ++ [none] } }) ∧
      (hostReaches off n = true → poisoned s key n = false →
        (hostCached s off = true → (hlineAt s lineNo).busy = false → (hlineAt s lineNo).perf = false → linePending s lineNo = false →
          let s1 := hostShares off (waits (.read off n))
          idle s1 → ∃ t, exec (.hostCxlMemAccess (.read off n)) s = .next t ∧
            t.pk.hostOut = s1.pk.hostOut ++ [some (memBytes s1.mem key n)] ∧ t = { s1 with hostq := [], pk := t.pk } ∧
            (s.regions.length < 12 → t.mem = s.mem ∧ (regionAt t lineNo).host = true)) ∧
        (∀ c s1, hostCached s off = false → uncBegin slot 16 lineNo false hostAgent 0 (waits (.read off n)) = .ok c s1 → idle s1 →
          ∃ t, exec (.hostCxlMemAccess (.read off n)) s = .next t ∧ t.pk.hostOut = s1.pk.hostOut ++ [some (memBytes s1.mem key n)] ∧
            t.hostq = []) ∧
        (∀ z s1, hostCached s off = false → uncBegin slot 16 lineNo false hostAgent 0 (waits (.read off n)) = .error (.wait z) s1 →
          exec (.hostCxlMemAccess (.read off n)) s = .next s1)) ∧
      (bs.length = n → hostReaches off n = true → sends (.write off bs) n (put bs))) ∧
    (let w := if wide then 8 else 4
      let old := fun s : State => memNat s.mem key w
      let answered := fun (s : State) (t : State) => { t with pk := { t.pk with hostOut := t.pk.hostOut ++ [some (leBytes w (old s))] } }
      isRegister off = false → s.hostq = [] → off % w = 0 → hostReaches off w = true →
      sends (.add off wide v) w (fun s => answered s (put (leBytes w (old s + v.toNat)) s)) ∧
      sends (.swap off wide v) w (fun s => answered s (put (leBytes w v.toNat) s)) ∧
      sends (.cas off wide a b) w (fun s => answered s
        (if old s = a.toNat % 2 ^ (8 * w) then put (leBytes w b.toNat) s else uncDone lineNo s))) ∧
    (s.chains = [] → ∃ t, exec (.hostCxlMemAccess (.hostMemWrite addr bs)) s = .next t ∧
      t.mem = memWrite s.mem (hostBase + addr % 2 ^ 64) bs) ∧
    (let there := s.net.find? fun m => (m.kind == .inv || m.kind == .upd) && m.dst == 16 && m.line == line;
      (there = none → exec (.hostCxlMemAccess (.backInvAck line)) s = .next s) ∧
      ∀ m, there = some m → exec (.hostCxlMemAccess (.backInvAck line)) s = .next (settle (deliver m (takeMsg m s))))

/-- R228, R346 to R350: a module reset verifies its images in order: if all pass, the tables of the Spool image are in force;
the first that fails leaves the module in recovery with its kind and reason. Its measurements are those of the images that
passed, and the alias key and chain rest on them. A patch that fails is discarded, and one that passes is held while a job
runs. A signed manufacturing command raises a minimum security version and never lowers one. The Responder answers its requests
in order, and an error out of it, each signature with the key of the slot asked for. Test mode is entered with no queue
enabled, from recovery or before any record. A cluster reset restores the codebook and the transfer numbers. The numbers of
SPDM's algorithms and capabilities and what a signature covers are taken from SPDM, cryptography is uninterpreted (log 18), and
what a cluster reset leaves beside R132 and R233 is the model's choice (log 58). -/
def Obligations.TrustEvents : Prop :=
  ∀ (m q sp img : SignedImage) (ba bh : BitVec 32) (nonce : BitVec 256) (cl slot off len index kind svn : Nat) (sig : List Byte)
    (s : State),
    let bad := fun (kind : Nat) (x : SignedImage) => imageFault (Nat.max (Config.svnMin kind) ((s.pk.svn[kind]?).getD 0)) kind x
    let answers := fun (i : Instr) (n : Nat) (r : SpdmReply) => exec i s = .next { s with pk := { s.pk with
      spdm := n, replies := s.pk.replies ++ [r] } }
    let basis := fun (slot : Nat) => if slot = 0 then [] else s.pk.alias_.toList
    let chain := fun (slot : Nat) => Config.certChain slot (basis slot)
    let signed := fun (slot : Nat) (l : List Byte) => Config.ecdsaSign slot (basis slot) (Config.sha512 l)
    (bad 1 m = 0 → bad 2 q = 0 → bad 3 sp = 0 → ∃ t, exec (.moduleReset m q sp) s = .next t ∧
      t.pk.bootst = 0 ∧ t.spid = (Config.tablesSpid sp.body).setWidth 64 ∧ t.routes = Config.tablesRoutes sp.body ∧
      t.pk.meas = #v[Config.romMeasurement, imgDigest m, imgDigest q, imgDigest sp, 0] ∧ t.pk.alias_ = t.pk.meas ∧
      t.mem = s.mem ∧ t.strand = Strand.unbound ∧ t.others = []) ∧
    (∀ kind, kind = 1 ∧ bad 1 m ≠ 0 ∨ kind = 2 ∧ bad 1 m = 0 ∧ bad 2 q ≠ 0 ∨
        kind = 3 ∧ bad 1 m = 0 ∧ bad 2 q = 0 ∧ bad 3 sp ≠ 0 → ∃ t, exec (.moduleReset m q sp) s = .next t ∧
      t.pk.bootst.extractLsb' 0 2 = 1#2 ∧ (t.pk.bootst.extractLsb' 2 3).toNat = kind ∧
      (t.pk.bootst.extractLsb' 5 3).toNat = bad kind (if kind = 1 then m else if kind = 2 then q else sp) ∧ t.mem = s.mem) ∧
    (bad 4 img ≠ 0 → exec (.sequencerPatch img) s = .next s) ∧
    (bad 4 img = 0 → sequencerRuns s = true → exec (.sequencerPatch img) s =
      .next { s with pk := { s.pk with patches := s.pk.patches ++ [imgDigest img] } }) ∧
    (bad 4 img = 0 → sequencerRuns s = false → ∃ t, exec (.sequencerPatch img) s = .next t ∧ t.pk.patches = [] ∧
      t.pk.alias_ = s.pk.alias_ ∧ t.mem = s.mem) ∧
    (Config.ecdsaVerifies Config.onacyKey sig (Config.sha512 (Config.svnCommand kind svn)) = true → kind < 5 →
      svnFloor (raiseSvn kind svn sig s) kind = max (svnFloor s kind) svn ∧
      ∀ k, k ≠ kind → svnFloor (raiseSvn kind svn sig s) k = svnFloor s k) ∧
    (Config.ecdsaVerifies Config.onacyKey sig (Config.sha512 (Config.svnCommand kind svn)) = false → raiseSvn kind svn sig s = s) ∧
    answers .spdmGetVersion 1 (.version [0x13]) ∧
    (s.pk.spdm = 1 → answers .spdmGetCapabilities 2 (.capabilities 0x16)) ∧
    (s.pk.spdm = 2 → ba.getLsbD 8 = true → bh.getLsbD 2 = true →
      answers (.spdmNegotiateAlgorithms ba bh) 3 (.algorithms 256 4)) ∧
    (s.pk.spdm = 3 → answers .spdmGetDigests 3 (.digests [Config.sha512 (chain 0), Config.sha512 (chain 1)]) ∧
      (slot < 2 → off < (chain slot).length → answers (.spdmGetCertificate slot off len) 3
        (.certificate slot (((chain slot).drop off).take len) ((chain slot).length - off - (((chain slot).drop off).take len).length))) ∧
      (slot < 2 → answers (.spdmChallenge slot nonce) 3 (.challengeAuth slot (Config.sha512 (chain slot))
        (signed slot (leBytes 32 nonce.toNat ++ leBytes 64 (Config.sha512 (chain slot)).toNat)))) ∧
      answers (.spdmGetMeasurements ⟨0, none⟩) 3 (.measurements 5 [] []) ∧
      (1 ≤ index → index ≤ 5 →
        answers (.spdmGetMeasurements ⟨index, none⟩) 3 (.measurements 5 [(index, s.pk.meas[index - 1]!)] []) ∧
        (slot < 2 → answers (.spdmGetMeasurements ⟨index, some (slot, nonce)⟩) 3 (.measurements 5 [(index, s.pk.meas[index - 1]!)]
          (signed slot (leBytes 32 nonce.toNat ++ (BitVec.ofNat 8 index :: leBytes 64 s.pk.meas[index - 1]!.toNat))))))) ∧
    (s.pk.spdm ≠ 3 → answers .spdmGetDigests s.pk.spdm .error ∧ answers (.spdmGetCertificate slot off len) s.pk.spdm .error ∧
      answers (.spdmChallenge slot nonce) s.pk.spdm .error ∧ answers (.spdmGetMeasurements ⟨index, none⟩) s.pk.spdm .error) ∧
    ((∀ x ∈ s.queues.toList, x.ctl.getLsbD 0 = false) → s.pk.bootst.extractLsb' 0 2 = 1#2 ∨ s.nextFlight = 0 →
      ∃ t, exec .testModeEntry s = .next t ∧ inTest t = true ∧ t.pk.bootst.extractLsb' 2 6 = s.pk.bootst.extractLsb' 2 6 ∧
        t = { s with pk := t.pk }) ∧
    ((∃ x ∈ s.queues.toList, x.ctl.getLsbD 0 = true) → exec .testModeEntry s = .next s) ∧
    (∃ t, exec (.clusterReset cl) s = .next t ∧ (clusterAt t cl).book = resetBook ∧ (∀ ch < 4, (channelAt t cl ch).next = 1) ∧
      t.mem = s.mem)

/-- R351 to R354: a power measurement is shown, and under a cap steps the clock down above it and up below 95 % of it, within
800 and 1800 MHz, but never while throttling; throttling steps down and shows; a trip cuts the power and keeps bulk and host
memory, and every later step faults but a power cycle, which takes the module through a reset. The floor of 800 MHz under
throttling is the model's choice (log 57). -/
def Obligations.PowerEvents : Prop :=
  ∀ (w : BitVec 12) (m q sp : SignedImage) (l : List Turn) (s : State),
    let mhz := fun (s : State) => s.pk.pwrst.toNat / 2 ^ 12 % 2 ^ 12
    let cap := Nat.min 1500 (s.pk.pwrcap.toNat % 2 ^ 12)
    let held := s.pk.pwrcap.getLsbD 12 = false ∨ s.pk.pwrst.getLsbD 24 = true
    mhz s ≤ 1800 →
    (∃ t, exec (.powerMeasurement w) s = .next t ∧ t.pk.pwrst.extractLsb' 0 12 = w ∧
      t.pk.pwrst.getLsbD 24 = s.pk.pwrst.getLsbD 24 ∧
      mhz t = (if held then mhz s else if cap < w.toNat then max 800 (mhz s - 100)
        else if 100 * w.toNat < 95 * cap then min 1800 (mhz s + 100) else mhz s) ∧ t = { s with pk := t.pk }) ∧
    (∃ t, exec .thermalThrottle s = .next t ∧ mhz t = max 800 (mhz s - 100) ∧ t.pk.pwrst.getLsbD 24 = true ∧
      t = { s with pk := t.pk }) ∧
    (∃ t, exec .thermalThrottleEnd s = .next t ∧ mhz t = mhz s ∧ t.pk.pwrst.getLsbD 24 = false ∧ t = { s with pk := t.pk }) ∧
    (∃ t, exec .thermalTrip s = .next t ∧ (startsAgain s = false → step t = .fault .poweredOff) ∧
      ∀ k, memByte t.mem k = if keepsPower s k then memByte s.mem k else 0) ∧
    (s.powered = false → s.sched = .powerCycle m q sp :: l → ∃ t, step s = .next t ∧ t.powered = true ∧ t.sched = l ∧
      t.strand = Strand.unbound ∧ ∀ k, memByte t.mem k = if keepsPower s k then memByte s.mem k else 0)

/-- R357 to R362, R367, R369 to R373: the sixteenth failed replay in a row, or a lost lock, takes a port down, and a replay
that succeeds starts the count anew; a silent module's next access goes unanswered, a read or a phase-free access with remote
unreachable, and only that one: which access it is, and whether the write took effect, is the model's choice or free (log 14);
`SPGSEL` loads a group and GO installs one, refused with nothing to reduce or no member; while GO reads 1 a write of either is
ignored, which for `SPGCTL` is the model's choice (log 60); an install of another module stands here too; a collective whose
parts, those of its TAG, agree goes on, with an acquire at `pk`, and one whose parts differ ends with cause 4; a granule is
checked, then written, and an error of its work ends the part or waits for Mooring; a part that is done publishes and leaves
the queue with its first error at its issuer; a failed part ends with its cause. -/
def Obligations.FabricEvents : Prop :=
  ∀ (port module cl id : Nat) (v : Word) (cause : BitVec 4) (peers : List PeerPart) (o : BridleOp) (s s1 : State),
    (port < 16 →
      (findD s.pk.naks port 0 + 1 < 16 → ∃ t, exec (.flitNak port) s = .next t ∧ t.pk.ports = s.pk.ports ∧
        findD t.pk.naks port 0 = findD s.pk.naks port 0 + 1) ∧
      (15 ≤ findD s.pk.naks port 0 → ∃ t, exec (.flitNak port) s = .next t ∧ exec (.spoolLinkDown port) s = .next t) ∧
      (∃ t, exec (.spoolLinkDown port) s = .next t ∧ t.mem = s.mem ∧
        ∀ i < 16, t.pk.ports.getLsbD i = (decide (i ≠ port) && s.pk.ports.getLsbD i))) ∧
    (findD (replayDone port s).pk.naks port 0 = 0) ∧
    (module ≠ myModule s → ∃ t, exec (.remoteTimeout module) s = .next t ∧ module ∈ t.silent ∧ t = { s with silent := t.silent }) ∧
    (module ≠ myModule s → module ∈ s.silent → ∀ (a n : Nat) (w : Who) (p : Place) (va : Word) (f : Nat → Option Nat),
      p.key / 2 ^ 43 = module → p.key < 2 ^ 52 →
      loadAt a w p n va s = .error (.trap .remote va) (giveUp p.key (learnPlace w.cl p s)) ∧
      (∃ t, atomicAt a w p n va f s = .error (.trap .remote va) t ∧ t.silent = s.silent.erase module)) ∧
    (s.spgCtl.getLsbD 18 = false →
      (∃ t, exec (.spgselWrite v) s = .next t ∧ t.spgSel = word (v.toNat % 4096) ∧
        (∀ j (h : j < 8), t.spgMem[j] = (groupAt s (v.toNat % 4096)).mem.extractLsb' (64 * j) 64) ∧
        (∀ i < 18, t.spgCtl.getLsbD i = (groupAt s (v.toNat % 4096)).ctl.getLsbD i) ∧ t.spgCtl.getLsbD 18 = false) ∧
      (v.getLsbD 18 = true → installBad (v.toNat % 2 ^ 18) (spgMembers s) = true → ∃ t, exec (.groupInstall v) s = .next t ∧
        t.groups = s.groups ∧ t.spgCtl.getLsbD 18 = false ∧ t.spgCtl.getLsbD 19 = true) ∧
      (v.getLsbD 18 = true → installBad (v.toNat % 2 ^ 18) (spgMembers s) = false → ∃ t, exec (.groupInstall v) s = .next t ∧
        groupAt t (s.spgSel.toNat % 4096) = { mem := spgMembers s, ctl := v.setWidth 18 } ∧ t.spgCtl.getLsbD 18 = true)) ∧
    (s.spgCtl.getLsbD 18 = true → exec (.spgselWrite v) s = .next s ∧ exec (.groupInstall v) s = .next s ∧
      (groupBusy s (s.spgSel.toNat % 4096) = true → exec .groupInstallComplete s = .next s) ∧
      (groupBusy s (s.spgSel.toNat % 4096) = false → ∃ t, exec .groupInstallComplete s = .next t ∧ t.spgCtl.getLsbD 18 = false ∧
        (∀ i < 18, t.spgCtl.getLsbD i = s.spgCtl.getLsbD i) ∧ t = { s with spgCtl := t.spgCtl })) ∧
    (∀ k g, installBad g.ctl.toNat g.mem = false → groupAt (installFrom k g s) (k % 4096) = g) ∧
    (opAt s cl id = some o →
      (let mine := peers.filter fun p => p.tag == o.ctl.toNat / 2 ^ 22 % 2 ^ 16
       o.seq.disp = true → o.stop = false → o.peers = none → allAnnounced s o mine = true →
        (partsAgree o mine = true → ∃ t, exec (.collectiveCheck cl id peers) s = .next t ∧
          opAt t cl id = some { o with peers := some mine } ∧
          t.mem = (acquireLines (bridleAgent cl) cl (scopeNum .pk) s).mem) ∧
        (partsAgree o mine = false → ∃ t, exec (.collectiveCheck cl id peers) s = .next t ∧
          opAt t cl id = some { o with ecause := if o.ecause = 0 then 4 else o.ecause, stop := true } ∧ t.mem = s.mem)) ∧
      (∀ g ps, o.peers = some ps → (o.stop = true ∨ g ∈ o.written ∨ granulesOf o ≤ g) →
        exec (.collectiveGranule cl id g) s = .next s) ∧
      (∀ g ps, o.peers = some ps → o.stop = false → o.cancel = false → o.wait = none → g ∉ o.written → g < granulesOf o →
        (workGranule cl id o ps g s = .ok () s1 → exec (.collectiveGranule cl id g) s = .next s1) ∧
        (∀ z, workGranule cl id o ps g s = .error (.wait z) s1 → exec (.collectiveGranule cl id g) s = .next s1) ∧
        (∀ c va, workGranule cl id o ps g s = .error (.trap c va) s1 → isPageFault c = false →
          exec (.collectiveGranule cl id g) s = .next (noteOp cl id (if c = .remote then 2 else if c = .dataError then 3 else 1) true s1)) ∧
        (∀ c va, workGranule cl id o ps g s = .error (.trap c va) s1 → isPageFault c = true → ∃ t,
          exec (.collectiveGranule cl id g) s = .next t ∧ t.faultq.length = s1.faultq.length + 1 ∧ t.mem = s1.mem) ∧
        (colOp o.ctl = 3 → rankOf s o ≠ colRoot o.ctl → ∀ p, ps.find? (fun p => p.rank == colRoot o.ctl) = some p →
          16 * g + 16 ≤ p.data.length → ∀ s0,
          let key := partKey cl id * 2 ^ 40 + g
          let data := (List.range 16).map fun k => nthD p.data (16 * g + k) 0
          findD s.parts key [] = [] → checkGranule cl id o data false g s = .ok () s0 → s0.spid = s.spid →
          putGranule cl id o data false g s0 = .ok () s1 → exec (.collectiveGranule cl id g) s = .next (clearParts key s1))) ∧
      (let s0 := if o.stop then leavePart cl id s else s
       opDone o = true → o.wait = none →
        (∀ c va, releaseFor (bridleAgent cl) .dm s0 = .error (.trap c va) s1 →
          exec (.collectiveComplete cl id) s = .next (noteOp cl id 2 false s1)) ∧
        (∀ z, releaseFor (bridleAgent cl) .dm s0 = .error (.wait z) s1 → exec (.collectiveComplete cl id) s = .next s1) ∧
        (releaseFor (bridleAgent cl) .dm s0 = .ok () s1 →
        ∃ t, exec (.collectiveComplete cl id) s = .next t ∧ opAt t cl id = none ∧ t.mem = s1.mem ∧
          (s1.strand.bound = true → s1.strand.crew = o.by_.crew → s1.strand.idx.toNat = o.by_.idx →
            s1.strand.colerr.getLsbD 4 = false → o.ecause ≠ 0 →
            t.strand.colerr = word (o.ecause + 2 ^ 4 + o.id.toNat * 2 ^ 32)))) ∧
      (o.stop = false → cause ≠ 0 → ∃ t, exec (.collectiveFail cl id cause) s = .next t ∧
        opAt t cl id = some { o with
          ecause := if o.ecause = 0 then cause.toNat else o.ecause, stop := true, wait := none } ∧ t.mem = s.mem))

-- ## The machine

/-- R32, R33, R36, R39, R43: every encoding of the spec is read back: for each well-formed instruction that has words, decoding
its head and tail gives the instruction, with every operand at every value. -/
def Obligations.DecodeReadsEncode : Prop :=
  ∀ (i : Instr) (h : BitVec 16) (t : BitVec 96), wellFormed i = true → encode i = some (h, t) → decode h t = .ok i

/-- R67, R113, R139, R145, R159, R167, R180, R194, R197, R211, R220, R221, R238, R248, R256, R292, R374: words that the spec
works out decode to the instructions that it gives them to. -/
def Obligations.DecodedWords : Prop :=
  let g : Guard := ⟨0, false, false⟩
  ∀ x ∈ ([
      (0x4488, 0x001918E3, .cmpi ⟨2, false, false⟩ .ltn 3 7 100),
      (0x2800, 0x01AC, .vcfg g 12 13),
      (0x6AE0, 0x00007E013023, .vfma g .f32 .dyn 3 1 (.scal 12) 2 0),
      (0x6F20, 0x1600460AD044, .vsmax g 4 2 20 21 22 0),
      (0x9060, 0x00000030005000E4, .vldseg g .n8 .i16 4 7 3 0 0),
      (0x7220, 0x020100062501, .vopm g true 1 8 9 12 2),
      (0x9820, 0x0000000010000000, .rel g .pk),
      (0x9860, 0x00000002100C368C, .amoadd g .i64 .pk false true 12 20 13 0),
      (0xD440, 0x000B5680, .tbuild g false 20 21 22),
      (0xD460, 0x000000E0000000020000028C, .lkaccDrn g 12 20 0 7),
      (0x7480, 0x000006070003, .vdrn g 3 14),
      (0x9500, 0x00000200080001AC, .cpwait g .cl 12 13 2),
      (0x3520, 0x368C, .claim g 12 20 13),
      (0xD580, 0x01140000568C, .slabgrow g 12 20 21 20 1),
      (0xDB20, 0x0000000C080B568C, .rangesetQ g 12 20 21 22 4 true false),
      (0x3C20, 0x568C, .stappend g 12 20 21)] : List (BitVec 16 × BitVec 96 × Instr)),
    decode x.1 x.2.1 = .ok x.2.2

/-- R25, R26, R31, R33: a state whose strand stands at a slot of the valid line of its pass, or of the line fetched when a new
pass begins, the head there with its tail an instruction of the scalar class, no explicit schedule and no engine's turn
pending: a step is the execution of that instruction, after the clock has moved and the turn has been taken, which an
instruction with Y = 1 ends (R35, R296). With an entry at the head of the vector queue a step is the execution of the entry's
instruction. Which agent acts in a step is the model's choice (log 3). -/
def Obligations.StepRunsDecoded : Prop :=
  ∀ (i : Instr) (p : Pass) (s s1 : State), s.powered = true → s.sched = [] → s.regq = [] → s.engineTurn = false →
    runs s.strand = true → s.slice < 16 → s.strand.pendTrap = none → s.strand.vqTrap = none →
    s.strand.refused = none → s.strand.scalarWait = none → s.strand.vqWait = none →
    let turned := { clock s with engineTurn := true, slice := s.slice + 1 }
    let standing := p.base = lineBase s.strand.pc ∧ lineValid p.bytes = true ∧ addrForm s.strand.pc = true ∧
      slotNo s.strand.pc < lineHeads p.bytes
    let head := lineHead p.bytes (slotNo s.strand.pc)
    let tail := lineTail p.bytes (slotNo s.strand.pc)
    let last := fun s : State => if (headGuard head).y then { s with slice := 16 } else s
    (s.strand.vq = [] → standing → headCheck head = .ok () →
      (s.strand.pass = some p →
        (opIsVq (headOp head) = false → decode head tail = .ok i → step s = exec i (last turned)) ∧
        (opIsVq (headOp head) = true → step s = exec (.vqEnqueue head tail) (last turned))) ∧
      (s.strand.pass = none → fetchCode (priv s.strand) p.base turned = .ok p.bytes s1 → s1.strand = s.strand →
        let fetched := last (mapStrand (fun t => { t with pass := some p }) s1)
        (opIsVq (headOp head) = false → decode head tail = .ok i → step s = exec i fetched) ∧
        (opIsVq (headOp head) = true → step s = exec (.vqEnqueue head tail) fetched))) ∧
    (∀ e, AtHead e s → decode e.head e.tail = .ok i → step s = exec i turned)

/-- The memory keeps its canonical form: whatever a step does, from every state in which the form holds. -/
def Obligations.StepsKeepMemory : Prop := ∀ s t : State, MemOk s → step s = .next t → MemOk t

/-- R354: a step goes on exactly while the module has power, or starts with a power cycle; else it faults and nothing happens.
-/
def Obligations.StepGoesOnWithPower : Prop :=
  ∀ s : State, (s.powered = true ∨ startsAgain s = true → Safe s) ∧
    (s.powered = false → startsAgain s = false → step s = .fault .poweredOff)

/-- R17, R18, R111, R132, R183, R233, R255, R259, R288, R347: what reset leaves. That every byte of memory reads 0 is the
model's choice (log 2), and the reset value of BBASE, BLIM and an empty slot too (log 1). -/
def Obligations.ResetValues : Prop :=
  let s := State.reset
  MemOk s ∧ s.strand.bound = false ∧ s.others = [] ∧ s.parked = [] ∧ s.flights = [] ∧ s.crews = [] ∧
  (∀ k, memByte s.mem k = 0) ∧
  (∀ co b, b < 16 → (coreAt s co).banks[b]? = some (if b < 12 then .c else .s)) ∧
  (∀ cl b, b < 48 → (clusterAt s cl).banks[b]? = some .c) ∧ (∀ cl k, granuleFull s cl k = false) ∧
  (∀ cl ch, ch < 4 → channelAt s cl ch = { next := 1, jobs := [] }) ∧ (∀ cl k, (pairAt s cl k).state = .free) ∧
  (∀ r ∈ s.ranges.toList, r.v = false) ∧ (∀ k < 6, (protoAt s k).loaded = true ∧ (protoAt s k).id = k) ∧
  (∀ k, 6 ≤ k → (protoAt s k).loaded = false) ∧ (∀ k, queueAt s k = LaunchQueue.reset) ∧ s.pk.bootst = 0 ∧ s.powered = true
end

