-- ==== Sys2Proof/Laws/Decode.lean ====
section
/-! SUPPORT. What a decoded word says: the instruction that its opcode's row reads is the one answered, and the encoder gives
the word back. -/

namespace Sys2Proof

/-- Below the hint space a decoded word is what `parse` reads, and the encoder gives the word back. -/
theorem decode_ok_iff {h : BitVec 16} {t : BitVec 96} {i : Instr} (ho : headOp h < 0xF0) :
    decode h t = .ok i ↔ headCheck h = .ok () ∧ parse (headOp h) (headGuard h) t = some i ∧ encode i = some (h, t) ∧
      wellFormed i = true := by
  unfold decode
  cases hc : headCheck h with
  | error e => simp
  | ok u =>
    simp only [Nat.not_le.mpr ho, if_false, true_and]
    cases hp : parse (headOp h) (headGuard h) t with
    | none => simp
    | some j =>
      constructor
      · intro hd
        by_cases he : encode j = some (h, t) <;> by_cases hw : wellFormed j = true <;> simp [he, hw] at hd
        subst hd
        exact ⟨rfl, he, hw⟩
      · rintro ⟨hj, he, hw⟩
        cases hj
        simp [he, hw]

/-- A word of the hint space decodes to a hint when its head passes. -/
theorem decode_hint {h : BitVec 16} {t : BitVec 96} (ho : 0xF0 ≤ headOp h) (hc : headCheck h = .ok ()) :
    decode h t = .ok (decodeHint h t) := by
  simp [decode, hc, ho]

end Sys2Proof
end

