-- ==== Sys2Proof/Laws/State.lean ====
section
/-! SUPPORT. What each update of the state leaves as it was: one lemma per field per update. -/

namespace Sys2Proof.Laws

open Sys2Proof.Machine

-- ## Updates of the module

@[simp] theorem mapStrand_strand (f : Strand → Strand) (s : State) : (mapStrand f s).strand = f s.strand := rfl
@[simp] theorem mapStrand_others (f : Strand → Strand) (s : State) : (mapStrand f s).others = s.others := rfl
@[simp] theorem mapStrand_parked (f : Strand → Strand) (s : State) : (mapStrand f s).parked = s.parked := rfl
@[simp] theorem mapStrand_cores (f : Strand → Strand) (s : State) : (mapStrand f s).cores = s.cores := rfl
@[simp] theorem mapStrand_clusters (f : Strand → Strand) (s : State) : (mapStrand f s).clusters = s.clusters := rfl
@[simp] theorem mapStrand_mem (f : Strand → Strand) (s : State) : (mapStrand f s).mem = s.mem := rfl
@[simp] theorem mapStrand_poison (f : Strand → Strand) (s : State) : (mapStrand f s).poison = s.poison := rfl
@[simp] theorem mapStrand_stores (f : Strand → Strand) (s : State) : (mapStrand f s).stores = s.stores := rfl
@[simp] theorem mapStrand_cycle (f : Strand → Strand) (s : State) : (mapStrand f s).cycle = s.cycle := rfl
@[simp] theorem mapStrand_clines (f : Strand → Strand) (s : State) : (mapStrand f s).clines = s.clines := rfl
@[simp] theorem mapStrand_hlines (f : Strand → Strand) (s : State) : (mapStrand f s).hlines = s.hlines := rfl
@[simp] theorem mapStrand_regions (f : Strand → Strand) (s : State) : (mapStrand f s).regions = s.regions := rfl
@[simp] theorem mapStrand_ranges (f : Strand → Strand) (s : State) : (mapStrand f s).ranges = s.ranges := rfl
@[simp] theorem mapStrand_slots (f : Strand → Strand) (s : State) : (mapStrand f s).slots = s.slots := rfl
@[simp] theorem mapStrand_rslots (f : Strand → Strand) (s : State) : (mapStrand f s).rslots = s.rslots := rfl
@[simp] theorem mapStrand_lock (f : Strand → Strand) (s : State) : (mapStrand f s).lock = s.lock := rfl
@[simp] theorem mapStrand_lockq (f : Strand → Strand) (s : State) : (mapStrand f s).lockq = s.lockq := rfl
@[simp] theorem mapStrand_net (f : Strand → Strand) (s : State) : (mapStrand f s).net = s.net := rfl
@[simp] theorem mapStrand_hostq (f : Strand → Strand) (s : State) : (mapStrand f s).hostq = s.hostq := rfl
@[simp] theorem mapStrand_chains (f : Strand → Strand) (s : State) : (mapStrand f s).chains = s.chains := rfl
@[simp] theorem mapStrand_aflags (f : Strand → Strand) (s : State) : (mapStrand f s).aflags = s.aflags := rfl
@[simp] theorem mapStrand_walks (f : Strand → Strand) (s : State) : (mapStrand f s).walks = s.walks := rfl
@[simp] theorem mapStrand_queues (f : Strand → Strand) (s : State) : (mapStrand f s).queues = s.queues := rfl
@[simp] theorem mapStrand_errlog (f : Strand → Strand) (s : State) : (mapStrand f s).errlog = s.errlog := rfl
@[simp] theorem mapStrand_regq (f : Strand → Strand) (s : State) : (mapStrand f s).regq = s.regq := rfl
@[simp] theorem mapStrand_spid (f : Strand → Strand) (s : State) : (mapStrand f s).spid = s.spid := rfl
@[simp] theorem mapStrand_routes (f : Strand → Strand) (s : State) : (mapStrand f s).routes = s.routes := rfl
@[simp] theorem mapStrand_faultNo (f : Strand → Strand) (s : State) : (mapStrand f s).faultNo = s.faultNo := rfl
@[simp] theorem mapStrand_faultq (f : Strand → Strand) (s : State) : (mapStrand f s).faultq = s.faultq := rfl
@[simp] theorem mapStrand_ptime (f : Strand → Strand) (s : State) : (mapStrand f s).ptime = s.ptime := rfl
@[simp] theorem mapStrand_flights (f : Strand → Strand) (s : State) : (mapStrand f s).flights = s.flights := rfl
@[simp] theorem mapStrand_crews (f : Strand → Strand) (s : State) : (mapStrand f s).crews = s.crews := rfl
@[simp] theorem mapStrand_nextFlight (f : Strand → Strand) (s : State) : (mapStrand f s).nextFlight = s.nextFlight := rfl
@[simp] theorem mapStrand_mooring (f : Strand → Strand) (s : State) : (mapStrand f s).mooring = s.mooring := rfl
@[simp] theorem mapStrand_tearing (f : Strand → Strand) (s : State) : (mapStrand f s).tearing = s.tearing := rfl
@[simp] theorem mapStrand_vault (f : Strand → Strand) (s : State) : (mapStrand f s).vault = s.vault := rfl
@[simp] theorem mapStrand_msix (f : Strand → Strand) (s : State) : (mapStrand f s).msix = s.msix := rfl
@[simp] theorem mapStrand_pri (f : Strand → Strand) (s : State) : (mapStrand f s).pri = s.pri := rfl
@[simp] theorem mapStrand_shard (f : Strand → Strand) (s : State) : (mapStrand f s).shard = s.shard := rfl
@[simp] theorem mapStrand_groups (f : Strand → Strand) (s : State) : (mapStrand f s).groups = s.groups := rfl
@[simp] theorem mapStrand_spgSel (f : Strand → Strand) (s : State) : (mapStrand f s).spgSel = s.spgSel := rfl
@[simp] theorem mapStrand_spgMem (f : Strand → Strand) (s : State) : (mapStrand f s).spgMem = s.spgMem := rfl
@[simp] theorem mapStrand_spgCtl (f : Strand → Strand) (s : State) : (mapStrand f s).spgCtl = s.spgCtl := rfl
@[simp] theorem mapStrand_gate (f : Strand → Strand) (s : State) : (mapStrand f s).gate = s.gate := rfl
@[simp] theorem mapStrand_added (f : Strand → Strand) (s : State) : (mapStrand f s).added = s.added := rfl
@[simp] theorem mapStrand_starved (f : Strand → Strand) (s : State) : (mapStrand f s).starved = s.starved := rfl
@[simp] theorem mapStrand_parts (f : Strand → Strand) (s : State) : (mapStrand f s).parts = s.parts := rfl
@[simp] theorem mapStrand_stale (f : Strand → Strand) (s : State) : (mapStrand f s).stale = s.stale := rfl
@[simp] theorem mapStrand_softErr (f : Strand → Strand) (s : State) : (mapStrand f s).softErr = s.softErr := rfl
@[simp] theorem mapStrand_corrected (f : Strand → Strand) (s : State) : (mapStrand f s).corrected = s.corrected := rfl
@[simp] theorem mapStrand_stackq (f : Strand → Strand) (s : State) : (mapStrand f s).stackq = s.stackq := rfl
@[simp] theorem mapStrand_stackOut (f : Strand → Strand) (s : State) : (mapStrand f s).stackOut = s.stackOut := rfl
@[simp] theorem mapStrand_ws (f : Strand → Strand) (s : State) : (mapStrand f s).ws = s.ws := rfl
@[simp] theorem mapStrand_streams (f : Strand → Strand) (s : State) : (mapStrand f s).streams = s.streams := rfl
@[simp] theorem mapStrand_countq (f : Strand → Strand) (s : State) : (mapStrand f s).countq = s.countq := rfl
@[simp] theorem mapStrand_pk (f : Strand → Strand) (s : State) : (mapStrand f s).pk = s.pk := rfl
@[simp] theorem mapStrand_silent (f : Strand → Strand) (s : State) : (mapStrand f s).silent = s.silent := rfl
@[simp] theorem mapStrand_stepNo (f : Strand → Strand) (s : State) : (mapStrand f s).stepNo = s.stepNo := rfl
@[simp] theorem mapStrand_slice (f : Strand → Strand) (s : State) : (mapStrand f s).slice = s.slice := rfl
@[simp] theorem mapStrand_engineTurn (f : Strand → Strand) (s : State) : (mapStrand f s).engineTurn = s.engineTurn := rfl
@[simp] theorem mapStrand_eager (f : Strand → Strand) (s : State) : (mapStrand f s).eager = s.eager := rfl
@[simp] theorem mapStrand_sched (f : Strand → Strand) (s : State) : (mapStrand f s).sched = s.sched := rfl
@[simp] theorem mapStrand_powered (f : Strand → Strand) (s : State) : (mapStrand f s).powered = s.powered := rfl
@[simp] theorem putCluster_strand (k : Nat) (c : ClusterState) (s : State) : (putCluster s k c).strand = s.strand := rfl
@[simp] theorem putCluster_others (k : Nat) (c : ClusterState) (s : State) : (putCluster s k c).others = s.others := rfl
@[simp] theorem putCluster_parked (k : Nat) (c : ClusterState) (s : State) : (putCluster s k c).parked = s.parked := rfl
@[simp] theorem putCluster_cores (k : Nat) (c : ClusterState) (s : State) : (putCluster s k c).cores = s.cores := rfl
@[simp] theorem putCluster_mem (k : Nat) (c : ClusterState) (s : State) : (putCluster s k c).mem = s.mem := rfl
@[simp] theorem putCluster_poison (k : Nat) (c : ClusterState) (s : State) : (putCluster s k c).poison = s.poison := rfl
@[simp] theorem putCluster_stores (k : Nat) (c : ClusterState) (s : State) : (putCluster s k c).stores = s.stores := rfl
@[simp] theorem putCluster_cycle (k : Nat) (c : ClusterState) (s : State) : (putCluster s k c).cycle = s.cycle := rfl
@[simp] theorem putCluster_clines (k : Nat) (c : ClusterState) (s : State) : (putCluster s k c).clines = s.clines := rfl
@[simp] theorem putCluster_hlines (k : Nat) (c : ClusterState) (s : State) : (putCluster s k c).hlines = s.hlines := rfl
@[simp] theorem putCluster_regions (k : Nat) (c : ClusterState) (s : State) : (putCluster s k c).regions = s.regions := rfl
@[simp] theorem putCluster_ranges (k : Nat) (c : ClusterState) (s : State) : (putCluster s k c).ranges = s.ranges := rfl
@[simp] theorem putCluster_slots (k : Nat) (c : ClusterState) (s : State) : (putCluster s k c).slots = s.slots := rfl
@[simp] theorem putCluster_rslots (k : Nat) (c : ClusterState) (s : State) : (putCluster s k c).rslots = s.rslots := rfl
@[simp] theorem putCluster_lock (k : Nat) (c : ClusterState) (s : State) : (putCluster s k c).lock = s.lock := rfl
@[simp] theorem putCluster_lockq (k : Nat) (c : ClusterState) (s : State) : (putCluster s k c).lockq = s.lockq := rfl
@[simp] theorem putCluster_net (k : Nat) (c : ClusterState) (s : State) : (putCluster s k c).net = s.net := rfl
@[simp] theorem putCluster_hostq (k : Nat) (c : ClusterState) (s : State) : (putCluster s k c).hostq = s.hostq := rfl
@[simp] theorem putCluster_chains (k : Nat) (c : ClusterState) (s : State) : (putCluster s k c).chains = s.chains := rfl
@[simp] theorem putCluster_aflags (k : Nat) (c : ClusterState) (s : State) : (putCluster s k c).aflags = s.aflags := rfl
@[simp] theorem putCluster_walks (k : Nat) (c : ClusterState) (s : State) : (putCluster s k c).walks = s.walks := rfl
@[simp] theorem putCluster_queues (k : Nat) (c : ClusterState) (s : State) : (putCluster s k c).queues = s.queues := rfl
@[simp] theorem putCluster_errlog (k : Nat) (c : ClusterState) (s : State) : (putCluster s k c).errlog = s.errlog := rfl
@[simp] theorem putCluster_regq (k : Nat) (c : ClusterState) (s : State) : (putCluster s k c).regq = s.regq := rfl
@[simp] theorem putCluster_spid (k : Nat) (c : ClusterState) (s : State) : (putCluster s k c).spid = s.spid := rfl
@[simp] theorem putCluster_routes (k : Nat) (c : ClusterState) (s : State) : (putCluster s k c).routes = s.routes := rfl
@[simp] theorem putCluster_faultNo (k : Nat) (c : ClusterState) (s : State) : (putCluster s k c).faultNo = s.faultNo := rfl
@[simp] theorem putCluster_faultq (k : Nat) (c : ClusterState) (s : State) : (putCluster s k c).faultq = s.faultq := rfl
@[simp] theorem putCluster_ptime (k : Nat) (c : ClusterState) (s : State) : (putCluster s k c).ptime = s.ptime := rfl
@[simp] theorem putCluster_flights (k : Nat) (c : ClusterState) (s : State) : (putCluster s k c).flights = s.flights := rfl
@[simp] theorem putCluster_crews (k : Nat) (c : ClusterState) (s : State) : (putCluster s k c).crews = s.crews := rfl
@[simp] theorem putCluster_nextFlight (k : Nat) (c : ClusterState) (s : State) : (putCluster s k c).nextFlight = s.nextFlight := rfl
@[simp] theorem putCluster_mooring (k : Nat) (c : ClusterState) (s : State) : (putCluster s k c).mooring = s.mooring := rfl
@[simp] theorem putCluster_tearing (k : Nat) (c : ClusterState) (s : State) : (putCluster s k c).tearing = s.tearing := rfl
@[simp] theorem putCluster_vault (k : Nat) (c : ClusterState) (s : State) : (putCluster s k c).vault = s.vault := rfl
@[simp] theorem putCluster_msix (k : Nat) (c : ClusterState) (s : State) : (putCluster s k c).msix = s.msix := rfl
@[simp] theorem putCluster_pri (k : Nat) (c : ClusterState) (s : State) : (putCluster s k c).pri = s.pri := rfl
@[simp] theorem putCluster_shard (k : Nat) (c : ClusterState) (s : State) : (putCluster s k c).shard = s.shard := rfl
@[simp] theorem putCluster_groups (k : Nat) (c : ClusterState) (s : State) : (putCluster s k c).groups = s.groups := rfl
@[simp] theorem putCluster_spgSel (k : Nat) (c : ClusterState) (s : State) : (putCluster s k c).spgSel = s.spgSel := rfl
@[simp] theorem putCluster_spgMem (k : Nat) (c : ClusterState) (s : State) : (putCluster s k c).spgMem = s.spgMem := rfl
@[simp] theorem putCluster_spgCtl (k : Nat) (c : ClusterState) (s : State) : (putCluster s k c).spgCtl = s.spgCtl := rfl
@[simp] theorem putCluster_gate (k : Nat) (c : ClusterState) (s : State) : (putCluster s k c).gate = s.gate := rfl
@[simp] theorem putCluster_added (k : Nat) (c : ClusterState) (s : State) : (putCluster s k c).added = s.added := rfl
@[simp] theorem putCluster_starved (k : Nat) (c : ClusterState) (s : State) : (putCluster s k c).starved = s.starved := rfl
@[simp] theorem putCluster_parts (k : Nat) (c : ClusterState) (s : State) : (putCluster s k c).parts = s.parts := rfl
@[simp] theorem putCluster_stale (k : Nat) (c : ClusterState) (s : State) : (putCluster s k c).stale = s.stale := rfl
@[simp] theorem putCluster_softErr (k : Nat) (c : ClusterState) (s : State) : (putCluster s k c).softErr = s.softErr := rfl
@[simp] theorem putCluster_corrected (k : Nat) (c : ClusterState) (s : State) : (putCluster s k c).corrected = s.corrected := rfl
@[simp] theorem putCluster_stackq (k : Nat) (c : ClusterState) (s : State) : (putCluster s k c).stackq = s.stackq := rfl
@[simp] theorem putCluster_stackOut (k : Nat) (c : ClusterState) (s : State) : (putCluster s k c).stackOut = s.stackOut := rfl
@[simp] theorem putCluster_ws (k : Nat) (c : ClusterState) (s : State) : (putCluster s k c).ws = s.ws := rfl
@[simp] theorem putCluster_streams (k : Nat) (c : ClusterState) (s : State) : (putCluster s k c).streams = s.streams := rfl
@[simp] theorem putCluster_countq (k : Nat) (c : ClusterState) (s : State) : (putCluster s k c).countq = s.countq := rfl
@[simp] theorem putCluster_pk (k : Nat) (c : ClusterState) (s : State) : (putCluster s k c).pk = s.pk := rfl
@[simp] theorem putCluster_silent (k : Nat) (c : ClusterState) (s : State) : (putCluster s k c).silent = s.silent := rfl
@[simp] theorem putCluster_stepNo (k : Nat) (c : ClusterState) (s : State) : (putCluster s k c).stepNo = s.stepNo := rfl
@[simp] theorem putCluster_slice (k : Nat) (c : ClusterState) (s : State) : (putCluster s k c).slice = s.slice := rfl
@[simp] theorem putCluster_engineTurn (k : Nat) (c : ClusterState) (s : State) : (putCluster s k c).engineTurn = s.engineTurn := rfl
@[simp] theorem putCluster_eager (k : Nat) (c : ClusterState) (s : State) : (putCluster s k c).eager = s.eager := rfl
@[simp] theorem putCluster_sched (k : Nat) (c : ClusterState) (s : State) : (putCluster s k c).sched = s.sched := rfl
@[simp] theorem putCluster_powered (k : Nat) (c : ClusterState) (s : State) : (putCluster s k c).powered = s.powered := rfl
@[simp] theorem mapCluster_strand (k : Nat) (f : ClusterState → ClusterState) (s : State) : (mapCluster k f s).strand = s.strand := rfl
@[simp] theorem mapCluster_others (k : Nat) (f : ClusterState → ClusterState) (s : State) : (mapCluster k f s).others = s.others := rfl
@[simp] theorem mapCluster_parked (k : Nat) (f : ClusterState → ClusterState) (s : State) : (mapCluster k f s).parked = s.parked := rfl
@[simp] theorem mapCluster_cores (k : Nat) (f : ClusterState → ClusterState) (s : State) : (mapCluster k f s).cores = s.cores := rfl
@[simp] theorem mapCluster_mem (k : Nat) (f : ClusterState → ClusterState) (s : State) : (mapCluster k f s).mem = s.mem := rfl
@[simp] theorem mapCluster_poison (k : Nat) (f : ClusterState → ClusterState) (s : State) : (mapCluster k f s).poison = s.poison := rfl
@[simp] theorem mapCluster_stores (k : Nat) (f : ClusterState → ClusterState) (s : State) : (mapCluster k f s).stores = s.stores := rfl
@[simp] theorem mapCluster_cycle (k : Nat) (f : ClusterState → ClusterState) (s : State) : (mapCluster k f s).cycle = s.cycle := rfl
@[simp] theorem mapCluster_clines (k : Nat) (f : ClusterState → ClusterState) (s : State) : (mapCluster k f s).clines = s.clines := rfl
@[simp] theorem mapCluster_hlines (k : Nat) (f : ClusterState → ClusterState) (s : State) : (mapCluster k f s).hlines = s.hlines := rfl
@[simp] theorem mapCluster_regions (k : Nat) (f : ClusterState → ClusterState) (s : State) : (mapCluster k f s).regions = s.regions := rfl
@[simp] theorem mapCluster_ranges (k : Nat) (f : ClusterState → ClusterState) (s : State) : (mapCluster k f s).ranges = s.ranges := rfl
@[simp] theorem mapCluster_slots (k : Nat) (f : ClusterState → ClusterState) (s : State) : (mapCluster k f s).slots = s.slots := rfl
@[simp] theorem mapCluster_rslots (k : Nat) (f : ClusterState → ClusterState) (s : State) : (mapCluster k f s).rslots = s.rslots := rfl
@[simp] theorem mapCluster_lock (k : Nat) (f : ClusterState → ClusterState) (s : State) : (mapCluster k f s).lock = s.lock := rfl
@[simp] theorem mapCluster_lockq (k : Nat) (f : ClusterState → ClusterState) (s : State) : (mapCluster k f s).lockq = s.lockq := rfl
@[simp] theorem mapCluster_net (k : Nat) (f : ClusterState → ClusterState) (s : State) : (mapCluster k f s).net = s.net := rfl
@[simp] theorem mapCluster_hostq (k : Nat) (f : ClusterState → ClusterState) (s : State) : (mapCluster k f s).hostq = s.hostq := rfl
@[simp] theorem mapCluster_chains (k : Nat) (f : ClusterState → ClusterState) (s : State) : (mapCluster k f s).chains = s.chains := rfl
@[simp] theorem mapCluster_aflags (k : Nat) (f : ClusterState → ClusterState) (s : State) : (mapCluster k f s).aflags = s.aflags := rfl
@[simp] theorem mapCluster_walks (k : Nat) (f : ClusterState → ClusterState) (s : State) : (mapCluster k f s).walks = s.walks := rfl
@[simp] theorem mapCluster_queues (k : Nat) (f : ClusterState → ClusterState) (s : State) : (mapCluster k f s).queues = s.queues := rfl
@[simp] theorem mapCluster_errlog (k : Nat) (f : ClusterState → ClusterState) (s : State) : (mapCluster k f s).errlog = s.errlog := rfl
@[simp] theorem mapCluster_regq (k : Nat) (f : ClusterState → ClusterState) (s : State) : (mapCluster k f s).regq = s.regq := rfl
@[simp] theorem mapCluster_spid (k : Nat) (f : ClusterState → ClusterState) (s : State) : (mapCluster k f s).spid = s.spid := rfl
@[simp] theorem mapCluster_routes (k : Nat) (f : ClusterState → ClusterState) (s : State) : (mapCluster k f s).routes = s.routes := rfl
@[simp] theorem mapCluster_faultNo (k : Nat) (f : ClusterState → ClusterState) (s : State) : (mapCluster k f s).faultNo = s.faultNo := rfl
@[simp] theorem mapCluster_faultq (k : Nat) (f : ClusterState → ClusterState) (s : State) : (mapCluster k f s).faultq = s.faultq := rfl
@[simp] theorem mapCluster_ptime (k : Nat) (f : ClusterState → ClusterState) (s : State) : (mapCluster k f s).ptime = s.ptime := rfl
@[simp] theorem mapCluster_flights (k : Nat) (f : ClusterState → ClusterState) (s : State) : (mapCluster k f s).flights = s.flights := rfl
@[simp] theorem mapCluster_crews (k : Nat) (f : ClusterState → ClusterState) (s : State) : (mapCluster k f s).crews = s.crews := rfl
@[simp] theorem mapCluster_nextFlight (k : Nat) (f : ClusterState → ClusterState) (s : State) : (mapCluster k f s).nextFlight = s.nextFlight := rfl
@[simp] theorem mapCluster_mooring (k : Nat) (f : ClusterState → ClusterState) (s : State) : (mapCluster k f s).mooring = s.mooring := rfl
@[simp] theorem mapCluster_tearing (k : Nat) (f : ClusterState → ClusterState) (s : State) : (mapCluster k f s).tearing = s.tearing := rfl
@[simp] theorem mapCluster_vault (k : Nat) (f : ClusterState → ClusterState) (s : State) : (mapCluster k f s).vault = s.vault := rfl
@[simp] theorem mapCluster_msix (k : Nat) (f : ClusterState → ClusterState) (s : State) : (mapCluster k f s).msix = s.msix := rfl
@[simp] theorem mapCluster_pri (k : Nat) (f : ClusterState → ClusterState) (s : State) : (mapCluster k f s).pri = s.pri := rfl
@[simp] theorem mapCluster_shard (k : Nat) (f : ClusterState → ClusterState) (s : State) : (mapCluster k f s).shard = s.shard := rfl
@[simp] theorem mapCluster_groups (k : Nat) (f : ClusterState → ClusterState) (s : State) : (mapCluster k f s).groups = s.groups := rfl
@[simp] theorem mapCluster_spgSel (k : Nat) (f : ClusterState → ClusterState) (s : State) : (mapCluster k f s).spgSel = s.spgSel := rfl
@[simp] theorem mapCluster_spgMem (k : Nat) (f : ClusterState → ClusterState) (s : State) : (mapCluster k f s).spgMem = s.spgMem := rfl
@[simp] theorem mapCluster_spgCtl (k : Nat) (f : ClusterState → ClusterState) (s : State) : (mapCluster k f s).spgCtl = s.spgCtl := rfl
@[simp] theorem mapCluster_gate (k : Nat) (f : ClusterState → ClusterState) (s : State) : (mapCluster k f s).gate = s.gate := rfl
@[simp] theorem mapCluster_added (k : Nat) (f : ClusterState → ClusterState) (s : State) : (mapCluster k f s).added = s.added := rfl
@[simp] theorem mapCluster_starved (k : Nat) (f : ClusterState → ClusterState) (s : State) : (mapCluster k f s).starved = s.starved := rfl
@[simp] theorem mapCluster_parts (k : Nat) (f : ClusterState → ClusterState) (s : State) : (mapCluster k f s).parts = s.parts := rfl
@[simp] theorem mapCluster_stale (k : Nat) (f : ClusterState → ClusterState) (s : State) : (mapCluster k f s).stale = s.stale := rfl
@[simp] theorem mapCluster_softErr (k : Nat) (f : ClusterState → ClusterState) (s : State) : (mapCluster k f s).softErr = s.softErr := rfl
@[simp] theorem mapCluster_corrected (k : Nat) (f : ClusterState → ClusterState) (s : State) : (mapCluster k f s).corrected = s.corrected := rfl
@[simp] theorem mapCluster_stackq (k : Nat) (f : ClusterState → ClusterState) (s : State) : (mapCluster k f s).stackq = s.stackq := rfl
@[simp] theorem mapCluster_stackOut (k : Nat) (f : ClusterState → ClusterState) (s : State) : (mapCluster k f s).stackOut = s.stackOut := rfl
@[simp] theorem mapCluster_ws (k : Nat) (f : ClusterState → ClusterState) (s : State) : (mapCluster k f s).ws = s.ws := rfl
@[simp] theorem mapCluster_streams (k : Nat) (f : ClusterState → ClusterState) (s : State) : (mapCluster k f s).streams = s.streams := rfl
@[simp] theorem mapCluster_countq (k : Nat) (f : ClusterState → ClusterState) (s : State) : (mapCluster k f s).countq = s.countq := rfl
@[simp] theorem mapCluster_pk (k : Nat) (f : ClusterState → ClusterState) (s : State) : (mapCluster k f s).pk = s.pk := rfl
@[simp] theorem mapCluster_silent (k : Nat) (f : ClusterState → ClusterState) (s : State) : (mapCluster k f s).silent = s.silent := rfl
@[simp] theorem mapCluster_stepNo (k : Nat) (f : ClusterState → ClusterState) (s : State) : (mapCluster k f s).stepNo = s.stepNo := rfl
@[simp] theorem mapCluster_slice (k : Nat) (f : ClusterState → ClusterState) (s : State) : (mapCluster k f s).slice = s.slice := rfl
@[simp] theorem mapCluster_engineTurn (k : Nat) (f : ClusterState → ClusterState) (s : State) : (mapCluster k f s).engineTurn = s.engineTurn := rfl
@[simp] theorem mapCluster_eager (k : Nat) (f : ClusterState → ClusterState) (s : State) : (mapCluster k f s).eager = s.eager := rfl
@[simp] theorem mapCluster_sched (k : Nat) (f : ClusterState → ClusterState) (s : State) : (mapCluster k f s).sched = s.sched := rfl
@[simp] theorem mapCluster_powered (k : Nat) (f : ClusterState → ClusterState) (s : State) : (mapCluster k f s).powered = s.powered := rfl
@[simp] theorem putCore_strand (k : Nat) (c : CoreState) (s : State) : (putCore s k c).strand = s.strand := rfl
@[simp] theorem putCore_others (k : Nat) (c : CoreState) (s : State) : (putCore s k c).others = s.others := rfl
@[simp] theorem putCore_parked (k : Nat) (c : CoreState) (s : State) : (putCore s k c).parked = s.parked := rfl
@[simp] theorem putCore_clusters (k : Nat) (c : CoreState) (s : State) : (putCore s k c).clusters = s.clusters := rfl
@[simp] theorem putCore_mem (k : Nat) (c : CoreState) (s : State) : (putCore s k c).mem = s.mem := rfl
@[simp] theorem putCore_poison (k : Nat) (c : CoreState) (s : State) : (putCore s k c).poison = s.poison := rfl
@[simp] theorem putCore_stores (k : Nat) (c : CoreState) (s : State) : (putCore s k c).stores = s.stores := rfl
@[simp] theorem putCore_cycle (k : Nat) (c : CoreState) (s : State) : (putCore s k c).cycle = s.cycle := rfl
@[simp] theorem putCore_clines (k : Nat) (c : CoreState) (s : State) : (putCore s k c).clines = s.clines := rfl
@[simp] theorem putCore_hlines (k : Nat) (c : CoreState) (s : State) : (putCore s k c).hlines = s.hlines := rfl
@[simp] theorem putCore_regions (k : Nat) (c : CoreState) (s : State) : (putCore s k c).regions = s.regions := rfl
@[simp] theorem putCore_ranges (k : Nat) (c : CoreState) (s : State) : (putCore s k c).ranges = s.ranges := rfl
@[simp] theorem putCore_slots (k : Nat) (c : CoreState) (s : State) : (putCore s k c).slots = s.slots := rfl
@[simp] theorem putCore_rslots (k : Nat) (c : CoreState) (s : State) : (putCore s k c).rslots = s.rslots := rfl
@[simp] theorem putCore_lock (k : Nat) (c : CoreState) (s : State) : (putCore s k c).lock = s.lock := rfl
@[simp] theorem putCore_lockq (k : Nat) (c : CoreState) (s : State) : (putCore s k c).lockq = s.lockq := rfl
@[simp] theorem putCore_net (k : Nat) (c : CoreState) (s : State) : (putCore s k c).net = s.net := rfl
@[simp] theorem putCore_hostq (k : Nat) (c : CoreState) (s : State) : (putCore s k c).hostq = s.hostq := rfl
@[simp] theorem putCore_chains (k : Nat) (c : CoreState) (s : State) : (putCore s k c).chains = s.chains := rfl
@[simp] theorem putCore_aflags (k : Nat) (c : CoreState) (s : State) : (putCore s k c).aflags = s.aflags := rfl
@[simp] theorem putCore_walks (k : Nat) (c : CoreState) (s : State) : (putCore s k c).walks = s.walks := rfl
@[simp] theorem putCore_queues (k : Nat) (c : CoreState) (s : State) : (putCore s k c).queues = s.queues := rfl
@[simp] theorem putCore_errlog (k : Nat) (c : CoreState) (s : State) : (putCore s k c).errlog = s.errlog := rfl
@[simp] theorem putCore_regq (k : Nat) (c : CoreState) (s : State) : (putCore s k c).regq = s.regq := rfl
@[simp] theorem putCore_spid (k : Nat) (c : CoreState) (s : State) : (putCore s k c).spid = s.spid := rfl
@[simp] theorem putCore_routes (k : Nat) (c : CoreState) (s : State) : (putCore s k c).routes = s.routes := rfl
@[simp] theorem putCore_faultNo (k : Nat) (c : CoreState) (s : State) : (putCore s k c).faultNo = s.faultNo := rfl
@[simp] theorem putCore_faultq (k : Nat) (c : CoreState) (s : State) : (putCore s k c).faultq = s.faultq := rfl
@[simp] theorem putCore_ptime (k : Nat) (c : CoreState) (s : State) : (putCore s k c).ptime = s.ptime := rfl
@[simp] theorem putCore_flights (k : Nat) (c : CoreState) (s : State) : (putCore s k c).flights = s.flights := rfl
@[simp] theorem putCore_crews (k : Nat) (c : CoreState) (s : State) : (putCore s k c).crews = s.crews := rfl
@[simp] theorem putCore_nextFlight (k : Nat) (c : CoreState) (s : State) : (putCore s k c).nextFlight = s.nextFlight := rfl
@[simp] theorem putCore_mooring (k : Nat) (c : CoreState) (s : State) : (putCore s k c).mooring = s.mooring := rfl
@[simp] theorem putCore_tearing (k : Nat) (c : CoreState) (s : State) : (putCore s k c).tearing = s.tearing := rfl
@[simp] theorem putCore_vault (k : Nat) (c : CoreState) (s : State) : (putCore s k c).vault = s.vault := rfl
@[simp] theorem putCore_msix (k : Nat) (c : CoreState) (s : State) : (putCore s k c).msix = s.msix := rfl
@[simp] theorem putCore_pri (k : Nat) (c : CoreState) (s : State) : (putCore s k c).pri = s.pri := rfl
@[simp] theorem putCore_shard (k : Nat) (c : CoreState) (s : State) : (putCore s k c).shard = s.shard := rfl
@[simp] theorem putCore_groups (k : Nat) (c : CoreState) (s : State) : (putCore s k c).groups = s.groups := rfl
@[simp] theorem putCore_spgSel (k : Nat) (c : CoreState) (s : State) : (putCore s k c).spgSel = s.spgSel := rfl
@[simp] theorem putCore_spgMem (k : Nat) (c : CoreState) (s : State) : (putCore s k c).spgMem = s.spgMem := rfl
@[simp] theorem putCore_spgCtl (k : Nat) (c : CoreState) (s : State) : (putCore s k c).spgCtl = s.spgCtl := rfl
@[simp] theorem putCore_gate (k : Nat) (c : CoreState) (s : State) : (putCore s k c).gate = s.gate := rfl
@[simp] theorem putCore_added (k : Nat) (c : CoreState) (s : State) : (putCore s k c).added = s.added := rfl
@[simp] theorem putCore_starved (k : Nat) (c : CoreState) (s : State) : (putCore s k c).starved = s.starved := rfl
@[simp] theorem putCore_parts (k : Nat) (c : CoreState) (s : State) : (putCore s k c).parts = s.parts := rfl
@[simp] theorem putCore_stale (k : Nat) (c : CoreState) (s : State) : (putCore s k c).stale = s.stale := rfl
@[simp] theorem putCore_softErr (k : Nat) (c : CoreState) (s : State) : (putCore s k c).softErr = s.softErr := rfl
@[simp] theorem putCore_corrected (k : Nat) (c : CoreState) (s : State) : (putCore s k c).corrected = s.corrected := rfl
@[simp] theorem putCore_stackq (k : Nat) (c : CoreState) (s : State) : (putCore s k c).stackq = s.stackq := rfl
@[simp] theorem putCore_stackOut (k : Nat) (c : CoreState) (s : State) : (putCore s k c).stackOut = s.stackOut := rfl
@[simp] theorem putCore_ws (k : Nat) (c : CoreState) (s : State) : (putCore s k c).ws = s.ws := rfl
@[simp] theorem putCore_streams (k : Nat) (c : CoreState) (s : State) : (putCore s k c).streams = s.streams := rfl
@[simp] theorem putCore_countq (k : Nat) (c : CoreState) (s : State) : (putCore s k c).countq = s.countq := rfl
@[simp] theorem putCore_pk (k : Nat) (c : CoreState) (s : State) : (putCore s k c).pk = s.pk := rfl
@[simp] theorem putCore_silent (k : Nat) (c : CoreState) (s : State) : (putCore s k c).silent = s.silent := rfl
@[simp] theorem putCore_stepNo (k : Nat) (c : CoreState) (s : State) : (putCore s k c).stepNo = s.stepNo := rfl
@[simp] theorem putCore_slice (k : Nat) (c : CoreState) (s : State) : (putCore s k c).slice = s.slice := rfl
@[simp] theorem putCore_engineTurn (k : Nat) (c : CoreState) (s : State) : (putCore s k c).engineTurn = s.engineTurn := rfl
@[simp] theorem putCore_eager (k : Nat) (c : CoreState) (s : State) : (putCore s k c).eager = s.eager := rfl
@[simp] theorem putCore_sched (k : Nat) (c : CoreState) (s : State) : (putCore s k c).sched = s.sched := rfl
@[simp] theorem putCore_powered (k : Nat) (c : CoreState) (s : State) : (putCore s k c).powered = s.powered := rfl

-- ## Updates of a strand

@[simp] theorem goTo_bound (a : Word) (t : Strand) : (goTo a t).bound = t.bound := rfl
@[simp] theorem goTo_stopped (a : Word) (t : Strand) : (goTo a t).stopped = t.stopped := rfl
@[simp] theorem goTo_id (a : Word) (t : Strand) : (goTo a t).id = t.id := rfl
@[simp] theorem goTo_xyz (a : Word) (t : Strand) : (goTo a t).xyz = t.xyz := rfl
@[simp] theorem goTo_idx (a : Word) (t : Strand) : (goTo a t).idx = t.idx := rfl
@[simp] theorem goTo_stage (a : Word) (t : Strand) : (goTo a t).stage = t.stage := rfl
@[simp] theorem goTo_queue (a : Word) (t : Strand) : (goTo a t).queue = t.queue := rfl
@[simp] theorem goTo_flight (a : Word) (t : Strand) : (goTo a t).flight = t.flight := rfl
@[simp] theorem goTo_crew (a : Word) (t : Strand) : (goTo a t).crew = t.crew := rfl
@[simp] theorem goTo_prio (a : Word) (t : Strand) : (goTo a t).prio = t.prio := rfl
@[simp] theorem goTo_csa (a : Word) (t : Strand) : (goTo a t).csa = t.csa := rfl
@[simp] theorem goTo_quant (a : Word) (t : Strand) : (goTo a t).quant = t.quant := rfl
@[simp] theorem goTo_wb (a : Word) (t : Strand) : (goTo a t).wb = t.wb := rfl
@[simp] theorem goTo_wn (a : Word) (t : Strand) : (goTo a t).wn = t.wn := rfl
@[simp] theorem goTo_pc (a : Word) (t : Strand) : (goTo a t).pc = a := rfl
@[simp] theorem goTo_pass (a : Word) (t : Strand) : (goTo a t).pass = t.pass := rfl
@[simp] theorem goTo_sregs (a : Word) (t : Strand) : (goTo a t).sregs = t.sregs := rfl
@[simp] theorem goTo_pregs (a : Word) (t : Strand) : (goTo a t).pregs = t.pregs := rfl
@[simp] theorem goTo_vregs (a : Word) (t : Strand) : (goTo a t).vregs = t.vregs := rfl
@[simp] theorem goTo_masks (a : Word) (t : Strand) : (goTo a t).masks = t.masks := rfl
@[simp] theorem goTo_accs (a : Word) (t : Strand) : (goTo a t).accs = t.accs := rfl
@[simp] theorem goTo_vq (a : Word) (t : Strand) : (goTo a t).vq = t.vq := rfl
@[simp] theorem goTo_saved (a : Word) (t : Strand) : (goTo a t).saved = t.saved := rfl
@[simp] theorem goTo_fflags (a : Word) (t : Strand) : (goTo a t).fflags = t.fflags := rfl
@[simp] theorem goTo_frm (a : Word) (t : Strand) : (goTo a t).frm = t.frm := rfl
@[simp] theorem goTo_status (a : Word) (t : Strand) : (goTo a t).status = t.status := rfl
@[simp] theorem goTo_xpc (a : Word) (t : Strand) : (goTo a t).xpc = t.xpc := rfl
@[simp] theorem goTo_xvcp (a : Word) (t : Strand) : (goTo a t).xvcp = t.xvcp := rfl
@[simp] theorem goTo_xcause (a : Word) (t : Strand) : (goTo a t).xcause = t.xcause := rfl
@[simp] theorem goTo_xval (a : Word) (t : Strand) : (goTo a t).xval = t.xval := rfl
@[simp] theorem goTo_xscratch (a : Word) (t : Strand) : (goTo a t).xscratch = t.xscratch := rfl
@[simp] theorem goTo_xvec (a : Word) (t : Strand) : (goTo a t).xvec = t.xvec := rfl
@[simp] theorem goTo_timefr (a : Word) (t : Strand) : (goTo a t).timefr = t.timefr := rfl
@[simp] theorem goTo_vl (a : Word) (t : Strand) : (goTo a t).vl = t.vl := rfl
@[simp] theorem goTo_vlmax (a : Word) (t : Strand) : (goTo a t).vlmax = t.vlmax := rfl
@[simp] theorem goTo_nreg (a : Word) (t : Strand) : (goTo a t).nreg = t.nreg := rfl
@[simp] theorem goTo_ew (a : Word) (t : Strand) : (goTo a t).ew = t.ew := rfl
@[simp] theorem goTo_ext (a : Word) (t : Strand) : (goTo a t).ext = t.ext := rfl
@[simp] theorem goTo_base (a : Word) (t : Strand) : (goTo a t).base = t.base := rfl
@[simp] theorem goTo_vstart (a : Word) (t : Strand) : (goTo a t).vstart = t.vstart := rfl
@[simp] theorem goTo_tether (a : Word) (t : Strand) : (goTo a t).tether = t.tether := rfl
@[simp] theorem goTo_scalarWait (a : Word) (t : Strand) : (goTo a t).scalarWait = none := rfl
@[simp] theorem goTo_vqWait (a : Word) (t : Strand) : (goTo a t).vqWait = t.vqWait := rfl
@[simp] theorem goTo_pendTrap (a : Word) (t : Strand) : (goTo a t).pendTrap = t.pendTrap := rfl
@[simp] theorem goTo_vqTrap (a : Word) (t : Strand) : (goTo a t).vqTrap = t.vqTrap := rfl
@[simp] theorem goTo_returning (a : Word) (t : Strand) : (goTo a t).returning = t.returning := rfl
@[simp] theorem goTo_fault (a : Word) (t : Strand) : (goTo a t).fault = t.fault := rfl
@[simp] theorem goTo_upsets (a : Word) (t : Strand) : (goTo a t).upsets = t.upsets := rfl
@[simp] theorem goTo_lost (a : Word) (t : Strand) : (goTo a t).lost = t.lost := rfl
@[simp] theorem goTo_watch (a : Word) (t : Strand) : (goTo a t).watch = t.watch := rfl
@[simp] theorem goTo_armedAt (a : Word) (t : Strand) : (goTo a t).armedAt = t.armedAt := rfl
@[simp] theorem goTo_yielded (a : Word) (t : Strand) : (goTo a t).yielded = false := rfl
@[simp] theorem goTo_cps (a : Word) (t : Strand) : (goTo a t).cps = t.cps := rfl
@[simp] theorem goTo_ch (a : Word) (t : Strand) : (goTo a t).ch = t.ch := rfl
@[simp] theorem goTo_cperr (a : Word) (t : Strand) : (goTo a t).cperr = t.cperr := rfl
@[simp] theorem goTo_cperra (a : Word) (t : Strand) : (goTo a t).cperra = t.cperra := rfl
@[simp] theorem goTo_tsh (a : Word) (t : Strand) : (goTo a t).tsh = t.tsh := rfl
@[simp] theorem goTo_tsrc (a : Word) (t : Strand) : (goTo a t).tsrc = t.tsrc := rfl
@[simp] theorem goTo_lkst (a : Word) (t : Strand) : (goTo a t).lkst = t.lkst := rfl
@[simp] theorem goTo_lkNext (a : Word) (t : Strand) : (goTo a t).lkNext = t.lkNext := rfl
@[simp] theorem goTo_colsrc (a : Word) (t : Strand) : (goTo a t).colsrc = t.colsrc := rfl
@[simp] theorem goTo_coldst (a : Word) (t : Strand) : (goTo a t).coldst = t.coldst := rfl
@[simp] theorem goTo_colgrp (a : Word) (t : Strand) : (goTo a t).colgrp = t.colgrp := rfl
@[simp] theorem goTo_colctl (a : Word) (t : Strand) : (goTo a t).colctl = t.colctl := rfl
@[simp] theorem goTo_colerr (a : Word) (t : Strand) : (goTo a t).colerr = t.colerr := rfl
@[simp] theorem goTo_mcerr (a : Word) (t : Strand) : (goTo a t).mcerr = t.mcerr := rfl
@[simp] theorem goTo_refused (a : Word) (t : Strand) : (goTo a t).refused = t.refused := rfl
@[simp] theorem goTo_bindPc (a : Word) (t : Strand) : (goTo a t).bindPc = t.bindPc := rfl
@[simp] theorem goTo_resumed (a : Word) (t : Strand) : (goTo a t).resumed = t.resumed := rfl
@[simp] theorem goTo_place (a : Word) (t : Strand) : (goTo a t).place = t.place := rfl
@[simp] theorem goTo_ids (a : Word) (t : Strand) : (goTo a t).ids = t.ids := rfl
@[simp] theorem goTo_replay (a : Word) (t : Strand) : (goTo a t).replay = t.replay := rfl

theorem setS_eq (r : BitVec 5) (v : Word) (t : Strand) : setS t r v = ({ t with sregs := (setS t r v).sregs, upsets := (setS t r v).upsets } : Strand) := by unfold setS; split <;> rfl
@[simp] theorem setS_bound (r : BitVec 5) (v : Word) (t : Strand) : (setS t r v).bound = t.bound := (congrArg Strand.bound (setS_eq r v t) :)
@[simp] theorem setS_stopped (r : BitVec 5) (v : Word) (t : Strand) : (setS t r v).stopped = t.stopped := (congrArg Strand.stopped (setS_eq r v t) :)
@[simp] theorem setS_id (r : BitVec 5) (v : Word) (t : Strand) : (setS t r v).id = t.id := (congrArg Strand.id (setS_eq r v t) :)
@[simp] theorem setS_xyz (r : BitVec 5) (v : Word) (t : Strand) : (setS t r v).xyz = t.xyz := (congrArg Strand.xyz (setS_eq r v t) :)
@[simp] theorem setS_idx (r : BitVec 5) (v : Word) (t : Strand) : (setS t r v).idx = t.idx := (congrArg Strand.idx (setS_eq r v t) :)
@[simp] theorem setS_stage (r : BitVec 5) (v : Word) (t : Strand) : (setS t r v).stage = t.stage := (congrArg Strand.stage (setS_eq r v t) :)
@[simp] theorem setS_queue (r : BitVec 5) (v : Word) (t : Strand) : (setS t r v).queue = t.queue := (congrArg Strand.queue (setS_eq r v t) :)
@[simp] theorem setS_flight (r : BitVec 5) (v : Word) (t : Strand) : (setS t r v).flight = t.flight := (congrArg Strand.flight (setS_eq r v t) :)
@[simp] theorem setS_crew (r : BitVec 5) (v : Word) (t : Strand) : (setS t r v).crew = t.crew := (congrArg Strand.crew (setS_eq r v t) :)
@[simp] theorem setS_prio (r : BitVec 5) (v : Word) (t : Strand) : (setS t r v).prio = t.prio := (congrArg Strand.prio (setS_eq r v t) :)
@[simp] theorem setS_csa (r : BitVec 5) (v : Word) (t : Strand) : (setS t r v).csa = t.csa := (congrArg Strand.csa (setS_eq r v t) :)
@[simp] theorem setS_quant (r : BitVec 5) (v : Word) (t : Strand) : (setS t r v).quant = t.quant := (congrArg Strand.quant (setS_eq r v t) :)
@[simp] theorem setS_wb (r : BitVec 5) (v : Word) (t : Strand) : (setS t r v).wb = t.wb := (congrArg Strand.wb (setS_eq r v t) :)
@[simp] theorem setS_wn (r : BitVec 5) (v : Word) (t : Strand) : (setS t r v).wn = t.wn := (congrArg Strand.wn (setS_eq r v t) :)
@[simp] theorem setS_pc (r : BitVec 5) (v : Word) (t : Strand) : (setS t r v).pc = t.pc := (congrArg Strand.pc (setS_eq r v t) :)
@[simp] theorem setS_pass (r : BitVec 5) (v : Word) (t : Strand) : (setS t r v).pass = t.pass := (congrArg Strand.pass (setS_eq r v t) :)
@[simp] theorem setS_pregs (r : BitVec 5) (v : Word) (t : Strand) : (setS t r v).pregs = t.pregs := (congrArg Strand.pregs (setS_eq r v t) :)
@[simp] theorem setS_vregs (r : BitVec 5) (v : Word) (t : Strand) : (setS t r v).vregs = t.vregs := (congrArg Strand.vregs (setS_eq r v t) :)
@[simp] theorem setS_masks (r : BitVec 5) (v : Word) (t : Strand) : (setS t r v).masks = t.masks := (congrArg Strand.masks (setS_eq r v t) :)
@[simp] theorem setS_accs (r : BitVec 5) (v : Word) (t : Strand) : (setS t r v).accs = t.accs := (congrArg Strand.accs (setS_eq r v t) :)
@[simp] theorem setS_vq (r : BitVec 5) (v : Word) (t : Strand) : (setS t r v).vq = t.vq := (congrArg Strand.vq (setS_eq r v t) :)
@[simp] theorem setS_saved (r : BitVec 5) (v : Word) (t : Strand) : (setS t r v).saved = t.saved := (congrArg Strand.saved (setS_eq r v t) :)
@[simp] theorem setS_fflags (r : BitVec 5) (v : Word) (t : Strand) : (setS t r v).fflags = t.fflags := (congrArg Strand.fflags (setS_eq r v t) :)
@[simp] theorem setS_frm (r : BitVec 5) (v : Word) (t : Strand) : (setS t r v).frm = t.frm := (congrArg Strand.frm (setS_eq r v t) :)
@[simp] theorem setS_status (r : BitVec 5) (v : Word) (t : Strand) : (setS t r v).status = t.status := (congrArg Strand.status (setS_eq r v t) :)
@[simp] theorem setS_xpc (r : BitVec 5) (v : Word) (t : Strand) : (setS t r v).xpc = t.xpc := (congrArg Strand.xpc (setS_eq r v t) :)
@[simp] theorem setS_xvcp (r : BitVec 5) (v : Word) (t : Strand) : (setS t r v).xvcp = t.xvcp := (congrArg Strand.xvcp (setS_eq r v t) :)
@[simp] theorem setS_xcause (r : BitVec 5) (v : Word) (t : Strand) : (setS t r v).xcause = t.xcause := (congrArg Strand.xcause (setS_eq r v t) :)
@[simp] theorem setS_xval (r : BitVec 5) (v : Word) (t : Strand) : (setS t r v).xval = t.xval := (congrArg Strand.xval (setS_eq r v t) :)
@[simp] theorem setS_xscratch (r : BitVec 5) (v : Word) (t : Strand) : (setS t r v).xscratch = t.xscratch := (congrArg Strand.xscratch (setS_eq r v t) :)
@[simp] theorem setS_xvec (r : BitVec 5) (v : Word) (t : Strand) : (setS t r v).xvec = t.xvec := (congrArg Strand.xvec (setS_eq r v t) :)
@[simp] theorem setS_timefr (r : BitVec 5) (v : Word) (t : Strand) : (setS t r v).timefr = t.timefr := (congrArg Strand.timefr (setS_eq r v t) :)
@[simp] theorem setS_vl (r : BitVec 5) (v : Word) (t : Strand) : (setS t r v).vl = t.vl := (congrArg Strand.vl (setS_eq r v t) :)
@[simp] theorem setS_vlmax (r : BitVec 5) (v : Word) (t : Strand) : (setS t r v).vlmax = t.vlmax := (congrArg Strand.vlmax (setS_eq r v t) :)
@[simp] theorem setS_nreg (r : BitVec 5) (v : Word) (t : Strand) : (setS t r v).nreg = t.nreg := (congrArg Strand.nreg (setS_eq r v t) :)
@[simp] theorem setS_ew (r : BitVec 5) (v : Word) (t : Strand) : (setS t r v).ew = t.ew := (congrArg Strand.ew (setS_eq r v t) :)
@[simp] theorem setS_ext (r : BitVec 5) (v : Word) (t : Strand) : (setS t r v).ext = t.ext := (congrArg Strand.ext (setS_eq r v t) :)
@[simp] theorem setS_base (r : BitVec 5) (v : Word) (t : Strand) : (setS t r v).base = t.base := (congrArg Strand.base (setS_eq r v t) :)
@[simp] theorem setS_vstart (r : BitVec 5) (v : Word) (t : Strand) : (setS t r v).vstart = t.vstart := (congrArg Strand.vstart (setS_eq r v t) :)
@[simp] theorem setS_tether (r : BitVec 5) (v : Word) (t : Strand) : (setS t r v).tether = t.tether := (congrArg Strand.tether (setS_eq r v t) :)
@[simp] theorem setS_scalarWait (r : BitVec 5) (v : Word) (t : Strand) : (setS t r v).scalarWait = t.scalarWait := (congrArg Strand.scalarWait (setS_eq r v t) :)
@[simp] theorem setS_vqWait (r : BitVec 5) (v : Word) (t : Strand) : (setS t r v).vqWait = t.vqWait := (congrArg Strand.vqWait (setS_eq r v t) :)
@[simp] theorem setS_pendTrap (r : BitVec 5) (v : Word) (t : Strand) : (setS t r v).pendTrap = t.pendTrap := (congrArg Strand.pendTrap (setS_eq r v t) :)
@[simp] theorem setS_vqTrap (r : BitVec 5) (v : Word) (t : Strand) : (setS t r v).vqTrap = t.vqTrap := (congrArg Strand.vqTrap (setS_eq r v t) :)
@[simp] theorem setS_returning (r : BitVec 5) (v : Word) (t : Strand) : (setS t r v).returning = t.returning := (congrArg Strand.returning (setS_eq r v t) :)
@[simp] theorem setS_fault (r : BitVec 5) (v : Word) (t : Strand) : (setS t r v).fault = t.fault := (congrArg Strand.fault (setS_eq r v t) :)
@[simp] theorem setS_lost (r : BitVec 5) (v : Word) (t : Strand) : (setS t r v).lost = t.lost := (congrArg Strand.lost (setS_eq r v t) :)
@[simp] theorem setS_watch (r : BitVec 5) (v : Word) (t : Strand) : (setS t r v).watch = t.watch := (congrArg Strand.watch (setS_eq r v t) :)
@[simp] theorem setS_armedAt (r : BitVec 5) (v : Word) (t : Strand) : (setS t r v).armedAt = t.armedAt := (congrArg Strand.armedAt (setS_eq r v t) :)
@[simp] theorem setS_yielded (r : BitVec 5) (v : Word) (t : Strand) : (setS t r v).yielded = t.yielded := (congrArg Strand.yielded (setS_eq r v t) :)
@[simp] theorem setS_cps (r : BitVec 5) (v : Word) (t : Strand) : (setS t r v).cps = t.cps := (congrArg Strand.cps (setS_eq r v t) :)
@[simp] theorem setS_ch (r : BitVec 5) (v : Word) (t : Strand) : (setS t r v).ch = t.ch := (congrArg Strand.ch (setS_eq r v t) :)
@[simp] theorem setS_cperr (r : BitVec 5) (v : Word) (t : Strand) : (setS t r v).cperr = t.cperr := (congrArg Strand.cperr (setS_eq r v t) :)
@[simp] theorem setS_cperra (r : BitVec 5) (v : Word) (t : Strand) : (setS t r v).cperra = t.cperra := (congrArg Strand.cperra (setS_eq r v t) :)
@[simp] theorem setS_tsh (r : BitVec 5) (v : Word) (t : Strand) : (setS t r v).tsh = t.tsh := (congrArg Strand.tsh (setS_eq r v t) :)
@[simp] theorem setS_tsrc (r : BitVec 5) (v : Word) (t : Strand) : (setS t r v).tsrc = t.tsrc := (congrArg Strand.tsrc (setS_eq r v t) :)
@[simp] theorem setS_lkst (r : BitVec 5) (v : Word) (t : Strand) : (setS t r v).lkst = t.lkst := (congrArg Strand.lkst (setS_eq r v t) :)
@[simp] theorem setS_lkNext (r : BitVec 5) (v : Word) (t : Strand) : (setS t r v).lkNext = t.lkNext := (congrArg Strand.lkNext (setS_eq r v t) :)
@[simp] theorem setS_colsrc (r : BitVec 5) (v : Word) (t : Strand) : (setS t r v).colsrc = t.colsrc := (congrArg Strand.colsrc (setS_eq r v t) :)
@[simp] theorem setS_coldst (r : BitVec 5) (v : Word) (t : Strand) : (setS t r v).coldst = t.coldst := (congrArg Strand.coldst (setS_eq r v t) :)
@[simp] theorem setS_colgrp (r : BitVec 5) (v : Word) (t : Strand) : (setS t r v).colgrp = t.colgrp := (congrArg Strand.colgrp (setS_eq r v t) :)
@[simp] theorem setS_colctl (r : BitVec 5) (v : Word) (t : Strand) : (setS t r v).colctl = t.colctl := (congrArg Strand.colctl (setS_eq r v t) :)
@[simp] theorem setS_colerr (r : BitVec 5) (v : Word) (t : Strand) : (setS t r v).colerr = t.colerr := (congrArg Strand.colerr (setS_eq r v t) :)
@[simp] theorem setS_mcerr (r : BitVec 5) (v : Word) (t : Strand) : (setS t r v).mcerr = t.mcerr := (congrArg Strand.mcerr (setS_eq r v t) :)
@[simp] theorem setS_refused (r : BitVec 5) (v : Word) (t : Strand) : (setS t r v).refused = t.refused := (congrArg Strand.refused (setS_eq r v t) :)
@[simp] theorem setS_bindPc (r : BitVec 5) (v : Word) (t : Strand) : (setS t r v).bindPc = t.bindPc := (congrArg Strand.bindPc (setS_eq r v t) :)
@[simp] theorem setS_resumed (r : BitVec 5) (v : Word) (t : Strand) : (setS t r v).resumed = t.resumed := (congrArg Strand.resumed (setS_eq r v t) :)
@[simp] theorem setS_place (r : BitVec 5) (v : Word) (t : Strand) : (setS t r v).place = t.place := (congrArg Strand.place (setS_eq r v t) :)
@[simp] theorem setS_ids (r : BitVec 5) (v : Word) (t : Strand) : (setS t r v).ids = t.ids := (congrArg Strand.ids (setS_eq r v t) :)
@[simp] theorem setS_replay (r : BitVec 5) (v : Word) (t : Strand) : (setS t r v).replay = t.replay := (congrArg Strand.replay (setS_eq r v t) :)

theorem setP_eq (r : BitVec 3) (v : Bool) (t : Strand) : setP t r v = ({ t with pregs := (setP t r v).pregs, upsets := (setP t r v).upsets } : Strand) := by unfold setP; split <;> rfl
@[simp] theorem setP_bound (r : BitVec 3) (v : Bool) (t : Strand) : (setP t r v).bound = t.bound := (congrArg Strand.bound (setP_eq r v t) :)
@[simp] theorem setP_stopped (r : BitVec 3) (v : Bool) (t : Strand) : (setP t r v).stopped = t.stopped := (congrArg Strand.stopped (setP_eq r v t) :)
@[simp] theorem setP_id (r : BitVec 3) (v : Bool) (t : Strand) : (setP t r v).id = t.id := (congrArg Strand.id (setP_eq r v t) :)
@[simp] theorem setP_xyz (r : BitVec 3) (v : Bool) (t : Strand) : (setP t r v).xyz = t.xyz := (congrArg Strand.xyz (setP_eq r v t) :)
@[simp] theorem setP_idx (r : BitVec 3) (v : Bool) (t : Strand) : (setP t r v).idx = t.idx := (congrArg Strand.idx (setP_eq r v t) :)
@[simp] theorem setP_stage (r : BitVec 3) (v : Bool) (t : Strand) : (setP t r v).stage = t.stage := (congrArg Strand.stage (setP_eq r v t) :)
@[simp] theorem setP_queue (r : BitVec 3) (v : Bool) (t : Strand) : (setP t r v).queue = t.queue := (congrArg Strand.queue (setP_eq r v t) :)
@[simp] theorem setP_flight (r : BitVec 3) (v : Bool) (t : Strand) : (setP t r v).flight = t.flight := (congrArg Strand.flight (setP_eq r v t) :)
@[simp] theorem setP_crew (r : BitVec 3) (v : Bool) (t : Strand) : (setP t r v).crew = t.crew := (congrArg Strand.crew (setP_eq r v t) :)
@[simp] theorem setP_prio (r : BitVec 3) (v : Bool) (t : Strand) : (setP t r v).prio = t.prio := (congrArg Strand.prio (setP_eq r v t) :)
@[simp] theorem setP_csa (r : BitVec 3) (v : Bool) (t : Strand) : (setP t r v).csa = t.csa := (congrArg Strand.csa (setP_eq r v t) :)
@[simp] theorem setP_quant (r : BitVec 3) (v : Bool) (t : Strand) : (setP t r v).quant = t.quant := (congrArg Strand.quant (setP_eq r v t) :)
@[simp] theorem setP_wb (r : BitVec 3) (v : Bool) (t : Strand) : (setP t r v).wb = t.wb := (congrArg Strand.wb (setP_eq r v t) :)
@[simp] theorem setP_wn (r : BitVec 3) (v : Bool) (t : Strand) : (setP t r v).wn = t.wn := (congrArg Strand.wn (setP_eq r v t) :)
@[simp] theorem setP_pc (r : BitVec 3) (v : Bool) (t : Strand) : (setP t r v).pc = t.pc := (congrArg Strand.pc (setP_eq r v t) :)
@[simp] theorem setP_pass (r : BitVec 3) (v : Bool) (t : Strand) : (setP t r v).pass = t.pass := (congrArg Strand.pass (setP_eq r v t) :)
@[simp] theorem setP_sregs (r : BitVec 3) (v : Bool) (t : Strand) : (setP t r v).sregs = t.sregs := (congrArg Strand.sregs (setP_eq r v t) :)
@[simp] theorem setP_vregs (r : BitVec 3) (v : Bool) (t : Strand) : (setP t r v).vregs = t.vregs := (congrArg Strand.vregs (setP_eq r v t) :)
@[simp] theorem setP_masks (r : BitVec 3) (v : Bool) (t : Strand) : (setP t r v).masks = t.masks := (congrArg Strand.masks (setP_eq r v t) :)
@[simp] theorem setP_accs (r : BitVec 3) (v : Bool) (t : Strand) : (setP t r v).accs = t.accs := (congrArg Strand.accs (setP_eq r v t) :)
@[simp] theorem setP_vq (r : BitVec 3) (v : Bool) (t : Strand) : (setP t r v).vq = t.vq := (congrArg Strand.vq (setP_eq r v t) :)
@[simp] theorem setP_saved (r : BitVec 3) (v : Bool) (t : Strand) : (setP t r v).saved = t.saved := (congrArg Strand.saved (setP_eq r v t) :)
@[simp] theorem setP_fflags (r : BitVec 3) (v : Bool) (t : Strand) : (setP t r v).fflags = t.fflags := (congrArg Strand.fflags (setP_eq r v t) :)
@[simp] theorem setP_frm (r : BitVec 3) (v : Bool) (t : Strand) : (setP t r v).frm = t.frm := (congrArg Strand.frm (setP_eq r v t) :)
@[simp] theorem setP_status (r : BitVec 3) (v : Bool) (t : Strand) : (setP t r v).status = t.status := (congrArg Strand.status (setP_eq r v t) :)
@[simp] theorem setP_xpc (r : BitVec 3) (v : Bool) (t : Strand) : (setP t r v).xpc = t.xpc := (congrArg Strand.xpc (setP_eq r v t) :)
@[simp] theorem setP_xvcp (r : BitVec 3) (v : Bool) (t : Strand) : (setP t r v).xvcp = t.xvcp := (congrArg Strand.xvcp (setP_eq r v t) :)
@[simp] theorem setP_xcause (r : BitVec 3) (v : Bool) (t : Strand) : (setP t r v).xcause = t.xcause := (congrArg Strand.xcause (setP_eq r v t) :)
@[simp] theorem setP_xval (r : BitVec 3) (v : Bool) (t : Strand) : (setP t r v).xval = t.xval := (congrArg Strand.xval (setP_eq r v t) :)
@[simp] theorem setP_xscratch (r : BitVec 3) (v : Bool) (t : Strand) : (setP t r v).xscratch = t.xscratch := (congrArg Strand.xscratch (setP_eq r v t) :)
@[simp] theorem setP_xvec (r : BitVec 3) (v : Bool) (t : Strand) : (setP t r v).xvec = t.xvec := (congrArg Strand.xvec (setP_eq r v t) :)
@[simp] theorem setP_timefr (r : BitVec 3) (v : Bool) (t : Strand) : (setP t r v).timefr = t.timefr := (congrArg Strand.timefr (setP_eq r v t) :)
@[simp] theorem setP_vl (r : BitVec 3) (v : Bool) (t : Strand) : (setP t r v).vl = t.vl := (congrArg Strand.vl (setP_eq r v t) :)
@[simp] theorem setP_vlmax (r : BitVec 3) (v : Bool) (t : Strand) : (setP t r v).vlmax = t.vlmax := (congrArg Strand.vlmax (setP_eq r v t) :)
@[simp] theorem setP_nreg (r : BitVec 3) (v : Bool) (t : Strand) : (setP t r v).nreg = t.nreg := (congrArg Strand.nreg (setP_eq r v t) :)
@[simp] theorem setP_ew (r : BitVec 3) (v : Bool) (t : Strand) : (setP t r v).ew = t.ew := (congrArg Strand.ew (setP_eq r v t) :)
@[simp] theorem setP_ext (r : BitVec 3) (v : Bool) (t : Strand) : (setP t r v).ext = t.ext := (congrArg Strand.ext (setP_eq r v t) :)
@[simp] theorem setP_base (r : BitVec 3) (v : Bool) (t : Strand) : (setP t r v).base = t.base := (congrArg Strand.base (setP_eq r v t) :)
@[simp] theorem setP_vstart (r : BitVec 3) (v : Bool) (t : Strand) : (setP t r v).vstart = t.vstart := (congrArg Strand.vstart (setP_eq r v t) :)
@[simp] theorem setP_tether (r : BitVec 3) (v : Bool) (t : Strand) : (setP t r v).tether = t.tether := (congrArg Strand.tether (setP_eq r v t) :)
@[simp] theorem setP_scalarWait (r : BitVec 3) (v : Bool) (t : Strand) : (setP t r v).scalarWait = t.scalarWait := (congrArg Strand.scalarWait (setP_eq r v t) :)
@[simp] theorem setP_vqWait (r : BitVec 3) (v : Bool) (t : Strand) : (setP t r v).vqWait = t.vqWait := (congrArg Strand.vqWait (setP_eq r v t) :)
@[simp] theorem setP_pendTrap (r : BitVec 3) (v : Bool) (t : Strand) : (setP t r v).pendTrap = t.pendTrap := (congrArg Strand.pendTrap (setP_eq r v t) :)
@[simp] theorem setP_vqTrap (r : BitVec 3) (v : Bool) (t : Strand) : (setP t r v).vqTrap = t.vqTrap := (congrArg Strand.vqTrap (setP_eq r v t) :)
@[simp] theorem setP_returning (r : BitVec 3) (v : Bool) (t : Strand) : (setP t r v).returning = t.returning := (congrArg Strand.returning (setP_eq r v t) :)
@[simp] theorem setP_fault (r : BitVec 3) (v : Bool) (t : Strand) : (setP t r v).fault = t.fault := (congrArg Strand.fault (setP_eq r v t) :)
@[simp] theorem setP_lost (r : BitVec 3) (v : Bool) (t : Strand) : (setP t r v).lost = t.lost := (congrArg Strand.lost (setP_eq r v t) :)
@[simp] theorem setP_watch (r : BitVec 3) (v : Bool) (t : Strand) : (setP t r v).watch = t.watch := (congrArg Strand.watch (setP_eq r v t) :)
@[simp] theorem setP_armedAt (r : BitVec 3) (v : Bool) (t : Strand) : (setP t r v).armedAt = t.armedAt := (congrArg Strand.armedAt (setP_eq r v t) :)
@[simp] theorem setP_yielded (r : BitVec 3) (v : Bool) (t : Strand) : (setP t r v).yielded = t.yielded := (congrArg Strand.yielded (setP_eq r v t) :)
@[simp] theorem setP_cps (r : BitVec 3) (v : Bool) (t : Strand) : (setP t r v).cps = t.cps := (congrArg Strand.cps (setP_eq r v t) :)
@[simp] theorem setP_ch (r : BitVec 3) (v : Bool) (t : Strand) : (setP t r v).ch = t.ch := (congrArg Strand.ch (setP_eq r v t) :)
@[simp] theorem setP_cperr (r : BitVec 3) (v : Bool) (t : Strand) : (setP t r v).cperr = t.cperr := (congrArg Strand.cperr (setP_eq r v t) :)
@[simp] theorem setP_cperra (r : BitVec 3) (v : Bool) (t : Strand) : (setP t r v).cperra = t.cperra := (congrArg Strand.cperra (setP_eq r v t) :)
@[simp] theorem setP_tsh (r : BitVec 3) (v : Bool) (t : Strand) : (setP t r v).tsh = t.tsh := (congrArg Strand.tsh (setP_eq r v t) :)
@[simp] theorem setP_tsrc (r : BitVec 3) (v : Bool) (t : Strand) : (setP t r v).tsrc = t.tsrc := (congrArg Strand.tsrc (setP_eq r v t) :)
@[simp] theorem setP_lkst (r : BitVec 3) (v : Bool) (t : Strand) : (setP t r v).lkst = t.lkst := (congrArg Strand.lkst (setP_eq r v t) :)
@[simp] theorem setP_lkNext (r : BitVec 3) (v : Bool) (t : Strand) : (setP t r v).lkNext = t.lkNext := (congrArg Strand.lkNext (setP_eq r v t) :)
@[simp] theorem setP_colsrc (r : BitVec 3) (v : Bool) (t : Strand) : (setP t r v).colsrc = t.colsrc := (congrArg Strand.colsrc (setP_eq r v t) :)
@[simp] theorem setP_coldst (r : BitVec 3) (v : Bool) (t : Strand) : (setP t r v).coldst = t.coldst := (congrArg Strand.coldst (setP_eq r v t) :)
@[simp] theorem setP_colgrp (r : BitVec 3) (v : Bool) (t : Strand) : (setP t r v).colgrp = t.colgrp := (congrArg Strand.colgrp (setP_eq r v t) :)
@[simp] theorem setP_colctl (r : BitVec 3) (v : Bool) (t : Strand) : (setP t r v).colctl = t.colctl := (congrArg Strand.colctl (setP_eq r v t) :)
@[simp] theorem setP_colerr (r : BitVec 3) (v : Bool) (t : Strand) : (setP t r v).colerr = t.colerr := (congrArg Strand.colerr (setP_eq r v t) :)
@[simp] theorem setP_mcerr (r : BitVec 3) (v : Bool) (t : Strand) : (setP t r v).mcerr = t.mcerr := (congrArg Strand.mcerr (setP_eq r v t) :)
@[simp] theorem setP_refused (r : BitVec 3) (v : Bool) (t : Strand) : (setP t r v).refused = t.refused := (congrArg Strand.refused (setP_eq r v t) :)
@[simp] theorem setP_bindPc (r : BitVec 3) (v : Bool) (t : Strand) : (setP t r v).bindPc = t.bindPc := (congrArg Strand.bindPc (setP_eq r v t) :)
@[simp] theorem setP_resumed (r : BitVec 3) (v : Bool) (t : Strand) : (setP t r v).resumed = t.resumed := (congrArg Strand.resumed (setP_eq r v t) :)
@[simp] theorem setP_place (r : BitVec 3) (v : Bool) (t : Strand) : (setP t r v).place = t.place := (congrArg Strand.place (setP_eq r v t) :)
@[simp] theorem setP_ids (r : BitVec 3) (v : Bool) (t : Strand) : (setP t r v).ids = t.ids := (congrArg Strand.ids (setP_eq r v t) :)
@[simp] theorem setP_replay (r : BitVec 3) (v : Bool) (t : Strand) : (setP t r v).replay = t.replay := (congrArg Strand.replay (setP_eq r v t) :)

@[simp] theorem setV_bound (r : BitVec 5) (v : BitVec 262144) (t : Strand) : (setV t r v).bound = t.bound := rfl
@[simp] theorem setV_stopped (r : BitVec 5) (v : BitVec 262144) (t : Strand) : (setV t r v).stopped = t.stopped := rfl
@[simp] theorem setV_id (r : BitVec 5) (v : BitVec 262144) (t : Strand) : (setV t r v).id = t.id := rfl
@[simp] theorem setV_xyz (r : BitVec 5) (v : BitVec 262144) (t : Strand) : (setV t r v).xyz = t.xyz := rfl
@[simp] theorem setV_idx (r : BitVec 5) (v : BitVec 262144) (t : Strand) : (setV t r v).idx = t.idx := rfl
@[simp] theorem setV_stage (r : BitVec 5) (v : BitVec 262144) (t : Strand) : (setV t r v).stage = t.stage := rfl
@[simp] theorem setV_queue (r : BitVec 5) (v : BitVec 262144) (t : Strand) : (setV t r v).queue = t.queue := rfl
@[simp] theorem setV_flight (r : BitVec 5) (v : BitVec 262144) (t : Strand) : (setV t r v).flight = t.flight := rfl
@[simp] theorem setV_crew (r : BitVec 5) (v : BitVec 262144) (t : Strand) : (setV t r v).crew = t.crew := rfl
@[simp] theorem setV_prio (r : BitVec 5) (v : BitVec 262144) (t : Strand) : (setV t r v).prio = t.prio := rfl
@[simp] theorem setV_csa (r : BitVec 5) (v : BitVec 262144) (t : Strand) : (setV t r v).csa = t.csa := rfl
@[simp] theorem setV_quant (r : BitVec 5) (v : BitVec 262144) (t : Strand) : (setV t r v).quant = t.quant := rfl
@[simp] theorem setV_wb (r : BitVec 5) (v : BitVec 262144) (t : Strand) : (setV t r v).wb = t.wb := rfl
@[simp] theorem setV_wn (r : BitVec 5) (v : BitVec 262144) (t : Strand) : (setV t r v).wn = t.wn := rfl
@[simp] theorem setV_pc (r : BitVec 5) (v : BitVec 262144) (t : Strand) : (setV t r v).pc = t.pc := rfl
@[simp] theorem setV_pass (r : BitVec 5) (v : BitVec 262144) (t : Strand) : (setV t r v).pass = t.pass := rfl
@[simp] theorem setV_sregs (r : BitVec 5) (v : BitVec 262144) (t : Strand) : (setV t r v).sregs = t.sregs := rfl
@[simp] theorem setV_pregs (r : BitVec 5) (v : BitVec 262144) (t : Strand) : (setV t r v).pregs = t.pregs := rfl
@[simp] theorem setV_masks (r : BitVec 5) (v : BitVec 262144) (t : Strand) : (setV t r v).masks = t.masks := rfl
@[simp] theorem setV_accs (r : BitVec 5) (v : BitVec 262144) (t : Strand) : (setV t r v).accs = t.accs := rfl
@[simp] theorem setV_vq (r : BitVec 5) (v : BitVec 262144) (t : Strand) : (setV t r v).vq = t.vq := rfl
@[simp] theorem setV_saved (r : BitVec 5) (v : BitVec 262144) (t : Strand) : (setV t r v).saved = t.saved := rfl
@[simp] theorem setV_fflags (r : BitVec 5) (v : BitVec 262144) (t : Strand) : (setV t r v).fflags = t.fflags := rfl
@[simp] theorem setV_frm (r : BitVec 5) (v : BitVec 262144) (t : Strand) : (setV t r v).frm = t.frm := rfl
@[simp] theorem setV_status (r : BitVec 5) (v : BitVec 262144) (t : Strand) : (setV t r v).status = t.status := rfl
@[simp] theorem setV_xpc (r : BitVec 5) (v : BitVec 262144) (t : Strand) : (setV t r v).xpc = t.xpc := rfl
@[simp] theorem setV_xvcp (r : BitVec 5) (v : BitVec 262144) (t : Strand) : (setV t r v).xvcp = t.xvcp := rfl
@[simp] theorem setV_xcause (r : BitVec 5) (v : BitVec 262144) (t : Strand) : (setV t r v).xcause = t.xcause := rfl
@[simp] theorem setV_xval (r : BitVec 5) (v : BitVec 262144) (t : Strand) : (setV t r v).xval = t.xval := rfl
@[simp] theorem setV_xscratch (r : BitVec 5) (v : BitVec 262144) (t : Strand) : (setV t r v).xscratch = t.xscratch := rfl
@[simp] theorem setV_xvec (r : BitVec 5) (v : BitVec 262144) (t : Strand) : (setV t r v).xvec = t.xvec := rfl
@[simp] theorem setV_timefr (r : BitVec 5) (v : BitVec 262144) (t : Strand) : (setV t r v).timefr = t.timefr := rfl
@[simp] theorem setV_vl (r : BitVec 5) (v : BitVec 262144) (t : Strand) : (setV t r v).vl = t.vl := rfl
@[simp] theorem setV_vlmax (r : BitVec 5) (v : BitVec 262144) (t : Strand) : (setV t r v).vlmax = t.vlmax := rfl
@[simp] theorem setV_nreg (r : BitVec 5) (v : BitVec 262144) (t : Strand) : (setV t r v).nreg = t.nreg := rfl
@[simp] theorem setV_ew (r : BitVec 5) (v : BitVec 262144) (t : Strand) : (setV t r v).ew = t.ew := rfl
@[simp] theorem setV_ext (r : BitVec 5) (v : BitVec 262144) (t : Strand) : (setV t r v).ext = t.ext := rfl
@[simp] theorem setV_base (r : BitVec 5) (v : BitVec 262144) (t : Strand) : (setV t r v).base = t.base := rfl
@[simp] theorem setV_vstart (r : BitVec 5) (v : BitVec 262144) (t : Strand) : (setV t r v).vstart = t.vstart := rfl
@[simp] theorem setV_tether (r : BitVec 5) (v : BitVec 262144) (t : Strand) : (setV t r v).tether = t.tether := rfl
@[simp] theorem setV_scalarWait (r : BitVec 5) (v : BitVec 262144) (t : Strand) : (setV t r v).scalarWait = t.scalarWait := rfl
@[simp] theorem setV_vqWait (r : BitVec 5) (v : BitVec 262144) (t : Strand) : (setV t r v).vqWait = t.vqWait := rfl
@[simp] theorem setV_pendTrap (r : BitVec 5) (v : BitVec 262144) (t : Strand) : (setV t r v).pendTrap = t.pendTrap := rfl
@[simp] theorem setV_vqTrap (r : BitVec 5) (v : BitVec 262144) (t : Strand) : (setV t r v).vqTrap = t.vqTrap := rfl
@[simp] theorem setV_returning (r : BitVec 5) (v : BitVec 262144) (t : Strand) : (setV t r v).returning = t.returning := rfl
@[simp] theorem setV_fault (r : BitVec 5) (v : BitVec 262144) (t : Strand) : (setV t r v).fault = t.fault := rfl
@[simp] theorem setV_upsets (r : BitVec 5) (v : BitVec 262144) (t : Strand) : (setV t r v).upsets = t.upsets := rfl
@[simp] theorem setV_lost (r : BitVec 5) (v : BitVec 262144) (t : Strand) : (setV t r v).lost = t.lost := rfl
@[simp] theorem setV_watch (r : BitVec 5) (v : BitVec 262144) (t : Strand) : (setV t r v).watch = t.watch := rfl
@[simp] theorem setV_armedAt (r : BitVec 5) (v : BitVec 262144) (t : Strand) : (setV t r v).armedAt = t.armedAt := rfl
@[simp] theorem setV_yielded (r : BitVec 5) (v : BitVec 262144) (t : Strand) : (setV t r v).yielded = t.yielded := rfl
@[simp] theorem setV_cps (r : BitVec 5) (v : BitVec 262144) (t : Strand) : (setV t r v).cps = t.cps := rfl
@[simp] theorem setV_ch (r : BitVec 5) (v : BitVec 262144) (t : Strand) : (setV t r v).ch = t.ch := rfl
@[simp] theorem setV_cperr (r : BitVec 5) (v : BitVec 262144) (t : Strand) : (setV t r v).cperr = t.cperr := rfl
@[simp] theorem setV_cperra (r : BitVec 5) (v : BitVec 262144) (t : Strand) : (setV t r v).cperra = t.cperra := rfl
@[simp] theorem setV_tsh (r : BitVec 5) (v : BitVec 262144) (t : Strand) : (setV t r v).tsh = t.tsh := rfl
@[simp] theorem setV_tsrc (r : BitVec 5) (v : BitVec 262144) (t : Strand) : (setV t r v).tsrc = t.tsrc := rfl
@[simp] theorem setV_lkst (r : BitVec 5) (v : BitVec 262144) (t : Strand) : (setV t r v).lkst = t.lkst := rfl
@[simp] theorem setV_lkNext (r : BitVec 5) (v : BitVec 262144) (t : Strand) : (setV t r v).lkNext = t.lkNext := rfl
@[simp] theorem setV_colsrc (r : BitVec 5) (v : BitVec 262144) (t : Strand) : (setV t r v).colsrc = t.colsrc := rfl
@[simp] theorem setV_coldst (r : BitVec 5) (v : BitVec 262144) (t : Strand) : (setV t r v).coldst = t.coldst := rfl
@[simp] theorem setV_colgrp (r : BitVec 5) (v : BitVec 262144) (t : Strand) : (setV t r v).colgrp = t.colgrp := rfl
@[simp] theorem setV_colctl (r : BitVec 5) (v : BitVec 262144) (t : Strand) : (setV t r v).colctl = t.colctl := rfl
@[simp] theorem setV_colerr (r : BitVec 5) (v : BitVec 262144) (t : Strand) : (setV t r v).colerr = t.colerr := rfl
@[simp] theorem setV_mcerr (r : BitVec 5) (v : BitVec 262144) (t : Strand) : (setV t r v).mcerr = t.mcerr := rfl
@[simp] theorem setV_refused (r : BitVec 5) (v : BitVec 262144) (t : Strand) : (setV t r v).refused = t.refused := rfl
@[simp] theorem setV_bindPc (r : BitVec 5) (v : BitVec 262144) (t : Strand) : (setV t r v).bindPc = t.bindPc := rfl
@[simp] theorem setV_resumed (r : BitVec 5) (v : BitVec 262144) (t : Strand) : (setV t r v).resumed = t.resumed := rfl
@[simp] theorem setV_place (r : BitVec 5) (v : BitVec 262144) (t : Strand) : (setV t r v).place = t.place := rfl
@[simp] theorem setV_ids (r : BitVec 5) (v : BitVec 262144) (t : Strand) : (setV t r v).ids = t.ids := rfl
@[simp] theorem setV_replay (r : BitVec 5) (v : BitVec 262144) (t : Strand) : (setV t r v).replay = t.replay := rfl

theorem setM_eq (r : BitVec 3) (v : BitVec 4096) (t : Strand) : setM t r v = ({ t with masks := (setM t r v).masks } : Strand) := by unfold setM; split <;> rfl
@[simp] theorem setM_bound (r : BitVec 3) (v : BitVec 4096) (t : Strand) : (setM t r v).bound = t.bound := (congrArg Strand.bound (setM_eq r v t) :)
@[simp] theorem setM_stopped (r : BitVec 3) (v : BitVec 4096) (t : Strand) : (setM t r v).stopped = t.stopped := (congrArg Strand.stopped (setM_eq r v t) :)
@[simp] theorem setM_id (r : BitVec 3) (v : BitVec 4096) (t : Strand) : (setM t r v).id = t.id := (congrArg Strand.id (setM_eq r v t) :)
@[simp] theorem setM_xyz (r : BitVec 3) (v : BitVec 4096) (t : Strand) : (setM t r v).xyz = t.xyz := (congrArg Strand.xyz (setM_eq r v t) :)
@[simp] theorem setM_idx (r : BitVec 3) (v : BitVec 4096) (t : Strand) : (setM t r v).idx = t.idx := (congrArg Strand.idx (setM_eq r v t) :)
@[simp] theorem setM_stage (r : BitVec 3) (v : BitVec 4096) (t : Strand) : (setM t r v).stage = t.stage := (congrArg Strand.stage (setM_eq r v t) :)
@[simp] theorem setM_queue (r : BitVec 3) (v : BitVec 4096) (t : Strand) : (setM t r v).queue = t.queue := (congrArg Strand.queue (setM_eq r v t) :)
@[simp] theorem setM_flight (r : BitVec 3) (v : BitVec 4096) (t : Strand) : (setM t r v).flight = t.flight := (congrArg Strand.flight (setM_eq r v t) :)
@[simp] theorem setM_crew (r : BitVec 3) (v : BitVec 4096) (t : Strand) : (setM t r v).crew = t.crew := (congrArg Strand.crew (setM_eq r v t) :)
@[simp] theorem setM_prio (r : BitVec 3) (v : BitVec 4096) (t : Strand) : (setM t r v).prio = t.prio := (congrArg Strand.prio (setM_eq r v t) :)
@[simp] theorem setM_csa (r : BitVec 3) (v : BitVec 4096) (t : Strand) : (setM t r v).csa = t.csa := (congrArg Strand.csa (setM_eq r v t) :)
@[simp] theorem setM_quant (r : BitVec 3) (v : BitVec 4096) (t : Strand) : (setM t r v).quant = t.quant := (congrArg Strand.quant (setM_eq r v t) :)
@[simp] theorem setM_wb (r : BitVec 3) (v : BitVec 4096) (t : Strand) : (setM t r v).wb = t.wb := (congrArg Strand.wb (setM_eq r v t) :)
@[simp] theorem setM_wn (r : BitVec 3) (v : BitVec 4096) (t : Strand) : (setM t r v).wn = t.wn := (congrArg Strand.wn (setM_eq r v t) :)
@[simp] theorem setM_pc (r : BitVec 3) (v : BitVec 4096) (t : Strand) : (setM t r v).pc = t.pc := (congrArg Strand.pc (setM_eq r v t) :)
@[simp] theorem setM_pass (r : BitVec 3) (v : BitVec 4096) (t : Strand) : (setM t r v).pass = t.pass := (congrArg Strand.pass (setM_eq r v t) :)
@[simp] theorem setM_sregs (r : BitVec 3) (v : BitVec 4096) (t : Strand) : (setM t r v).sregs = t.sregs := (congrArg Strand.sregs (setM_eq r v t) :)
@[simp] theorem setM_pregs (r : BitVec 3) (v : BitVec 4096) (t : Strand) : (setM t r v).pregs = t.pregs := (congrArg Strand.pregs (setM_eq r v t) :)
@[simp] theorem setM_vregs (r : BitVec 3) (v : BitVec 4096) (t : Strand) : (setM t r v).vregs = t.vregs := (congrArg Strand.vregs (setM_eq r v t) :)
@[simp] theorem setM_accs (r : BitVec 3) (v : BitVec 4096) (t : Strand) : (setM t r v).accs = t.accs := (congrArg Strand.accs (setM_eq r v t) :)
@[simp] theorem setM_vq (r : BitVec 3) (v : BitVec 4096) (t : Strand) : (setM t r v).vq = t.vq := (congrArg Strand.vq (setM_eq r v t) :)
@[simp] theorem setM_saved (r : BitVec 3) (v : BitVec 4096) (t : Strand) : (setM t r v).saved = t.saved := (congrArg Strand.saved (setM_eq r v t) :)
@[simp] theorem setM_fflags (r : BitVec 3) (v : BitVec 4096) (t : Strand) : (setM t r v).fflags = t.fflags := (congrArg Strand.fflags (setM_eq r v t) :)
@[simp] theorem setM_frm (r : BitVec 3) (v : BitVec 4096) (t : Strand) : (setM t r v).frm = t.frm := (congrArg Strand.frm (setM_eq r v t) :)
@[simp] theorem setM_status (r : BitVec 3) (v : BitVec 4096) (t : Strand) : (setM t r v).status = t.status := (congrArg Strand.status (setM_eq r v t) :)
@[simp] theorem setM_xpc (r : BitVec 3) (v : BitVec 4096) (t : Strand) : (setM t r v).xpc = t.xpc := (congrArg Strand.xpc (setM_eq r v t) :)
@[simp] theorem setM_xvcp (r : BitVec 3) (v : BitVec 4096) (t : Strand) : (setM t r v).xvcp = t.xvcp := (congrArg Strand.xvcp (setM_eq r v t) :)
@[simp] theorem setM_xcause (r : BitVec 3) (v : BitVec 4096) (t : Strand) : (setM t r v).xcause = t.xcause := (congrArg Strand.xcause (setM_eq r v t) :)
@[simp] theorem setM_xval (r : BitVec 3) (v : BitVec 4096) (t : Strand) : (setM t r v).xval = t.xval := (congrArg Strand.xval (setM_eq r v t) :)
@[simp] theorem setM_xscratch (r : BitVec 3) (v : BitVec 4096) (t : Strand) : (setM t r v).xscratch = t.xscratch := (congrArg Strand.xscratch (setM_eq r v t) :)
@[simp] theorem setM_xvec (r : BitVec 3) (v : BitVec 4096) (t : Strand) : (setM t r v).xvec = t.xvec := (congrArg Strand.xvec (setM_eq r v t) :)
@[simp] theorem setM_timefr (r : BitVec 3) (v : BitVec 4096) (t : Strand) : (setM t r v).timefr = t.timefr := (congrArg Strand.timefr (setM_eq r v t) :)
@[simp] theorem setM_vl (r : BitVec 3) (v : BitVec 4096) (t : Strand) : (setM t r v).vl = t.vl := (congrArg Strand.vl (setM_eq r v t) :)
@[simp] theorem setM_vlmax (r : BitVec 3) (v : BitVec 4096) (t : Strand) : (setM t r v).vlmax = t.vlmax := (congrArg Strand.vlmax (setM_eq r v t) :)
@[simp] theorem setM_nreg (r : BitVec 3) (v : BitVec 4096) (t : Strand) : (setM t r v).nreg = t.nreg := (congrArg Strand.nreg (setM_eq r v t) :)
@[simp] theorem setM_ew (r : BitVec 3) (v : BitVec 4096) (t : Strand) : (setM t r v).ew = t.ew := (congrArg Strand.ew (setM_eq r v t) :)
@[simp] theorem setM_ext (r : BitVec 3) (v : BitVec 4096) (t : Strand) : (setM t r v).ext = t.ext := (congrArg Strand.ext (setM_eq r v t) :)
@[simp] theorem setM_base (r : BitVec 3) (v : BitVec 4096) (t : Strand) : (setM t r v).base = t.base := (congrArg Strand.base (setM_eq r v t) :)
@[simp] theorem setM_vstart (r : BitVec 3) (v : BitVec 4096) (t : Strand) : (setM t r v).vstart = t.vstart := (congrArg Strand.vstart (setM_eq r v t) :)
@[simp] theorem setM_tether (r : BitVec 3) (v : BitVec 4096) (t : Strand) : (setM t r v).tether = t.tether := (congrArg Strand.tether (setM_eq r v t) :)
@[simp] theorem setM_scalarWait (r : BitVec 3) (v : BitVec 4096) (t : Strand) : (setM t r v).scalarWait = t.scalarWait := (congrArg Strand.scalarWait (setM_eq r v t) :)
@[simp] theorem setM_vqWait (r : BitVec 3) (v : BitVec 4096) (t : Strand) : (setM t r v).vqWait = t.vqWait := (congrArg Strand.vqWait (setM_eq r v t) :)
@[simp] theorem setM_pendTrap (r : BitVec 3) (v : BitVec 4096) (t : Strand) : (setM t r v).pendTrap = t.pendTrap := (congrArg Strand.pendTrap (setM_eq r v t) :)
@[simp] theorem setM_vqTrap (r : BitVec 3) (v : BitVec 4096) (t : Strand) : (setM t r v).vqTrap = t.vqTrap := (congrArg Strand.vqTrap (setM_eq r v t) :)
@[simp] theorem setM_returning (r : BitVec 3) (v : BitVec 4096) (t : Strand) : (setM t r v).returning = t.returning := (congrArg Strand.returning (setM_eq r v t) :)
@[simp] theorem setM_fault (r : BitVec 3) (v : BitVec 4096) (t : Strand) : (setM t r v).fault = t.fault := (congrArg Strand.fault (setM_eq r v t) :)
@[simp] theorem setM_upsets (r : BitVec 3) (v : BitVec 4096) (t : Strand) : (setM t r v).upsets = t.upsets := (congrArg Strand.upsets (setM_eq r v t) :)
@[simp] theorem setM_lost (r : BitVec 3) (v : BitVec 4096) (t : Strand) : (setM t r v).lost = t.lost := (congrArg Strand.lost (setM_eq r v t) :)
@[simp] theorem setM_watch (r : BitVec 3) (v : BitVec 4096) (t : Strand) : (setM t r v).watch = t.watch := (congrArg Strand.watch (setM_eq r v t) :)
@[simp] theorem setM_armedAt (r : BitVec 3) (v : BitVec 4096) (t : Strand) : (setM t r v).armedAt = t.armedAt := (congrArg Strand.armedAt (setM_eq r v t) :)
@[simp] theorem setM_yielded (r : BitVec 3) (v : BitVec 4096) (t : Strand) : (setM t r v).yielded = t.yielded := (congrArg Strand.yielded (setM_eq r v t) :)
@[simp] theorem setM_cps (r : BitVec 3) (v : BitVec 4096) (t : Strand) : (setM t r v).cps = t.cps := (congrArg Strand.cps (setM_eq r v t) :)
@[simp] theorem setM_ch (r : BitVec 3) (v : BitVec 4096) (t : Strand) : (setM t r v).ch = t.ch := (congrArg Strand.ch (setM_eq r v t) :)
@[simp] theorem setM_cperr (r : BitVec 3) (v : BitVec 4096) (t : Strand) : (setM t r v).cperr = t.cperr := (congrArg Strand.cperr (setM_eq r v t) :)
@[simp] theorem setM_cperra (r : BitVec 3) (v : BitVec 4096) (t : Strand) : (setM t r v).cperra = t.cperra := (congrArg Strand.cperra (setM_eq r v t) :)
@[simp] theorem setM_tsh (r : BitVec 3) (v : BitVec 4096) (t : Strand) : (setM t r v).tsh = t.tsh := (congrArg Strand.tsh (setM_eq r v t) :)
@[simp] theorem setM_tsrc (r : BitVec 3) (v : BitVec 4096) (t : Strand) : (setM t r v).tsrc = t.tsrc := (congrArg Strand.tsrc (setM_eq r v t) :)
@[simp] theorem setM_lkst (r : BitVec 3) (v : BitVec 4096) (t : Strand) : (setM t r v).lkst = t.lkst := (congrArg Strand.lkst (setM_eq r v t) :)
@[simp] theorem setM_lkNext (r : BitVec 3) (v : BitVec 4096) (t : Strand) : (setM t r v).lkNext = t.lkNext := (congrArg Strand.lkNext (setM_eq r v t) :)
@[simp] theorem setM_colsrc (r : BitVec 3) (v : BitVec 4096) (t : Strand) : (setM t r v).colsrc = t.colsrc := (congrArg Strand.colsrc (setM_eq r v t) :)
@[simp] theorem setM_coldst (r : BitVec 3) (v : BitVec 4096) (t : Strand) : (setM t r v).coldst = t.coldst := (congrArg Strand.coldst (setM_eq r v t) :)
@[simp] theorem setM_colgrp (r : BitVec 3) (v : BitVec 4096) (t : Strand) : (setM t r v).colgrp = t.colgrp := (congrArg Strand.colgrp (setM_eq r v t) :)
@[simp] theorem setM_colctl (r : BitVec 3) (v : BitVec 4096) (t : Strand) : (setM t r v).colctl = t.colctl := (congrArg Strand.colctl (setM_eq r v t) :)
@[simp] theorem setM_colerr (r : BitVec 3) (v : BitVec 4096) (t : Strand) : (setM t r v).colerr = t.colerr := (congrArg Strand.colerr (setM_eq r v t) :)
@[simp] theorem setM_mcerr (r : BitVec 3) (v : BitVec 4096) (t : Strand) : (setM t r v).mcerr = t.mcerr := (congrArg Strand.mcerr (setM_eq r v t) :)
@[simp] theorem setM_refused (r : BitVec 3) (v : BitVec 4096) (t : Strand) : (setM t r v).refused = t.refused := (congrArg Strand.refused (setM_eq r v t) :)
@[simp] theorem setM_bindPc (r : BitVec 3) (v : BitVec 4096) (t : Strand) : (setM t r v).bindPc = t.bindPc := (congrArg Strand.bindPc (setM_eq r v t) :)
@[simp] theorem setM_resumed (r : BitVec 3) (v : BitVec 4096) (t : Strand) : (setM t r v).resumed = t.resumed := (congrArg Strand.resumed (setM_eq r v t) :)
@[simp] theorem setM_place (r : BitVec 3) (v : BitVec 4096) (t : Strand) : (setM t r v).place = t.place := (congrArg Strand.place (setM_eq r v t) :)
@[simp] theorem setM_ids (r : BitVec 3) (v : BitVec 4096) (t : Strand) : (setM t r v).ids = t.ids := (congrArg Strand.ids (setM_eq r v t) :)
@[simp] theorem setM_replay (r : BitVec 3) (v : BitVec 4096) (t : Strand) : (setM t r v).replay = t.replay := (congrArg Strand.replay (setM_eq r v t) :)

@[simp] theorem putElem_bound (r : BitVec 5) (w e x : Nat) (t : Strand) : (putElem t r w e x).bound = t.bound := rfl
@[simp] theorem putElem_stopped (r : BitVec 5) (w e x : Nat) (t : Strand) : (putElem t r w e x).stopped = t.stopped := rfl
@[simp] theorem putElem_id (r : BitVec 5) (w e x : Nat) (t : Strand) : (putElem t r w e x).id = t.id := rfl
@[simp] theorem putElem_xyz (r : BitVec 5) (w e x : Nat) (t : Strand) : (putElem t r w e x).xyz = t.xyz := rfl
@[simp] theorem putElem_idx (r : BitVec 5) (w e x : Nat) (t : Strand) : (putElem t r w e x).idx = t.idx := rfl
@[simp] theorem putElem_stage (r : BitVec 5) (w e x : Nat) (t : Strand) : (putElem t r w e x).stage = t.stage := rfl
@[simp] theorem putElem_queue (r : BitVec 5) (w e x : Nat) (t : Strand) : (putElem t r w e x).queue = t.queue := rfl
@[simp] theorem putElem_flight (r : BitVec 5) (w e x : Nat) (t : Strand) : (putElem t r w e x).flight = t.flight := rfl
@[simp] theorem putElem_crew (r : BitVec 5) (w e x : Nat) (t : Strand) : (putElem t r w e x).crew = t.crew := rfl
@[simp] theorem putElem_prio (r : BitVec 5) (w e x : Nat) (t : Strand) : (putElem t r w e x).prio = t.prio := rfl
@[simp] theorem putElem_csa (r : BitVec 5) (w e x : Nat) (t : Strand) : (putElem t r w e x).csa = t.csa := rfl
@[simp] theorem putElem_quant (r : BitVec 5) (w e x : Nat) (t : Strand) : (putElem t r w e x).quant = t.quant := rfl
@[simp] theorem putElem_wb (r : BitVec 5) (w e x : Nat) (t : Strand) : (putElem t r w e x).wb = t.wb := rfl
@[simp] theorem putElem_wn (r : BitVec 5) (w e x : Nat) (t : Strand) : (putElem t r w e x).wn = t.wn := rfl
@[simp] theorem putElem_pc (r : BitVec 5) (w e x : Nat) (t : Strand) : (putElem t r w e x).pc = t.pc := rfl
@[simp] theorem putElem_pass (r : BitVec 5) (w e x : Nat) (t : Strand) : (putElem t r w e x).pass = t.pass := rfl
@[simp] theorem putElem_sregs (r : BitVec 5) (w e x : Nat) (t : Strand) : (putElem t r w e x).sregs = t.sregs := rfl
@[simp] theorem putElem_pregs (r : BitVec 5) (w e x : Nat) (t : Strand) : (putElem t r w e x).pregs = t.pregs := rfl
@[simp] theorem putElem_masks (r : BitVec 5) (w e x : Nat) (t : Strand) : (putElem t r w e x).masks = t.masks := rfl
@[simp] theorem putElem_accs (r : BitVec 5) (w e x : Nat) (t : Strand) : (putElem t r w e x).accs = t.accs := rfl
@[simp] theorem putElem_vq (r : BitVec 5) (w e x : Nat) (t : Strand) : (putElem t r w e x).vq = t.vq := rfl
@[simp] theorem putElem_saved (r : BitVec 5) (w e x : Nat) (t : Strand) : (putElem t r w e x).saved = t.saved := rfl
@[simp] theorem putElem_fflags (r : BitVec 5) (w e x : Nat) (t : Strand) : (putElem t r w e x).fflags = t.fflags := rfl
@[simp] theorem putElem_frm (r : BitVec 5) (w e x : Nat) (t : Strand) : (putElem t r w e x).frm = t.frm := rfl
@[simp] theorem putElem_status (r : BitVec 5) (w e x : Nat) (t : Strand) : (putElem t r w e x).status = t.status := rfl
@[simp] theorem putElem_xpc (r : BitVec 5) (w e x : Nat) (t : Strand) : (putElem t r w e x).xpc = t.xpc := rfl
@[simp] theorem putElem_xvcp (r : BitVec 5) (w e x : Nat) (t : Strand) : (putElem t r w e x).xvcp = t.xvcp := rfl
@[simp] theorem putElem_xcause (r : BitVec 5) (w e x : Nat) (t : Strand) : (putElem t r w e x).xcause = t.xcause := rfl
@[simp] theorem putElem_xval (r : BitVec 5) (w e x : Nat) (t : Strand) : (putElem t r w e x).xval = t.xval := rfl
@[simp] theorem putElem_xscratch (r : BitVec 5) (w e x : Nat) (t : Strand) : (putElem t r w e x).xscratch = t.xscratch := rfl
@[simp] theorem putElem_xvec (r : BitVec 5) (w e x : Nat) (t : Strand) : (putElem t r w e x).xvec = t.xvec := rfl
@[simp] theorem putElem_timefr (r : BitVec 5) (w e x : Nat) (t : Strand) : (putElem t r w e x).timefr = t.timefr := rfl
@[simp] theorem putElem_vl (r : BitVec 5) (w e x : Nat) (t : Strand) : (putElem t r w e x).vl = t.vl := rfl
@[simp] theorem putElem_vlmax (r : BitVec 5) (w e x : Nat) (t : Strand) : (putElem t r w e x).vlmax = t.vlmax := rfl
@[simp] theorem putElem_nreg (r : BitVec 5) (w e x : Nat) (t : Strand) : (putElem t r w e x).nreg = t.nreg := rfl
@[simp] theorem putElem_ew (r : BitVec 5) (w e x : Nat) (t : Strand) : (putElem t r w e x).ew = t.ew := rfl
@[simp] theorem putElem_ext (r : BitVec 5) (w e x : Nat) (t : Strand) : (putElem t r w e x).ext = t.ext := rfl
@[simp] theorem putElem_base (r : BitVec 5) (w e x : Nat) (t : Strand) : (putElem t r w e x).base = t.base := rfl
@[simp] theorem putElem_vstart (r : BitVec 5) (w e x : Nat) (t : Strand) : (putElem t r w e x).vstart = t.vstart := rfl
@[simp] theorem putElem_tether (r : BitVec 5) (w e x : Nat) (t : Strand) : (putElem t r w e x).tether = t.tether := rfl
@[simp] theorem putElem_scalarWait (r : BitVec 5) (w e x : Nat) (t : Strand) : (putElem t r w e x).scalarWait = t.scalarWait := rfl
@[simp] theorem putElem_vqWait (r : BitVec 5) (w e x : Nat) (t : Strand) : (putElem t r w e x).vqWait = t.vqWait := rfl
@[simp] theorem putElem_pendTrap (r : BitVec 5) (w e x : Nat) (t : Strand) : (putElem t r w e x).pendTrap = t.pendTrap := rfl
@[simp] theorem putElem_vqTrap (r : BitVec 5) (w e x : Nat) (t : Strand) : (putElem t r w e x).vqTrap = t.vqTrap := rfl
@[simp] theorem putElem_returning (r : BitVec 5) (w e x : Nat) (t : Strand) : (putElem t r w e x).returning = t.returning := rfl
@[simp] theorem putElem_fault (r : BitVec 5) (w e x : Nat) (t : Strand) : (putElem t r w e x).fault = t.fault := rfl
@[simp] theorem putElem_lost (r : BitVec 5) (w e x : Nat) (t : Strand) : (putElem t r w e x).lost = t.lost := rfl
@[simp] theorem putElem_watch (r : BitVec 5) (w e x : Nat) (t : Strand) : (putElem t r w e x).watch = t.watch := rfl
@[simp] theorem putElem_armedAt (r : BitVec 5) (w e x : Nat) (t : Strand) : (putElem t r w e x).armedAt = t.armedAt := rfl
@[simp] theorem putElem_yielded (r : BitVec 5) (w e x : Nat) (t : Strand) : (putElem t r w e x).yielded = t.yielded := rfl
@[simp] theorem putElem_cps (r : BitVec 5) (w e x : Nat) (t : Strand) : (putElem t r w e x).cps = t.cps := rfl
@[simp] theorem putElem_ch (r : BitVec 5) (w e x : Nat) (t : Strand) : (putElem t r w e x).ch = t.ch := rfl
@[simp] theorem putElem_cperr (r : BitVec 5) (w e x : Nat) (t : Strand) : (putElem t r w e x).cperr = t.cperr := rfl
@[simp] theorem putElem_cperra (r : BitVec 5) (w e x : Nat) (t : Strand) : (putElem t r w e x).cperra = t.cperra := rfl
@[simp] theorem putElem_tsh (r : BitVec 5) (w e x : Nat) (t : Strand) : (putElem t r w e x).tsh = t.tsh := rfl
@[simp] theorem putElem_tsrc (r : BitVec 5) (w e x : Nat) (t : Strand) : (putElem t r w e x).tsrc = t.tsrc := rfl
@[simp] theorem putElem_lkst (r : BitVec 5) (w e x : Nat) (t : Strand) : (putElem t r w e x).lkst = t.lkst := rfl
@[simp] theorem putElem_lkNext (r : BitVec 5) (w e x : Nat) (t : Strand) : (putElem t r w e x).lkNext = t.lkNext := rfl
@[simp] theorem putElem_colsrc (r : BitVec 5) (w e x : Nat) (t : Strand) : (putElem t r w e x).colsrc = t.colsrc := rfl
@[simp] theorem putElem_coldst (r : BitVec 5) (w e x : Nat) (t : Strand) : (putElem t r w e x).coldst = t.coldst := rfl
@[simp] theorem putElem_colgrp (r : BitVec 5) (w e x : Nat) (t : Strand) : (putElem t r w e x).colgrp = t.colgrp := rfl
@[simp] theorem putElem_colctl (r : BitVec 5) (w e x : Nat) (t : Strand) : (putElem t r w e x).colctl = t.colctl := rfl
@[simp] theorem putElem_colerr (r : BitVec 5) (w e x : Nat) (t : Strand) : (putElem t r w e x).colerr = t.colerr := rfl
@[simp] theorem putElem_mcerr (r : BitVec 5) (w e x : Nat) (t : Strand) : (putElem t r w e x).mcerr = t.mcerr := rfl
@[simp] theorem putElem_refused (r : BitVec 5) (w e x : Nat) (t : Strand) : (putElem t r w e x).refused = t.refused := rfl
@[simp] theorem putElem_bindPc (r : BitVec 5) (w e x : Nat) (t : Strand) : (putElem t r w e x).bindPc = t.bindPc := rfl
@[simp] theorem putElem_resumed (r : BitVec 5) (w e x : Nat) (t : Strand) : (putElem t r w e x).resumed = t.resumed := rfl
@[simp] theorem putElem_place (r : BitVec 5) (w e x : Nat) (t : Strand) : (putElem t r w e x).place = t.place := rfl
@[simp] theorem putElem_ids (r : BitVec 5) (w e x : Nat) (t : Strand) : (putElem t r w e x).ids = t.ids := rfl
@[simp] theorem putElem_replay (r : BitVec 5) (w e x : Nat) (t : Strand) : (putElem t r w e x).replay = t.replay := rfl

theorem putMask_eq (r : BitVec 3) (e : Nat) (b : Bool) (t : Strand) : putMask t r e b = ({ t with masks := (putMask t r e b).masks, upsets := (putMask t r e b).upsets } : Strand) := by unfold putMask setM; split <;> rfl
@[simp] theorem putMask_bound (r : BitVec 3) (e : Nat) (b : Bool) (t : Strand) : (putMask t r e b).bound = t.bound := (congrArg Strand.bound (putMask_eq r e b t) :)
@[simp] theorem putMask_stopped (r : BitVec 3) (e : Nat) (b : Bool) (t : Strand) : (putMask t r e b).stopped = t.stopped := (congrArg Strand.stopped (putMask_eq r e b t) :)
@[simp] theorem putMask_id (r : BitVec 3) (e : Nat) (b : Bool) (t : Strand) : (putMask t r e b).id = t.id := (congrArg Strand.id (putMask_eq r e b t) :)
@[simp] theorem putMask_xyz (r : BitVec 3) (e : Nat) (b : Bool) (t : Strand) : (putMask t r e b).xyz = t.xyz := (congrArg Strand.xyz (putMask_eq r e b t) :)
@[simp] theorem putMask_idx (r : BitVec 3) (e : Nat) (b : Bool) (t : Strand) : (putMask t r e b).idx = t.idx := (congrArg Strand.idx (putMask_eq r e b t) :)
@[simp] theorem putMask_stage (r : BitVec 3) (e : Nat) (b : Bool) (t : Strand) : (putMask t r e b).stage = t.stage := (congrArg Strand.stage (putMask_eq r e b t) :)
@[simp] theorem putMask_queue (r : BitVec 3) (e : Nat) (b : Bool) (t : Strand) : (putMask t r e b).queue = t.queue := (congrArg Strand.queue (putMask_eq r e b t) :)
@[simp] theorem putMask_flight (r : BitVec 3) (e : Nat) (b : Bool) (t : Strand) : (putMask t r e b).flight = t.flight := (congrArg Strand.flight (putMask_eq r e b t) :)
@[simp] theorem putMask_crew (r : BitVec 3) (e : Nat) (b : Bool) (t : Strand) : (putMask t r e b).crew = t.crew := (congrArg Strand.crew (putMask_eq r e b t) :)
@[simp] theorem putMask_prio (r : BitVec 3) (e : Nat) (b : Bool) (t : Strand) : (putMask t r e b).prio = t.prio := (congrArg Strand.prio (putMask_eq r e b t) :)
@[simp] theorem putMask_csa (r : BitVec 3) (e : Nat) (b : Bool) (t : Strand) : (putMask t r e b).csa = t.csa := (congrArg Strand.csa (putMask_eq r e b t) :)
@[simp] theorem putMask_quant (r : BitVec 3) (e : Nat) (b : Bool) (t : Strand) : (putMask t r e b).quant = t.quant := (congrArg Strand.quant (putMask_eq r e b t) :)
@[simp] theorem putMask_wb (r : BitVec 3) (e : Nat) (b : Bool) (t : Strand) : (putMask t r e b).wb = t.wb := (congrArg Strand.wb (putMask_eq r e b t) :)
@[simp] theorem putMask_wn (r : BitVec 3) (e : Nat) (b : Bool) (t : Strand) : (putMask t r e b).wn = t.wn := (congrArg Strand.wn (putMask_eq r e b t) :)
@[simp] theorem putMask_pc (r : BitVec 3) (e : Nat) (b : Bool) (t : Strand) : (putMask t r e b).pc = t.pc := (congrArg Strand.pc (putMask_eq r e b t) :)
@[simp] theorem putMask_pass (r : BitVec 3) (e : Nat) (b : Bool) (t : Strand) : (putMask t r e b).pass = t.pass := (congrArg Strand.pass (putMask_eq r e b t) :)
@[simp] theorem putMask_sregs (r : BitVec 3) (e : Nat) (b : Bool) (t : Strand) : (putMask t r e b).sregs = t.sregs := (congrArg Strand.sregs (putMask_eq r e b t) :)
@[simp] theorem putMask_pregs (r : BitVec 3) (e : Nat) (b : Bool) (t : Strand) : (putMask t r e b).pregs = t.pregs := (congrArg Strand.pregs (putMask_eq r e b t) :)
@[simp] theorem putMask_vregs (r : BitVec 3) (e : Nat) (b : Bool) (t : Strand) : (putMask t r e b).vregs = t.vregs := (congrArg Strand.vregs (putMask_eq r e b t) :)
@[simp] theorem putMask_accs (r : BitVec 3) (e : Nat) (b : Bool) (t : Strand) : (putMask t r e b).accs = t.accs := (congrArg Strand.accs (putMask_eq r e b t) :)
@[simp] theorem putMask_vq (r : BitVec 3) (e : Nat) (b : Bool) (t : Strand) : (putMask t r e b).vq = t.vq := (congrArg Strand.vq (putMask_eq r e b t) :)
@[simp] theorem putMask_saved (r : BitVec 3) (e : Nat) (b : Bool) (t : Strand) : (putMask t r e b).saved = t.saved := (congrArg Strand.saved (putMask_eq r e b t) :)
@[simp] theorem putMask_fflags (r : BitVec 3) (e : Nat) (b : Bool) (t : Strand) : (putMask t r e b).fflags = t.fflags := (congrArg Strand.fflags (putMask_eq r e b t) :)
@[simp] theorem putMask_frm (r : BitVec 3) (e : Nat) (b : Bool) (t : Strand) : (putMask t r e b).frm = t.frm := (congrArg Strand.frm (putMask_eq r e b t) :)
@[simp] theorem putMask_status (r : BitVec 3) (e : Nat) (b : Bool) (t : Strand) : (putMask t r e b).status = t.status := (congrArg Strand.status (putMask_eq r e b t) :)
@[simp] theorem putMask_xpc (r : BitVec 3) (e : Nat) (b : Bool) (t : Strand) : (putMask t r e b).xpc = t.xpc := (congrArg Strand.xpc (putMask_eq r e b t) :)
@[simp] theorem putMask_xvcp (r : BitVec 3) (e : Nat) (b : Bool) (t : Strand) : (putMask t r e b).xvcp = t.xvcp := (congrArg Strand.xvcp (putMask_eq r e b t) :)
@[simp] theorem putMask_xcause (r : BitVec 3) (e : Nat) (b : Bool) (t : Strand) : (putMask t r e b).xcause = t.xcause := (congrArg Strand.xcause (putMask_eq r e b t) :)
@[simp] theorem putMask_xval (r : BitVec 3) (e : Nat) (b : Bool) (t : Strand) : (putMask t r e b).xval = t.xval := (congrArg Strand.xval (putMask_eq r e b t) :)
@[simp] theorem putMask_xscratch (r : BitVec 3) (e : Nat) (b : Bool) (t : Strand) : (putMask t r e b).xscratch = t.xscratch := (congrArg Strand.xscratch (putMask_eq r e b t) :)
@[simp] theorem putMask_xvec (r : BitVec 3) (e : Nat) (b : Bool) (t : Strand) : (putMask t r e b).xvec = t.xvec := (congrArg Strand.xvec (putMask_eq r e b t) :)
@[simp] theorem putMask_timefr (r : BitVec 3) (e : Nat) (b : Bool) (t : Strand) : (putMask t r e b).timefr = t.timefr := (congrArg Strand.timefr (putMask_eq r e b t) :)
@[simp] theorem putMask_vl (r : BitVec 3) (e : Nat) (b : Bool) (t : Strand) : (putMask t r e b).vl = t.vl := (congrArg Strand.vl (putMask_eq r e b t) :)
@[simp] theorem putMask_vlmax (r : BitVec 3) (e : Nat) (b : Bool) (t : Strand) : (putMask t r e b).vlmax = t.vlmax := (congrArg Strand.vlmax (putMask_eq r e b t) :)
@[simp] theorem putMask_nreg (r : BitVec 3) (e : Nat) (b : Bool) (t : Strand) : (putMask t r e b).nreg = t.nreg := (congrArg Strand.nreg (putMask_eq r e b t) :)
@[simp] theorem putMask_ew (r : BitVec 3) (e : Nat) (b : Bool) (t : Strand) : (putMask t r e b).ew = t.ew := (congrArg Strand.ew (putMask_eq r e b t) :)
@[simp] theorem putMask_ext (r : BitVec 3) (e : Nat) (b : Bool) (t : Strand) : (putMask t r e b).ext = t.ext := (congrArg Strand.ext (putMask_eq r e b t) :)
@[simp] theorem putMask_base (r : BitVec 3) (e : Nat) (b : Bool) (t : Strand) : (putMask t r e b).base = t.base := (congrArg Strand.base (putMask_eq r e b t) :)
@[simp] theorem putMask_vstart (r : BitVec 3) (e : Nat) (b : Bool) (t : Strand) : (putMask t r e b).vstart = t.vstart := (congrArg Strand.vstart (putMask_eq r e b t) :)
@[simp] theorem putMask_tether (r : BitVec 3) (e : Nat) (b : Bool) (t : Strand) : (putMask t r e b).tether = t.tether := (congrArg Strand.tether (putMask_eq r e b t) :)
@[simp] theorem putMask_scalarWait (r : BitVec 3) (e : Nat) (b : Bool) (t : Strand) : (putMask t r e b).scalarWait = t.scalarWait := (congrArg Strand.scalarWait (putMask_eq r e b t) :)
@[simp] theorem putMask_vqWait (r : BitVec 3) (e : Nat) (b : Bool) (t : Strand) : (putMask t r e b).vqWait = t.vqWait := (congrArg Strand.vqWait (putMask_eq r e b t) :)
@[simp] theorem putMask_pendTrap (r : BitVec 3) (e : Nat) (b : Bool) (t : Strand) : (putMask t r e b).pendTrap = t.pendTrap := (congrArg Strand.pendTrap (putMask_eq r e b t) :)
@[simp] theorem putMask_vqTrap (r : BitVec 3) (e : Nat) (b : Bool) (t : Strand) : (putMask t r e b).vqTrap = t.vqTrap := (congrArg Strand.vqTrap (putMask_eq r e b t) :)
@[simp] theorem putMask_returning (r : BitVec 3) (e : Nat) (b : Bool) (t : Strand) : (putMask t r e b).returning = t.returning := (congrArg Strand.returning (putMask_eq r e b t) :)
@[simp] theorem putMask_fault (r : BitVec 3) (e : Nat) (b : Bool) (t : Strand) : (putMask t r e b).fault = t.fault := (congrArg Strand.fault (putMask_eq r e b t) :)
@[simp] theorem putMask_lost (r : BitVec 3) (e : Nat) (b : Bool) (t : Strand) : (putMask t r e b).lost = t.lost := (congrArg Strand.lost (putMask_eq r e b t) :)
@[simp] theorem putMask_watch (r : BitVec 3) (e : Nat) (b : Bool) (t : Strand) : (putMask t r e b).watch = t.watch := (congrArg Strand.watch (putMask_eq r e b t) :)
@[simp] theorem putMask_armedAt (r : BitVec 3) (e : Nat) (b : Bool) (t : Strand) : (putMask t r e b).armedAt = t.armedAt := (congrArg Strand.armedAt (putMask_eq r e b t) :)
@[simp] theorem putMask_yielded (r : BitVec 3) (e : Nat) (b : Bool) (t : Strand) : (putMask t r e b).yielded = t.yielded := (congrArg Strand.yielded (putMask_eq r e b t) :)
@[simp] theorem putMask_cps (r : BitVec 3) (e : Nat) (b : Bool) (t : Strand) : (putMask t r e b).cps = t.cps := (congrArg Strand.cps (putMask_eq r e b t) :)
@[simp] theorem putMask_ch (r : BitVec 3) (e : Nat) (b : Bool) (t : Strand) : (putMask t r e b).ch = t.ch := (congrArg Strand.ch (putMask_eq r e b t) :)
@[simp] theorem putMask_cperr (r : BitVec 3) (e : Nat) (b : Bool) (t : Strand) : (putMask t r e b).cperr = t.cperr := (congrArg Strand.cperr (putMask_eq r e b t) :)
@[simp] theorem putMask_cperra (r : BitVec 3) (e : Nat) (b : Bool) (t : Strand) : (putMask t r e b).cperra = t.cperra := (congrArg Strand.cperra (putMask_eq r e b t) :)
@[simp] theorem putMask_tsh (r : BitVec 3) (e : Nat) (b : Bool) (t : Strand) : (putMask t r e b).tsh = t.tsh := (congrArg Strand.tsh (putMask_eq r e b t) :)
@[simp] theorem putMask_tsrc (r : BitVec 3) (e : Nat) (b : Bool) (t : Strand) : (putMask t r e b).tsrc = t.tsrc := (congrArg Strand.tsrc (putMask_eq r e b t) :)
@[simp] theorem putMask_lkst (r : BitVec 3) (e : Nat) (b : Bool) (t : Strand) : (putMask t r e b).lkst = t.lkst := (congrArg Strand.lkst (putMask_eq r e b t) :)
@[simp] theorem putMask_lkNext (r : BitVec 3) (e : Nat) (b : Bool) (t : Strand) : (putMask t r e b).lkNext = t.lkNext := (congrArg Strand.lkNext (putMask_eq r e b t) :)
@[simp] theorem putMask_colsrc (r : BitVec 3) (e : Nat) (b : Bool) (t : Strand) : (putMask t r e b).colsrc = t.colsrc := (congrArg Strand.colsrc (putMask_eq r e b t) :)
@[simp] theorem putMask_coldst (r : BitVec 3) (e : Nat) (b : Bool) (t : Strand) : (putMask t r e b).coldst = t.coldst := (congrArg Strand.coldst (putMask_eq r e b t) :)
@[simp] theorem putMask_colgrp (r : BitVec 3) (e : Nat) (b : Bool) (t : Strand) : (putMask t r e b).colgrp = t.colgrp := (congrArg Strand.colgrp (putMask_eq r e b t) :)
@[simp] theorem putMask_colctl (r : BitVec 3) (e : Nat) (b : Bool) (t : Strand) : (putMask t r e b).colctl = t.colctl := (congrArg Strand.colctl (putMask_eq r e b t) :)
@[simp] theorem putMask_colerr (r : BitVec 3) (e : Nat) (b : Bool) (t : Strand) : (putMask t r e b).colerr = t.colerr := (congrArg Strand.colerr (putMask_eq r e b t) :)
@[simp] theorem putMask_mcerr (r : BitVec 3) (e : Nat) (b : Bool) (t : Strand) : (putMask t r e b).mcerr = t.mcerr := (congrArg Strand.mcerr (putMask_eq r e b t) :)
@[simp] theorem putMask_refused (r : BitVec 3) (e : Nat) (b : Bool) (t : Strand) : (putMask t r e b).refused = t.refused := (congrArg Strand.refused (putMask_eq r e b t) :)
@[simp] theorem putMask_bindPc (r : BitVec 3) (e : Nat) (b : Bool) (t : Strand) : (putMask t r e b).bindPc = t.bindPc := (congrArg Strand.bindPc (putMask_eq r e b t) :)
@[simp] theorem putMask_resumed (r : BitVec 3) (e : Nat) (b : Bool) (t : Strand) : (putMask t r e b).resumed = t.resumed := (congrArg Strand.resumed (putMask_eq r e b t) :)
@[simp] theorem putMask_place (r : BitVec 3) (e : Nat) (b : Bool) (t : Strand) : (putMask t r e b).place = t.place := (congrArg Strand.place (putMask_eq r e b t) :)
@[simp] theorem putMask_ids (r : BitVec 3) (e : Nat) (b : Bool) (t : Strand) : (putMask t r e b).ids = t.ids := (congrArg Strand.ids (putMask_eq r e b t) :)
@[simp] theorem putMask_replay (r : BitVec 3) (e : Nat) (b : Bool) (t : Strand) : (putMask t r e b).replay = t.replay := (congrArg Strand.replay (putMask_eq r e b t) :)

@[simp] theorem loseContext_bound (t : Strand) : (loseContext t).bound = t.bound := rfl
@[simp] theorem loseContext_stopped (t : Strand) : (loseContext t).stopped = true := rfl
@[simp] theorem loseContext_id (t : Strand) : (loseContext t).id = t.id := rfl
@[simp] theorem loseContext_xyz (t : Strand) : (loseContext t).xyz = t.xyz := rfl
@[simp] theorem loseContext_idx (t : Strand) : (loseContext t).idx = t.idx := rfl
@[simp] theorem loseContext_stage (t : Strand) : (loseContext t).stage = t.stage := rfl
@[simp] theorem loseContext_queue (t : Strand) : (loseContext t).queue = t.queue := rfl
@[simp] theorem loseContext_flight (t : Strand) : (loseContext t).flight = t.flight := rfl
@[simp] theorem loseContext_crew (t : Strand) : (loseContext t).crew = t.crew := rfl
@[simp] theorem loseContext_prio (t : Strand) : (loseContext t).prio = t.prio := rfl
@[simp] theorem loseContext_csa (t : Strand) : (loseContext t).csa = t.csa := rfl
@[simp] theorem loseContext_quant (t : Strand) : (loseContext t).quant = t.quant := rfl
@[simp] theorem loseContext_wb (t : Strand) : (loseContext t).wb = t.wb := rfl
@[simp] theorem loseContext_wn (t : Strand) : (loseContext t).wn = t.wn := rfl
@[simp] theorem loseContext_pc (t : Strand) : (loseContext t).pc = t.pc := rfl
@[simp] theorem loseContext_pass (t : Strand) : (loseContext t).pass = none := rfl
@[simp] theorem loseContext_sregs (t : Strand) : (loseContext t).sregs = t.sregs := rfl
@[simp] theorem loseContext_pregs (t : Strand) : (loseContext t).pregs = t.pregs := rfl
@[simp] theorem loseContext_vregs (t : Strand) : (loseContext t).vregs = t.vregs := rfl
@[simp] theorem loseContext_masks (t : Strand) : (loseContext t).masks = t.masks := rfl
@[simp] theorem loseContext_accs (t : Strand) : (loseContext t).accs = t.accs := rfl
@[simp] theorem loseContext_vq (t : Strand) : (loseContext t).vq = t.vq := rfl
@[simp] theorem loseContext_saved (t : Strand) : (loseContext t).saved = t.saved := rfl
@[simp] theorem loseContext_fflags (t : Strand) : (loseContext t).fflags = t.fflags := rfl
@[simp] theorem loseContext_frm (t : Strand) : (loseContext t).frm = t.frm := rfl
@[simp] theorem loseContext_status (t : Strand) : (loseContext t).status = t.status := rfl
@[simp] theorem loseContext_xpc (t : Strand) : (loseContext t).xpc = t.xpc := rfl
@[simp] theorem loseContext_xvcp (t : Strand) : (loseContext t).xvcp = t.xvcp := rfl
@[simp] theorem loseContext_xcause (t : Strand) : (loseContext t).xcause = t.xcause := rfl
@[simp] theorem loseContext_xval (t : Strand) : (loseContext t).xval = t.xval := rfl
@[simp] theorem loseContext_xscratch (t : Strand) : (loseContext t).xscratch = t.xscratch := rfl
@[simp] theorem loseContext_xvec (t : Strand) : (loseContext t).xvec = t.xvec := rfl
@[simp] theorem loseContext_timefr (t : Strand) : (loseContext t).timefr = t.timefr := rfl
@[simp] theorem loseContext_vl (t : Strand) : (loseContext t).vl = t.vl := rfl
@[simp] theorem loseContext_vlmax (t : Strand) : (loseContext t).vlmax = t.vlmax := rfl
@[simp] theorem loseContext_nreg (t : Strand) : (loseContext t).nreg = t.nreg := rfl
@[simp] theorem loseContext_ew (t : Strand) : (loseContext t).ew = t.ew := rfl
@[simp] theorem loseContext_ext (t : Strand) : (loseContext t).ext = t.ext := rfl
@[simp] theorem loseContext_base (t : Strand) : (loseContext t).base = t.base := rfl
@[simp] theorem loseContext_vstart (t : Strand) : (loseContext t).vstart = t.vstart := rfl
@[simp] theorem loseContext_tether (t : Strand) : (loseContext t).tether = t.tether := rfl
@[simp] theorem loseContext_scalarWait (t : Strand) : (loseContext t).scalarWait = none := rfl
@[simp] theorem loseContext_vqWait (t : Strand) : (loseContext t).vqWait = none := rfl
@[simp] theorem loseContext_pendTrap (t : Strand) : (loseContext t).pendTrap = none := rfl
@[simp] theorem loseContext_vqTrap (t : Strand) : (loseContext t).vqTrap = t.vqTrap := rfl
@[simp] theorem loseContext_returning (t : Strand) : (loseContext t).returning = t.returning := rfl
@[simp] theorem loseContext_fault (t : Strand) : (loseContext t).fault = t.fault := rfl
@[simp] theorem loseContext_upsets (t : Strand) : (loseContext t).upsets = t.upsets := rfl
@[simp] theorem loseContext_lost (t : Strand) : (loseContext t).lost = true := rfl
@[simp] theorem loseContext_watch (t : Strand) : (loseContext t).watch = t.watch := rfl
@[simp] theorem loseContext_armedAt (t : Strand) : (loseContext t).armedAt = t.armedAt := rfl
@[simp] theorem loseContext_yielded (t : Strand) : (loseContext t).yielded = t.yielded := rfl
@[simp] theorem loseContext_cps (t : Strand) : (loseContext t).cps = t.cps := rfl
@[simp] theorem loseContext_ch (t : Strand) : (loseContext t).ch = t.ch := rfl
@[simp] theorem loseContext_cperr (t : Strand) : (loseContext t).cperr = t.cperr := rfl
@[simp] theorem loseContext_cperra (t : Strand) : (loseContext t).cperra = t.cperra := rfl
@[simp] theorem loseContext_tsh (t : Strand) : (loseContext t).tsh = t.tsh := rfl
@[simp] theorem loseContext_tsrc (t : Strand) : (loseContext t).tsrc = t.tsrc := rfl
@[simp] theorem loseContext_lkst (t : Strand) : (loseContext t).lkst = t.lkst := rfl
@[simp] theorem loseContext_lkNext (t : Strand) : (loseContext t).lkNext = t.lkNext := rfl
@[simp] theorem loseContext_colsrc (t : Strand) : (loseContext t).colsrc = t.colsrc := rfl
@[simp] theorem loseContext_coldst (t : Strand) : (loseContext t).coldst = t.coldst := rfl
@[simp] theorem loseContext_colgrp (t : Strand) : (loseContext t).colgrp = t.colgrp := rfl
@[simp] theorem loseContext_colctl (t : Strand) : (loseContext t).colctl = t.colctl := rfl
@[simp] theorem loseContext_colerr (t : Strand) : (loseContext t).colerr = t.colerr := rfl
@[simp] theorem loseContext_mcerr (t : Strand) : (loseContext t).mcerr = t.mcerr := rfl
@[simp] theorem loseContext_refused (t : Strand) : (loseContext t).refused = t.refused := rfl
@[simp] theorem loseContext_bindPc (t : Strand) : (loseContext t).bindPc = t.bindPc := rfl
@[simp] theorem loseContext_resumed (t : Strand) : (loseContext t).resumed = t.resumed := rfl
@[simp] theorem loseContext_place (t : Strand) : (loseContext t).place = none := rfl
@[simp] theorem loseContext_ids (t : Strand) : (loseContext t).ids = t.ids := rfl
@[simp] theorem loseContext_replay (t : Strand) : (loseContext t).replay = t.replay := rfl

theorem leaveHandler_eq (p : Pass) (t : Strand) : leaveHandler p t = ({ t with pc := (leaveHandler p t).pc, returning := (leaveHandler p t).returning, pass := (leaveHandler p t).pass, scalarWait := (leaveHandler p t).scalarWait, vq := (leaveHandler p t).vq, saved := (leaveHandler p t).saved } : Strand) := by unfold leaveHandler; dsimp only; split <;> rfl
@[simp] theorem leaveHandler_bound (p : Pass) (t : Strand) : (leaveHandler p t).bound = t.bound := (congrArg Strand.bound (leaveHandler_eq p t) :)
@[simp] theorem leaveHandler_stopped (p : Pass) (t : Strand) : (leaveHandler p t).stopped = t.stopped := (congrArg Strand.stopped (leaveHandler_eq p t) :)
@[simp] theorem leaveHandler_id (p : Pass) (t : Strand) : (leaveHandler p t).id = t.id := (congrArg Strand.id (leaveHandler_eq p t) :)
@[simp] theorem leaveHandler_xyz (p : Pass) (t : Strand) : (leaveHandler p t).xyz = t.xyz := (congrArg Strand.xyz (leaveHandler_eq p t) :)
@[simp] theorem leaveHandler_idx (p : Pass) (t : Strand) : (leaveHandler p t).idx = t.idx := (congrArg Strand.idx (leaveHandler_eq p t) :)
@[simp] theorem leaveHandler_stage (p : Pass) (t : Strand) : (leaveHandler p t).stage = t.stage := (congrArg Strand.stage (leaveHandler_eq p t) :)
@[simp] theorem leaveHandler_queue (p : Pass) (t : Strand) : (leaveHandler p t).queue = t.queue := (congrArg Strand.queue (leaveHandler_eq p t) :)
@[simp] theorem leaveHandler_flight (p : Pass) (t : Strand) : (leaveHandler p t).flight = t.flight := (congrArg Strand.flight (leaveHandler_eq p t) :)
@[simp] theorem leaveHandler_crew (p : Pass) (t : Strand) : (leaveHandler p t).crew = t.crew := (congrArg Strand.crew (leaveHandler_eq p t) :)
@[simp] theorem leaveHandler_prio (p : Pass) (t : Strand) : (leaveHandler p t).prio = t.prio := (congrArg Strand.prio (leaveHandler_eq p t) :)
@[simp] theorem leaveHandler_csa (p : Pass) (t : Strand) : (leaveHandler p t).csa = t.csa := (congrArg Strand.csa (leaveHandler_eq p t) :)
@[simp] theorem leaveHandler_quant (p : Pass) (t : Strand) : (leaveHandler p t).quant = t.quant := (congrArg Strand.quant (leaveHandler_eq p t) :)
@[simp] theorem leaveHandler_wb (p : Pass) (t : Strand) : (leaveHandler p t).wb = t.wb := (congrArg Strand.wb (leaveHandler_eq p t) :)
@[simp] theorem leaveHandler_wn (p : Pass) (t : Strand) : (leaveHandler p t).wn = t.wn := (congrArg Strand.wn (leaveHandler_eq p t) :)
@[simp] theorem leaveHandler_pc (p : Pass) (t : Strand) : (leaveHandler p t).pc = t.xpc := by unfold leaveHandler; dsimp only; split <;> rfl
@[simp] theorem leaveHandler_pass (p : Pass) (t : Strand) : (leaveHandler p t).pass = some p := by unfold leaveHandler; dsimp only; split <;> rfl
@[simp] theorem leaveHandler_sregs (p : Pass) (t : Strand) : (leaveHandler p t).sregs = t.sregs := (congrArg Strand.sregs (leaveHandler_eq p t) :)
@[simp] theorem leaveHandler_pregs (p : Pass) (t : Strand) : (leaveHandler p t).pregs = t.pregs := (congrArg Strand.pregs (leaveHandler_eq p t) :)
@[simp] theorem leaveHandler_vregs (p : Pass) (t : Strand) : (leaveHandler p t).vregs = t.vregs := (congrArg Strand.vregs (leaveHandler_eq p t) :)
@[simp] theorem leaveHandler_masks (p : Pass) (t : Strand) : (leaveHandler p t).masks = t.masks := (congrArg Strand.masks (leaveHandler_eq p t) :)
@[simp] theorem leaveHandler_accs (p : Pass) (t : Strand) : (leaveHandler p t).accs = t.accs := (congrArg Strand.accs (leaveHandler_eq p t) :)
@[simp] theorem leaveHandler_fflags (p : Pass) (t : Strand) : (leaveHandler p t).fflags = t.fflags := (congrArg Strand.fflags (leaveHandler_eq p t) :)
@[simp] theorem leaveHandler_frm (p : Pass) (t : Strand) : (leaveHandler p t).frm = t.frm := (congrArg Strand.frm (leaveHandler_eq p t) :)
@[simp] theorem leaveHandler_status (p : Pass) (t : Strand) : (leaveHandler p t).status = t.status := (congrArg Strand.status (leaveHandler_eq p t) :)
@[simp] theorem leaveHandler_xpc (p : Pass) (t : Strand) : (leaveHandler p t).xpc = t.xpc := (congrArg Strand.xpc (leaveHandler_eq p t) :)
@[simp] theorem leaveHandler_xvcp (p : Pass) (t : Strand) : (leaveHandler p t).xvcp = t.xvcp := (congrArg Strand.xvcp (leaveHandler_eq p t) :)
@[simp] theorem leaveHandler_xcause (p : Pass) (t : Strand) : (leaveHandler p t).xcause = t.xcause := (congrArg Strand.xcause (leaveHandler_eq p t) :)
@[simp] theorem leaveHandler_xval (p : Pass) (t : Strand) : (leaveHandler p t).xval = t.xval := (congrArg Strand.xval (leaveHandler_eq p t) :)
@[simp] theorem leaveHandler_xscratch (p : Pass) (t : Strand) : (leaveHandler p t).xscratch = t.xscratch := (congrArg Strand.xscratch (leaveHandler_eq p t) :)
@[simp] theorem leaveHandler_xvec (p : Pass) (t : Strand) : (leaveHandler p t).xvec = t.xvec := (congrArg Strand.xvec (leaveHandler_eq p t) :)
@[simp] theorem leaveHandler_timefr (p : Pass) (t : Strand) : (leaveHandler p t).timefr = t.timefr := (congrArg Strand.timefr (leaveHandler_eq p t) :)
@[simp] theorem leaveHandler_vl (p : Pass) (t : Strand) : (leaveHandler p t).vl = t.vl := (congrArg Strand.vl (leaveHandler_eq p t) :)
@[simp] theorem leaveHandler_vlmax (p : Pass) (t : Strand) : (leaveHandler p t).vlmax = t.vlmax := (congrArg Strand.vlmax (leaveHandler_eq p t) :)
@[simp] theorem leaveHandler_nreg (p : Pass) (t : Strand) : (leaveHandler p t).nreg = t.nreg := (congrArg Strand.nreg (leaveHandler_eq p t) :)
@[simp] theorem leaveHandler_ew (p : Pass) (t : Strand) : (leaveHandler p t).ew = t.ew := (congrArg Strand.ew (leaveHandler_eq p t) :)
@[simp] theorem leaveHandler_ext (p : Pass) (t : Strand) : (leaveHandler p t).ext = t.ext := (congrArg Strand.ext (leaveHandler_eq p t) :)
@[simp] theorem leaveHandler_base (p : Pass) (t : Strand) : (leaveHandler p t).base = t.base := (congrArg Strand.base (leaveHandler_eq p t) :)
@[simp] theorem leaveHandler_vstart (p : Pass) (t : Strand) : (leaveHandler p t).vstart = t.vstart := (congrArg Strand.vstart (leaveHandler_eq p t) :)
@[simp] theorem leaveHandler_tether (p : Pass) (t : Strand) : (leaveHandler p t).tether = t.tether := (congrArg Strand.tether (leaveHandler_eq p t) :)
@[simp] theorem leaveHandler_scalarWait (p : Pass) (t : Strand) : (leaveHandler p t).scalarWait = none := by unfold leaveHandler; dsimp only; split <;> rfl
@[simp] theorem leaveHandler_vqWait (p : Pass) (t : Strand) : (leaveHandler p t).vqWait = t.vqWait := (congrArg Strand.vqWait (leaveHandler_eq p t) :)
@[simp] theorem leaveHandler_pendTrap (p : Pass) (t : Strand) : (leaveHandler p t).pendTrap = t.pendTrap := (congrArg Strand.pendTrap (leaveHandler_eq p t) :)
@[simp] theorem leaveHandler_vqTrap (p : Pass) (t : Strand) : (leaveHandler p t).vqTrap = t.vqTrap := (congrArg Strand.vqTrap (leaveHandler_eq p t) :)
@[simp] theorem leaveHandler_returning (p : Pass) (t : Strand) : (leaveHandler p t).returning = none := by unfold leaveHandler; dsimp only; split <;> rfl
@[simp] theorem leaveHandler_fault (p : Pass) (t : Strand) : (leaveHandler p t).fault = t.fault := (congrArg Strand.fault (leaveHandler_eq p t) :)
@[simp] theorem leaveHandler_upsets (p : Pass) (t : Strand) : (leaveHandler p t).upsets = t.upsets := (congrArg Strand.upsets (leaveHandler_eq p t) :)
@[simp] theorem leaveHandler_lost (p : Pass) (t : Strand) : (leaveHandler p t).lost = t.lost := (congrArg Strand.lost (leaveHandler_eq p t) :)
@[simp] theorem leaveHandler_watch (p : Pass) (t : Strand) : (leaveHandler p t).watch = t.watch := (congrArg Strand.watch (leaveHandler_eq p t) :)
@[simp] theorem leaveHandler_armedAt (p : Pass) (t : Strand) : (leaveHandler p t).armedAt = t.armedAt := (congrArg Strand.armedAt (leaveHandler_eq p t) :)
@[simp] theorem leaveHandler_yielded (p : Pass) (t : Strand) : (leaveHandler p t).yielded = t.yielded := (congrArg Strand.yielded (leaveHandler_eq p t) :)
@[simp] theorem leaveHandler_cps (p : Pass) (t : Strand) : (leaveHandler p t).cps = t.cps := (congrArg Strand.cps (leaveHandler_eq p t) :)
@[simp] theorem leaveHandler_ch (p : Pass) (t : Strand) : (leaveHandler p t).ch = t.ch := (congrArg Strand.ch (leaveHandler_eq p t) :)
@[simp] theorem leaveHandler_cperr (p : Pass) (t : Strand) : (leaveHandler p t).cperr = t.cperr := (congrArg Strand.cperr (leaveHandler_eq p t) :)
@[simp] theorem leaveHandler_cperra (p : Pass) (t : Strand) : (leaveHandler p t).cperra = t.cperra := (congrArg Strand.cperra (leaveHandler_eq p t) :)
@[simp] theorem leaveHandler_tsh (p : Pass) (t : Strand) : (leaveHandler p t).tsh = t.tsh := (congrArg Strand.tsh (leaveHandler_eq p t) :)
@[simp] theorem leaveHandler_tsrc (p : Pass) (t : Strand) : (leaveHandler p t).tsrc = t.tsrc := (congrArg Strand.tsrc (leaveHandler_eq p t) :)
@[simp] theorem leaveHandler_lkst (p : Pass) (t : Strand) : (leaveHandler p t).lkst = t.lkst := (congrArg Strand.lkst (leaveHandler_eq p t) :)
@[simp] theorem leaveHandler_lkNext (p : Pass) (t : Strand) : (leaveHandler p t).lkNext = t.lkNext := (congrArg Strand.lkNext (leaveHandler_eq p t) :)
@[simp] theorem leaveHandler_colsrc (p : Pass) (t : Strand) : (leaveHandler p t).colsrc = t.colsrc := (congrArg Strand.colsrc (leaveHandler_eq p t) :)
@[simp] theorem leaveHandler_coldst (p : Pass) (t : Strand) : (leaveHandler p t).coldst = t.coldst := (congrArg Strand.coldst (leaveHandler_eq p t) :)
@[simp] theorem leaveHandler_colgrp (p : Pass) (t : Strand) : (leaveHandler p t).colgrp = t.colgrp := (congrArg Strand.colgrp (leaveHandler_eq p t) :)
@[simp] theorem leaveHandler_colctl (p : Pass) (t : Strand) : (leaveHandler p t).colctl = t.colctl := (congrArg Strand.colctl (leaveHandler_eq p t) :)
@[simp] theorem leaveHandler_colerr (p : Pass) (t : Strand) : (leaveHandler p t).colerr = t.colerr := (congrArg Strand.colerr (leaveHandler_eq p t) :)
@[simp] theorem leaveHandler_mcerr (p : Pass) (t : Strand) : (leaveHandler p t).mcerr = t.mcerr := (congrArg Strand.mcerr (leaveHandler_eq p t) :)
@[simp] theorem leaveHandler_refused (p : Pass) (t : Strand) : (leaveHandler p t).refused = t.refused := (congrArg Strand.refused (leaveHandler_eq p t) :)
@[simp] theorem leaveHandler_bindPc (p : Pass) (t : Strand) : (leaveHandler p t).bindPc = t.bindPc := (congrArg Strand.bindPc (leaveHandler_eq p t) :)
@[simp] theorem leaveHandler_resumed (p : Pass) (t : Strand) : (leaveHandler p t).resumed = t.resumed := (congrArg Strand.resumed (leaveHandler_eq p t) :)
@[simp] theorem leaveHandler_place (p : Pass) (t : Strand) : (leaveHandler p t).place = t.place := (congrArg Strand.place (leaveHandler_eq p t) :)
@[simp] theorem leaveHandler_ids (p : Pass) (t : Strand) : (leaveHandler p t).ids = t.ids := (congrArg Strand.ids (leaveHandler_eq p t) :)
@[simp] theorem leaveHandler_replay (p : Pass) (t : Strand) : (leaveHandler p t).replay = t.replay := (congrArg Strand.replay (leaveHandler_eq p t) :)

end Sys2Proof.Laws
end

