-- ==== Sys2Proof/Laws/Memory.lean ====
section
/-! SUPPORT. Laws of keyed lists and of memory: a read after a write, and that every memory operation keeps the canonical form. -/

namespace Sys2Proof.Laws

open Sys2Proof.Machine

-- ## Keyed lists

@[simp] theorem findD_putK {α : Type} (l : List (Nat × α)) (k : Nat) (v d : α) : findD (putK l k v) k d = v := by
  induction l with
  | nil => simp [putK, findD]
  | cons x r ih =>
    obtain ⟨k', v'⟩ := x
    by_cases h : k' = k
    · simp [putK, findD, h]
    · by_cases h2 : k < k' <;> simp [putK, findD, h, h2, ih]

theorem findD_putK_ne {α : Type} (l : List (Nat × α)) {k j : Nat} (v d : α) (h : j ≠ k) :
    findD (putK l k v) j d = findD l j d := by
  induction l with
  | nil => simp [putK, findD, Ne.symm h]
  | cons x r ih =>
    obtain ⟨k', v'⟩ := x
    by_cases h1 : k' = k
    · subst h1; simp [putK, findD, Ne.symm h]
    · by_cases h2 : k < k'
      · simp [putK, findD, h1, h2, Ne.symm h]
      · simp [putK, findD, h1, h2, ih]

@[simp] theorem clusterAt_putCluster (s : State) (k : Nat) (c : ClusterState) : clusterAt (putCluster s k c) k = c := by
  simp [clusterAt, putCluster]

theorem clusterAt_putCluster_ne (s : State) {k j : Nat} (c : ClusterState) (h : j ≠ k) :
    clusterAt (putCluster s k c) j = clusterAt s j := findD_putK_ne _ _ _ h

@[simp] theorem coreAt_putCore (s : State) (k : Nat) (c : CoreState) : coreAt (putCore s k c) k = c := by
  simp [coreAt, putCore]

theorem coreAt_putCore_ne (s : State) {k j : Nat} (c : CoreState) (h : j ≠ k) : coreAt (putCore s k c) j = coreAt s j :=
  findD_putK_ne _ _ _ h

-- ## Reading memory

theorem memByte_append (m n : Memory) (a : Nat) :
    memByte (m ++ n) a = if m.any (fun c => c.1 == a) then memByte m a else memByte n a := by
  induction m with
  | nil => simp
  | cons x r ih =>
    obtain ⟨k, b⟩ := x
    by_cases h : k = a <;> simp [memByte, h, ih]

theorem memByte_filter (p : Nat → Bool) (m : Memory) (a : Nat) :
    memByte (m.filter fun c => p c.1) a = if p a then memByte m a else 0 := by
  induction m with
  | nil => simp [memByte]
  | cons x r ih =>
    obtain ⟨k, b⟩ := x
    by_cases hk : p k <;> by_cases h : k = a
    · subst h; simp [memByte, hk]
    · simp [memByte, hk, h, ih]
    · subst h; simp [hk, ih]
    · simp [memByte, hk, h, ih]

theorem memByte_of_not_any (m : Memory) (a : Nat) (h : m.any (fun c => c.1 == a) = false) : memByte m a = 0 := by
  induction m with
  | nil => rfl
  | cons x r ih =>
    obtain ⟨k, b⟩ := x
    simp only [List.any_cons, Bool.or_eq_false_iff, beq_eq_false_iff_ne] at h
    simp [memByte, h.1, ih h.2]

theorem cellsOf_bounds (a : Nat) (bs : List Byte) : ∀ c ∈ cellsOf a bs, a ≤ c.1 ∧ c.1 < a + bs.length := by
  induction bs generalizing a with
  | nil => simp [cellsOf]
  | cons b r ih =>
    intro c hc
    unfold cellsOf at hc
    split at hc
    · have := ih (a + 1) c hc; simp only [List.length_cons]; omega
    · rcases List.mem_cons.mp hc with rfl | hc
      · simp
      · have := ih (a + 1) c hc; simp only [List.length_cons]; omega

theorem memByte_cellsOf (a : Nat) (bs : List Byte) (k : Nat) :
    memByte (cellsOf a bs) (a + k) = bs.getD k 0 := by
  induction bs generalizing a k with
  | nil => simp [cellsOf, memByte]
  | cons b r ih =>
    cases k with
    | zero =>
      unfold cellsOf
      split
      · rename_i h
        rw [memByte_of_not_any]
        · simp [h]
        · rw [List.any_eq_false]
          intro c hc
          have := cellsOf_bounds (a + 1) r c hc
          simp; omega
      · simp [memByte]
    | succ k =>
      have e : a + (k + 1) = a + 1 + k := by omega
      unfold cellsOf
      split
      · rw [e, ih]; simp
      · have h : a ≠ a + 1 + k := by omega
        rw [e]; simp [memByte, h, ih]

/-- A byte inside what was written is what was written. -/
theorem memByte_memWrite_in (m : Memory) (a : Nat) (bs : List Byte) (k : Nat) (h : k < bs.length) :
    memByte (memWrite m a bs) (a + k) = bs.getD k 0 := by
  unfold memWrite
  rw [List.append_assoc, memByte_append, memByte_append, memByte_filter (fun x => decide (x < a)),
    memByte_filter (fun x => decide (a + bs.length ≤ x)), memByte_cellsOf]
  have h1 : ((m.filter fun c => decide (c.1 < a)).any fun c => c.1 == a + k) = false := by
    rw [List.any_eq_false]; intro c hc; simp at hc ⊢; omega
  rw [h1]
  by_cases h2 : (cellsOf a bs).any fun c => c.1 == a + k
  · simp [h2]
  · have h3 := memByte_cellsOf a bs k
    rw [memByte_of_not_any _ _ (Bool.eq_false_iff.mpr h2)] at h3
    have : ¬ a + bs.length ≤ a + k := by omega
    simp only [h2, this, ← h3]
    simp

/-- A byte outside what was written is as before. -/
theorem memByte_memWrite_out (m : Memory) (a : Nat) (bs : List Byte) (j : Nat) (h : j < a ∨ a + bs.length ≤ j) :
    memByte (memWrite m a bs) j = memByte m j := by
  unfold memWrite
  have h0 : ((cellsOf a bs).any fun c => c.1 == j) = false := by
    rw [List.any_eq_false]; intro c hc; have := cellsOf_bounds a bs c hc; simp; omega
  rw [List.append_assoc, memByte_append, memByte_append, memByte_filter (fun x => decide (x < a)),
    memByte_filter (fun x => decide (a + bs.length ≤ x)), h0]
  by_cases h1 : (m.filter fun c => decide (c.1 < a)).any fun c => c.1 == j
  · have : j < a := by
      obtain ⟨c, hc, e⟩ := List.any_eq_true.mp h1
      simp at hc e; omega
    simp [h1, this]
  · simp only [h1]
    by_cases hj : j < a
    · have h2 : (m.any fun c => c.1 == j) = false := by
        rw [List.any_eq_false]
        intro c hc e
        apply h1
        refine List.any_eq_true.mpr ⟨c, ?_, e⟩
        simp at e ⊢; exact ⟨hc, by omega⟩
      have h3 : ¬ a + bs.length ≤ j := by omega
      simp [h3, memByte_of_not_any m j h2]
    · have h3 : a + bs.length ≤ j := by omega
      simp [h3]

-- ## The canonical form

/-- The canonical form, as a statement about the list. -/
theorem wf_iff (m : Memory) : Memory.wf m = true ↔ (∀ c ∈ m, c.2 ≠ 0) ∧ m.Pairwise (fun x y => x.1 < y.1) := by
  induction m with
  | nil => simp [Memory.wf]
  | cons x r ih =>
    obtain ⟨a, b⟩ := x
    cases r with
    | nil => simp [Memory.wf]
    | cons y r =>
      obtain ⟨a', b'⟩ := y
      simp only [Memory.wf, Bool.and_eq_true, decide_eq_true_eq, ih, bne_iff_ne]
      constructor
      · rintro ⟨⟨hb, ha⟩, hz, hp⟩
        refine ⟨List.forall_mem_cons.mpr ⟨hb, hz⟩, List.pairwise_cons.mpr ⟨?_, hp⟩⟩
        intro c hc
        rcases List.mem_cons.mp hc with rfl | hc
        · exact ha
        · exact Nat.lt_trans ha ((List.pairwise_cons.mp hp).1 c hc)
      · rintro ⟨hz, hp⟩
        have hp' := List.pairwise_cons.mp hp
        exact ⟨⟨hz _ (List.mem_cons_self ..), hp'.1 _ (List.mem_cons_self ..)⟩,
          fun c hc => hz c (List.mem_cons_of_mem _ hc), hp'.2⟩

theorem cellsOf_pairwise (a : Nat) (bs : List Byte) :
    (∀ c ∈ cellsOf a bs, c.2 ≠ 0) ∧ (cellsOf a bs).Pairwise (fun x y => x.1 < y.1) := by
  induction bs generalizing a with
  | nil => simp [cellsOf]
  | cons b r ih =>
    unfold cellsOf
    split
    · exact ih (a + 1)
    · rename_i h
      refine ⟨fun c hc => ?_, List.pairwise_cons.mpr ⟨fun c hc => ?_, (ih (a + 1)).2⟩⟩
      · rcases List.mem_cons.mp hc with rfl | hc
        · exact h
        · exact (ih (a + 1)).1 c hc
      · have := cellsOf_bounds (a + 1) r c hc; simp; omega

/-- Writing bytes keeps the canonical form. -/
theorem memWrite_wf (m : Memory) (a : Nat) (bs : List Byte) (h : Memory.wf m = true) : Memory.wf (memWrite m a bs) = true := by
  rw [wf_iff] at h ⊢
  obtain ⟨hz, hp⟩ := h
  have hc := cellsOf_pairwise a bs
  unfold memWrite
  refine ⟨?_, ?_⟩
  · intro c hmem
    simp only [List.mem_append, List.mem_filter] at hmem
    rcases hmem with (⟨h1, _⟩ | h1) | ⟨h1, _⟩
    · exact hz c h1
    · exact hc.1 c h1
    · exact hz c h1
  · rw [List.pairwise_append, List.pairwise_append]
    refine ⟨⟨hp.filter _, hc.2, ?_⟩, hp.filter _, ?_⟩
    · intro x hx y hy
      have := cellsOf_bounds a bs y hy
      simp at hx; omega
    · intro x hx y hy
      simp only [List.mem_append, List.mem_filter, decide_eq_true_eq] at hx hy
      rcases hx with hx | hx
      · omega
      · have := cellsOf_bounds a bs x hx; omega

/-- Writing stored bytes out, one after another, keeps the canonical form. -/
theorem memWrite_foldr_wf {α : Type} (key : α → Nat) (val : α → List Byte) (l : List α) (m : Memory) (h : Memory.wf m = true) :
    Memory.wf (l.foldr (fun p m => memWrite m (key p) (val p)) m) = true := by
  induction l with
  | nil => exact h
  | cons x r ih => exact memWrite_wf _ _ _ ih

/-- Writing bytes one after another from the left keeps the canonical form. -/
theorem memWrite_foldl_wf {α : Type} (key : α → Nat) (val : α → List Byte) (l : List α) (m : Memory) (h : Memory.wf m = true) :
    Memory.wf (l.foldl (fun m p => memWrite m (key p) (val p)) m) = true := by
  induction l generalizing m with
  | nil => exact h
  | cons x r ih => exact ih _ (memWrite_wf _ _ _ h)

/-- Dropping cells keeps the canonical form. -/
theorem memFilter_wf (p : Host.Cell → Bool) (m : Memory) (h : Memory.wf m = true) : Memory.wf (m.filter p) = true := by
  rw [wf_iff] at h ⊢
  exact ⟨fun c hc => h.1 c (List.mem_of_mem_filter hc), h.2.filter _⟩

/-- A write of no bytes to a memory in its canonical form leaves it. -/
theorem memWrite_nil (m : Memory) (a : Nat) (h : Memory.wf m = true) : memWrite m a [] = m := by
  rw [wf_iff] at h
  obtain ⟨-, hp⟩ := h
  simp only [memWrite, cellsOf, List.append_nil, List.length_nil, Nat.add_zero]
  induction m with
  | nil => rfl
  | cons c r ih =>
    rw [List.pairwise_cons] at hp
    by_cases hc : c.1 < a
    · have : ¬ a ≤ c.1 := by omega
      simp [hc, this, ih hp.2]
    · have h1 : r.filter (fun c => decide (c.1 < a)) = [] := by
        simp only [List.filter_eq_nil_iff, decide_eq_true_eq]
        intro x hx; have := hp.1 x hx; omega
      have h2 : r.filter (fun c => decide (a ≤ c.1)) = r := by
        simp only [List.filter_eq_self, decide_eq_true_eq]
        intro x hx; have := hp.1 x hx; omega
      have h3 : a ≤ c.1 := by omega
      simp [hc, h1, h2, h3]

-- ## Numbers as bytes

@[simp] theorem leBytes_length (n x : Nat) : (leBytes n x).length = n := by
  induction n generalizing x with
  | zero => rfl
  | succ n ih => simp [leBytes, ih]

/-- The bytes of a number read back as its low bits. -/
theorem leNat_leBytes (n x : Nat) : leNat (leBytes n x) = x % 256 ^ n := by
  induction n generalizing x with
  | zero => simp [leBytes, leNat, Nat.mod_one]
  | succ n ih =>
    simp only [leBytes, leNat, ih, BitVec.toNat_ofNat]
    have h : (2:Nat) ^ 8 = 256 := rfl
    rw [h, Nat.pow_succ, Nat.mul_comm (256 ^ n) 256, Nat.mod_mul]

/-- A number written to memory reads back. -/
theorem memNat_memWrite (m : Memory) (a n x : Nat) : memNat (memWrite m a (leBytes n x)) a n = x % 256 ^ n := by
  rw [← leNat_leBytes]
  unfold memNat memBytes
  congr 1
  apply List.ext_getElem
  · simp
  · intro i h1 h2
    simp only [List.length_map, List.length_range] at h1
    have := memByte_memWrite_in m a (leBytes n x) i (by simpa using h1)
    simp only [List.getElem_map, List.getElem_range, this]
    simp [List.getD_eq_getElem?_getD, h1]

-- ## Registers

theorem getS_zero (t : Strand) : getS t 0 = 0 := by simp [getS]
theorem getP_zero (t : Strand) : getP t 0 = true := by simp [getP]
theorem getM_zero (t : Strand) : getM t 0 = BitVec.allOnes 4096 := by simp [getM]

theorem getS_setS (t : Strand) (r q : BitVec 5) (v : Word) :
    getS (setS t r v) q = if q = r ∧ r ≠ 0 then v else getS t q := by
  by_cases hr : r = 0
  · rw [setS, if_pos hr]; exact (if_neg (fun h => h.2 hr)).symm
  · by_cases hq : q = 0
    · subst hq
      rw [if_neg (fun h => hr h.1.symm)]; rfl
    · have e : getS (setS t r v) q = (t.sregs.set r.toNat v)[q.toNat] := by
        simp only [getS, setS, if_neg hr, if_neg hq]
      rw [e, Vector.getElem_set]
      by_cases h : q = r
      · subst h; rw [if_pos rfl, if_pos ⟨rfl, hr⟩]
      · have h' : ¬ r.toNat = q.toNat := fun e => h (BitVec.eq_of_toNat_eq e.symm)
        rw [if_neg h', if_neg (fun x => h x.1), getS, if_neg hq]

theorem getP_setP (t : Strand) (r q : BitVec 3) (v : Bool) :
    getP (setP t r v) q = if q = r ∧ r ≠ 0 then v else getP t q := by
  by_cases hr : r = 0
  · rw [setP, if_pos hr]; exact (if_neg (fun h => h.2 hr)).symm
  · by_cases hq : q = 0
    · subst hq
      rw [if_neg (fun h => hr h.1.symm)]; rfl
    · have e : getP (setP t r v) q = (t.pregs.set r.toNat v)[q.toNat] := by
        simp only [getP, setP, if_neg hr, if_neg hq]
      rw [e, Vector.getElem_set]
      by_cases h : q = r
      · subst h; rw [if_pos rfl, if_pos ⟨rfl, hr⟩]
      · have h' : ¬ r.toNat = q.toNat := fun e => h (BitVec.eq_of_toNat_eq e.symm)
        rw [if_neg h', if_neg (fun x => h x.1), getP, if_neg hq]

theorem getM_setM (t : Strand) (r q : BitVec 3) (v : BitVec 4096) :
    getM (setM t r v) q = if q = r ∧ r ≠ 0 then v else getM t q := by
  by_cases hr : r = 0
  · rw [setM, if_pos hr]; exact (if_neg (fun h => h.2 hr)).symm
  · by_cases hq : q = 0
    · subst hq
      rw [if_neg (fun h => hr h.1.symm)]; rfl
    · have e : getM (setM t r v) q = (t.masks.set r.toNat v)[q.toNat] := by
        simp only [getM, setM, if_neg hr, if_neg hq]
      rw [e, Vector.getElem_set]
      by_cases h : q = r
      · subst h; rw [if_pos rfl, if_pos ⟨rfl, hr⟩]
      · have h' : ¬ r.toNat = q.toNat := fun e => h (BitVec.eq_of_toNat_eq e.symm)
        rw [if_neg h', if_neg (fun x => h x.1), getM, if_neg hq]

theorem getV_setV (t : Strand) (r q : BitVec 5) (v : BitVec 262144) :
    getV (setV t r v) q = if q = r then v else getV t q := by
  by_cases h : q = r
  · subst h; simp [getV, setV]
  · have h' : ¬ r.toNat = q.toNat := fun e => h (BitVec.eq_of_toNat_eq e.symm)
    simp [getV, setV, h, h']

/-- Writing another register's predicate, vector or mask leaves the scalar registers. -/
@[simp] theorem getS_setP (t : Strand) (r : BitVec 3) (v : Bool) (q : BitVec 5) : getS (setP t r v) q = getS t q := by
  simp [getS]
@[simp] theorem getP_setS (t : Strand) (r : BitVec 5) (v : Word) (q : BitVec 3) : getP (setS t r v) q = getP t q := by
  simp [getP]
@[simp] theorem getS_goTo (a : Word) (t : Strand) (q : BitVec 5) : getS (goTo a t) q = getS t q := rfl
@[simp] theorem getP_goTo (a : Word) (t : Strand) (q : BitVec 3) : getP (goTo a t) q = getP t q := rfl

end Sys2Proof.Laws
end

