-- ==== Sys2Proof/Laws/Frames.lean ====
section
/-! SUPPORT. The frames of scalar and vector instructions: what each can do, said once. -/

namespace Sys2Proof.Laws

open Sys2Proof.Machine

-- ## Scalar instructions

/-- A ready scalar instruction does its own work. -/
theorem scalarOp_ready {g : Guard} {rs ws : List (BitVec 5)} {ps : List (BitVec 3)} {work : M Word} {s : State}
    (h : Ready g rs ws ps s) :
    scalarOp g rs ws ps noCheck work s =
      match work s with
      | .ok a s2 => .next (mapStrand (goTo a) s2)
      | .error (.trap c v) s2 => .next (raiseWith s.strand.fflags c v s.strand.pc s2)
      | .error (.wait k) s2 => .next (waitScalar k s2) := by
  obtain ⟨hg, hv, hp, hr⟩ := h
  simp only [scalarOp, noCheck, hg, hv, hp, hr, if_true, if_false, Bool.false_eq_true] <;> rfl

/-- A ready scalar instruction whose work succeeds goes on at its successor. -/
theorem plainOp_ready {g : Guard} {rs ws : List (BitVec 5)} {ps : List (BitVec 3)} {work : M Unit} {s s1 : State}
    (h : Ready g rs ws ps s) (hw : work s = .ok () s1) : plainOp g rs ws ps work s = .next (advance s1) := by
  simp only [plainOp, scalarOp_ready h, thenNext, hw]; rfl

/-- A scalar instruction whose guard is false and free of errors only moves on. -/
theorem scalarOp_guardOff {g : Guard} {rs ws : List (BitVec 5)} {ps : List (BitVec 3)} {work : M Word} {s : State}
    (hg : guardOn g s.strand = false) (hp : upsetValue s.strand [] [g.p] = none) :
    scalarOp g rs ws ps noCheck work s = .next (advance s) := by
  simp only [scalarOp, noCheck, hg, hp, if_false, Bool.false_eq_true]

/-- A scalar instruction always answers a next state. -/
theorem scalarOp_next (g : Guard) (rs ws : List (BitVec 5)) (ps : List (BitVec 3)) (pre : M Unit) (work : M Word) (s : State) :
    ∃ t, scalarOp g rs ws ps pre work s = .next t := by
  unfold scalarOp
  split
  · exact ⟨_, rfl⟩
  · exact ⟨_, rfl⟩
  · split
    · exact ⟨_, rfl⟩
    · split
      · split
        · exact ⟨_, rfl⟩
        · split
          · exact ⟨_, rfl⟩
          · split <;> exact ⟨_, rfl⟩
      · exact ⟨_, rfl⟩

-- ## Vector instructions

/-- A vector instruction always answers a next state. -/
theorem vqOp_next (i : Instr) (g : Guard) (whole fence : Bool) (work : VqEntry → M Unit) (s : State) :
    ∃ t, vqOp i g whole fence work s = .next t := by
  unfold vqOp
  split
  · exact ⟨_, rfl⟩
  · split
    · split <;> exact ⟨_, rfl⟩
    · exact ⟨_, rfl⟩

/-- The entry at the head of the VQ executes. -/
theorem vqOp_head {i : Instr} {g : Guard} {whole fence : Bool} {work : VqEntry → M Unit} {s : State} {e : VqEntry}
    (h : AtHead e s) : vqOp i g whole fence work s = .next (vqRun e whole work s) := by
  unfold AtHead at h
  unfold vqOp
  split
  · rename_i x r hx; rw [hx] at h; cases h; rfl
  · rename_i hx; rw [hx] at h; cases h

/-- An entry whose work succeeds commits. -/
theorem vqOp_commits {i : Instr} {g : Guard} {whole fence : Bool} {work : VqEntry → M Unit} {s s1 : State} {e : VqEntry}
    (h : AtHead e s) (hv : whole = true → s.strand.vstart = 0) (hw : work e s = .ok () s1) :
    vqOp i g whole fence work s = .next (commitVq s1) := by
  rw [vqOp_head h]
  have : (whole && s.strand.vstart != 0) = false := by
    cases whole
    · rfl
    · simp [hv rfl]
  simp only [vqRun, this, hw, if_false, Bool.false_eq_true]

end Sys2Proof.Laws
end

