-- ==== Sys2Proof/Laws/Elements.lean ====
section
/-! SUPPORT. Element-wise execution, said once: a run over the elements whose every step succeeds is a fold over the strand. -/

namespace Sys2Proof.Laws

open Sys2Proof.Machine

/-- The errors of the first strand are all among those of the second. -/
def FewerUpsets (t u : Strand) : Prop := ∀ x ∈ t.upsets, x ∈ u.upsets

theorem FewerUpsets.refl (t : Strand) : FewerUpsets t t := fun _ h => h

theorem FewerUpsets.trans {a b c : Strand} (h : FewerUpsets a b) (k : FewerUpsets b c) : FewerUpsets a c :=
  fun x hx => k x (h x hx)

theorem mend_fewer {f : RegFile} {r e : Nat} {l : List Upset} {x : Upset} (h : x ∈ mend f r e l) : x ∈ l :=
  (List.mem_filter.mp h).1

theorem putElem_fewer (t : Strand) (r : BitVec 5) (w k x : Nat) : FewerUpsets (putElem t r w k x) t := by
  intro u hu; exact (List.mem_filter.mp hu).1

theorem putMask_fewer (t : Strand) (r : BitVec 3) (k : Nat) (b : Bool) : FewerUpsets (putMask t r k b) t := by
  intro u hu; exact mend_fewer hu

theorem setS_fewer (t : Strand) (r : BitVec 5) (v : Word) : FewerUpsets (setS t r v) t := by
  intro u hu
  unfold setS at hu
  split at hu
  · exact hu
  · exact mend_fewer hu

/-- An effect on the strand that neither reads nor writes VSTART. -/
def KeepsVstart (f : Strand → Strand) : Prop := ∀ t v, f { t with vstart := v } = { f t with vstart := v }

theorem putElem_keepsVstart (t : Strand) (r : BitVec 5) (w k x v : Nat) :
    putElem { t with vstart := v } r w k x = { putElem t r w k x with vstart := v } := rfl

theorem setM_keepsVstart (t : Strand) (r : BitVec 3) (y : BitVec 4096) (v : Nat) :
    setM { t with vstart := v } r y = { setM t r y with vstart := v } := by
  unfold setM; split <;> rfl

theorem putMask_keepsVstart (t : Strand) (r : BitVec 3) (k : Nat) (b : Bool) (v : Nat) :
    putMask { t with vstart := v } r k b = { putMask t r k b with vstart := v } := by
  unfold putMask
  rw [show getM { t with vstart := v } r = getM t r from rfl, setM_keepsVstart]

theorem setS_keepsVstart (t : Strand) (r : BitVec 5) (y : Word) (v : Nat) :
    setS { t with vstart := v } r y = { setS t r y with vstart := v } := by
  unfold setS; split <;> rfl

/-- A mask bit free of errors is read. -/
theorem readMask_ok {m : BitVec 3} {k : Nat} {s : State} (h : ∀ x ∈ s.strand.upsets, ¬ (x.file = .mask ∧ x.reg = m.toNat)) :
    readMask m k s = .ok (maskBit s.strand m k) s := by
  unfold readMask
  have : s.strand.upsets.contains ⟨.mask, m.toNat, k⟩ = false := by
    rw [List.contains_eq_mem, decide_eq_false_iff_not]
    intro hx; exact h _ hx ⟨rfl, rfl⟩
  rw [this, Bool.and_false]; rfl

/-- An element free of errors is read. -/
theorem readElem_ok {r : BitVec 5} {w k : Nat} {s : State} (h : ∀ x ∈ s.strand.upsets, ¬ (x.file = .vec ∧ x.reg = r.toNat)) :
    readElem r w k s = .ok (velem s.strand r w k) s := by
  unfold readElem
  rw [if_neg]
  intro hx
  obtain ⟨u, hu, hk⟩ := List.any_eq_true.mp hx
  simp only [Bool.and_eq_true, beq_iff_eq] at hk
  exact h u hu ⟨hk.1.1.1, hk.1.1.2⟩

/-- One element of a run whose mask bit can be read. -/
theorem overElems_cons {m : BitVec 3} {F : Nat → M Unit} {k : Nat} {l : List Nat} {s : State}
    (h : readMask m k (mapStrand (fun t => { t with vstart := k }) s) =
      .ok (maskBit s.strand m k) (mapStrand (fun t => { t with vstart := k }) s)) :
    overElems m F (k :: l) s =
      match (if maskBit s.strand m k then F k (mapStrand (fun t => { t with vstart := k }) s)
        else .ok () (mapStrand (fun t => { t with vstart := k }) s)) with
      | .ok _ s1 => overElems m F l s1
      | .error e s1 => .error e s1 := by
  simp only [overElems, forEach, atElem, onStrand, change, h] <;> cases maskBit s.strand m k <;> rfl

/-- The run of element-wise effects over a list of elements, none when one of them stops. -/
def runOver (m : BitVec 3) (g : Nat → Strand → Option Strand) (l : List Nat) (t : Strand) : Option Strand :=
  l.foldlM (fun t k => if maskBit t m k then g k t else some t) t

theorem runOver_cons (m : BitVec 3) (g : Nat → Strand → Option Strand) (k : Nat) (l : List Nat) (t : Strand) :
    runOver m g (k :: l) t = (if maskBit t m k then g k t else some t).bind (runOver m g l) := rfl

/-- A strand with another VSTART. -/
def atV (v : Nat) (t : Strand) : Strand := { t with vstart := v }

/-- A run of effects that keep VSTART keeps it. -/
theorem runOver_atV {m : BitVec 3} {g : Nat → Strand → Option Strand} (hc : ∀ k t v, g k (atV v t) = (g k t).map (atV v))
    (v : Nat) (l : List Nat) : ∀ t, runOver m g l (atV v t) = (runOver m g l t).map (atV v) := by
  induction l with
  | nil => intro t; rfl
  | cons k r ih =>
    intro t
    rw [runOver_cons, runOver_cons, show maskBit (atV v t) m k = maskBit t m k from rfl]
    cases maskBit t m k with
    | false => exact ih t
    | true =>
      simp only [if_true, hc]
      cases g k t with
      | none => rfl
      | some u => exact ih u

/-- Element-wise execution, where no element of the run stops (R138). `keep`: what the effects may rely on. -/
theorem overElems_run {m : BitVec 3} {F : Nat → M Unit} {g : Nat → Strand → Option Strand} {keep : Strand → Prop}
    (hF : ∀ k (s : State) t, keep s.strand → g k s.strand = some t → F k s = .ok () (mapStrand (fun _ => t) s))
    (hf : ∀ k t u, keep t → g k t = some u → keep u) (hv : ∀ t v, keep t → keep (atV v t))
    (hc : ∀ k t v, g k (atV v t) = (g k t).map (atV v))
    (hm : ∀ k (s : State), keep s.strand → readMask m k s = .ok (maskBit s.strand m k) s) (l : List Nat) :
    ∀ (s : State) (t : Strand), keep s.strand → runOver m g l s.strand = some t →
      ∃ v, overElems m F l s = .ok () (mapStrand (fun _ => atV v t) s) := by
  induction l with
  | nil =>
    intro s t _ h
    cases h
    exact ⟨s.strand.vstart, rfl⟩
  | cons k r ih =>
    intro s t hs h
    have h1 : keep (mapStrand (atV k) s).strand := hv _ k hs
    rw [runOver_cons] at h
    rw [show overElems m F (k :: r) s = _ from overElems_cons (hm k _ h1)]
    cases hb : maskBit s.strand m k with
    | false =>
      rw [hb] at h
      obtain ⟨v, e⟩ := ih (mapStrand (atV k) s) (atV k t) h1 (by
        rw [show (mapStrand (atV k) s).strand = atV k s.strand from rfl, runOver_atV hc, show runOver m g r s.strand = some t from h]; rfl)
      exact ⟨v, e⟩
    | true =>
      rw [hb] at h
      obtain ⟨u, hu, h2⟩ := Option.bind_eq_some_iff.mp h
      have hu : g k s.strand = some u := hu
      have h3 : g k (mapStrand (atV k) s).strand = some (atV k u) := by
        rw [show (mapStrand (atV k) s).strand = atV k s.strand from rfl, hc, hu]; rfl
      obtain ⟨v, e⟩ := ih (mapStrand (fun _ => atV k u) (mapStrand (atV k) s)) (atV k t) (hf k _ _ h1 h3) (by
        rw [show (mapStrand (fun _ => atV k u) (mapStrand (atV k) s)).strand = atV k u from rfl, runOver_atV hc, h2]; rfl)
      refine ⟨v, ?_⟩
      simp only [if_true]
      rw [show F k (mapStrand (fun t => { t with vstart := k }) s) = _ from hF k _ _ h1 h3]
      exact e

/-- Committing forgets VSTART. -/
theorem commitVq_atV (s : State) (t : Strand) (v : Nat) :
    commitVq (mapStrand (fun _ => atV v t) s) = commits (fun _ => t) s := rfl

/-- An element-wise instruction at the head of the VQ, no element of whose run stops, commits the run (R138). -/
theorem vqOp_run {i : Instr} {g : Guard} {m : BitVec 3} {work : VqEntry → M Unit} (F : Nat → M Unit)
    {f : Nat → Strand → Option Strand} {e : VqEntry} {s : State} {t : Strand} {vs : List (BitVec 5)} {ms : List (BitVec 3)}
    (h : AtHead e s) (hw : work e s = elementWise m F s) (hq : Clean s vs ms) (hm : m = 0 ∨ m ∈ ms)
    (hF : ∀ k s1 t, Clean s1 vs ms → f k s1.strand = some t → F k s1 = .ok () (mapStrand (fun _ => t) s1))
    (hf : ∀ k t u, f k t = some u → FewerUpsets u t) (hc : ∀ k t v, f k (atV v t) = (f k t).map (atV v))
    (hr : runOver m f (elements s) s.strand = some t) :
    vqOp i g false false work s = .next (commits (fun _ => t) s) := by
  obtain ⟨v, r⟩ := overElems_run (m := m) (F := F) (g := f) (keep := fun t => FewerUpsets t s.strand)
    (fun k s1 t h1 => hF k s1 t fun u hu => hq u (h1 u hu)) (fun k t u h1 h2 => (hf k t u h2).trans h1) (fun t v h1 => h1) hc
    (fun k s1 h1 => by
      rcases hm with rfl | hm
      · rfl
      · exact readMask_ok fun x hx hh => (hq x (h1 x hx)).2 ⟨hh.1, m, hm, hh.2⟩)
    (elements s) s t (FewerUpsets.refl _) hr
  rw [vqOp_commits h (by simp) (hw.trans r), commitVq_atV]

theorem runOver_some (m : BitVec 3) (f : Nat → Strand → Strand) (l : List Nat) : ∀ t,
    runOver m (fun k t => some (f k t)) l t = some (l.foldl (fun t k => if maskBit t m k then f k t else t) t) := by
  induction l with
  | nil => intro t; rfl
  | cons k r ih =>
    intro t
    rw [runOver_cons, List.foldl_cons]
    cases maskBit t m k with
    | false => exact ih _
    | true => exact ih _

/-- An element-wise instruction at the head of the VQ whose every active element succeeds commits the fold (R138). -/
theorem vqOp_fold {i : Instr} {g : Guard} {m : BitVec 3} {work : VqEntry → M Unit} (F : Nat → M Unit)
    {f : Nat → Strand → Strand} {e : VqEntry} {s : State} {vs : List (BitVec 5)} {ms : List (BitVec 3)}
    (h : AtHead e s) (hw : work e s = elementWise m F s) (hq : Clean s vs ms) (hm : m = 0 ∨ m ∈ ms)
    (hF : ∀ k s1, Clean s1 vs ms → F k s1 = .ok () (mapStrand (f k) s1))
    (hf : ∀ k t, FewerUpsets (f k t) t) (hc : ∀ k, KeepsVstart (f k)) :
    vqOp i g false false work s = .next (commits (elementFold m f) s) := by
  rw [vqOp_run F (f := fun k t => some (f k t)) (t := elementFold m f s.strand) h hw hq hm
    (fun k s1 t h1 h2 => by cases h2; exact hF k s1 h1) (fun k t u h => by cases h; exact hf k t)
    (fun k t v => congrArg some (hc k t v)) (runOver_some m f _ _)]
  rfl

/-- The effect of an element that raises flags: none where they trap (R127). -/
def flagged (f : Nat → Strand → BitVec 6 × (Strand → Strand)) (k : Nat) (t : Strand) : Option Strand :=
  if flagTraps t (f k t).1 then none else some ((f k t).2 { t with fflags := t.fflags ||| (f k t).1 })

theorem elementRun_eq (m : BitVec 3) (f : Nat → Strand → BitVec 6 × (Strand → Strand)) (t : Strand) :
    elementRun m f t = runOver m (flagged f) (span t.vstart t.vl) t := rfl

end Sys2Proof.Laws
end

