-- ==== Sys2Proof/Laws/Keeps.lean ====
section
/-! SUPPORT. Work that keeps a property of the state, whether it completes or stops: the laws of its combinators. -/

namespace Sys2Proof.Laws

open Sys2Proof.Machine

/-- The state that a piece of work leaves, completed or stopped. -/
def leaves {α : Type} (r : EStateM.Result Stop State α) : State :=
  match r with
  | .ok _ s => s
  | .error _ s => s

/-- Work keeps `Inv`: from a state with it, the state left has it too. -/
def Keeps {α : Type} (Inv : State → Prop) (m : M α) : Prop := ∀ s, Inv s → Inv (leaves (m s))

variable {α β : Type} {Inv : State → Prop}

theorem keeps_pure (x : α) : Keeps Inv (pure x : M α) := fun _ h => h

theorem keeps_bind {m : M α} {f : α → M β} (hm : Keeps Inv m) (hf : ∀ x, Keeps Inv (f x)) : Keeps Inv (m >>= f) := by
  intro s h
  have h1 := hm s h
  show Inv (leaves (EStateM.bind m f s))
  unfold EStateM.bind
  cases hr : m s with
  | ok x s1 => rw [hr] at h1; exact hf x s1 h1
  | error e s1 => rw [hr] at h1; exact h1

theorem keeps_ask (f : State → α) : Keeps Inv (ask f) := fun _ h => h

theorem keeps_raise (c : Cause) (v : Word) : Keeps Inv (raise c v : M α) := fun _ h => h

theorem keeps_waitFor (k : WaitKind) : Keeps Inv (waitFor k : M α) := fun _ h => h

theorem keeps_trapIf (b : Bool) (c : Cause) (v : Word) : Keeps Inv (trapIf b c v) := by
  intro s h; cases b <;> exact h

theorem keeps_waitIf (b : Bool) (k : WaitKind) : Keeps Inv (waitIf b k) := by
  intro s h; cases b <;> exact h

theorem keeps_change {f : State → State} (hf : ∀ s, Inv s → Inv (f s)) : Keeps Inv (change f) := fun s h => hf s h

theorem keeps_ite {c : Prop} [Decidable c] {m n : M α} (hm : Keeps Inv m) (hn : Keeps Inv n) :
    Keeps Inv (if c then m else n) := by split <;> assumption

theorem keeps_forEach {f : Nat → M Unit} (hf : ∀ k, Keeps Inv (f k)) (l : List Nat) : Keeps Inv (forEach l f) := by
  induction l with
  | nil => exact fun _ h => h
  | cons x r ih =>
    intro s h
    have h1 := hf x s h
    unfold forEach
    cases hr : f x s with
    | ok u s1 => rw [hr] at h1; exact ih s1 h1
    | error e s1 => rw [hr] at h1; exact h1

/-- A change of the acting strand keeps what does not speak of it. -/
theorem keeps_onStrand {f : Strand → Strand} (hf : ∀ s t, Inv s → Inv { s with strand := t }) : Keeps Inv (onStrand f) :=
  keeps_change fun s h => hf s _ h

/-- The canonical form of memory does not speak of a strand. -/
theorem memOk_strand (s : State) (t : Strand) (h : MemOk s) : MemOk { s with strand := t } := h

end Sys2Proof.Laws
end

