-- ==== Sys2Proof/Laws/Strand.lean ====
section
/-! SUPPORT. Translation, and the check of a transfer's target, neither read nor write the acting strand beyond what the maker
of the access says: they commute with a change of the strand. -/

namespace Sys2Proof.Laws

open Sys2Proof.Machine

/-- A result with the acting strand of the state it leaves replaced. -/
def withStrand {α : Type} (t : Strand) (r : EStateM.Result Stop State α) : EStateM.Result Stop State α :=
  match r with
  | .ok a s => .ok a { s with strand := t }
  | .error e s => .error e { s with strand := t }

theorem foldl_strand {α : Type} (f : State → α → State) (hf : ∀ s x t, f { s with strand := t } x = { f s x with strand := t })
    (l : List α) (s : State) (t : Strand) : l.foldl f { s with strand := t } = { l.foldl f s with strand := t } := by
  induction l generalizing s with
  | nil => rfl
  | cons x l ih => rw [List.foldl_cons, List.foldl_cons, hf, ih]

/-- Reading units of memory leaves the acting strand to its own. -/
theorem readUnits_strand (key n : Nat) (s : State) (t : Strand) :
    readUnits key n { s with strand := t } = { readUnits key n s with strand := t } := by
  unfold readUnits
  dsimp only
  split
  · rfl
  · exact foldl_strand _ (fun s x t => by dsimp only; split <;> rfl) _ s t

theorem readTables_strand (l : List Nat) (s : State) (t : Strand) :
    l.foldl (fun s k => readUnits k 8 s) { s with strand := t } = { l.foldl (fun s k => readUnits k 8 s) s with strand := t } :=
  foldl_strand _ (fun s _ t => readUnits_strand _ _ s t) l s t

theorem tlbInsert_strand (w : Who) (e : TlbEntry) (s : State) (t : Strand) :
    tlbInsert w e { s with strand := t } = { tlbInsert w e s with strand := t } := by
  unfold tlbInsert
  dsimp only
  split <;> split <;> rfl

theorem deviceLeaf_strand (w : Who) (va : Nat) (acc : Acc) (s : State) (t : Strand) :
    deviceLeaf w va acc { s with strand := t } = withStrand t (deviceLeaf w va acc s) := by
  have h1 : tlbFind { s with strand := t } w = tlbFind s w := rfl
  have h2 : queueAt { s with strand := t } = queueAt s := rfl
  have h3 : cachedTable { s with strand := t } = cachedTable s := rfl
  have h4 : poisoned { s with strand := t } = poisoned s := rfl
  have k (l : List Nat) (x : List (Nat × WalkEntry)) := readTables_strand l { s with walks := x } t
  unfold deviceLeaf
  simp only [h1, h2, h3, h4]
  split
  · rfl
  · split
    · rfl
    · simp only [] at k
      simp only [k]
      split
      · rfl
      · split
        · simp only [tlbInsert_strand]; rfl
        · rfl

theorem localPlace_strand (w : Who) (va : Nat) (acc : Acc) (s : State) (t : Strand) :
    localPlace w va acc { s with strand := t } = withStrand t (localPlace w va acc s) := by
  have h1 : clSlotOk { s with strand := t } w = clSlotOk s w := rfl
  have h2 : coSlotOk { s with strand := t } w = coSlotOk s w := rfl
  unfold localPlace
  simp only [h1, h2]
  split
  · rfl
  · split
    · split <;> rfl
    · split
      · split <;> rfl
      · rfl

theorem hostPlace_strand (w : Who) (va : Nat) (acc : Acc) (s : State) (t : Strand) :
    hostPlace w va acc { s with strand := t } = withStrand t (hostPlace w va acc s) := by
  have h1 : tlbFind { s with strand := t } w = tlbFind s w := rfl
  have h2 : queueAt { s with strand := t } = queueAt s := rfl
  unfold hostPlace
  simp only [h1, h2]
  split
  · rfl
  · split
    · rfl
    · split
      · rfl
      · split <;> rfl

theorem translate_strand (w : Who) (va : Nat) (acc : Acc) (xv : Word) (s : State) (t : Strand) :
    Sys2Proof.Machine.translate w va acc xv { s with strand := t } =
      withStrand t (Sys2Proof.Machine.translate w va acc xv s) := by
  have h1 : redirect { s with strand := t } = redirect s := rfl
  unfold Sys2Proof.Machine.translate
  simp only [h1, localPlace_strand, hostPlace_strand, deviceLeaf_strand]
  by_cases hl : inLocal (redirect s w va) = true
  · simp only [hl, if_true]
    cases localPlace w (redirect s w va) acc s with
    | ok p s1 => rfl
    | error e s1 => cases e <;> rfl
  · simp only [hl]
    by_cases hb : bit (redirect s w va) 56 = true
    · simp only [hb, if_true]
      cases hostPlace w (redirect s w va) acc s with
      | ok p s1 => rfl
      | error e s1 => cases e <;> rfl
    · simp only [hb]
      cases deviceLeaf w (redirect s w va) acc s with
      | error e s1 => cases e <;> rfl
      | ok l s1 =>
        simp only [withStrand]
        by_cases h2 : (!permitted acc w.sup l) = true
        · simp only [h2, if_true]; rfl
        · simp only [h2]
          by_cases h3 : isMemory (moduleOffset (l.pa + redirect s w va % 2 ^ l.size)) = true
          · simp only [h3, if_true]; rfl
          · simp only [h3]
            by_cases h4 : (isRegister (moduleOffset (l.pa + redirect s w va % 2 ^ l.size)) && decide (l.attr = 3) &&
                acc != Acc.fetch) = true
            · simp only [h4, if_true]; rfl
            · simp only [h4]; rfl

theorem readStop_strand (key n : Nat) (s : State) (t : Strand) :
    readStop { s with strand := t } key n = (readStop s key n).map fun x => (x.1, { x.2 with strand := t }) := by
  have h1 : reachable { s with strand := t } = reachable s := rfl
  have h2 : abandoned { s with strand := t } = abandoned s := rfl
  have h3 : poisoned { s with strand := t } = poisoned s := rfl
  unfold readStop
  simp only [h1, h2, h3]
  split
  · rfl
  · split
    · rfl
    · split <;> rfl

theorem fetchCodeFor_strand (w : Who) (base : Word) (s : State) (t : Strand) :
    fetchCodeFor w base { s with strand := t } = withStrand t (fetchCodeFor w base s) := by
  unfold fetchCodeFor
  simp only [translate_strand]
  split
  · rfl
  · cases Sys2Proof.Machine.translate w base.toNat .fetch base s with
    | error e s1 => rfl
    | ok p s1 =>
      have h1 : readStop { s1 with strand := t } p.key 64 =
          (readStop s1 p.key 64).map fun x => (x.1, { x.2 with strand := t }) := readStop_strand _ _ s1 t
      have h2 : homeNat { s1 with strand := t } = homeNat s1 := rfl
      simp only [withStrand, h1, h2, readUnits_strand]
      cases readStop s1 p.key 64 <;> rfl

/-- The check of a target for a given maker commutes with a change of the acting strand. -/
theorem targetCheckFor_strand (w : Who) (a : Word) (s : State) (t : Strand) :
    targetCheckFor w a { s with strand := t } = withStrand t (targetCheckFor w a s) := by
  unfold targetCheckFor
  simp only [fetchCodeFor_strand]
  split
  · rfl
  · cases fetchCodeFor w (lineBase a) s with
    | error e s1 => rfl
    | ok b s1 =>
      simp only [withStrand]
      split <;> rfl

/-- The check of a target leaves the acting strand. -/
theorem targetCheckFor_keeps (w : Who) (a : Word) (s : State) :
    targetCheckFor w a s = withStrand s.strand (targetCheckFor w a s) := targetCheckFor_strand w a s s.strand

/-- The check of a transfer's target depends on the acting strand through its number, queue and window alone. -/
theorem targetCheck_strand (sup : Bool) (a : Word) (s : State) (t : Strand) (hid : t.id = s.strand.id)
    (hq : t.queue = s.strand.queue) (hb : t.wb = s.strand.wb) (hn : t.wn = s.strand.wn) :
    targetCheck sup a { s with strand := t } = withStrand t (targetCheck sup a s) := by
  simp only [targetCheck, targetCheckFor_strand]
  simp only [whoAmI, myCluster, myCore, hid, hq, hb, hn]

/-- A target that passes its check leaves the acting strand. -/
theorem targetCheck_keeps {sup : Bool} {a : Word} {s s1 : State} {p : Pass} (h : targetCheck sup a s = .ok p s1) :
    s1.strand = s.strand := by
  have k := targetCheckFor_keeps { whoAmI s with sup := sup, redir := false } a s
  unfold targetCheck at h
  rw [h] at k
  injection k with _ k2
  rw [k2]

/-- Giving up an access in progress leaves the acting strand. -/
@[simp] theorem dropUnc_strand (n : Nat) (s : State) : (dropUnc n s).strand = s.strand := by
  unfold dropUnc
  split <;> rfl

@[simp] theorem dropBoth_strand (n : Nat) (s : State) : (dropBoth n s).strand = s.strand := by simp [dropBoth]

@[simp] theorem abandonAll_strand (s : State) : (abandonAll s).strand = s.strand := dropBoth_strand _ _

/-- What a strand gives up depends on the acting strand through its number alone. -/
theorem dropUnc_other (n : Nat) (s : State) (t : Strand) :
    dropUnc n { s with strand := t } = { dropUnc n s with strand := t } := by
  unfold dropUnc
  split <;> rfl

theorem dropBoth_other (n : Nat) (s : State) (t : Strand) :
    dropBoth n { s with strand := t } = { dropBoth n s with strand := t } :=
  (congrArg (dropUnc n) (dropUnc_other (n + 2 ^ 18) s t)).trans (dropUnc_other n _ t)

theorem abandonAll_other (s : State) (t : Strand) (h : t.id = s.strand.id) :
    abandonAll { s with strand := t } = { abandonAll s with strand := t } := by
  have hm : me { s with strand := t } = me s := by simp only [me, h]
  have hl : leaveLock { s with strand := t } = { leaveLock s with strand := t } := by unfold leaveLock; rw [hm]
  unfold abandonAll
  rw [hm, hl]
  exact dropBoth_other (me s) (leaveLock s) t

/-- Entering the handler, said without the change of mode: the check of its line does not depend on it (R101). -/
theorem enterHandler_eq (c : Cause) (v : Word) (q : Bool) (s : State) :
    enterHandler c v q s =
      match targetCheck true s.strand.xvec s with
      | .ok p s1 => { abandonAll s1 with strand := { atHandler c v q s.strand with pc := s.strand.xvec, pass := some p } }
      | .error _ s1 => { abandonAll s1 with strand := loseContext (atHandler c v q s.strand) } := by
  have k := targetCheck_strand true s.strand.xvec s (atHandler c v q s.strand) rfl rfl rfl rfl
  have k2 := targetCheckFor_keeps { whoAmI s with sup := true, redir := false } s.strand.xvec s
  change targetCheck true s.strand.xvec s = withStrand s.strand (targetCheck true s.strand.xvec s) at k2
  unfold enterHandler
  rw [k]
  cases h : targetCheck true s.strand.xvec s with
  | ok p s1 =>
    rw [h] at k2
    have hs : s1.strand = s.strand := by injection k2 with _ k3; rw [k3]
    exact abandonAll_other s1 _ (by rw [hs]; rfl)
  | error e s1 =>
    rw [h] at k2
    have hs : s1.strand = s.strand := by injection k2 with _ k3; rw [k3]
    exact abandonAll_other s1 _ (by rw [hs]; rfl)

-- ## The mode bits (R17)

theorem withModes_priv (st : Word) (p q : Bool) : (withModes st p q).getLsbD 8 = p := by
  cases p <;> cases q <;> simp [withModes, word, b2n]

theorem withModes_ppriv (st : Word) (p q : Bool) : (withModes st p q).getLsbD 9 = q := by
  cases p <;> cases q <;> simp [withModes, word, b2n]

theorem withModes_low (st : Word) (p q : Bool) (i : Nat) (hi : i < 7) : (withModes st p q).getLsbD i = st.getLsbD i := by
  have : i = 0 ∨ i = 1 ∨ i = 2 ∨ i = 3 ∨ i = 4 ∨ i = 5 ∨ i = 6 := by omega
  rcases this with h | h | h | h | h | h | h <;> subst h <;> cases p <;> cases q <;> simp [withModes, word, b2n]

end Sys2Proof.Laws
end

