-- ==== Sys2Proof/Laws/Scratch.lean ====
section
/-! SUPPORT. Accesses in the core scratch window: their checks pass, a load sees what the strand sees, a store shows its bytes and
nothing else. -/

namespace Sys2Proof.Laws

open Sys2Proof.Machine

theorem redirect_none {s : State} {va : Nat} (h : NoPairs s) : redirect s (whoAmI s) va = va := by
  have : (clusterAt s (myCluster s)).pairs.toList.findSome? (fun p => pairSends p va) = none := by
    rw [List.findSome?_eq_none_iff]
    intro p hp
    simp only [pairSends, h p hp, if_true]
  simp only [redirect, whoAmI, this, if_true, Option.getD_none]

theorem check_scratch {s : State} {va : Word} {n o : Nat} {acc : Acc} (hp : NoPairs s) (h : coreScratch s va n o)
    (hacc : acc ≠ .fetch) :
    checkAccess (whoAmI s) va n acc s = .ok ⟨coKey (myCore s) o, .coScratch⟩ s := by
  obtain ⟨hva, ho, hal, hok⟩ := h
  have h1 : ¬ (va.toNat / 2 ^ 57 ≠ 0) := by omega
  have h2 : ¬ (va.toNat % n ≠ 0) := by omega
  have h3 : inLocal va.toNat = true := by simp only [inLocal, hva]; simp; omega
  simp only [checkAccess, if_neg h1, if_neg h2, Sys2Proof.Machine.translate, redirect_none hp, h3, if_true,
    localPlace, if_neg hacc]
  have h4 : ¬ (va.toNat - 0x00FFFFFF00000000 < 0x1800000) := by omega
  have h5 : 0x40000000 ≤ va.toNat - 0x00FFFFFF00000000 ∧ va.toNat - 0x00FFFFFF00000000 < 0x40040000 := by omega
  have h6 : va.toNat - 0x00FFFFFF00000000 - 0x40000000 = o := by omega
  simp only [if_neg h4, if_pos h5, h6, hok, if_true]
  rfl

theorem key_big (k o : Nat) : 2 ^ 54 ≤ coKey k o := by simp only [coKey, coScratchBase]; omega
theorem reach_scratch {s : State} {o : Nat} : reachable s (coKey (myCore s) o) = true := by
  have := key_big (myCore s) o
  simp only [reachable, Bool.or_eq_true, decide_eq_true_eq]; left; left; omega
theorem abandon_scratch {s : State} {o : Nat} (h : o < 0x40000) : abandoned s (coKey (myCore s) o) = false := by
  have h1 : myCore s < 128 := by simp only [myCore, coreOf, bits]; exact Nat.mod_lt _ (by norm_num)
  have : decide (hostBase ≤ coKey (myCore s) o) = false :=
    decide_eq_false (by simp only [hostBase, coKey, coScratchBase]; omega)
  simp [abandoned, this]

theorem eachFrom_ok {writer : Nat} {f : List Nat → Nat → M Nat} {g : Nat → Nat} {s : State} (hp : s.parts = [])
   (done l : List Nat) (h : ∀ k ∈ l, ∀ d, f d k s = .ok (g k) s) : eachFrom writer f done l s = .ok (done ++ l.map g) s := by
  induction l generalizing done with
  | nil => simp [eachFrom, clearParts, hp]
  | cons k r ih =>
    simp only [eachFrom, h k (by simp) done]
    rw [ih _ fun j hj => h j (by simp [hj])]
    simp

/-- A look whose accesses all answer at once, and change nothing, answers all of them. -/
theorem eachOnce_ok {writer n : Nat} {f : Nat → M Nat} {g : Nat → Nat} {s : State} (hp : s.parts = [])
   (h : ∀ k < n, f k s = .ok (g k) s) : eachOnce writer n f s = .ok ((List.range n).map g) s := by
  have := eachFrom_ok (writer := writer) (f := fun _ k => f k) (g := g) hp [] (span 0 n)
    fun k hk _ => h k (by simpa [span] using hk)
  simpa [eachOnce, eachWith, hp, findD, span] using this

theorem readStop_scratch {s : State} {n o : Nat} (ho : o < 0x40000) (hpo : poisoned s (coKey (myCore s) o) n = false) :
   readStop s (coKey (myCore s) o) n = none := by
  unfold readStop
  rw [reach_scratch, abandon_scratch ho, hpo]
  rfl

theorem loadAt_scratch {s : State} {va : Word} {n key : Nat} {w : Who} (h : readStop s key n = none) :
   loadAt (me s) w ⟨key, .coScratch⟩ n va s = .ok (leNat (rawView s (me s) w key n)) s := by
  have hl : learnPlace w.cl ⟨key, .coScratch⟩ s = s := rfl
  simp only [loadAt, hl, h]

theorem loads_scratch {s : State} {va : Word} {n o : Nat} (hp : NoPairs s) (h : coreScratch s va n o)
   (hpo : poisoned s (coKey (myCore s) o) n = false) :
   loadVa (me s) (whoAmI s) va n s = .ok (leNat ((List.range n).map fun k => seen s (coKey (myCore s) o + k))) s := by
  unfold loadVa
  rw [check_scratch (acc := .load) hp h (by decide)]
  exact loadAt_scratch (readStop_scratch h.2.1 hpo)

theorem find_map_new (bs : List Byte) (f : Byte × Nat → PStore) (key i0 : Nat)
    (hk : ∀ x, (f x).key = key + x.2) (q : PStore → Bool) (hq : ∀ x, q (f x) = true) (k : Nat) (hk2 : k < bs.length) :
   ((bs.zipIdx i0).map f).find? (fun p => p.key == key + (i0 + k) && q p) = some (f (bs[k], i0 + k)) := by
  induction bs generalizing i0 k with
  | nil => simp at hk2
  | cons b r ih =>
    cases k with
    | zero => simp [List.zipIdx_cons, hk, hq]
    | succ k =>
      simp only [List.zipIdx_cons, List.map_cons, List.find?_cons, hk, hq, Bool.and_true, List.getElem_cons_succ]
      rw [show (key + i0 == key + (i0 + (k+1))) = false by simp]
      have := ih (i0 + 1) k (by simpa using hk2)
      rw [show i0 + 1 + k = i0 + (k + 1) by omega] at this
      exact this

theorem leBytes_getElem (n x k : Nat) (h : k < n) : (leBytes n x)[k]'(by simpa using h) = BitVec.ofNat 8 (x / 256 ^ k) := by
  induction n generalizing x k with
  | zero => omega
  | succ n ih =>
    cases k with
    | zero => simp [leBytes]
    | succ k => simp only [leBytes, List.getElem_cons_succ]; rw [ih _ _ (by omega),
      Nat.div_div_eq_div_mul, Nat.pow_succ, Nat.mul_comm]

theorem seen_pend_in (s : State) (w : Who) (now key : Nat) (bs : List Byte) (k : Nat) (h : k < bs.length) :
   seen { s with stores := pendBytes (me s) w now key bs s.stores } (key + k) = bs[k] := by
  unfold seen viewByte pendBytes
  have := find_map_new bs (fun x =>
    { key := key + x.2, byte := x.1, owner := me s, core := w.co, cl := w.cl, lvl := 0, takers := [], made := now,
      scal := !w.vec && decide (w.co < 128) : PStore })
    key 0 (fun _ => rfl) (ownSees false s.stepNo (me s)) (fun _ => by simp [ownSees, ownView]) k h
  simp only [Nat.zero_add] at this
  change (match List.find? (fun p => p.key == key + k && ownSees false s.stepNo (me s) p) _ with
    | some p => _
    | none => _) = _
  rw [List.find?_append, this]
  simp only [Option.some_or]
  exact if_pos rfl

theorem find_filter_key (l : List PStore) (j : Nat) (q : PStore → Bool) :
    l.find? (fun p => p.key == j && q p) = (l.filter fun p => p.key == j).find? (fun p => p.key == j && q p) := by
  induction l with
  | nil => rfl
  | cons a r ih => by_cases hp : a.key = j <;> simp_all [List.find?_cons]

theorem takeWhile_filter_key (l : List PStore) (j : Nat) (p : PStore) (hp : p.key = j) (q : PStore → Bool) :
    (l.takeWhile fun x => x != p).find? (fun x => x.key == j && q x) =
      ((l.filter fun x => x.key == j).takeWhile fun x => x != p).find? (fun x => x.key == j && q x) := by
  induction l with
  | nil => rfl
  | cons a r ih =>
    by_cases ha : a = p
    · subst ha; simp [hp]
    · by_cases hk : a.key = j <;> simp_all [List.find?_cons]

/-- What an agent sees of a byte depends on the stores to it alone. -/
theorem viewByte_filter (l : List PStore) (now : Nat) (vec : Bool) (a cl co j : Nat) (b : Byte) :
    viewByte l now vec a cl co j b = viewByte (l.filter fun p => p.key == j) now vec a cl co j b := by
  unfold viewByte
  simp only [Bool.and_assoc]
  rw [← find_filter_key, ← find_filter_key]
  cases h : l.find? (fun p => p.key == j && ownSees vec now a p) with
  | none => rfl
  | some p =>
    have hk : p.key = j := by
      have := List.find?_some h
      simp only [Bool.and_eq_true, beq_iff_eq] at this
      exact this.1
    simp only []
    rw [← takeWhile_filter_key l j p hk]

theorem pend_filter (a : Nat) (w : Who) (now key : Nat) (bs : List Byte) (l : List PStore) (j : Nat)
    (h : j < key ∨ key + bs.length ≤ j) :
    (pendBytes a w now key bs l).filter (fun p => p.key == j) = l.filter fun p => p.key == j := by
  unfold pendBytes
  rw [List.filter_append, List.filter_filter, List.filter_eq_nil_iff.mpr, List.nil_append]
  · apply List.filter_congr
    intro x _
    by_cases hx : x.key = j
    · have : decide (key ≤ x.key) = false ∨ decide (x.key < key + bs.length) = false := by
        simp only [decide_eq_false_iff_not]; omega
      rcases this with k | k <;> simp_all
    · simp [hx]
  · intro x hx
    obtain ⟨y, hy, rfl⟩ := List.mem_map.mp hx
    have := List.snd_lt_of_mem_zipIdx hy
    simp only [beq_iff_eq]; omega

theorem seen_pend_out (s : State) (w : Who) (now key : Nat) (bs : List Byte) (j : Nat) (h : j < key ∨ key + bs.length ≤ j) :
   seen { s with stores := pendBytes (me s) w now key bs s.stores } j = seen s j := by
  unfold seen
  change viewByte (pendBytes (me s) w now key bs s.stores) s.stepNo false (me s) _ _ j _ = _
  rw [viewByte_filter, pend_filter (me s) w now key bs s.stores j h, ← viewByte_filter]
  rfl

end Sys2Proof.Laws
end

