-- ==== Sys2Proof/Tests/Slice0.lean ====
section
/-! SUPPORT. Tests: words written out from the encodings of the spec, ill-formed terms, worked values of the spec, and for each
claim states and operands that meet its hypotheses. -/

namespace Sys2Proof.Tests

set_option Elab.async false

open Sys2Proof Sys2Proof.Machine

-- ## Words (R32, R36, R39, R43, and the worked words of the rules)

/-- Guard p0, no yield. -/
def g0 : Guard := ⟨0, false, false⟩

/-- Each head and tail decodes to its instruction. -/
def decodes (l : List (BitVec 16 × BitVec 96 × Instr)) : Bool :=
  l.all fun x => decide (decode x.1 x.2.1 = .ok x.2.2)

theorem test_decode_scalar_integer_1 : decodes ([
    (0x2020, 0x7647, .add g0 7 18 29), (0x2040, 0x7647, .sub g0 7 18 29), (0x2060, 0x7647, .mul g0 7 18 29),
    (0x2080, 0x7647, .mulh g0 7 18 29), (0x20A0, 0x7647, .mulhn g0 7 18 29), (0x20C0, 0x7647, .div g0 7 18 29),
    (0x20E0, 0x7647, .divn g0 7 18 29), (0x2100, 0x7647, .rem g0 7 18 29), (0x2120, 0x7647, .remn g0 7 18 29),
    (0x2140, 0x7647, .and g0 7 18 29), (0x2160, 0x7647, .or g0 7 18 29), (0x2180, 0x7647, .xor g0 7 18 29),
    (0x21A0, 0x7647, .andn g0 7 18 29), (0x21C0, 0x7647, .orn g0 7 18 29), (0x21E0, 0x7647, .min g0 7 18 29),
    (0x2200, 0x7647, .max g0 7 18 29), (0x2220, 0x7647, .minn g0 7 18 29), (0x2240, 0x7647, .maxn g0 7 18 29),
    (0x2260, 0x7647, .shl g0 7 18 29), (0x2280, 0x7647, .shr g0 7 18 29), (0x22A0, 0x7647, .sar g0 7 18 29),
    (0x22C0, 0x7647, .rot g0 7 18 29), (0x22F7, 0x229, .clz ⟨5, true, true⟩ 9 17), (0x2317, 0x229, .ctz ⟨5, true, true⟩ 9 17)] : List (BitVec 16 × BitVec 96 × Instr)) = true := by decide +kernel

theorem test_decode_scalar_integer_2 : decodes ([
    (0x2337, 0x229, .popc ⟨5, true, true⟩ 9 17)] : List (BitVec 16 × BitVec 96 × Instr)) = true := by decide +kernel

theorem test_decode_scalar_field : decodes ([
    (0x4340, 0x28C41, .sel g0 1 2 3 5), (0x4360, 0x17C1, .ext g0 1 30 .n16), (0x4380, 0x5337C1, .bfx g0 1 30 13 19 true),
    (0x43A0, 0x1337C1, .bfi g0 1 30 13 19), (0x43C0, 0x3000C41, .lea g0 1 2 3 6), (0x43E0, 0x4805684, .cmp g0 .gtn 4 20 21),
    (0x4400, 0xFFFFF983, .addi g0 3 12 0x3FFFFE), (0x4420, 0xFFFFF983, .andi g0 3 12 0x3FFFFE),
    (0x4440, 0xFFFFF983, .ori g0 3 12 0x3FFFFE), (0x4460, 0xFFFFF983, .xori g0 3 12 0x3FFFFE),
    (0x4480, 0x1918E3, .cmpi g0 .ltn 3 7 100), (0xA4A0, 0x123456789ABCDEF00011, .li g0 17 0x123456789ABCDEF0),
    (0x44C0, 0x80000411, .lpc g0 17 0x200001), (0x44E0, 0x1800C41, .pop g0 .andn 1 2 3)] : List (BitVec 16 × BitVec 96 × Instr)) = true := by decide +kernel

theorem test_decode_scalar_fp : decodes ([
    (0x4500, 0x1100C41, .fadd g0 .f16 .rtz 1 2 3), (0x4520, 0x1100C41, .fsub g0 .f16 .rtz 1 2 3),
    (0x4540, 0x1100C41, .fmul g0 .f16 .rtz 1 2 3), (0x4560, 0x1F20C41, .fma g0 .bf16 .dyn 1 2 3 4),
    (0x4580, 0x400C41, .fdiv g0 .f64 .rna 1 2 3), (0x45A0, 0xB00041, .fsqrt g0 .f32 .rdn 1 2),
    (0x45C0, 0x800C41, .fmin g0 .f32 1 2 3), (0x45E0, 0x1000C41, .fmax g0 .f16 1 2 3),
    (0x4600, 0x6800C45, .fcmp g0 .f32 .le 5 2 3), (0x4620, 0x61200041, .fcvt g0 .i32 .f32 .rup 1 2),
    (0x4640, 0x1800041, .fclass g0 .bf16 1 2)] : List (BitVec 16 × BitVec 96 × Instr)) = true := by decide +kernel

theorem test_decode_scalar_control : decodes ([
    (0x8660, 0xFFFFF80000040041, .ld g0 .i16 1 2 0xFFFFF8), (0x8680, 0x100000180041, .st g0 .n32 1 2 0x10),
    (0x46A0, 0x1FFFFFF, .br g0 0xFFFFFF 1), (0x46C0, 0x1E000005, .jal g0 5 30), (0x26E0, 0x41, .jr g0 1 2),
    (0x070C, 0x0, .ret ⟨3, false, false⟩), (0x4720, 0xFE000005, .dbnz g0 7 5 30), (0x4740, 0xC4001, .csrrd g0 1 0x310),
    (0x4760, 0x4841, .csrwr g0 1 0x012 2), (0x4780, 0x4841, .csrset g0 1 0x012 2), (0x47A0, 0x4841, .csrclr g0 1 0x012 2),
    (0x5A00, 0xAAF37800, .sys g0 0x2ABCDE), (0x5A20, 0xAAF37800, .trap g0 0x2ABCDE), (0x1A40, 0x0, .eret g0),
    (0x3A60, 0xC41, .park g0 1 2 3), (0x1A80, 0x0, .endStrand g0), (0x1E00, 0x0, .nop g0),
    (0x1E01, 0x0, .yield ⟨0, false, true⟩), (0x5E60, 0xDEADBEEF, .hint g0 3 2 0xDEADBEEF)] : List (BitVec 16 × BitVec 96 × Instr)) = true := by decide +kernel

theorem test_decode_vector_integer : decodes ([
    (0x2800, 0x41, .vcfg g0 1 2), (0x2820, 0x41, .setvl g0 1 2), (0x2820, 0x8C41, .setvlW g0 1 2 3),
    (0x6840, 0x500C41, .vadd g0 .i8 1 2 (.vec 3) 5), (0x6860, 0x40D00C41, .vsub g0 .i16 1 2 (.scal 3) 5),
    (0x6880, 0x930081500041, .vmul g0 .i32 1 2 (.imm 0x93) 5), (0x68A0, 0x1D00C41, .vmulh g0 .i64 1 2 (.vec 3) 5),
    (0x68C0, 0x42500C41, .vmin g0 .n8 1 2 (.scal 3) 5), (0x68E0, 0x930082D00041, .vmax g0 .n16 1 2 (.imm 0x93) 5),
    (0x6900, 0x3500C41, .vand g0 .n32 1 2 (.vec 3) 5), (0x6920, 0x43D00C41, .vor g0 .n64 1 2 (.scal 3) 5),
    (0x6940, 0x930080500041, .vxor g0 .i8 1 2 (.imm 0x93) 5), (0x6960, 0xD00C41, .vshl g0 .i16 1 2 (.vec 3) 5),
    (0x6980, 0x41500C41, .vshr g0 .i32 1 2 (.scal 3) 5), (0x69A0, 0x930081D00041, .vsar g0 .i64 1 2 (.imm 0x93) 5),
    (0x69C0, 0x2500C41, .vadds g0 .n8 1 2 (.vec 3) 5), (0x69E0, 0x42D00C41, .vsubs g0 .n16 1 2 (.scal 3) 5),
    (0x6A00, 0x1500041, .vabs g0 .i32 1 2 5), (0x6A20, 0x1500041, .vneg g0 .i32 1 2 5),
    (0x6A40, 0x3D30C41, .vadc g0 .n64 1 2 (.vec 3) 6 5), (0x6A60, 0x3D30C41, .vsbc g0 .n64 1 2 (.vec 3) 6 5)] : List (BitVec 16 × BitVec 96 × Instr)) = true := by decide +kernel

theorem test_decode_vector_fp : decodes ([
    (0x6A80, 0x15500C41, .vfadd g0 .bf16 .rup 1 2 (.vec 3) 5), (0x6AA0, 0x55D00C41, .vfsub g0 .f16 .rup 1 2 (.scal 3) 5),
    (0x6AC0, 0x16500C41, .vfmul g0 .f32 .rup 1 2 (.vec 3) 5), (0x6AE0, 0x4E520C41, .vfma g0 .f32 .rtz 1 2 (.scal 3) 4 5),
    (0x6B00, 0x26500C41, .vfdiv g0 .f32 .rna 1 2 (.vec 3) 5), (0x6B20, 0x1DD00041, .vfsqrt g0 .f16 .rdn 1 2 5),
    (0x6B40, 0x1DD00041, .vfrcp g0 .f16 .rdn 1 2 5), (0x6B60, 0x1DD00041, .vfrsq g0 .f16 .rdn 1 2 5),
    (0x6B80, 0x1DD00041, .vfexp2 g0 .f16 .rdn 1 2 5), (0x6BA0, 0x1DD00041, .vflog2 g0 .f16 .rdn 1 2 5),
    (0x6BC0, 0x6D00C41, .vfmin g0 .f64 1 2 (.vec 3) 5), (0x6BE0, 0x6D00C41, .vfmax g0 .f64 1 2 (.vec 3) 5),
    (0x6C00, 0x46520C41, .vfclamp g0 .f32 1 2 true 3 4 5), (0x6C20, 0xC0D500041, .vfcvt g0 .bf16 .f32 .rtz 1 2 5),
    (0x6C40, 0x6520041, .vquant g0 .f32 1 2 4 5), (0x6C60, 0x5520041, .vdequant g0 .bf16 1 2 4 5)] : List (BitVec 16 × BitVec 96 × Instr)) = true := by decide +kernel

theorem test_decode_vector_mask : decodes ([
    (0x6C80, 0xC80682500046, .vcmp g0 .ltn .n8 6 2 (.imm 200) 5), (0x6CA0, 0x506500C46, .vfcmp g0 .ord .f32 6 2 (.vec 3) 5),
    (0x6CC0, 0x200000C46, .mop g0 .xor 6 2 3), (0x6CE0, 0x400A4C46, .mshup g0 6 2 19 20),
    (0x6D00, 0x400A4C46, .mshdn g0 6 2 19 20), (0x6D20, 0x51, .mpop g0 17 2), (0x6D40, 0x51, .mfirst g0 17 2),
    (0x6D60, 0x90086500041, .vslideUp g0 .f32 1 2 (.imm 9) 5), (0x6D60, 0x146500C41, .vslideDown g0 .f32 1 2 (.scal 3) 5),
    (0x6D80, 0x6500C41, .vperm g0 .f32 1 2 3 5), (0x6DA0, 0xD00041, .vcompress g0 .i16 1 2 5),
    (0x6DC0, 0xD00041, .vexpand g0 .i16 1 2 5), (0x6DE0, 0x46500C01, .vbcast g0 .f32 1 (.scal 3) 5),
    (0x6E00, 0x44000C51, .vmvs g0 .e4m3 17 2 (.scal 3)), (0x6E20, 0x1F0086000241, .vsv g0 .f32 1 18 (.imm 31)),
    (0x6E40, 0x3500001, .vid g0 .n32 1 5)] : List (BitVec 16 × BitVec 96 × Instr)) = true := by decide +kernel

theorem test_decode_reduction : decodes ([
    (0x6E60, 0x7E504851, .vredsumF g0 .f32 .dyn 17 2 (some 18) 5), (0x6E60, 0x106500051, .vredsumC g0 .f32 .rne 17 2 none 5),
    (0x6E60, 0x24E524851, .vredsumCs g0 .f32 .rtz 17 2 (some 18) 4 5),
    (0x6E80, 0x43504851, .vredmax g0 .n32 17 2 (some 18) 5), (0x6EA0, 0x43504851, .vredmin g0 .n32 17 2 (some 18) 5),
    (0x6EC0, 0x43504851, .vredand g0 .n32 17 2 (some 18) 5), (0x6EE0, 0x43504851, .vredor g0 .n32 17 2 (some 18) 5),
    (0x6F00, 0x246504841, .vscan g0 .min .f32 .rne 1 2 (some 18) 5), (0x6F20, 0x1600465AD041, .vsmax g0 1 2 20 21 22 5)] : List (BitVec 16 × BitVec 96 × Instr)) = true := by decide +kernel

theorem test_decode_vector_memory : decodes ([
    (0x9000, 0xFFFF000002B28041, .vld g0 .f32 .bf16 1 2 0xFFFF00 5),
    (0x9080, 0xFFFF000002B28041, .vldff g0 .f32 .bf16 1 2 0xFFFF00 5),
    (0x90A0, 0xFFFF000002B28041, .vst g0 .f32 .bf16 1 2 0xFFFF00 5),
    (0x9020, 0x400003028C41, .vlds g0 .i8 .f32 1 2 3 0x40 5), (0x9040, 0x400003028C41, .vldx g0 .i8 .f32 1 2 3 0x40 5),
    (0x90C0, 0x400003028C41, .vsts g0 .i8 .f32 1 2 3 0x40 5), (0x90E0, 0x4000419A8C41, .vstx g0 .n32 .n32 true 1 2 3 0x40 5),
    (0x9060, 0x408000528041, .vldseg g0 .n8 .i16 1 2 8 0x40 5), (0x9100, 0x402000528041, .vstseg g0 .n8 .i16 1 2 2 0x40 5),
    (0x9120, 0x40004F328C41, .vsadd g0 .f32 .di true 1 2 3 0x40 5), (0x7140, 0x43D20C46, .vwait g0 6 2 (.scal 3) 4 5),
    (0x5160, 0x800000, .vfenceSv g0), (0x5160, 0x1000000, .vfenceVs g0), (0x5160, 0x1800000, .vfenceAll g0)] : List (BitVec 16 × BitVec 96 × Instr)) = true := by decide +kernel

theorem test_decode_accumulator : decodes ([
    (0x7200, 0x7F0000001043, .vop g0 false 3 2 4 127), (0x7220, 0x20100062501, .vopm g0 true 1 8 9 12 2),
    (0x7240, 0x2, .vopz g0 2), (0x7260, 0x46534861, .vopr g0 1 3 (.scal 18) 6 5), (0x7280, 0x242, .mkiv g0 2 18)] : List (BitVec 16 × BitVec 96 × Instr)) = true := by decide +kernel

theorem test_decode_engine : decodes ([
    (0x3400, 0x41, .tshape g0 1 2), (0x3420, 0x40, .cbload g0 2), (0xD440, 0x1000B5680, .tbuild g0 true 20 21 22),
    (0xD460, 0x94693, .lkaccOw g0 19 20 17 18), (0xD460, 0x100094693, .lkaccAcc g0 19 20 17 18),
    (0xD460, 0xE90000000200000293, .lkaccDrn g0 19 20 9 7), (0x7480, 0x6090001, .vdrn g0 1 18),
    (0x34A0, 0x41, .lkwait g0 1 2), (0x9500, 0x300240001AC, .cpwait g0 .sy 12 13 3), (0x3520, 0xC41, .claim g0 1 2 3),
    (0x3540, 0xC40, .pubh g0 2 3), (0x1560, 0x0, .barCl g0), (0xD580, 0x22800000C41, .slabgrow g0 1 2 3 40 2),
    (0xD580, 0x4000000041, .slabgrowRetire g0 1 2), (0x35A0, 0x41, .slabst g0 1 2)] : List (BitVec 16 × BitVec 96 × Instr)) = true := by decide +kernel

theorem test_decode_memory_model : decodes ([
    (0x9800, 0x10000000, .phase g0 .pk), (0x9820, 0x14000000, .rel g0 .sh), (0x9840, 0x18000000, .acq g0 .dm),
    (0x9860, 0xFFFFF80204080C41, .amoadd g0 .i32 .co false true 1 2 3 0xFFFFF8),
    (0x9880, 0xFFFFF80108340C41, .amofadd g0 .f64 .cl true false 1 2 3 0xFFFFF8),
    (0x98A0, 0xFFFFF8020C180C41, .amomin g0 .n32 .di false true 1 2 3 0xFFFFF8),
    (0x98C0, 0xFFFFF801101C0C41, .amomax g0 .n64 .pk true false 1 2 3 0xFFFFF8),
    (0x98E0, 0xFFFFF80214080C41, .amoand g0 .i32 .sh false true 1 2 3 0xFFFFF8),
    (0x9900, 0xFFFFF801180C0C41, .amoor g0 .i64 .dm true false 1 2 3 0xFFFFF8),
    (0x9920, 0xFFFFF8021C180C41, .amoxor g0 .n32 .ho false true 1 2 3 0xFFFFF8),
    (0x9940, 0xFFFFF801201C0C41, .amoswap g0 .n64 .io true false 1 2 3 0xFFFFF8),
    (0x9960, 0xFFFFF80224080C41, .amocas g0 .i32 .sy false true 1 2 3 0xFFFFF8),
    (0x9980, 0x800000C0041, .ldfeKeep g0 .i64 1 2 8), (0x9980, 0x801000C0041, .ldfeClr g0 .i64 1 2 8),
    (0x99A0, 0x800000C0041, .stfeFill g0 .i64 1 2 8), (0x99A0, 0x801000C0041, .stfeWait g0 .i64 1 2 8),
    (0x39C0, 0xC41, .bankrole g0 1 2 3)] : List (BitVec 16 × BitVec 96 × Instr)) = true := by decide +kernel

theorem test_decode_system : decodes ([
    (0x3AA0, 0xC41, .launch g0 1 2 3), (0x3AC0, 0xC41, .tlbinv g0 1 2 3), (0x3AE0, 0x41, .ctxsave g0 1 2),
    (0x3B00, 0x41, .ctxload g0 1 2), (0xDB20, 0x1D00020C41, .rangeset g0 1 2 3 4 5 true true),
    (0xDB20, 0xD08020C41, .rangesetQ g0 1 2 3 4 5 true false), (0x3B40, 0x41, .rangerd g0 1 2),
    (0x3B60, 0xC41, .prtload g0 1 2 3), (0x3C00, 0xC41, .strmset g0 1 2 3), (0x3C20, 0xC41, .stappend g0 1 2 3),
    (0x3C40, 0xC41, .tickarm g0 1 2 3), (0x3C60, 0x41, .tickoff g0 1 2), (0x9D00, 0x4000001C0C41, .mcst g0 .n64 1 2 3 0x40),
    (0x9D20, 0x400000300C41, .rld g0 .f32 1 2 3 0x40), (0x9D40, 0x8000041, .colwait g0 .cl 1 2)] : List (BitVec 16 × BitVec 96 × Instr)) = true := by decide +kernel

theorem test_decode_worked : decodes ([
    (0xA4A0, 0x0000000000000004000C, .li g0 12 4), (0x2020, 0x0005, .add g0 5 0 0),
    (0x8660, 0x00000000000C008D, .ld g0 .i64 13 4 0), (0x2020, 0x34A5, .add g0 5 5 13), (0x4400, 0x2084, .addi g0 4 4 8),
    (0x4720, 0x02000000, .dbnz g0 0 0 2), (0x6A40, 0x03A08823, .vadc g0 .n64 3 1 (.vec 2) 1 2),
    (0x6CE0, 0x40070022, .mshup g0 2 1 0 14), (0x6D20, 0x4F, .mpop g0 15 2),
    (0x9020, 0x03305E81, .vlds g0 .f32 .f32 1 20 23 0 0), (0x6C00, 0x460E6C64, .vfclamp g0 .f32 4 3 true 27 28 0),
    (0x3400, 0x018E, .tshape g0 14 12), (0xD460, 0x94693, .lkaccOw g0 19 20 17 18),
    (0x9860, 0x2140C32E0, .amoadd g0 .i64 .sh false true 0 23 12 0),
    (0x9960, 0x1100C36AC, .amocas g0 .i64 .pk true false 12 21 13 0), (0x8680, 0x00001800000C030F, .st g0 .i64 15 24 24),
    (0xDB20, 0xB08094610, .rangesetQ g0 16 16 17 18 3 true false), (0x3C40, 0x628C, .tickarm g0 12 20 24),
    (0x3C20, 0x3A8F, .stappend g0 15 20 14), (0x3C60, 0x028C, .tickoff g0 12 20),
    (0x9D20, 0x30368C, .rld g0 .f32 12 20 13 0), (0x9D40, 0x180001AC, .colwait g0 .dm 12 13)] : List (BitVec 16 × BitVec 96 × Instr)) = true := by decide +kernel


/-- Each head and tail is refused with its error. -/
def refuses (l : List (BitVec 16 × BitVec 96 × DecodeError)) : Bool :=
  l.all fun x => decide (decode x.1 x.2.1 = .error x.2.2)

theorem test_decode_refuses : refuses ([
    (0x0000, 0, .unassignedOpcode), (0x1FE0, 0, .unassignedOpcode), (0x27C0, 0, .unassignedOpcode),
    (0x0020, 0, .wrongTailLength), (0xFE00, 0, .wrongTailLength), (0x2022, 0, .badGuard), (0x1E02, 0, .badGuard),
    (0x2020, 0x8000, .reservedField), (0xA4A0, 0x20, .reservedField), (0x43E0, 0x05000000, .reservedValue),
    (0x4500, 0x00500000, .reservedValue), (0x8660, 0x380000, .reservedValue),
    (0x6840, 0xC0000000, .reservedValue)] : List (BitVec 16 × BitVec 96 × DecodeError)) = true := by decide +kernel

/-- None of the terms is well formed. -/
def illFormed (l : List Instr) : Bool := l.all fun i => !wellFormed i

theorem test_ill_formed_scalar : illFormed [
    .add ⟨0, true, false⟩ 1 2 3, .ext g0 1 2 .i64, .ext g0 1 2 .f32, .bfx g0 1 2 60 4 false, .bfi g0 1 2 63 1,
    .pop g0 .not 1 2 3, .fcvt g0 .f32 .f32 .rne 1 2, .fcvt g0 .i8 .f32 .rne 1 2, .ld g0 .f32 1 2 0, .st g0 .bf16 1 2 0,
    .nop ⟨0, false, true⟩, .yield g0, .hint g0 0 0 0, .hint g0 1 7 0, .hint g0 1 1 0x10000] = true := by decide +kernel

theorem test_ill_formed_vector : illFormed [
    .vadd g0 .f32 1 2 (.vec 3) 0, .vabs g0 .e4m3 1 2 0, .vfadd g0 .i32 .rne 1 2 (.vec 3) 0,
    .vfadd g0 .f32 .rne 1 2 (.imm 3) 0, .vfsqrt g0 .e5m2 .rne 1 2 0, .vfcvt g0 .f32 .f32 .rne 1 2 0,
    .vfcvt g0 .i8 .i16 .rtz 1 2 0, .vfcvt g0 .f32 .bf16 .rne 2 2 0, .vquant g0 .f64 1 2 3 0, .vquant g0 .f32 1 2 1 0,
    .vdequant g0 .bf16 1 1 3 0, .mop g0 .not 1 2 3, .vslideUp g0 .f32 1 1 (.imm 2) 0, .vslideDown g0 .f32 1 2 (.vec 3) 0,
    .vperm g0 .f32 1 2 1 0, .vcompress g0 .e4m3 1 2 0, .vexpand g0 .f32 1 1 0, .vbcast g0 .f32 1 (.imm 3) 0,
    .vmvs g0 .f32 1 2 (.vec 3), .vredsumF g0 .i32 .rtz 1 2 none 0, .vredsumCs g0 .i32 .rne 1 2 none 3 0,
    .vredmax g0 .e5m2 1 2 none 0, .vredand g0 .f32 1 2 none 0, .vscan g0 .max .f32 .rtz 1 2 none 0,
    .vsmax g0 1 2 3 3 4 0, .vld g0 .e4m3 .i32 1 2 0 0, .vldseg g0 .n8 .n8 1 2 1 0 0, .vstseg g0 .n8 .n8 1 2 9 0 0,
    .vsadd g0 .i16 .pk false 1 2 3 0 0, .vsadd g0 .i32 .cl false 1 2 3 0 0, .vwait g0 1 2 (.imm 3) 4 0,
    .vopr g0 1 2 (.vec 3) 1 0] = true := by decide +kernel

theorem test_ill_formed_memory : illFormed [
    .cpwait g0 .co 1 2 0, .colwait g0 .st 1 2, .amoadd g0 .i8 .pk false false 1 2 3 0, .amoadd g0 .i32 .st false false 1 2 3 0,
    .amofadd g0 .bf16 .pk false false 1 2 3 0, .ldfeKeep g0 .f32 1 2 0, .mcst g0 .f64 1 2 3 0, .rld g0 .f64 1 2 3 0,
    .rld g0 .i8 1 2 3 0] = true := by decide +kernel

-- ## Small states

/-- A strand bound in user mode, a `nop` at its PC. -/
def base : State :=
  let s := State.reset.withFetchWord 16 0x1E00
  { s with strand := { s.strand with pass := some ⟨0x1000, BitVec.ofNat 512 (leNat (oneLine 0x1E00 0))⟩ } }
/-- Scalar registers set. -/
def regs (l : List (BitVec 5 × Word)) (s : State) : State :=
  mapStrand (fun t => l.foldl (fun t x => setS t x.1 x.2) t) s
/-- In supervisor mode. -/
def sup (s : State) : State := mapStrand (fun t => { t with status := t.status ||| 0x100 }) s
/-- An entry of the VQ with captured operands. -/
def entry (a b c : Word) : VqEntry :=
  { pc := 0x1002, head := 0, tail := 0, a := a, b := b, c := c, d := 0, frm := 0, tether := 0, guardOff := false,
    lines := [], arrived := none }
/-- The entry at the head of the VQ, with every register granted and a vector length. -/
def queued (e : VqEntry) (vl : Nat) (s : State) : State :=
  mapStrand (fun t => { t with vq := [e], pc := 0x1042, nreg := 32, ew := 64, vl := vl, vlmax := 256 }) s
/-- Elements of a vector register set from 0 on. -/
def elems (r : BitVec 5) (w : Nat) (l : List Nat) (s : State) : State :=
  mapStrand (fun t => l.zipIdx.foldl (fun t x => putElem t r w x.2 x.1) t) s
/-- A mask set. -/
def masked (m : BitVec 3) (v : BitVec 4096) (s : State) : State := mapStrand (fun t => setM t m v) s
/-- The instruction goes on to a state of which `f` holds. -/
def after (i : Instr) (s : State) (f : State → Bool) : Bool :=
  match exec i s with
  | .next t => f t
  | _ => false
/-- The first elements of a vector register. -/
def firsts (r : BitVec 5) (w n : Nat) (s : State) : List Nat := (List.range n).map fun k => velem s.strand r w k

-- ## Worked values

/-- The value of s3 after an instruction on s1 and s2. -/
def gives (i : Instr) (x y v : Word) : Bool := after i (regs [(1, x), (2, y)] base) fun t => getS t.strand 3 == v

theorem test_division : (gives (.div g0 3 1 2) 7 (-2) (-3) && gives (.rem g0 3 1 2) 7 (-2) 1 &&
    gives (.rem g0 3 1 2) (-7) 2 (-1) && gives (.div g0 3 1 2) 5 0 (-1) && gives (.remn g0 3 1 2) 5 0 5 &&
    gives (.div g0 3 1 2) 0x8000000000000000 (-1) 0x8000000000000000) = true := by decide +kernel
theorem test_mulh : (gives (.mulh g0 3 1 2) (-1) (-1) 0 && gives (.mulhn g0 3 1 2) (-1) (-1) 0xFFFFFFFFFFFFFFFE) = true := by
  decide +kernel
theorem test_ext : gives (.ext g0 3 1 .i8) 0x80 0 0xFFFFFFFFFFFFFF80 = true := by decide +kernel
theorem test_immediates : (gives (.addi g0 3 1 0x3FFFFF) 5 0 4 && gives (.ori g0 3 1 0x3FFFFF) 0 0 0x3FFFFF) = true := by
  decide +kernel
theorem test_s0_discards : after (.li g0 0 7) base (fun t => getS t.strand 0 == 0 && t.strand.pc == 0x1042) = true := by
  decide +kernel
theorem test_branch : after (.br g0 0xFFFFFF 0) (mapStrand (fun t => { t with pc := 0x1042 }) base)
    (fun t => t.strand.pc == 0x1002 && t.strand.xcause == 0) = true := by decide +kernel

/-- The results and flags of `fcvt` to e4m3 (R83). -/
theorem test_fcvt_e4m3 : ([(0x43960000, 0x79, 1), (0x43FA0000, 0x7E, 5), (0x3A800000, 0, 3), (0x7F800000, 0x7F, 16)] :
    List (Word × Word × BitVec 6)).all (fun x => after (.fcvt g0 .e4m3 .f32 .rne 3 1) (regs [(1, x.1)] base)
      fun t => getS t.strand 3 == x.2.1 && t.strand.fflags == x.2.2) = true := by decide +kernel
theorem test_fp_trap : after (.fcvt g0 .e4m3 .f32 .rne 3 1)
    (mapStrand (fun t => { t with status := 4, xvec := 0x1002 }) (regs [(1, 0x43FA0000)] base))
    (fun t => t.strand.xcause == 11 && t.strand.xval == 5 && t.strand.fflags == 5 && getS t.strand 3 == 0) = true := by
  decide +kernel

/-- Element 0 of a byte operation (R141). -/
def byteOp (i : Guard → Ty → BitVec 5 → BitVec 5 → BOp → BitVec 3 → Instr) (ty : Ty) (b : BOp) (x y v : Nat) : Bool :=
  after (i g0 ty 1 2 b 0) (elems 2 8 [x] (elems 3 8 [y] (queued (entry 0 0 0) 1 base))) fun t =>
    firsts 1 8 1 t == [v] && t.strand.vq.isEmpty

theorem test_vector_integer : (byteOp .vadd .i8 (.vec 3) 100 50 0x96 && byteOp .vadds .i8 (.vec 3) 100 50 0x7F &&
    byteOp .vadds .n8 (.vec 3) 200 100 0xFF && byteOp .vsubs .n8 (.vec 3) 10 20 0 && byteOp .vmulh .i8 (.vec 3) 128 128 0x40 &&
    byteOp .vmulh .n8 (.vec 3) 128 128 0x40 && byteOp .vsar .n8 (.vec 3) 0x90 4 0xF9 && byteOp .vshl .i8 (.imm 9) 3 0 6) =
      true := by decide +kernel
theorem test_vfcvt : (after (.vfcvt g0 .n8 .i16 .rne 1 2 0) (elems 2 16 [0xFFFB, 300] (queued (entry 0 0 0) 2 base))
      (fun t => firsts 1 8 2 t == [0, 255]) &&
    after (.vfcvt g0 .i16 .n8 .rne 1 2 0) (elems 2 8 [0xFF] (queued (entry 0 0 0) 1 base))
      (fun t => firsts 1 16 1 t == [255])) = true := by decide +kernel
/-- The state of the worked case of R152. -/
def shuffled : State := masked 1 6 (elems 2 16 [10, 11, 12, 13] (elems 1 16 [90, 91, 92, 93] (queued (entry 0 0 0) 4 base)))
theorem test_compress : (after (.vcompress g0 .i16 1 2 1) shuffled (fun t => firsts 1 16 4 t == [11, 12, 92, 93]) &&
    after (.vexpand g0 .i16 1 2 1) shuffled (fun t => firsts 1 16 4 t == [90, 10, 11, 93])) = true := by decide +kernel
theorem test_canonical_sum : after (.vredsumC g0 .f32 .rne 3 2 none 0)
    (elems 2 32 (0x4B800000 :: List.replicate 63 0x3F800000) (queued (entry 0 0 0) 64 base))
    (fun t => getS t.strand 3 == 0x4B80001F) = true := by decide +kernel
theorem test_vsmax : after (.vsmax g0 1 2 20 21 22 0)
    (elems 2 32 [0x40000000, 0x3F800000, 0] (queued (entry 0 0x3F800000 0x3F800000) 3 base))
    (fun t => firsts 1 32 3 t == [0x3F800000, 0x3EBC5AB2, 0x3E0A9555] && getS t.strand 20 == 0x40000000 &&
      getS t.strand 21 == 0x3FEF8004 && getS t.strand 22 == 0x3EBC5AB2) = true := by decide +kernel
theorem test_vquant : after (.vquant g0 .f32 1 2 4 0)
    (elems 2 32 [0x3E99999A, 0x3C23D70A] (queued (entry 0 0 0) 2 base))
    (fun t => firsts 1 8 2 t == [77, 3] && firsts 4 8 1 t == [0x77]) = true := by decide +kernel
theorem test_vcfg : after (.vcfg g0 12 13) (mapStrand (fun t => { t with vq := [entry 0x21A 0 0] }) base)
    (fun t => getS t.strand 12 == 256 && csrValue t 0x202 == 0x0100021A) = true := by decide +kernel
theorem test_tshape : after (.tshape g0 1 2) (queued (entry 0x0000015800040000 0 0) 0 base)
    (fun t => getS t.strand 1 == 0x0000015800040000) = true := by decide +kernel
/-- Segments of three bytes, each field to a register of its own (R163). -/
theorem test_segments : after (.vldseg g0 .n8 .i16 4 7 3 0 0)
    (let s := queued (entry 0x2000 0 0) 3 base
     { s with mem := memWrite s.mem 0x2000 [10, 20, 30, 11, 21, 31, 200, 201, 202] })
    (fun t => firsts 4 16 3 t == [10, 11, 200] && firsts 5 16 3 t == [20, 21, 201]) = true := by decide +kernel
theorem test_claim : after (.claim g0 12 20 13)
    (let s := queued (entry 0x2000 1000 0) 0 base
     { s with mem := memWrite s.mem 0x2000 (leBytes 8 600 ++ leBytes 8 1000) })
    (fun t => getS t.strand 12 == 600 && t.strand.vl == 256 && memNat t.mem 0x2000 8 == 856) = true := by decide +kernel

-- ## Witnesses: concrete states and operands that meet the hypotheses of each statement, clause by clause

/-- The work completes, with an answer and a state of which `f` holds. -/
def ok {α : Type} (r : EStateM.Result Stop State α) (f : α → State → Bool) : Bool :=
  match r with
  | .ok a s => f a s
  | .error _ _ => false
theorem ok_iff {α : Type} (r : EStateM.Result Stop State α) (f : α → State → Bool) :
    ok r f = true ↔ ∃ a s, r = .ok a s ∧ f a s = true := by cases r <;> simp [ok]
/-- `Ready` as a Bool. -/
def ready (g : Guard) (rs ws : List (BitVec 5)) (ps : List (BitVec 3)) (s : State) : Bool :=
  decide (guardOn g s.strand = true ∧ vqWritesAny s.strand.vq (rs ++ ws) = false ∧ upsetValue s.strand [] [g.p] = none ∧
    upsetValue s.strand rs ps = none)
theorem ready_iff (g : Guard) (rs ws : List (BitVec 5)) (ps : List (BitVec 3)) (s : State) :
    ready g rs ws ps s = true ↔ Ready g rs ws ps s := decide_eq_true_iff
/-- The conditions that the statements on vector instructions share: the entry at the head of the VQ, VSTART 0, registers and
element width granted, and no register-file error. -/
def granted (e : VqEntry) (rs : List (BitVec 5)) (w : Nat) (s : State) : Bool :=
  decide (s.strand.vq.head? = some e ∧ s.strand.vstart = 0 ∧ (∀ r ∈ rs, r.toNat < s.strand.nreg) ∧ w ≤ s.strand.ew ∧
    s.strand.upsets = [])
theorem granted_iff (e : VqEntry) (rs vs : List (BitVec 5)) (ms : List (BitVec 3)) (w : Nat) (s : State)
    (h : granted e rs w s = true) : AtHead e s ∧ s.strand.vstart = 0 ∧ Granted s rs w ∧ Clean s vs ms := by
  obtain ⟨a, b, c, d, x⟩ := of_decide_eq_true h
  exact ⟨a, b, ⟨c, d⟩, by simp [Clean, x]⟩
/-- `NoFence` and `NoPairs` as a Bool. -/
def quietCore (s : State) : Bool :=
  s.strand.vq.any holdsScalarMemory == false && (clusterAt s (myCluster s)).pairs.toList.all fun p => p.state == .free
/-- The strand is the same in both states. -/
def kept (s s1 : State) : Bool := decide (s1.strand = s.strand)
/-- A guard by predicate 1, inverted or not, and a state in which it is true. -/
def gp : Guard := ⟨1, false, true⟩
def pred1 (s : State) : State := mapStrand (fun t => setP t 1 true) s
/-- A strand that other settings change. -/
def tweak (f : Strand → Strand) (s : State) : State := mapStrand f s

theorem wit_ScalarIntegerResults : (ready gp [31, 0] [31] [] (pred1 base) && ready g0 [31] [0] [] base && ready g0 [1, 31] [31] [] base &&
    ready g0 [1, 2] [0] [7] base && ready gp [] [31] [] (pred1 base) && ready gp [31, 0] [] [] (pred1 base) && ready g0 [31] [] [] base &&
    ready g0 [] [] [0, 7] base) = true := by decide +kernel
theorem wit_DivisionResults : ready g0 [31, 1] [1] [] (regs [(31, 0x8000000000000000), (1, -1)] base) = true := by decide +kernel

/-- Doubles in s1 and s2, with trap enables. -/
def fpS (en : Word) (x y : Word) : State := tweak (fun t => { t with status := en, frm := 4 }) (regs [(1, x), (2, y)] base)
theorem wit_ScalarFpResults : (ready g0 [1, 2, 3] [3] [] (fpS 0 1 2) && decide (rmode .dyn (fpS 0 1 2).strand.frm ≠ none) &&
    !flagTraps (fpS 4 0x3FF8000000000000 1).strand (fpAdd (fmtOf .f64) .rne 0x3FF8000000000000 0).2 &&
    !flagTraps (fpS 1 1 2).strand (fpFma (fmtOf .f64) .rup 0 0 0).2 &&
    flagTraps (fpS 0x10 0x7FF0000000000001 0).strand 16 && !flagTraps (fpS 0x0F 0x7FF0000000000001 0).strand 16 &&
    decide ((fpDiv (fmtOf .f64) .rne 0x3FF8000000000000 0).2 &&& (fpS 8 0x3FF8000000000000 0).strand.status.extractLsb' 0 6 ≠ 0) &&
    (let s := tweak (fun t => { t with xvec := 0x1002 }) (fpS 8 0x3FF8000000000000 0)
     [s, queued (entry 0 0 0) 1 s].all (fun s => ready g0 [1, 2] [3] [] s && s.strand.pendTrap.isNone) && s.strand.vq.isEmpty &&
      ok (targetCheck true s.strand.xvec s) fun _ _ => true)) = true := by decide +kernel
theorem wit_ScalarFpResults_traps : (let k := fmtOf .f64
    let snan : Nat := 0x7FF0000000000001
    [fpS 0x10 0x7FF0000000000001 0, queued (entry 0 0 0) 1 (fpS 0x10 0x7FF0000000000001 0)].all (fun s =>
      ready g0 [1, 2, 3] [4] [] s && ready g0 [1] [3] [] s && s.strand.pendTrap.isNone) &&
    [(fpFma k .rne snan 0 0).2, (fpSqrt k .rne snan).2, (convert .rne .f32 .f64 snan).2, (fpMin k snan 0).2, (fpMaxN k snan 0).2].all fun fl =>
      decide (fl &&& (0x10 : BitVec 64).extractLsb' 0 6 ≠ 0)) = true := by decide +kernel

/-- An address in s1 and a value in s2. -/
def at1 (va : Word) : State := regs [(1, va), (2, 0x1122334455667788)] base
theorem wit_LoadStoreResults : (ready g0 [1] [3] [] (at1 0x2000) && ready g0 [1, 2] [] [] (at1 0x2000) && quietCore (at1 0x2000) &&
    ok (loadVa (me (at1 0x2000)) (whoAmI (at1 0x2000)) 0x3FFFFFF8 8 (at1 0x2000)) (fun _ _ => true) &&
    ok (checkAccess (whoAmI (at1 0x2000)) 0x2FFF 1 .store (at1 0x2000)) (fun p a =>
      ok (storeChecked (me (at1 0x2000)) (whoAmI (at1 0x2000)) p (me (at1 0x2000)) (leBytes 1 0x88) 0x2FFF a) fun _ _ => true) &&
    decide ((getS (at1 0x0200000000000000).strand 1).toNat / 2 ^ 57 ≠ 0 ∧ (0x01FFFFFFFFFFFFFF : Word).toNat / 2 ^ 57 = 0 ∧
      (0x01FFFFFFFFFFFFFF : Word).toNat % 2 ≠ 0)) = true := by decide +kernel
theorem wit_ScratchLoadStore : ([(0x30000, 1), (0x3FFF8, 8)] : List (Nat × Nat)).all (fun x =>
    let s := at1 (word (0x00FFFFFF40000000 + x.1))
    quietCore s && decide ((getS s.strand 1).toNat = 0x00FFFFFF40000000 + x.1 ∧ x.1 < 0x40000 ∧ (getS s.strand 1).toNat % x.2 = 0) &&
      coSlotOk s (whoAmI s) (x.1 / 0x4000) && ready g0 [1] [3] [] s && ready g0 [1, 2] [] [] s &&
      !poisoned s (coKey (myCore s) x.1) x.2) = true := by decide +kernel

/-- A target in s1, and a counter. -/
def jumper : State := regs [(1, 0x1002), (12, 5), (19, 1)] base
theorem wit_TransferResults : (ready g0 [] [1] [] jumper && ready g0 [1] [31] [] jumper && ready g0 [12] [12] [] jumper &&
    ready g0 [19] [19] [] jumper && decide (getS jumper.strand 12 ≠ 1 ∧ getS jumper.strand 19 = 1) &&
    decide ((jumper.strand.pc &&& ~~~63#64) + (0 : BitVec 24).signExtend 64 * 64 + 2 + 2 * (0 : BitVec 5).setWidth 64 = 0x1002) &&
    ok (targetCheck (priv jumper.strand) 0x1002 jumper) (fun _ _ => true) &&
    ([0x1003, 0x1000, 0x0200000000000002, (jumper.strand.pc &&& ~~~63#64) + 2 + 2 * (31 : BitVec 5).setWidth 64] : List Word).all (fun v =>
      decide (v.toNat % 2 ≠ 0 ∨ v.toNat % 64 < 2 ∨ v.toNat / 2 ^ 57 ≠ 0)) &&
    match targetCheck (priv jumper.strand) 0x40000002 jumper with
    | .error (.trap c _) _ => decide (c ≠ .badTarget)
    | _ => false) = true := by decide +kernel
theorem wit_CsrResults : (([0x000, 0x010, 0x012, 0x203, 0x205, 0x300, 0x503] : List (BitVec 12)).all (fun n =>
      csrAssigned n.toNat && !csrLaunches n.toNat && !csrBusy base.strand n.toNat) && base.strand.vq.isEmpty &&
    ready g0 [] [0] [] base && ready g0 [31] [31] [] base && csrAssigned 0x100 && !csrBusy base.strand 0x100 && priv (sup base).strand &&
    !csrAssigned 0x030 && csrAssigned 0x105 && !priv base.strand) = true := by decide +kernel
theorem wit_SoftTraps : (decide (decode 0x5A00 0x00000400 = .ok (.sys g0 1)) && decide (decode 0x5A20 0xFFFFFC00 = .ok (.trap g0 0x3FFFFF)) &&
    guardOn g0 base.strand && base.strand.vq.isEmpty && decide (upsetValue base.strand [] [0] = none) &&
    base.strand.pendTrap.isNone && (queued (entry 0 0 0) 1 base).strand.pendTrap.isNone &&
    (let s := tweak (fun t => { t with xvec := 0x1002 }) base; ok (targetCheck true s.strand.xvec s) fun _ _ => true) &&
    (let s := tweak (fun t => { t with xvec := 0x0100000000001002 }) { base with queues := base.queues.set 0 { queueAt base 0 with ctl := 0x10000000000 } }
     match targetCheck true s.strand.xvec s with
     | .error (.wait _) _ => true
     | _ => false) &&
    (match targetCheck true base.strand.xvec base with
     | .error (.trap _ _) _ => true
     | _ => false) && !(queued (entry 0 0 0) 1 base).strand.vq.isEmpty &&
    !guardOn gp base.strand && decide (upsetValue base.strand [] [1] = none)) = true := by decide +kernel
/-- A strand in its handler. -/
def handler (cause : Word) : State :=
  sup (tweak (fun t => { t with xpc := 0x1002, xcause := cause, saved := [entry 0 0 0] }) base)
theorem wit_EretReturns : ([0x105, 0x013] : List Word).all (fun c => ready g0 [] [] [] (handler c) && priv (handler c).strand &&
    ok (targetCheck (ppriv (handler c).strand) (handler c).strand.xpc (handler c)) (fun _ _ => true) &&
    (handler c).strand.vq.isEmpty && (handler c).strand.returning.isNone &&
    (let s := tweak (fun t => { t with vq := [entry 1 2 3] }) (handler 0x105)
     ready g0 [] [] [] s && s.strand.returning.isNone && ok (targetCheck (ppriv s.strand) s.strand.xpc s) (fun _ _ => true)) &&
    ([[], [entry 1 2 3]] : List (List VqEntry)).all fun q =>
      ready g0 [] [] [] (tweak (fun t => { t with vq := q, returning := some (⟨0x1000, 0⟩, 0x400) }) (handler c))) = true := by decide +kernel
/-- A cluster whose banks are all in one role, and a window of two of them. -/
def window (b : ClBank) (s : State) : State :=
  { (tweak (fun t => { t with wb := 0, wn := 2 }) s) with clusters := [(0, { ClusterState.reset with banks := Vector.replicate 48 b, full := [4] })] }
theorem wit_SupervisorOnly : (!priv base.strand && base.strand.returning.isNone && guardOn g0 base.strand && decide (upsetValue base.strand [] [0] = none) && !guardOn gp base.strand &&
    decide (upsetValue base.strand [] [1] = none) && ready g0 [1, 2] [3] [] base && !priv (window .s base).strand &&
    decide ((clusterAt (window .s base) 0).banks[1]? = some .s) && decide ((clusterAt base 0).banks[47]? = some .c) &&
    !(queued (entry 0 0 0) 1 (window .s base)).strand.vq.isEmpty &&
    ready g0 [1, 2] [3] [] (queued (entry 0 0 0) 1 (window .s base))) = true := by decide +kernel

theorem wit_HintParkEndResults : (ready g0 [] [] [] base &&
    (let s := regs [(1, 0x2000), (2, 7)] base; ready g0 [1, 2] [3] [] s && quietCore s &&
      ok (atomicRead (me s) (whoAmI s) (getS s.strand 1) 8 s) fun v s1 => kept s s1 && word v != getS s.strand 2) &&
    (let s := regs [(1, 0x2000), (2, 0)] base;
      ok (atomicRead (me s) (whoAmI s) (getS s.strand 1) 8 s) fun v s1 => kept s s1 && word v == getS s.strand 2) &&
    ok (releaseFor (me base) .dm base) (fun _ _ => base.strand.vq.isEmpty) && !(queued (entry 0 0 0) 1 base).strand.vq.isEmpty &&
    !guardOn gp base.strand) = true := by decide +kernel
/-- The head and tail of an instruction. -/
def wordsOf (i : Instr) : BitVec 16 × BitVec 96 := (encode i).getD (0, 0)
theorem wit_VqIssues : (base.strand.vq.isEmpty && guardOn g0 base.strand && (vqSample g0 .i32 1 2 3 1 0x10).all (fun i => (encode i).isSome) &&
    !guardOn gp base.strand && runs base.strand && decide (classify 0x27C0 0 = .bad 0x27C0) &&
    ([.vadd g0 .i32 1 2 (.scal 2) 0, .vcfg g0 1 2, .barCl gp, .vadd gp .i32 1 2 (.scal 2) 0] : List Instr).all (fun i =>
      let x := wordsOf i
      decide (classify x.1 x.2 = .queue x.1 x.2 ∧ upsetValue base.strand [] [(headGuard x.1).p] = none)) &&
    (let x := wordsOf (.vadd g0 .i32 1 2 (.scal 2) 0)
     decide (guardOn (headGuard x.1) base.strand = true ∧ headOp x.1 ≠ 0x40 ∧ vqWritesAny base.strand.vq (entryReads (headOp x.1) x.2) = false ∧
       upsetValue base.strand (entryReads (headOp x.1) x.2) [] = none) &&
     vqWritesAny [{ entry 0 0 0 with head := 0x2820, tail := 2 }] (entryReads (headOp x.1) x.2)) &&
    decide (headOp (wordsOf (.vcfg g0 1 2)).1 = 0x40) && priv (sup base).strand && decide (headOp (wordsOf (.barCl gp)).1 = 0xAB) &&
    decide (64 ≤ (tweak (fun t => { t with vq := List.replicate 64 (entry 0 0 0) }) base).strand.vq.length)) = true := by decide +kernel
theorem wit_WholeNeedsVstartZero : (let s := tweak (fun t => { t with vstart := 511 }) (queued (entry 1 2 3) 4 base)
    decide (s.strand.vq.head? = some (entry 1 2 3) ∧ s.strand.vstart ≠ 0)) = true := by decide +kernel

theorem wit_VectorConfiguration : (([0x21A, 0x0, 0x1A] : List Word).all (fun w =>
      match readVcfg w with
      | some q =>
        let s0 := releaseGrant (queued (entry w 0 0) 0 base)
        !olderVcfg (queued (entry w 0 0) 0 base) (entry w 0 0) && (!q.wait || decide (q.ext ≤ canLeave (coreAt s0 0) ∧ q.nacc ≤ 4 - accsClaimed s0 0))
      | none => false) &&
    (let e : VqEntry := { entry 0x21A 0 0 with age := 9 }
     let u : Strand := { base.strand with id := 1, vq := [{ e with age := 8, head := 0x2800 }] }
     let s : State := { queued e 0 base with others := [u] }
     decide (s.strand.vq.head? = some e ∧ coreOf u.id = coreOf s.strand.id) && (headVcfg u).any (fun x => couldGrant s u x.2 && decide (x.1.age < e.age)) &&
       (readVcfg e.a).isSome) &&
    granted (entry 5 2 0) [] 0 (queued (entry 5 2 0) 9 base) &&
    (let e := { entry 1000 256 0 with tether := 0x2000 }
     let s := queued e 0 { base with mem := memWrite base.mem 0x2000 (leBytes 8 0x140) }
     ok (atomicRead (me s) (vecWho s) e.tether 8 s) fun w s1 => kept s s1 && (tetherLen w e.a.toNat e.b.toNat s.strand.vlmax).isSome &&
       decide (s.strand.vq.head? = some e))) = true := by decide +kernel
/-- Five elements and a mask in the registers that the vector witnesses use, all 32 granted at the greatest width. -/
def vecS (w : Nat) (e : VqEntry) : State :=
  masked 1 0xD (elems 2 w [0x80, 0x7F, 1, 0xFFFFFFFFFFFFFFFF, 77] (elems 3 w [0xF9, 2, 0, 4, 1] (queued e 5 base)))
theorem wit_VectorIntegerResults : ([.i8, .n64] : List Ty).all (fun ty => granted (entry 0 5 0) [31, 2, 3] ty.width (vecS ty.width (entry 0 5 0)) &&
    granted (entry 0 5 0) [0, 31] ty.width (vecS ty.width (entry 0 5 0))) = true := by decide +kernel
theorem wit_VectorMaskAndMoveResults : (granted (entry 7 3 0) [31, 2, 3] 64 (vecS 64 (entry 7 3 0)) &&
    granted (entry 7 3 0) [] 0 (vecS 8 (entry 7 3 0)) && decide (0 < (vecS 8 (entry 7 3 0)).strand.vl) &&
    granted (entry 7 3 0) [31] 8 (queued (entry 7 3 0) 0 base) && decide ((queued (entry 7 3 0) 0 base).strand.vl = 0)) = true := by
  decide +kernel
theorem wit_PermutationResults : granted (entry 0 2 0) [31, 2, 3] 64 (vecS 64 (entry 0 2 0)) = true := by decide +kernel
/-- Seven floats in vector registers 2 to 4, with block exponents in 5, from VSTART 1. -/
def fpV (vst : Nat) : State :=
  let l := [0x3F800000, 0x40490FDB, 0xC2F00000, 0x7F800000, 0x00000001, 0x7FC00000, 0x80000000]
  masked 1 0x5F (elems 2 32 l (elems 3 32 (l.drop 2) (elems 4 32 (l.drop 1) (elems 5 8 [0x77]
    (tweak (fun t => { t with vstart := vst }) (queued (entry 0 0x3F800000 0x40490FDB) 7 base))))))
/-- A run over the elements that traps nothing. -/
def runsTo (f : Nat → Strand → BitVec 6 × (Strand → Strand)) : Bool := (elementRun 1 f (fpV 1).strand).isSome
theorem wit_VectorFpResults : (granted (entry 0 0x3F800000 0x40490FDB) [31, 2, 3, 4] 32 (fpV 0) && decide (rmode .dyn 0 = some .rne) &&
    (let k := fmtOf .f32
     let out (z : FpRes) (i : Nat) : BitVec 6 × (Strand → Strand) := (z.2, fun t => putElem t 31 32 i z.1)
     runsTo (fun i t => out (fpDiv k .rne (velem t 2 32 i) (velem t 3 32 i)) i) &&
     runsTo (fun i t => out (fpFma k .rup (velem t 2 32 i) (velem t 3 32 i) (velem t 4 32 i)) i) &&
     runsTo (fun i t => out (fpSqrt k .rne (velem t 2 32 i)) i) && runsTo (fun i t => out (fpRsq k .rne (velem t 2 32 i)) i) &&
     runsTo (fun i t => out (fpMin k (velem t 2 32 i) (velem t 3 32 i)) i) &&
     runsTo (fun i t => out (fpMin k (fpMaxN k (velem t 2 32 i) (velem t 3 32 i)).1 (velem t 4 32 i)) i) &&
     runsTo (fun i t => let z := fpCond k .lt (velem t 2 32 i) (velem t 3 32 i); (z.2, fun t => putMask t 2 i z.1)) &&
     runsTo (fun i t => out (convert .rne .bf16 .f32 (velem t 2 32 i)) i) &&
     runsTo (fun i t => out (bx8Value k (signedOf 8 (velem t 2 8 i)) (velem t 5 8 (i / 32))) i) &&
     runsTo (fun i _ => (16, fun t => putElem t 31 8 i (wrapTo 8 (bx8Q (bx8Exp [fpRead k (velem t 2 32 i)]) (fpRead k (velem t 2 32 i))).1)))))
       = true := by decide +kernel
theorem wit_ReductionResults : (granted (entry 0 0x3F800000 0x40490FDB) [31, 2, 3] 32 (fpV 0) && decide (rmode .rne 4 = some .rne) &&
    Ty.i32.isInt && !Ty.f32.isInt && !flagTraps (fpV 0).strand (redPick .f32 true [0x3F800000, 0x7FC00000]).2 &&
    !flagTraps (fpV 0).strand (canonSum (fmtOf .f32) .rne 7 (fun i => some (velem (fpV 0).strand 2 32 i)) none fun _ => 0).2 &&
    !flagTraps (fpV 0).strand (scanList .max .f32 .rne none [(0, 0x3F800000), (6, 0x80000000)]).2 &&
    (List.range 64).all fun fl => !flagTraps (fpV 0).strand (BitVec.ofNat 6 fl)) = true := by decide +kernel

/-- A vector memory instruction's entry and state: data at 0x2000, offsets in vector register 3, values in 1. -/
def vm (va : Word) (vst : Nat) : VqEntry × State :=
  let e := entry va 16 0
  (e, masked 1 0x16 (elems 1 32 [0x3F800000, 2, 3, 4, 5] (elems 2 32 [7, 8, 9, 10, 11] (elems 3 64 [0, 8, 16, 64, 24]
    (tweak (fun t => { t with vstart := vst }) (queued e 5 { base with mem := memWrite base.mem 0x2000 [1, 2, 3, 4, 5, 6, 7, 8] }))))))
/-- The page that ends at 2^57, translated by ATS. -/
def lastPage (s : State) : State :=
  { s with
    cores := [(0, { CoreState.reset with l1tlb := [{ asid := 0, glob := false, host := true, page := (2 ^ 57 - 4096) / 4096
                                                     size := 12, pa := 0x5000, perm := 3, attr := 0 }] })]
    queues := s.queues.setIfInBounds 0 { queueAt s 0 with ctl := 0x10000000000 } }
theorem wit_VectorMemoryResults_elements : (let x := vm 0x2000 1
    let unit (nf k : Nat) : List Word := (List.range nf).map fun f => 0x2000 + word ((k * nf + f) * 4)
    decide (x.2.strand.vq.head? = some x.1 ∧ rmode .dyn x.1.frm = some .rne ∧ (5 : BitVec 5).toNat + 8 ≤ x.2.strand.nreg) &&
    (elementSteps 1 5 (fun k => loadsElem .i32 .i32 .rne 31 k (unit 1 k)) x.2).isSome &&
    (elementSteps 1 5 (fun k => loadsElem .i32 .i32 .rne 31 k [0x2000 + word k * x.1.b]) x.2).isSome &&
    (elementSteps 1 5 (fun k => storesElem .i32 .i32 .rne 1 k (unit 1 k)) x.2).isSome &&
    (elementSteps 1 5 (fun k => storesElem .e4m3 .f32 .rne 1 k [0x2000 + word k * x.1.b]) x.2).isSome &&
    (elementSteps 1 5 (fun k s => do loadsElem .f32 .bf16 .rne 31 k [← indexAddr 0x2000 3 k s] s) x.2).isSome &&
    (elementSteps 1 5 (fun k s => do storesElem .i32 .i32 .rne 1 k [← indexAddr 0x2000 3 k s] s) x.2).isSome &&
    (elementSteps 0 5 (fun k => loadsElem .i32 .i32 .rne 5 k (unit 8 k)) x.2).isSome &&
    (elementSteps 1 5 (fun k => storesElem .i32 .i32 .rne 1 k (unit 2 k)) x.2).isSome &&
    granted x.1 [31, 3] 64 (vm 0x2000 0).2) = true := by decide +kernel
/-- A first-fault load of words whose element k, the elements from `vst` on before it read, meets an error of one or the other kind,
early enough to shorten VL or not. -/
def firstFault (va : Word) (vst k : Nat) (m : BitVec 3) (f : State → State) (done early soft : Bool) : Bool :=
  let s := f (tweak (fun t => { t with vq := [{ entry va 16 0 with done := done }] }) (vm va vst).2)
  decide (s.strand.vstart ≤ k ∧ k < s.strand.vl ∧ s.strand.vq.head? = some { entry va 16 0 with done := done }) &&
  match elementSteps m k (fun j => loadsElem .i32 .i32 .rne 31 j [va + word (j * 4)]) s with
  | none => false
  | some t =>
    let u := mapStrand (fun x => { x with vstart := k }) t
    let w := vecWho u
    let v := va + word (k * 4)
    let hit (c : Cause) (x : State) : Bool := kept u x && early == (done || (span vst k).any fun j => maskBit t.strand m j) &&
      soft == decide (c ∈ [Cause.loadFault, .storeFault, .protection, .dataError, .remote])
    maskBit t.strand m k && decide (t.strand.upsets = []) &&
    match checkAccess w v 4 .load u with
    | .error (.trap c _) x => hit c x
    | .ok p y =>
      (match eachOnce (uncWriter (me u) w) 1 (fun _ => loadAt (me u) w p 4 v) y with
       | .error (.trap c _) x => hit c x
       | _ => false)
    | _ => false
/-- An uncorrectable error in the line at 0x2040. -/
def brokenLine (s : State) : State := { s with poison := [0x2040 / 32] }
theorem wit_VectorMemoryResults_firstFault : (firstFault 0x01FFFFFFFFFFFFF8 0 2 0 lastPage false true true &&
    firstFault 0x01FFFFFFFFFFFFF8 1 2 0 lastPage false true true && firstFault 0x0200000000000000 0 0 0 id false false true &&
    firstFault 0x0200000000000000 0 1 1 id false false true && firstFault 0x2038 0 2 0 brokenLine false true true &&
    firstFault 0x2038 2 2 0 brokenLine true true true && firstFault 0x2038 2 2 0 brokenLine false false true &&
    firstFault 0x2001 1 1 0 id true true false) = true := by decide +kernel
theorem wit_VectorMemoryResults_add : ([(.i64, .di, 1), (.f32, .dm, 0)] : List (Ty × Scope × BitVec 3)).all (fun y => let x := vm 0x2000 0
    (elementSteps y.2.2 5 (fun k s => do addsElem y.1 y.2.1 1 k (← indexAddr 0x2000 3 k s) s) x.2).isSome) = true := by
  decide +kernel

/-- A strand that waits for the words at 0x2000. -/
def waiter (m : BitVec 3) (vl : Nat) : VqEntry × State :=
  let e := entry 0 2 0xFFFFFFFFFFFFFFFF
  (e, masked 1 0x6 (elems 1 64 [0x2000, 0x2008, 0x2010] (elems 2 64 [1, 2, 5] (queued e vl
    { base with mem := memWrite base.mem 0x2000 (leBytes 8 (if m = 0 then 1 else 0) ++ leBytes 8 2 ++ leBytes 8 5) }))))
/-- The hypotheses of a `vwait` whose words are all there. -/
def awaited (m : BitVec 3) : Bool :=
  let s := (waiter m 3).2
  let act := (List.range s.strand.vl).filter fun i => maskBit s.strand m i
  let at_ (k : Nat) : Word := word (velem s.strand 1 64 k)
  decide (act ≠ [] ∧ act.length ≤ 256 ∧ s.strand.watch = 0 ∧ watchUsed s 0 = 0) &&
  match inTurn (fun k s => okOf (checkAccess (whoAmI s) (at_ k) 8 .load s)) act s with
  | none => false
  | some (_, s1) =>
    match eachOnce (uncWriter (me s) (vecWho s)) act.length
        (fun j => atomicRead (me s) (vecWho s) (word (nthD (act.map fun k => velem s.strand 1 64 k) j 0)) 8)
        (tweak (fun t => { t with watch := act.length, armedAt := s1.ptime }) s1) with
    | .error _ _ => false
    | .ok xs s2 => decide (s2.strand = { s.strand with watch := act.length, armedAt := s1.ptime } ∧ s1.others = s.others ∧
        s1.strand = s.strand) && (act.zip xs).all fun z => decide (velem s.strand 2 64 z.1 ≤ z.2)
theorem wit_VwaitAndFenceResults : (awaited 0 && awaited 1 && granted (waiter 1 0).1 [1, 2] 64 (waiter 1 0).2 &&
    (List.filter (fun i => maskBit (waiter 1 1).2.strand 1 i) (List.range 1)).isEmpty &&
    granted (entry 0 0 0) [] 0 (queued (entry 0 0 0) 2 base) && base.strand.vq.isEmpty && base.strand.vstart == 0) = true := by
  decide +kernel

/-- Two accumulators and their operands. -/
def accS (e : VqEntry) : State :=
  let x : Accum := { data := 0x3F800000, intervals := #v[0x2000000500000000, 0, 0, 0], base := 0, masked := false }
  tweak (fun t => { t with accs := [x, x], vl := 20 }) (elems 2 16 (List.replicate 128 0x3F80) (elems 4 8 (List.replicate 128 0x38)
    (queued e 20 { base with mem := memWrite base.mem 0x2000 (leBytes 8 0x2000000500000007) })))
theorem wit_AccumulatorResults : (let e := entry 0x2000 5 3
    granted e [2, 3] 16 (accS e) && decide ((1 : BitVec 2).toNat < (accS e).strand.accs.length ∧ 32 * (7 + 1) ≤ (accS e).strand.vlmax) &&
    (List.range 64).all (fun fl => !flagTraps (accS e).strand (BitVec.ofNat 6 fl)) &&
    decide (indexOf e (.imm 31) < 32) && granted e [31] 32 (accS e) &&
    ok (loadVa (me (accS e)) (vecWho (accS e)) e.a 32 (accS e)) fun v s1 => kept (accS e) s1 &&
      (List.range 4).all fun k => decide (v / 2 ^ (64 * k) % 2 ^ 64 / 2 ^ 29 % 8 = 0 ∧ v / 2 ^ (64 * k) % 2 ^ 64 / 2 ^ 62 % 4 = 0)) =
      true := by decide +kernel

/-- A codebook image at 0x2000. -/
def bookS (l : List Nat) : State :=
  let s := queued (entry 0x2000 0 0) 1 base
  { s with mem := memWrite s.mem 0x2000 (l.flatMap fun x => leBytes 2 x) }
/-- A codebook whose entry 15 alone is not valid, and the valid one of reset. -/
def books : List (List Nat) := let l := resetBook.toList.map BitVec.toNat; [l, l.take 15 ++ [0xFFFF]]
theorem wit_LookupSetup : (granted (entry 0x0000015800040000 0 0) [] 0 (queued (entry 0x0000015800040000 0 0) 0 base) &&
    !badShapes 0x0000015800040000 && badShapes 0x0001015800040000 && !badShapes 0x0004F5CF0FFF003F && badShapes 0 &&
    books.all (fun l => ok (loadVa (me (bookS l)) (vecWho (bookS l)) 0x2000 32 (bookS l)) fun v s1 => kept (bookS l) s1 &&
      (List.range 15).all (fun i => bookOk (v / 2 ^ (16 * i) % 2 ^ 16)) && bookOk (v / 2 ^ 240 % 2 ^ 16) == (l.getLast? != some 0xFFFF)) &&
    [0x2000, 0x3000, 0x10, 0xFFFFFFF0].all (fun v => v % 16 == 0) &&
    decide (([0x2000, 0x3000, word 0x108, word 0x100] : List Word).find? (fun v => v.toNat % 16 != 0) = some (word 0x108))) = true := by
  decide +kernel
/-- A row of activations at the ends of their range, for codes of one bit in eights and of four bits alone. -/
theorem wit_LookupSetup_tables : ∀ x ∈ ([(1, 3), (4, 0)] : List (Nat × Nat)), 24 * (tableEntries resetBook
    { v := true, b := x.1, gc := x.2, km := 0x8 } [List.replicate 31 (-128) ++ [127]]).length ≤ 131072 := by
  have k : kindList 8 = [3] := by decide
  simp [tableEntries, groupSize, k, List.length_flatMap]
theorem wit_LookupSetup_values : ((kindList 8)[0]? == some 3 && (List.replicate 31 (-128) ++ [127] : List Int).length == 32 &&
    resetBook.toList.all fun e => decide ((bookValue e.toNat).natAbs ≤ 2 ^ 11)) = true := by decide +kernel

/-- A crew of eight on cluster 0. -/
def crewOf (size : Nat) (here : List Nat) : Crew :=
  { id := 0, flight := 0, idx := 0, cl := 0, wb := 0, ws := 0, wf := 0, size := size, ended := [], lost := false, prio := 3, gen := 3,
    here := here, boundAt := 0, readyAt := 0 }
/-- A table source. -/
def tables (gate : Bool) : TableSrc := { qb := 0x00FFFFFF00000000, eb := 0x00FFFFFF00001000, qs := 2048, es := 64, gate := gate }
/-- A lookup job of the acting strand of `base`, of one tile. -/
def job (k : Nat) : LkJob :=
  { id := BitVec.ofNat 32 k, by_ := { issuerNow base with wb := 0, wn := 1 }
    seq := { order := 0, asid := 0, reads := [], writes := [], disp := true }, desc := 0, tsh := 0x0000015800040000, book := resetBook
    src := tables false, cb := 0, cs := 0, mode := 2, fc := 0, ncon := 8, state := .running, pass := 0, seg := 0, acc := [], rows := []
    errs := [], err := 0, flags := 0, repc := 0, repi := false, cancel := false, swept := false }
/-- A row to drain. -/
def row3 : DrainRow := { row := 3, cons := 0, col := 2, vals := [⟨0x3F800000, 1, false⟩, ⟨0x40000000, 2, false⟩] }
/-- The acting strand in a crew of eight, with shapes, tables and lookup jobs. -/
def looker (e : VqEntry) (vl : Nat) (l : List LkJob) : State :=
  mapCluster 0 (fun c => { c with lk := l }) (tweak (fun t => { t with tsh := 0x0000015800040000, tsrc := some (tables true), crew := 0, idx := 0 })
    (queued e vl { base with crews := [crewOf 8 []] }))
theorem wit_LookupInstructions : (let e := entry 0x2000 0x3000 0x40
    let s := looker e 8 [job 1, job 2, job 3]
    granted e [31] 32 s && s.strand.tsh.getLsbD 35 && decide (crewSize s = 8 ∧ s.strand.tsrc ≠ none) &&
    ok (loadVa (me s) (vecWho s) e.a 32 s) (fun _ s1 => kept s s1 && decide (notComplete (jobsOf s1 s.strand.crew s.strand.idx.toNat) < 4 ∧
      notComplete (clusterAt s1 0).lk < 32) && ok (releaseFor (me s) .cl s1) fun _ s2 => kept s s2) &&
    decide ((looker e 0 []).strand.vl = 0 ∧ drainJob (looker e 4 []) = none) &&
    (let j := { job 1 with rows := [row3] }
     decide (drainJob (looker e 2 [j]) = some j ∧ j.rows.find? (fun r => r.cons == 0) = some row3) && row3.vals.all fun v => !v.poison) &&
    ([[], [{ job 1 with state := .complete, flags := 3 }], [job 1], [{ job 1 with state := .complete, err := 5, repi := true, repc := 1 }],
        [{ job 1 with state := .complete, err := 5, repi := true, repc := 1 }, { job 2 with state := .complete, err := 6 }]] :
        List (List LkJob)).all (fun l => let js := (clusterAt (looker e 8 l) 0).lk.filter fun j =>
          j.by_.crew == 0 && j.by_.idx == 0 && atOrBefore j.id (e.a.setWidth 32)
      decide (js = l) && (js.any (fun j => j.state != .complete) ||
        js.findIdx? (fun j => !(j.err == 0 || reportedTo j 0)) == if l.length == 2 then some 1 else none)) &&
    (looker e 8 []).strand.lkst.getLsbD 27 &&
    !(tweak (fun t => { t with lkst := 0 }) (looker e 8 [])).strand.lkst.getLsbD 27) = true := by decide +kernel

/-- A copy set of four-byte elements. -/
def set0 : CopySet := { CopySet.bind with src := 0x2000, dst := 0x3000, esz := 2, cscp := 9 }
/-- A transfer of the acting strand of `base`. -/
def move (k : Nat) (disp : Bool) : ReelJob :=
  { id := BitVec.ofNat 32 k, set := set0, l0 := 4, by_ := issuerNow base
    seq := { order := 0, asid := 0, reads := [⟨0x2000, 16, (1, 1, 1), (0, 0, 0)⟩], writes := [⟨0x3000, 16, (1, 1, 1), (0, 0, 0)⟩], disp := disp }
    step := 0, ecause := 0, eaddr := 0, wait := none, cancel := false, stop := false, lines := [], pair := none }
/-- Channel 2 of cluster 0. -/
def chan (n : BitVec 32) (l : List ReelJob) (s : State) : State :=
  mapCluster 0 (fun c => { c with reel := c.reel.set 2 { next := n, jobs := l } }) s
theorem wit_ReelInstructions : (let s := chan 0 (List.replicate 15 (move 0xFFFFFFFF false)) (tweak (fun t => { t with cps := t.cps.set 2 set0, vl := 16 }) base)
    ready g0 [] [12] [] s && s.strand.vq.isEmpty && decide (2 ≤ set0.cscp ∧ set0.cscp ≤ 9 ∧ (channelAt s 0 2).jobs.length < 16) &&
    (alignedValues set0).all (fun v => v.toNat % 4 == 0) && ok (releaseFor (me s) .cl s) (fun _ s1 => kept s s1) &&
    granted (entry 0 0 0) [] 0 (queued (entry 0 0 0) 1 (chan 1 [move 0xFFFFFFFF false] base)) &&
    decide (((0 : BitVec 32) - 0xFFFFFFFF).toNat < ((1 : BitVec 32) - 0xFFFFFFFF).toNat ∧
      ¬ ((1 : BitVec 32) - 0xFFFFFFFF).toNat < ((1 : BitVec 32) - 0xFFFFFFFF).toNat)) = true := by decide +kernel
/-- A forwarding pair, and the pairs of cluster 0. -/
def pairOf (st : PairState) : Pair := { old := 0x100000, new := 0x200000, z := 20, ch := 2, id := 3, wm := 5, state := st, flight := 0 }
def pairsS (v : Vector Pair 16) (e : VqEntry) : State := queued e 1 (mapCluster 0 (fun c => { c with pairs := v }) base)
theorem wit_SlabResults : (let e := entry 0x10000000000 0x20000000000 0
    let s := pairsS ((Vector.replicate 16 (pairOf .forwarding)).set 15 Pair.free) e
    granted e [] 0 s && decide ((16 : Nat) ≤ 40 ∧ e.a.toNat % 2 ^ 40 = 0 ∧ e.b.toNat % 2 ^ 41 = 0) &&
    !slabClash (clusterAt s 0) e.a.toNat e.b.toNat 40 && decide ((clusterAt s 0).pairs.toList.findIdx (fun q => q.state == .free) = 15 ∧
      (channelAt s 0 2).jobs.length < 16) && ok (releaseFor (me s) .cl s) (fun _ s1 => kept s s1) &&
    slabClash (clusterAt (pairsS (Vector.replicate 16 (pairOf .moving)) e) 0) 0x100000 0x400000 16 &&
    decide ((clusterAt (pairsS (Vector.replicate 16 (pairOf .failed)) e) 0).pairs.toList.findIdx (fun q => q.state == .free) = 16) &&
    granted (entry 15 0 0) [] 0 (pairsS (Vector.replicate 16 (pairOf .failed)) (entry 15 0 0))) = true := by decide +kernel
theorem wit_ClaimAndPubResults : (let e := entry 0x2000 1000 0
    let s := queued e 1 { base with mem := memWrite base.mem 0x2000 (leBytes 8 600 ++ leBytes 8 1000) }
    granted e [] 0 s && ok (checkAccess (vecWho s) e.a 16 .store s) (fun p s1 => ok (checkAccess (vecWho s) e.a 16 .load s1) (fun _ s2 =>
      decide (p.space ≠ .host true) && ok (checkPhaseFree (me s) (vecWho s) p e.a s2) fun _ s3 => decide (s3.strand.vlmax = s.strand.vlmax) &&
        ok (atomicAt (me s) (vecWho s) p 16 e.a (fun x => some x) s3) fun _ _ => true)) &&
    ok (checkAccess (vecWho s) e.a 8 .store s) fun p s1 => ok (checkPhaseFree (me s) (vecWho s) p e.a s1) fun _ s2 =>
      ok (releaseFor (me s2) .cl s2) fun _ s3 => ok (phaseFreeAt false (me s) (vecWho s) p 8 e.a (fun _ => some e.b.toNat) s3) fun _ _ => true) =
      true := by decide +kernel
/-- A strand at a crew barrier. -/
def barrier (c : Crew) (e : VqEntry) : State := queued e 1 { base with crews := [c] }
theorem wit_BarrierResults : (let e := entry 0 0 0
    [crewOf 1 [], crewOf 2 [], crewOf 2 [1], { crewOf 2 [] with ended := [1] }].all (fun c => granted e [] 0 (barrier c e) &&
      ok (releaseFor (me (barrier c e)) .cl (barrier c e)) fun _ s1 => kept (barrier c e) s1 && decide (crewAt (barrier c e) 0 = some c ∧
        crewAt s1 0 = some c)) &&
    allArrived { crewOf 2 [1] with here := insertN [1] 0 } && !allArrived { crewOf 2 [] with here := insertN [] 0 } &&
    ([2, 3] : List Nat).all (fun n => granted { e with arrived := some n } [] 0 (barrier (crewOf 2 [0]) { e with arrived := some n })) &&
    granted { e with guardOff := true } [] 0 (barrier (crewOf 2 []) { e with guardOff := true })) = true := by decide +kernel
theorem wit_BoundaryResults : (guardOn g0 base.strand && !guardOn gp base.strand && decide (upsetValue base.strand [] [1] = none) &&
    decide (upsetValue base.strand [] [0] = none) && !base.strand.vq.any entryStores &&
    [Scope.st, .co, .cl, .di, .dm, .ho, .sy].all (fun sc => ok (releaseFor (me base) sc base) fun _ _ => true) &&
    (queued { entry 0 0 0 with head := 0x90A0 } 1 base).strand.vq.any entryStores) = true := by decide +kernel
theorem wit_AtomicResults : (let s := at1 0x2000
    let c := at1 0x00FFFFFF4003FFF8
    quietCore s && ready g0 [1, 2] [0] [] s && ready g0 [1, 2, 3] [3] [] s && !s.strand.vq.any entryStores && s.stores.isEmpty &&
    c.stores.isEmpty && c.chains.isEmpty && c.stale.isEmpty && quietCore c && coSlotOk c (whoAmI c) (0x3FFF8 / 0x4000) && !poisoned c (coKey (myCore c) 0x3FFF8) 8 &&
    ok (atomicCheck (whoAmI s) 0x2000 8 true s) (fun q s1 => decide (s1.strand.vq = s.strand.vq) && !near s1 0 q .dm &&
      ok (releaseFor (me s1) .dm s1) fun _ s2 => ok (atomicAt (me s) (whoAmI s) q 8 0x2000 (fun o => some o) s2) fun _ _ => true) &&
    ok (atomicCheck (whoAmI s) 0x2000 4 false s) fun q s1 => near s1 0 q .cl &&
      ok (atomicNear (me s) (whoAmI s) q 4 (scopeNum .cl) 0x2000 (fun o => some o) s1) fun _ _ => true) = true := by decide +kernel
/-- An address at offset o of the cluster store, in s1. -/
def clAt (b : ClBank) (o : Nat) : State := window b (regs [(1, word (0x00FFFFFF00000000 + o)), (2, 5)] base)
theorem wit_FullEmptyResults : ((([(.s, 0x40), (.f, 0xFFFF0), (.c, 0x17FFFF8)] : List (ClBank × Nat)).all fun x => let s := clAt x.1 x.2
      quietCore s && ready g0 [1] [3] [] s && ready g0 [1, 2] [] [] s && s.stores.isEmpty && !s.strand.vq.any entryStores &&
      decide ((getS s.strand 1).toNat = 0x00FFFFFF00000000 + x.2 ∧ x.2 < 0x1800000) && !poisoned s (clKey 0 x.2) 8 &&
      (if x.1 = .c then decide ((clusterAt s 0).banks[x.2 / 0x80000]? = some .c) else clSlotOk s (whoAmI s) (x.2 / 0x80000))) &&
    granuleFull (clAt .s 0x40) 0 4 && !granuleFull (clAt .f 0xFFFF0) 0 0xFFFF) = true := by decide +kernel
theorem wit_FullEmptyResults_elsewhere : ((let s := at1 0x00FFFFFF4003FFF8
      decide ((getS s.strand 1).toNat = 0x00FFFFFF40000000 + 0x3FFF8 ∧ (getS s.strand 1).toNat % 8 = 0) && coSlotOk s (whoAmI s) (0x3FFF8 / 0x4000) && ready g0 [1] [3] [] s && ready g0 [1, 2] [] [] s && quietCore s) &&
    (let s := at1 0x2000
     let ro := { s with ranges := s.ranges.set 5 { base := 0x2000, limit := 0x4000, slot := 5, v := true, hc := false, pend := false } }
     !cRoleSlot s (whoAmI s) 0x2000 && !cRoleSlot ro (whoAmI ro) 0x2000 && ok (checkAccess (whoAmI s) 0x2000 8 .load s) (fun p _ => decide (p.space = .dev 0)) &&
     ok (checkAccess (whoAmI s) 0x2000 8 .store s) (fun p t => (probeWrite (whoAmI s) p t).isNone && decide (p.space = .dev 0)) &&
     ok (checkAccess (whoAmI ro) 0x2000 8 .store ro) fun p t => decide (probeWrite (whoAmI ro) p t = some .protection))) = true := by decide +kernel
/-- Banks in a mix of roles: the first n in role C. -/
def mixed (n : Nat) : State :=
  sup { base with
    clusters := [(0, { ClusterState.reset with banks := Vector.ofFn fun k => if k.val < n then .c else if k.val % 2 = 0 then .s else .f })]
    cores := [(0, { CoreState.reset with banks := Vector.ofFn fun k => if k.val < n then .c else if k.val % 2 = 0 then .s else .v 1 })] }
theorem wit_BankroleResults : (ready g0 [1, 2] [3] [] (mixed 8) && priv (mixed 8).strand && (mixed 8).strand.vq.isEmpty &&
    ok (releaseFor (me (mixed 8)) .cl (mixed 8)) (fun _ s1 => kept (mixed 8) s1) &&
    (let q : SeqInfo := { order := 0, asid := anyAsid, reads := [], writes := [flatFoot 0x00FFFFFF00000000 0x80000], disp := false }
     let place (q : SeqInfo) (s : State) : State := tweak (fun t => { t with place := some q }) s
     let busy := mapCluster 0 (fun c => { c with lk := [{ job 1 with seq := q }] }) (mixed 8)
     clearToStart (place { q with order := 1 } (mixed 8)) 0 { q with order := 1 } && !clearToStart (place { q with order := 1 } busy) 0 { q with order := 1 } &&
     (mixed 8).strand.place.isNone && (let w := { q with writes := [flatFoot (word (0x00FFFFFF40000000 + 3 * 0x4000)) 0x4000] }
       clearToStart (place w (mixed 8)) 0 w && !clearToStart (place { w with order := 1 } (mapCluster 0 (fun c => { c with lk := [{ job 1 with seq := w }] }) (mixed 8))) 0 { w with order := 1 })) &&
    decide ((clusterAt (mixed 8) 0).banks[7]? = some .c ∧ clCount (clusterAt (mixed 8) 0) = 8 ∧ clCount (clusterAt (mixed 9) 0) = 9 ∧
      (clusterAt (mixed 8) 0).banks[46]? = some .s ∧ (clusterAt (mixed 8) 0).banks[47]? = some .f ∧
      (coreAt (mixed 4) 0).banks[15]? = some (.v 1) ∧ (coreAt (mixed 4) 0).banks[14]? = some .s ∧ (coreAt (mixed 4) 0).banks[3]? = some .c ∧
      (cBanks (coreAt (mixed 4) 0)).length = 4 ∧ (cBanks (coreAt (mixed 5) 0)).length = 5)) = true := by decide +kernel

/-- Operands of the range and protocol instructions in supervisor mode. -/
def ops3 (a b c : Word) (s : State) : State := sup (regs [(20, a), (21, b), (22, c)] s)
/-- Entry 5 covers offsets 0x20000 to 0x3FFFF under the protocol in a slot. -/
def ranged (slot : Nat) : State :=
  { base with ranges := base.ranges.set 5 { base := 0x20000, limit := 0x40000, slot := slot, v := true, hc := false, pend := false } }
/-- A line of that range that a cluster holds. -/
def heldLine (s : State) : State :=
  { s with clines := [{ CLine.fresh 0 (0x20000 / 64) with state := 1 }] }
/-- A protocol image that passes every check. -/
def goodImage : Nat :=
  0x42545250 + 2 ^ 32 + 2 * 2 ^ 48 + 2 * 2 ^ 56 + 0x77 * 2 ^ 64 + 3 * 2 ^ 96 + 3 * 2 ^ 112 +
    ((List.range 24).map fun k => 2 ^ (8 * (64 + 8 * k) + 24) + 2 ^ (8 * (1600 + 8 * k) + 24)).sum
/-- The bytes of that image that are not zero. -/
def goodCells : List (Nat × Byte) :=
  [(0, 0x50), (1, 0x52), (2, 0x54), (3, 0x42), (4, 1), (6, 2), (7, 2), (8, 0x77), (12, 3), (14, 3)] ++
    ((List.range 24).map fun k => (67 + 8 * k, 1)) ++ (List.range 24).map fun k => (1603 + 8 * k, 1)
/-- A strand that loads an image from its core scratch, before it has the lock and under it. -/
def imaged (l : List (Nat × Byte)) : State :=
  let s := ops3 0x00FFFFFF40030000 7 0 base
  { s with mem := l.map fun x => (0x40000000030000 + x.1, x.2) }
def reading (l : List (Nat × Byte)) : State := { imaged l with lock := some (me (imaged l)) }
/-- The words from a to b - 1 that it reads are those of an image. -/
def readsWords (l : List (Nat × Byte)) (img a b : Nat) : Bool :=
  let s := reading l
  (span a b).all fun k =>
    decide ((0x00FFFFFF40030000 + word (8 * k)).toNat = 0x00FFFFFF40000000 + (0x30000 + 8 * k) ∧ 0x30000 + 8 * k < 0x40000 ∧
      (0x00FFFFFF40030000 + word (8 * k)).toNat % 8 = 0 ∧ coSlotOk s (whoAmI s) ((0x30000 + 8 * k) / 0x4000) = true ∧
      poisoned s (coKey (myCore s) (0x30000 + 8 * k)) 8 = false ∧
      leNat ((List.range 8).map fun i => seen s (coKey (myCore s) (0x30000 + 8 * k) + i)) = img / 2 ^ (64 * k) % 2 ^ 64)
theorem readsWords_ok {l : List (Nat × Byte)} {img a b k : Nat} (hq : quietCore (reading l) = true)
   (h : readsWords l img a b = true) (ha : a ≤ k) (hb : k < b) :
   loadVa (me (imaged l)) (whoAmI (imaged l)) (0x00FFFFFF40030000 + word (8 * k)) 8 (reading l) =
    .ok (img / 2 ^ (64 * k) % 2 ^ 64) (reading l) := by
  have hk : k ∈ span a b := by simp only [span, List.mem_map, List.mem_range]; exact ⟨k - a, by omega, by omega⟩
  obtain ⟨h1, h2, h3, h4, h5, h6⟩ := of_decide_eq_true (List.all_eq_true.mp h k hk)
  have hp : NoPairs (reading l) := fun p hp =>
    beq_iff_eq.mp (List.all_eq_true.mp (Bool.and_eq_true_iff.mp hq).2 p hp)
  have hw : whoAmI (imaged l) = whoAmI (reading l) := rfl
  have hm : me (imaged l) = me (reading l) := rfl
  rw [hw, hm, Sys2Proof.Laws.loads_scratch hp ⟨h1, h2, h3, h4⟩ h5, h6]
/-- An image is read in one look under the lock, and nothing changes. -/
def ReadsImage (l : List (Nat × Byte)) (img : Nat) : Prop :=
  eachOnce (me (imaged l)) 392 (fun k => loadVa (me (imaged l)) (whoAmI (imaged l)) (0x00FFFFFF40030000 + word (8 * k)) 8)
      { imaged l with lock := some (me (imaged l)) } =
    .ok ((List.range 392).map fun k => img / 2 ^ (64 * k) % 2 ^ 64) (reading l)
theorem readsImage {l : List (Nat × Byte)} {img : Nat} (hq : quietCore (reading l) = true) (hp : (reading l).parts.isEmpty = true)
   (h0 : readsWords l img 0 98 = true) (h1 : readsWords l img 98 196 = true) (h2 : readsWords l img 196 294 = true)
   (h3 : readsWords l img 294 392 = true) : ReadsImage l img := by
  refine Sys2Proof.Laws.eachOnce_ok (List.isEmpty_iff.mp hp) fun k hk => ?_
  rcases Nat.lt_or_ge k 98 with g1 | g1
  · exact readsWords_ok hq h0 (Nat.zero_le k) g1
  rcases Nat.lt_or_ge k 196 with g2 | g2
  · exact readsWords_ok hq h1 g1 g2
  rcases Nat.lt_or_ge k 294 with g3 | g3
  · exact readsWords_ok hq h2 g2 g3
  · exact readsWords_ok hq h3 g3 hk
theorem wit_RangeAndProtocolResults : (let s := ops3 63 0x10000 0x80000000000 (ranged 1)
    priv s.strand && ready g0 [20, 21, 22] [12] [] s && s.strand.vq.isEmpty && decide (s.lock = none ∧ s.lockq = [] ∧ (0x80000000000 : Nat) ≤ 2 ^ 43) &&
    decide ((rangeAt s 5).v = true ∧ (rangeAt s 5).base < 0x30000 ∧ 0x10000 < (rangeAt s 5).limit) && !(protoAt s 6).loaded &&
    linesHeld (heldLine s) [(0, 0), (0x20000, 0x30000)] && !linesHeld s [(0, 0), (0x40000, 0x80000000000)] &&
    s.gate.isEmpty && s.net.isEmpty && s.clines.isEmpty && s.hlines.isEmpty && s.regions.isEmpty && ready g0 [20] [12] [] s &&
    decide (usersOf (ranged 6) 6 ≠ 0 ∧ usersOf base 7 = 0) && decide (checkImage goodImage = none) && decide (checkImage 0 = some 1)) =
      true := by decide +kernel
theorem wit_RangeAndProtocolResults_words0 : readsWords goodCells goodImage 0 98 = true := by decide +kernel
theorem wit_RangeAndProtocolResults_words1 : readsWords goodCells goodImage 98 196 = true := by decide +kernel
theorem wit_RangeAndProtocolResults_words2 : readsWords goodCells goodImage 196 294 = true := by decide +kernel
theorem wit_RangeAndProtocolResults_words3 : readsWords goodCells goodImage 294 392 = true := by decide +kernel
theorem wit_RangeAndProtocolResults_blank :
   ([(0, 98), (98, 196), (196, 294), (294, 392)] : List (Nat × Nat)).all (fun x => readsWords [] 0 x.1 x.2) = true := by
  decide +kernel
theorem wit_RangeAndProtocolResults_start : ([(goodImage, goodCells), (0, [])] : List (Nat × List (Nat × Byte))).all (fun x =>
    let s := imaged x.2
    ready g0 [20, 21] [12] [] s && priv s.strand && quietCore s && s.lock.isNone && s.lockq.isEmpty && kept s (reading x.2) &&
    decide (((List.range 392).map fun k => x.1 / 2 ^ (64 * k) % 2 ^ 64).foldr (fun v n => v + 2 ^ 64 * n) 0 = x.1)) = true := by
  decide +kernel
theorem wit_RangeAndProtocolResults_quiet :
   ([goodCells, []] : List (List (Nat × Byte))).all (fun l => quietCore (reading l) && (reading l).parts.isEmpty) = true := by
  decide +kernel
theorem wit_RangeAndProtocolResults_image : ReadsImage goodCells goodImage :=
  have h := Bool.and_eq_true_iff.mp (List.all_eq_true.mp wit_RangeAndProtocolResults_quiet goodCells (List.mem_cons_self ..))
  readsImage h.1 h.2 wit_RangeAndProtocolResults_words0 wit_RangeAndProtocolResults_words1 wit_RangeAndProtocolResults_words2
    wit_RangeAndProtocolResults_words3
theorem wit_RangeAndProtocolResults_badImage : ReadsImage [] 0 :=
  have h := Bool.and_eq_true_iff.mp (List.all_eq_true.mp wit_RangeAndProtocolResults_quiet [] (by simp))
  have w := fun x hx => List.all_eq_true.mp wit_RangeAndProtocolResults_blank x hx
  readsImage h.1 h.2 (w (0, 98) (by simp)) (w (98, 196) (by simp)) (w (196, 294) (by simp)) (w (294, 392) (by simp))

/-- A launch queue 15 with registers as given. -/
def queue15 (f : LaunchQueue → LaunchQueue) : State :=
  let s := regs [(20, 0x2000), (21, 15)] base
  { s with queues := s.queues.set 15 (f LaunchQueue.reset) }
theorem wit_TlbAndLaunchResults : (let s := ops3 0x01FFFFFFFFFFFFFF 0x3FFF 0 base
    ready g0 [20, 21] [12] [] s && priv s.strand && !s.strand.vq.any entryStores && ok (releaseFor (me s) .pk s) (fun _ s0 => ([0, 1, 2, 3] : List Nat).all fun kind =>
      ok (drainFor (tlbDrops kind 0xFFF 0x01FFFFFFFFFFFFFF) s0) fun _ s1 => kept s s1) &&
    ([fun q => { q with ctl := 0x40001 }, fun q => { q with ctl := 1 }, fun q => { q with ctl := 0x43 }, fun q => { q with ctl := 3, tail := 16 },
      fun q => { q with ctl := 3, head := 0xFFFFFFFF, tail := 14 }, fun q => { q with ctl := 3 }] : List (LaunchQueue → LaunchQueue)).all (fun f =>
        let s := queue15 f
        ready g0 [20, 21] [12] [] s && ok (atomicRead (me s) (whoAmI s) 0x2000 64 s) fun _ s1 => kept s s1 &&
          ok (releaseFor (me s) .dm s1) fun _ s2 => kept s s2 && s2.chains.isEmpty && quietCore s && !s.strand.vq.any entryStores) &&
    decide (inRing { LaunchQueue.reset with ctl := 3, tail := 16 } = ringSize { LaunchQueue.reset with ctl := 3 } ∧
      inRing { LaunchQueue.reset with ctl := 3, head := 0xFFFFFFFF, tail := 14 } = 15 ∧
      asidOf { LaunchQueue.reset with ctl := 0x43 } ≠ asidOf (queueAt base 0))) = true := by decide +kernel

/-- A strand in supervisor mode, no vector register granted, with the address of a context area, in the core scratch, in s20, and words in it. -/
def areaAt (ws : List (Nat × Nat)) : State :=
  let s := sup (regs [(20, 0x00FFFFFF40030000)] (tweak (fun t => { t with nreg := 0, vlmax := 0, accs := [] }) base))
  { s with mem := ws.foldl (fun m w => memWrite m (coKey 0 0x30000 + w.1) (leBytes 8 w.2)) s.mem }
/-- Words of the area read in turn, as `ctxload` does. -/
def areaRead (l : List Nat) (w s : State) : Option (List (Nat × Nat) × State) :=
  (inTurn (fun off u => okOf (loadVa (me w) (whoAmI w) (0x00FFFFFF40030000 + word off) 8 u)) l s).map fun x => (l.zip x.1, x.2)
/-- The header of an area is read, with the three words that decide what `ctxload` answers. -/
def headRead (ws : List (Nat × Nat)) (f : List (Nat × Nat) → State → Bool) : Bool :=
  match areaRead ((List.range headCount).map fun k => 8 * k) (areaAt ws) (areaAt ws) with
  | some (h, s1) => f h s1
  | none => false
/-- An area with the format, the configuration and the cluster of its reader, an `XPC` and `XCAUSE`, and n entries of the VQ. -/
def goodArea (n : Nat) (cause : Nat) (es : List Nat) : List (Nat × Nat) :=
  [(0, 0x43530001), (8, vcfgValue (areaAt []).strand), (344, 0x1002), (360, cause), (760, n)] ++ wordsAt 0x1000 es
/-- The reader of an area, with an entry kept under the check value 1. -/
def reader (ws : List (Nat × Nat)) : State := { areaAt ws with vault := [(entryWords (entry 1 2 3), [])] }
theorem wit_ContextResults_save : (let s := areaAt []
    ready g0 [20] [12] [] s && priv s.strand && s.strand.vq.isEmpty && s.strand.returning.isNone && !lookupBusy s && (getS s.strand 20).toNat % 4096 == 0 &&
    lookupBusy (mapCluster 0 (fun c => { c with lk := [job 1] }) (tweak (fun t => { t with crew := 0, idx := 0 }) s)) &&
    (let area := areaWords (setS s.strand 20 s.strand.xscratch) (decide (s.strand.upsets ≠ [])) (lkLow s).toNat s
     (inTurn (fun (x : Nat × Nat) u => do
        let va : Word := 0x00FFFFFF40030000 + word x.1
        okOf (storeVa (me s) (whoAmI s) (me s) va 8 x.2 u)) area.1 area.2).isSome)) = true := by decide +kernel
theorem wit_ContextResults_head : (headRead [] (fun h _ => findD h 0 0 == 0) &&
    headRead [(0, 0x43530001), (8, 1)] (fun h _ => findD h 0 0 == 0x43530001 && findD h 8 0 != vcfgValue (areaAt []).strand)) = true := by
  decide +kernel
theorem wit_ContextResults_load : ([(0, 5, []), (1, 0, entryWords (entry 1 2 3) ++ [1]), (1, 0x105, entryWords (entry 1 2 3) ++ [1]),
    (1, 0, entryWords (entry 1 2 4) ++ [1])] : List (Nat × Nat × List Nat)).all (fun y =>
    let s := reader (goodArea y.1 y.2.1 y.2.2)
    match areaRead ((List.range headCount).map fun k => 8 * k) s s with
    | none => false
    | some (h, s1) =>
      findD h 0 0 == 0x43530001 && findD h 8 0 == vcfgValue s.strand && findD h 16 0 == 0 &&
      match areaRead ((List.range (16 * Nat.min (findD h 760 0) 64)).map fun k => 0x1000 + 8 * k) s s1 with
      | none => false
      | some (qs, s2) =>
        if y.2.2 = entryWords (entry 1 2 4) ++ [1] then (queuesOf s2 fun off => findD (h ++ qs) off 0).isNone
        else (queuesOf s2 fun off => findD (h ++ qs) off 0).isSome &&
          match areaRead (fileOffsets s.strand) s s2 with
          | none => false
          | some (fs, s3) =>
            match strandOf s3 (fun off => findD (h ++ qs ++ fs) off 0) s.strand with
            | none => false
            | some t => t.vq.length == y.1 && t.xcause == word y.2.1 && ok (targetCheck (ppriv t) t.xpc s3) fun _ _ => true) = true := by
  decide +kernel


/-- A stream descriptor: policy, queue and valid bit. -/
def dsc (pol q : Nat) (valid : Bool) : Vector Word 8 :=
  #v[0x2000, 0x4000, word (4 * 2 ^ 32), word (200000 * 2 ^ 32 + 2), 1000000, word (50000 * 2 ^ 32 + 10),
     word (3 + pol * 2 ^ 16 + q * 2 ^ 20 + b2n valid * 2 ^ 24), 0]
/-- A stream at tick 9. -/
def strm (d : Vector Word 8) (armed : Bool) : Stream := { newStream d with armed := armed, next := 9 }
/-- A launch record that passes its checks. -/
def record0 : Vector Word 8 := #v[0x1002, 0, 5, 6, 0, 0x10000, 0, 0]
/-- The number of a stream in s20 and the address of an item in s21. -/
def streams (k : Word) (item : Vector Word 8) (x : Option Stream) : State :=
  let s := sup (regs [(20, k), (21, 0x6000)] base)
  { s with mem := memWrite s.mem 0x6000 (item.toList.flatMap fun w => leBytes 8 w.toNat), streams := x.toList.map fun y => (k.toNat, y) }
/-- The item is loaded, and `f` holds of it and of the state that the load leaves. -/
def itemRead (s : State) (f : Vector Word 8 → State → Bool) : Bool :=
  ready g0 [20, 21] [12] [] s && quietCore s && !s.strand.vq.any entryStores && ok (loadVa (me s) (whoAmI s) 0x6000 64 s) fun v s1 => kept s s1 &&
    f (eightWords v) s1
theorem wit_StreamInstructions : (itemRead (streams 4095 (dsc 0 0 true) none) (fun item s1 =>
      (streamAt s1 4095).isNone && bit (rw item 6) 24 && !descBad item &&
        ok (allMapped 0 (rw item 0) ((sinkS item + winW item) * recSize item) s1) fun x s2 =>
          ok (allMapped 0 (rw item 1) ((sinkS item + winW item) * kvSize item) s2) fun y _ => x && y) &&
    itemRead (streams 0 ((dsc 1 0 true).set 1 0x8000000000) none) (fun item s1 => !descBad item &&
        ok (allMapped 0 (rw item 0) ((sinkS item + winW item) * recSize item) s1) fun _ s2 =>
          ok (allMapped 0 (rw item 1) ((sinkS item + winW item) * kvSize item) s2) fun y _ => !y) &&
    itemRead (streams 5 (dsc 0 0 false) (some (strm (dsc 0 0 true) false))) (fun item _ => !bit (rw item 6) 24) &&
    itemRead (streams 5 (dsc 3 0 true) none) (fun item _ => bit (rw item 6) 24 && descBad item) &&
    itemRead (streams 5 record0 (some (strm (dsc 0 0 true) true))) (fun _ s1 => (streamAt s1 5).any fun x => x.armed) &&
    itemRead (streams 5 record0 (some (strm (dsc 0 3 true) false))) (fun _ s1 => (streamAt s1 5).any fun x => !x.armed && streamQ x.desc != 0) &&
    itemRead (streams 5 (record0.set 7 1) (some (strm (dsc 0 0 true) false))) (fun item s1 => recordBad (queueAt s1 0) item) &&
    itemRead (streams 5 record0 (some (strm (dsc 0 0 true) false))) (fun item s1 => decide (0 < period (dsc 0 0 true)) &&
      !recordBad (queueAt s1 0) item && recNw item == 0 && ok (recordChecks (me s1) 0 item s1) fun _ s2 => kept s1 s2)) = true := by decide +kernel
theorem wit_StreamInstructions_append : ([none, some (strm (dsc 0 0 true) true)] : List (Option Stream)).all (fun x => let s := streams 5 record0 x
    match eachOnce (me s) (((streamAt s 5).map fun x => recSize x.desc).getD 64 / 64)
        (fun j => loadVa (me s) (whoAmI s) (0x6000 + word (64 * j)) 64) s with
    | .error _ _ => false
    | .ok vs s1 => kept s s1 && ok (releaseFor (me s) .pk s1) fun _ s2 => kept s s2 && (((streamAt s2 5).isNone && !countPending s2 5) ||
        ok (appendToken 5 (some (asidOf (queueAt s2 0))) (vs.flatMap fun v => leBytes 64 v) s2) fun _ _ => true)) = true := by decide +kernel
theorem wit_StreamInstructions_off : ([none, some (strm (dsc 0 0 true) false), some (strm (dsc 0 3 true) true), some (strm (dsc 0 0 true) true)] :
    List (Option Stream)).all (fun x => let s := streams 5 record0 x
    ready g0 [20] [12] [] s && ((streamAt (decideDue 5 s) 5).isSome == x.isSome) && ((streamAt (decideDue 5 s) 5).all fun y => !y.armed || streamQ y.desc == (if y.desc = dsc 0 3 true then 3 else 0)) &&
    !countPending (decideDue 5 s) 5 && (let u := { s with countq := [{ stream := 5, queue := 0, va := 0x9000, off := 0, n := 1 }] }; countPending (decideDue 5 u) 5)) = true := by
  decide +kernel

/-- Group 4095 with members, and an address in s20 beside it; a collective on it. -/
def grouped (ctl : BitVec 18) (mem : BitVec 512) : State :=
  let s := tweak (fun t => { t with colsrc := 0x3000, coldst := 0x4000, colgrp := 4095, colctl := word (3 + 4 * 2 ^ 38) })
    (regs [(12, 5), (20, 0x2000), (21, 4095)] base)
  { s with groups := [(4095, { mem := mem, ctl := ctl })], routes := 3, rslots := [(slotKey 0 ((2 ^ 43 + 0x2000) / 64), 0)] }
/-- An operation of cluster 0. -/
def bop (id : BitVec 32) : BridleOp :=
  { id := id, by_ := issuerNow base, seq := { order := 0, asid := 0, reads := [], writes := [], disp := true }, src := 0x3000, dst := 0x4000
    grp := 7, ctl := word (3 + 4 * 2 ^ 38), members := [1, 0], peers := none, written := [], ecause := 0, stop := false, lines := []
    wait := none, cancel := false }
/-- Operations of cluster 0, and its next ID. -/
def opsS (l : List BridleOp) (n : BitVec 32) (s : State) : State := mapCluster 0 (fun c => { c with ops := l, opNext := n }) s
theorem wit_GroupInstructions : (let s := grouped 0x3F 3
    ready g0 [12, 20, 21] [] [] s && ready g0 [20, 21] [12] [] s && quietCore s && groupUsable (groupAt s 4095) 1 0 && groupUsable (groupAt s 4095) 2 0 &&
    groupUsable (groupAt s 4095) 3 0 && redAccepts (bits (groupAt s 4095).ctl.toNat 5 4) .i32 &&
    (let e := heldGroup s (me s) 4095
     decide (e = groupAt s 4095) && (findD s.parts (me s) []).isEmpty &&
     ok (checkAccess (whoAmI s) 0x2000 4 .store s) (fun q s1 => (match q.space with | .dev _ => true | _ => false) &&
       ok (rangeCheck (me s) (whoAmI s) q 0x2000 s1) fun _ s2 => kept s s2 && groupUsable e 1 (asidOf (queueAt s2 0)) &&
         ok (eachMember (me s) 4095 e (memberWrite (me s) (whoAmI s) (moduleOffset q.key) [1, 2, 3, 4] 0x2000) s2) fun _ _ => true) &&
     ok (checkAccess (whoAmI s) 0x2000 4 .load s) (fun q s1 => kept s s1 && groupUsable e 2 (asidOf (queueAt s1 0)) &&
       ok (eachMember (me s) 4095 e (memberRead (me s) (whoAmI s) (moduleOffset q.key) 4 0x2000) s1) fun _ _ => true)) &&
    ready g0 [] [12] [] s && s.strand.vq.isEmpty && !colBad s.strand.colctl s.strand.colgrp &&
    groupEverywhere s (groupAt s 4095) s.strand.colgrp && (colMembers s (groupAt s 4095) s.strand.colgrp).contains (myGlobal s) && (clusterAt s 0).ops.isEmpty &&
    ok (releaseFor (me s) .cl s) (fun _ s1 => kept s s1) &&
    (let u := opsS (List.replicate 15 (bop 5)) 7 s; decide ((clusterAt u 0).ops.length < 16) && ready g0 [20] [12] [] u) &&
    decide (2 ≤ scopeNum .cl ∧ ((6 : BitVec 32) - 5).toNat < ((7 : BitVec 32) - 5).toNat ∧ ¬ ((7 : BitVec 32) - 5).toNat < ((7 : BitVec 32) - 5).toNat)) =
      true := by decide +kernel
/-- Whether another domain has the group is uninterpreted: where it has not, the launch is for a domain without it. -/
theorem wit_GroupInstructions_absent (h : Config.domainGroup 0 1 4095 = none) :
    groupEverywhere (grouped 0x3F 3) (groupAt (grouped 0x3F 3) 4095) (word (4095 + 2 ^ 28 + 3 * 2 ^ 12)) = false := by
  have m : 1 ∈ colDomains (grouped 0x3F 3) (word (4095 + 2 ^ 28 + 3 * 2 ^ 12)) := by decide +kernel
  have n : domainMembers (grouped 0x3F 3) (groupAt (grouped 0x3F 3) 4095) (word (4095 + 2 ^ 28 + 3 * 2 ^ 12)) 1 = none := by
    have d : (1 : Nat) ≠ myDomain (grouped 0x3F 3) := by decide +kernel
    have e : (grouped 0x3F 3).stepNo = 0 := by decide +kernel
    have f : bits (word (4095 + 2 ^ 28 + 3 * 2 ^ 12)).toNat 11 0 = 4095 := by decide +kernel
    simp only [domainMembers, if_neg d, e, f, h, Option.map_none]
  exact Bool.eq_false_iff.mpr fun k => by
    have := List.all_eq_true.mp k 1 m
    rw [n] at this
    exact absurd this (by decide)

theorem wit_TrapEvents : (([.illegal, .loadFault, .storeFault, .noFullEmpty] : List Cause).all (fun c => causeOf (causeCode c) == some c) &&
    (let s := tweak (fun t => { t with xvec := 0x1002 }) base
     runs s.strand && s.strand.vq.isEmpty && s.strand.saved.isEmpty && ok (targetCheck true s.strand.xvec s) (fun _ _ => true)) &&
    (let s := queued (entry 1 2 3) 1 (tweak (fun t => { t with xvec := 0x1002, saved := [entry 0 0 0] }) base)
     runs s.strand && s.strand.vq.head? == some (entry 1 2 3) && !s.strand.saved.isEmpty &&
       ok (targetCheck true s.strand.xvec s) fun _ _ => true) &&
    (let s := tweak (fun t => { t with xvec := 0x0100000000001002 }) { base with queues := base.queues.set 0 { queueAt base 0 with ctl := 0x10000000000 } }
     runs s.strand && s.strand.vq.isEmpty && (handlerWait s).isSome)) = true := by decide +kernel
/-- The scalar stream waits at an instruction. -/
def waitsAt (i : Instr) : State :=
  let x := wordsOf i
  let s := tweak (fun t => { t with scalarWait := some ⟨.watch, 0, 0, false⟩ }) base
  { s with strand := { s.strand with pass := some ⟨0x1000, BitVec.ofNat 512 (leNat (oneLine x.1 x.2))⟩ } }
/-- The VQ waits at an instruction, armed at 0 with a limit of five, at a time. -/
def vqWaits (i : Instr) (c : Word) (now : Nat) : State :=
  let x := wordsOf i
  let e := { entry 0x2000 1 c with head := x.1, tail := x.2 }
  tweak (fun t => { t with vqWait := some ⟨.watch, 0, 0, false⟩, watch := 2, armedAt := 0 }) (queued e 3 { base with ptime := now })
theorem wit_WakeEvents : (([.park g0 1 2 3, .ldfeKeep g0 .i64 1 2 8, .ldfeClr g0 .i8 1 2 8, .stfeFill g0 .i64 1 2 8, .stfeWait g0 .n32 31 2 8] : List Instr).all
      (fun i => runs (waitsAt i).strand && (waitsAt i).strand.scalarWait.isSome && (waitsAt i).strand.vqWait.isNone &&
        ok (fetchIssue (waitsAt i)) fun x _ => decide (x = .scalar i)) &&
    ([.vcfg g0 1 2, .setvlW g0 1 2 3, .vwait g0 1 2 (.vec 2) 4 1] : List Instr).all (fun i => runs (vqWaits i 5 0).strand &&
      (vqWaits i 5 0).strand.vqWait.isSome && decide (vqNow (vqWaits i 5 0) = some i)) &&
    decide ((5 : Word) ≠ BitVec.allOnes 64 ∧ 0 + (5 : Word).toNat * 65536 ≤ 5 * 65536 ∧ 5 * 65536 - 1 < 0 + (5 : Word).toNat * 65536)) = true := by
  decide +kernel

/-- How a step of the transfer at the head of channel 2 goes: it reads and writes; or a read, or a write, traps or waits. -/
def stepKind (j : ReelJob) (s : State) : Nat :=
  let s0 := startReel 0 2 j s
  match (if j.full then .ok j.todo s0 else readAllOf 0 2 j j.todo (span j.todo.length 4) s0) with
  | .error (.trap c _) _ => if c = .loadFault then 1 else if c = .storeFault then 2 else 3
  | .error _ _ => 4
  | .ok l s1 =>
    match writeAll 0 2 j l s1 with
    | .ok _ _ => 0
    | .error (.wait _) _ => 5
    | .error (.trap c _) _ => if c = .loadFault ∨ c = .storeFault then 7 else 6
/-- A write that is left of a step. -/
def left (key : Nat) (bad : Option Word) : ReelWrite :=
  { place := { key := key, space := .dev 0 }, bytes := [1, 2, 3, 4], va := 0x3000, bad := bad }
/-- A transfer that moves a slab, and its pair, with the old range at an address. -/
def moving (old : Word) : State :=
  chan 9 [{ move 1 true with pair := some 15 }] (pairsS (Vector.replicate 16 { pairOf .moving with old := old }) (entry 0 0 0))
theorem wit_SequencerAndReelEvents : (([(move 1 true, 0), ({ move 1 true with started := true }, 0),
      ({ move 1 true with set := { set0 with src := 0x300000000000 } }, 1), ({ move 1 true with set := { set0 with dst := 0x300000000000 } }, 2),
      ({ move 1 true with set := { set0 with src := 0x2001 } }, 3), ({ move 1 true with set := { set0 with src := 0x0100000000002000 } }, 4),
      ({ move 1 true with todo := [left 0x3000 (some 0x2000)], full := true }, 5),
      ({ move 1 true with todo := [{ left 0x3000 none with place := { key := 0x3000, space := .dev 1 } }], full := true }, 6)] : List (ReelJob × Nat)).all (fun x => let j := x.1
      let s := chan 9 [j] { base with
        hlines := if x.2 = 6 then [{ HLine.fresh 0xC0 with perf := true, cur := some { uncMsg 4 0 0xC0 true (reelAgent 0 2) with flt := 9 } }] else []
        queues := base.queues.set 0 { queueAt base 0 with ctl := 0x10000000000 }
        stores := if x.2 = 5 then [{ key := 0x3001, byte := 7, owner := 1, core := 0, cl := 0, lvl := 3, takers := [] }] else [] }
      decide (reelHead s 0 2 = some j ∧ j.step < stepsOf s 0 j ∧ j.pair = none ∧ totalElems j = 4 ∧ 4 ≤ stepElems j) && canStep j &&
        stepKind j s == x.2) &&
    (let s := moving 0x100000
     (reelHead s 0 2).any (fun j => canStep j && decide (j.step < stepsOf s 0 j ∧ j.pair = some 15 ∧ (pairAt s 0 15).ch = 2))) &&
    ([{ move 1 true with step := 1 }, { move 1 false with stop := true, ecause := 3 }] : List ReelJob).all (fun j => let s := chan 9 [j] base
      reelDone s 0 j && decide (reelHead s 0 2 = some j ∧ j.wait = none) && ok (releaseFor (reelAgent 0 2) (Machine.scopeOf j.set.cscp) s) fun _ s1 =>
        decide ((channelAt s1 0 2).jobs = (channelAt s 0 2).jobs ∧ s1.strand.bound = true ∧ s1.strand.crew = j.by_.crew ∧
          s1.strand.idx.toNat = j.by_.idx ∧ s1.strand.cperr.getLsbD 6 = false))) = true := by decide +kernel
/-- A move whose old range is not mapped, or whose places answer. -/
theorem wit_SequencerAndReelEvents_ends : ((let s := moving 0x300000000000
      let j := { move 1 true with pair := some 15 }
      match moveEnds 0 15 j (startReel 0 2 j s) with
      | .error (.trap c _) _ => decide (c = .loadFault)
      | _ => false) &&
    (let s := moving 0x100000
     let j := { move 1 true with pair := some 15 }
     ok (moveEnds 0 15 j (startReel 0 2 j s)) fun x s1 => !onTheWay s1 0 x.1.key 4096 && !onTheWay s1 0 x.2.key 4096 &&
       ok (eachOnce (reelAgent 0 2) 64 (openMove 0 2 (engineWho 0 j.by_ false) x.1 x.2 0x100000 0x200000) s1) fun _ s2 =>
         ok (mapEach (List.range 64) (readMove 0 2 (engineWho 0 j.by_ false) x.1 0x100000) s2) fun _ s3 => s3.chains.isEmpty &&
           (reelHead s3 0 2).isSome)) = true := by decide +kernel
/-- Lookup jobs of cluster 0, whose queue gives it 32768 rows from 0 on and whose first bank is in role S. -/
def lookups (l : List LkJob) : State :=
  mapCluster 0 (fun c => { c with lk := l, banks := c.banks.set 0 .s })
    { base with queues := base.queues.map fun q => { q with bank := 0x80000000 } }
/-- A job of three segments at its second. -/
def midJob : LkJob := { job 1 with tsh := word (0x0000015800000000 + 95 * 2 ^ 17), seg := 1, acc := [⟨5, 0, false⟩] }
theorem wit_LookupJobEvents : (let q := { job 1 with state := .queued }
    let bad := { q with desc := BitVec.ofNat 256 (2 ^ 48) }
    let sized (s : State) : State := mapCluster 0 (fun c => { c with bbase := 0, blim := 32768, tblErr := [] }) s
    decide (runningJob (lookups [q]) 0 = none ∧ nextJob (lookups [q]) 0 = some q ∧ nextJob (lookups [bad]) 0 = some bad ∧
      refuseCause (sized (lookups [bad])) 0 bad = some 5) && (refuseCause (sized (lookups [q])) 0 q).isNone &&
    decide (runningJob (lookups [midJob]) 0 = some midJob ∧ canRun (lookups [midJob]) 0 midJob = true ∧ 0 < midJob.seg ∧
      midJob.cancel = false ∧ midJob.seg + 1 < segsOf midJob) &&
    ([0, 1, 2] : List Nat).all (fun m => let j := { job 1 with mode := m }
      decide (runningJob (lookups [j]) 0 = some j ∧ canRun (lookups [j]) 0 j = true ∧ j.seg + 1 = segsOf j ∧ j.cancel = false)) &&
    decide ((clusterAt (lookups [{ job 1 with swept := true }]) 0).lk.find? lkDone = some { job 1 with swept := true }) &&
    decide ((clusterAt (lookups [{ q with cancel := true }]) 0).lk = [{ q with cancel := true }] ∧ q.state ≠ .complete)) = true := by decide +kernel

/-- A range in which protocol slot k serves line 128. -/
def inSlot (k : Nat) (s : State) : State :=
  { s with ranges := s.ranges.set 63 { base := 0x1000, limit := 0x8000, slot := k, v := true, hc := false, pend := false } }
/-- A message about line 128. -/
def msgOf (kd : MsgKind) (req dst : Nat) : Msg := { kind := kd, line := 128, req := req, dst := dst, bytes := [(63, 0x55)], flt := 0, writer := 0 }
/-- The line in a cluster, and at its home. -/
def inCluster (st : Nat) (s : State) : State := { s with clines := [{ CLine.fresh 15 128 with state := st }] }
def atHomeS (st : Nat) (busy : Bool) (acks : Nat) (cur : Option Msg) (s : State) : State :=
  { s with hlines := [{ HLine.fresh 128 with state := st, busy := busy, acks := acks, cur := cur }] }
/-- Some slot and state of the line satisfy f. -/
def found (f : Nat → Nat → Bool) : Bool := (List.range 6).any fun k => (List.range 16).any fun st => f k st
/-- The word of a slot's cluster table, and of its home table. -/
def clusWord (k st ev : Nat) : Option ActionWord := wordOf (protoAt base k).clus st ev
def homeWord (k st ev : Nat) : Option ActionWord := wordOf (protoAt base k).home st ev
theorem wit_ClusterMessages : ([5, 6, 7, 8, 9].all (fun ev => found (fun k st => (clusWord k st ev).isNone) &&
      found fun k st => (clusWord k st ev).any fun w => !w.defer) && decide (slotOfLine (inSlot 5 base) 15 128 0 = 5) &&
    decide ((clineAt (inSlot 5 (inCluster 3 base)) 15 128).state = 3 ∧ (clineAt (inCluster 3 base) 15 128).held = [] ∧
      (msgOf .inv 3 15).dst < 16)) = true := by decide +kernel
theorem wit_HomeMessages : (linePending { base with gate := [(0x2000, 0x2001)] } 128 && (hlineAt (atHomeS 0 true 0 none base) 128).busy &&
    decide (queuedNodes base 128 + 32 < 4096 ∧ base.regions.length < 12) && (inCluster 3 base).clines.all (fun c => c.held.isEmpty) &&
    !linePending base 128 && !(hlineAt base 128).busy && !(hlineAt base 128).perf && (hlineAt base 128).queue.isEmpty &&
    [0, 1, 2, 3, 4, 5].all (fun ev => found fun k st => (homeWord k st ev).isNone) && [0, 4, 5].all (fun ev => found fun k st =>
      (homeWord k st ev).any fun w => !w.cnt) && found (fun k st => (homeWord k st 1).any fun w => w.cnt && w.msg != .none && !w.rdm &&
      !(homeTargets w 15 { region := 16, vec := 0xFFFF, host := true }).isEmpty) &&
    found (fun k st => (homeWord k st 1).any fun w => w.cnt && (homeTargets w 15 { region := 16, vec := 0, host := false }).isEmpty &&
      (homeWord k (w.next.getD st) 7).any fun x => !x.write && !x.cnt)) = true := by decide +kernel
/-- A busy line whose slice's pool is at the nodes kept for requests refused often, or full. -/
theorem wit_HomeMessages_full (n : Nat) : queuedNodes { base with hlines := [{ HLine.fresh 128 with busy := true, queue := List.replicate n (msgOf .getx 3 16) }] } 128 = n := by
  have h : base.gate = [] := by decide
  simp [queuedNodes, HLine.fresh, linePending, h]
/-- The region of line 128, which every cluster and the host share. -/
def sharedRegion : Region := { region := 16, vec := 0xFFFF, host := true }
/-- More regions than a set has ways. -/
def crowded (n : Nat) : State :=
  { base with regions := (List.range n).map fun k => { sharedRegion with region := 16 + k } }
theorem wit_HomeMessages_room : (found (fun k st => (homeWord k st 10).any fun w => w.msg != .none && w.shv == 4 && !w.write &&
      !(homeTargets w 18 sharedRegion).isEmpty) &&
    decide (regionAt (crowded 1) 128 = sharedRegion) && (List.range 8).all fun k => !remoteLine (crowded 1) (128 + k)) = true := by decide +kernel
/-- Which set a region is in is uninterpreted: where thirteen that no transaction keeps are in one, one is displaced. -/
theorem wit_HomeMessages_crowded (h : ∀ k, Config.dirSet k = 0) (u : ∀ k, sliceIndex (512 * k) = 0) :
    12 < (waysOf (crowded 13) 16).length ∧ displaceable (crowded 13) 16 ≠ [] := by
  have b : ∀ r ∈ (crowded 13).regions, r.going = false := by decide
  have n : regionBusy (crowded 13) 17 = false := by decide
  have w : waysOf (crowded 13) 16 = (crowded 13).regions := by
    refine List.filter_eq_self.mpr fun r hr => ?_
    have v : sliceIndex 8192 = 0 := u 16
    simp [b r hr, h, u, v]
  refine ⟨by rw [w]; decide, fun e => ?_⟩
  have : ({ sharedRegion with region := 17 } : Region) ∈ displaceable (crowded 13) 16 := by
    refine List.mem_filter.mpr ⟨by rw [w]; decide, ?_⟩
    simp [n]
  rw [e] at this
  cases this
theorem wit_HomeEvents : (found (fun k st => let s := inSlot k (atHomeS st true 2 (some (msgOf .getx 3 16)) base)
      homeWord k st 6 == some ActionWord.nil && decide (msgSlot s (msgOf .getx 3 16) = k ∧ (hlineAt s 128).cur = some (msgOf .getx 3 16) ∧
        1 < (hlineAt s 128).acks ∧ (hlineAt s 128).busy = true)) &&
    found (fun k st => homeWord k st 6 == some ActionWord.nil && (homeWord k st 7).any fun w => !w.write && !w.cnt) &&
    found (fun k st => (homeWord k st 8).any fun w => !w.write && !w.cnt && w.msg == .data && w.dest == 1 && w.carry && !w.rdm) &&
    base.net.isEmpty && !({ base with eager := false } : State).eager && base.added.isEmpty &&
    [1, 63, 64].all (fun n => let c : Chain := ⟨0x2000, List.replicate n (.f32, 0x3F800000)⟩
      let s : State := { base with chains := [c], hlines := [{ HLine.fresh 128 with busy := true }] }
      decide (s.chains.find? (fun c => c.addr == 0x2000) = some c) && !linePending s 128 && (hlineAt s 128).queue.isEmpty &&
        nodeFree s (addMsg 17 outsideWriter 0x2000 0 .f32 0 false)) &&
    base.stores.isEmpty && base.chains.isEmpty && linePending { base with gate := [(0x2000, 0x2001)] } 128 &&
    (match claimMark ((ruledSlot base 17 128).getD (slotOfLine base 17 128 0)) 128 base with
     | .ok _ => true
     | .error _ => false)) = true := by decide +kernel

/-- A fault record, and a state in which the acting strand waits for it. -/
def rec7 (host posted : Bool) : FaultRec :=
  { tag := 7, va := 0x0123456789ABCDEF, asid := 3, acc := .store, strand := 4, who := .strand, host := host, posted := posted }
def faulted (host posted : Bool) (s : State) : State :=
  { (tweak (fun t => { t with fault := some ⟨0x2000, .load, false, 0, 7⟩ }) s) with faultq := [rec7 host posted], pri := [9, 7] }
theorem wit_TranslationAndQueueEvents : (([(0x2000, .load), (0x3FFFFFFF, .store)] : List (Nat × Acc)).all (fun x => x.1 / 2 ^ 56 == 0 && !inLocal x.1 &&
      ok (deviceLeaf (whoAmI base) x.1 x.2 base) fun _ _ => true) && !ok (deviceLeaf (whoAmI base) 0xFF00000000000 .load base) (fun _ _ => true) &&
    !inLocal 0xFF00000000000 &&
    (let s := { base with queues := base.queues.set 0 { queueAt base 0 with ctl := 0x10000500000 }
                          cores := [(0, { CoreState.reset with l1tlb := [{ asid := 0, glob := false, host := true, page := 2, size := 12, pa := 0, perm := 1, attr := 0 }] })] }
     s.queues.toList.any fun q => q.ctl.getLsbD 40 && bits q.ctl.toNat 39 20 == 5 && (coreAt s 0).l1tlb.any fun x => x.host && x.asid == asidOf q) &&
    [false, true].all (fun h => decide ((faulted h false base).faultq = [rec7 h false] ∧ faultRingFull (faulted h false base).mooring = false ∧
      (rec7 h false).who = .strand ∧ (faulted h false base).pri.length < 256) && decide ((faulted h true base).faultq = [rec7 h true] ∧ (faulted h true base).strand.bound = true ∧
      (faulted h true base).strand.fault ≠ none ∧ (7 : Nat) < 2 ^ 16)) &&
    (match deviceLeaf (whoAmI base) 0xFF00000000000 .load base with
     | .error (.trap c _) _ => isPageFault c
     | _ => false) &&
    (let s := { base with poison := [0x12000 / 32] }
     match deviceLeaf (whoAmI s) 0x2000 .load s with
     | .error (.trap c _) _ => !isPageFault c
     | _ => false) && base.stores.isEmpty && (reelJobs (chan 1 [move 1 true] base)).all (fun j => j.2.2.todo.isEmpty) &&
    (let e : TlbEntry := { asid := 0, glob := false, host := true, page := 2, size := 12, pa := 0x4000, perm := 3, attr := 0 }
     let s := { base with cores := [(0, { CoreState.reset with l1tlb := [e] })], stores := [{ key := hostBase + 0x4008, byte := 7, owner := 0, core := 0, cl := 0, lvl := 1, takers := [] }] }
     s.stores.any (storedBy (dropped (hostMeets 0 0x2000 64) s))) &&
    (faulted false true base).faultq.all (fun x => x.tag != 65535) && decide ((15 : Nat) < 16 ∧ (regBase - 1 < regBase) ∧
      (queueAt base 15).ctl.getLsbD 0 = false)) = true := by decide +kernel

/-- A flight of queue 0. -/
def flight (no : Nat) : Flight :=
  { no := no, queue := 0, words := record0, waits := [], tick := none, ready := false, prio := 3, bound := 0, shut := false, status := 0
    csas := [], readyAt := 0 }
/-- Queue 0 with a record at its head. -/
def ring (ctl : Word) (r : Vector Word 8) : State :=
  let q := { queueAt base 0 with ctl := ctl, base := 0x8000, head := 0xFFFFFFFF, tail := 0 }
  { base with queues := base.queues.set 0 q, mem := memWrite base.mem (recordKey q q.head) (r.toList.flatMap fun w => leBytes 8 w.toNat) }
/-- A flight that waits for the counter at 0x6000 to be 5. -/
def pending (c : Nat) : Flight × State :=
  let x := { flight 5 with waits := [(0x6000, 5)] }
  (x, { base with flights := [x], mem := memWrite base.mem 0x6000 (leBytes 8 c) })
/-- One look of Mooring at the counters of a flight. -/
def counters (x : Flight) (s : State) : EStateM.Result Stop State (List Nat) :=
  eachOnce (counterAgent x.no) x.waits.length (fun i => readCounter (counterAgent x.no) x.queue (nthD x.waits i (0, 0)).1) s
theorem wit_FlightEvents : (decide (headRecord (ring 1 record0) (queueAt (ring 1 record0) 0) = record0) &&
    !recordBad (queueAt (ring 1 record0) 0) record0 && recordBad (queueAt (ring 1 record0) 0) (record0.set 7 1) &&
    ok (recordChecks (intakeAgent 0) 0 record0 (ring 1 record0)) (fun _ s1 => decide (s1.queues = (ring 1 record0).queues)) &&
    (match recordChecks (intakeAgent 0) 0 (record0.set 0 0x300000001002) (ring 1 record0) with
     | .error (.trap _ _) s1 => decide (s1.queues = (ring 1 record0).queues)
     | _ => false) && !recordBad (queueAt (ring 1 record0) 0) (record0.set 0 0x300000001002) &&
    (let s : State := { ring 1 record0 with eager := false, regq := [(0, 0, 0)], ranges := base.ranges.set 5 { base := 0x6000, limit := 0x7000, slot := 4, v := true, hc := false, pend := false } }
     let r := (record0.set 1 (word (2 ^ 58))).set 6 0x6000
     match recordChecks (intakeAgent 0) 0 r s with
     | .error (.wait _) _ => !recordBad (queueAt s 0) r
     | _ => false) &&
    decide ((queueAt base 0).head = (queueAt base 0).tail) &&
    [4, 5, 2 ^ 56 + 5].all (fun c => let x := pending c
      decide (flightAt x.2 5 = some x.1) && ok (counters x.1 x.2) fun y _ => y == [c]) &&
    (let x := pending 5
     let y := { x.1 with waits := [(0x300000006000, 5)] }
     let u := { x.2 with eager := false }
     (match counters y { x.2 with flights := [y] } with
      | .error (.trap _ _) _ => true
      | _ => false) &&
     match counters x.1 u with
     | .error (.wait _) _ => true
     | _ => false) &&
    (let x := { flight 5 with shut := true, tick := some (5, #v[8, 0, 0, 0]) }
     let s : State := { base with flights := [x], countq := [{ stream := 5, queue := 0, va := 0x9000, off := 0, n := 1 }] }
     flightOver s x && countPending (decideDue 5 s) 5 && !countPending (decideDue 5 { s with countq := [] }) 5) &&
    (let count (c : Nat) (e : Bool) := let x := { flight 5 with shut := true, words := record0.set 4 c }
       countFlight x (putFlight x (closeFlight 5 { base with flights := [x], eager := e }))
     (match count 0x300000006000 true with
      | .error (.trap _ _) _ => true
      | _ => false) &&
     match count 0x6000 false with
     | .error (.wait _) _ => true
     | _ => false) &&
    ([{ flight 5 with shut := true }, { flight 5 with shut := true, words := record0.set 4 0x6000, status := 2 }, flight 5] : List Flight).all (fun x =>
      let s := { base with flights := [x] }
      decide (flightAt s 5 = some x) && (flightOver s x == x.shut) &&
        ok (countFlight x (putFlight { x with shut := true } (closeFlight 5 s))) fun _ _ => true) &&
    decide ((7 : Nat) < 8 ∧ (2 ^ 64 - 1 : Nat) < 2 ^ 64) && base.flights.isEmpty && base.streams.isEmpty && base.tearing.isEmpty && base.crews.isEmpty &&
    (queueAt (ring 0x40001 record0) 0).ctl.getLsbD 18) = true := by decide +kernel
/-- Crew 1, recalled, with 32 strands: more than the slots that its cluster has left beside crew 0. -/
def recalled (s : State) : State :=
  { s with crews := [crewOf 1 [], { crewOf 1 [] with id := 1, flight := 5 }], parked := List.replicate 32 { base.strand with crew := 1 } }
theorem wit_FlightEvents_ageing : (let x : Flight := { flight 5 with ready := true }
    let s : State := { base with ptime := 2000000 * 65536 }
    decide (0 < x.prio ∧ x.readyAt + 2000000 ≤ s.ptime / 2 ^ 16 ∧ ¬ x.readyAt + 2000000 ≤ base.ptime / 2 ^ 16) && s.crews.isEmpty &&
    (let c := { crewOf 1 [] with flight := 5 }
     let r := { s with crews := [c], parked := [base.strand] }
     waitsForPlace r c && decide (r.crews = [c] ∧ 0 < c.prio ∧ c.readyAt + 2000000 ≤ r.ptime / 2 ^ 16 ∧ (flight 5).ready = false))) = true := by
  decide +kernel
theorem wit_BindingEvents : (let s := { base with mooring := { base.mooring with csaCnt := 64, csaBase := 0x100000 } }
    let x := { flight 5 with ready := true }
    let c := crewOf 1 []
    (bindNext x { s with flights := [x] }).isSome && (bindNext x { base with flights := [x] }).isNone && (resumable { s with flights := [x] } 5).isEmpty &&
      decide (flightAt { s with flights := [x] } 5 = some x ∧ flightAt { s with flights := [flight 5] } 5 = some (flight 5)) &&
    !s.crews.any (crewDone s) &&
    (let c5 := { c with flight := 5 }
     let r := { s with flights := [x], crews := [c5], parked := [base.strand] }
     decide (resumable r 5 = [c5] ∧ c5.prio ≤ x.prio ∧ x.shut = false) && !r.crews.any (crewDone r) && (resumeCrew c5 r).isSome) &&
    (let y := { flight 6 with ready := true, prio := 1 }
     let r := { s with flights := [x, y] }
     (placements r y).any fun z => (placements r x).all fun w => decide (z.1 < w.1)) &&
    (let r := { s with crews := [c], others := [{ base.strand with id := 5, idx := 3 }] }
     !holdsLock r 0 && (boundStrands r).all (fun t => t.crew == 0 && !saveFails r t) && decide (r.crews.find? (fun y => y.id == 0) = some c)) &&
    decide ((recalled s).crews.find? (fun y => y.id == c.id) = some c) && (slotWaiters (recalled s) c.cl).any (fun p => decide (p ≤ c.prio)) &&
    (slotWaiters { s with crews := [c] } c.cl).all fun p => decide (c.prio < p)) = true := by decide +kernel

/-- A packet to a unit of stack 1: tag 3, pseudo-channel 2, bank 7, row 5, column 3, and what stands in the reserved bits. -/
def packet (cmd rsv : Nat) : StackReq :=
  { header := word (3 + cmd * 2 ^ 3 + 2 * 2 ^ 6 + 7 * 2 ^ 11 + 5 * 2 ^ 17 + 3 * 2 ^ 32 + rsv * 2 ^ 37), mask := 0xFFFF0F, data := List.replicate 32 7 }
theorem wit_StackEvents : (let u := (2 ^ 43 * myModule base + 0xC00000000 + 2 * 0x60000000 + 7 * 0x2000000 + 5 * 1024 + 3 * 32) / 32
    !tagHeld base 1 (packet 0 0) && !refusedReq (packet 0 0) && refusedReq (packet 0 1) && refusedReq (packet 7 0) && base.softErr.isEmpty &&
    !base.poison.contains u && unitKey base 1 (packet 0 0) == u * 32 &&
    ({ base with poison := [u] } : State).poison.contains u && !inTest base &&
    (({ base with stackq := [{ stack := 1, port := 2, header := 3, data := [] }] } : State).stackq.find? fun x => x.stack == 1 && x.port == 2 && repTag x == 3).isSome &&
    ({ base with softErr := [u] } : State).softErr.contains u && (runningJob base 0).isNone &&
    (let s := lookups [job 1]
     (runningJob s 0).isSome && decide ((blockStep s 0 { job 1 with src := tables false } 0 0 0 { val := 0, flags := 0, poison := false }).2 = none)) && decide ((2 ^ 40 - 1 : Nat) < 2 ^ 40)) = true := by decide +kernel

/-- Windsock with the port's domain 5 as its source, at a time. -/
def clockS (ctl : BitVec 14) (now : Nat) (f : Windsock → Windsock) : State :=
  { base with ptime := now, ws := f { base.ws with ctl := ctl, twoStep := some (9, 1500), sync := some (1000, 1500) } }
/-- The head of a message of domain 5 from a clock. -/
def headOf (transport : BitVec 2) (source : Word) : PtpHead := { transport := transport, domain := 5, source := source }
/-- An Announce of clock 7, kept as the grandmaster's. -/
def announced (s : State) : State :=
  match execPtpAnnounce (headOf 0 7) 1 2 3 4 5 6 s with
  | .next t => t
  | _ => s
/-- The ingest ring holds an entry in its last place, of a record at 0x7000. -/
def ingest (k : Nat) : State :=
  let s := clockS 0 5000 fun w => { w with irCtl := 3, irBase := 0x6000, irHead := 0xFFFFFFFF, irTail := 0 }
  { s with mem := memWrite s.mem 0x61F0 (leBytes 8 0x7000 ++ leBytes 8 k), streams := [(5, strm (dsc 0 0 true) true)] }
theorem wit_ClockAndTickEvents_clock : (let s := clockS 0x15 1000 id
    decide (s.ws.ctl.extractLsb' 0 2 = 1#2 ∧ s.ws.ctl.extractLsb' 2 8 = 5) && decide ((clockS 0x2 0 id).ws.ctl.extractLsb' 0 2 = 2#2) &&
    decide ((((65536000000 : Int) - 0).natAbs ≤ 65536000000) ∧ 65536000000 < (((65536000001 : Int) - 0).natAbs)) && s.streams.isEmpty &&
    decide (s.ws.twoStep = some (9, 1500) ∧ s.ws.sync = some (1000, 1500) ∧ s.ws.master = none) && !s.ws.irCtl.getLsbD 0 &&
    decide (s.ws.ctl.extractLsb' 10 2 = (headOf 0 7).transport ∧ s.ws.ctl.getLsbD 12 = false ∧ (clockS 0x1015 0 id).ws.ctl.getLsbD 12 = true ∧
      (clockS 0x1015 0 id).ws.ctl.extractLsb' 0 2 = 1#2 ∧ (announced s).ws.master.map (fun m => m.source) = some (headOf 0 7).source ∧
      s.ws.ctl.extractLsb' 10 2 ≠ (headOf 1 7).transport ∧ (announced s).ws.master.map (fun m => m.source) ≠ some (headOf 0 8).source ∧
      s.ws.ppsDue = [] ∧ (clockS 0x15 0 fun w => { w with ppsDue := [5] }).ws.ppsDue = 5 :: []) &&
    decide ((ingest 5).ws.irCtl.getLsbD 0 = true ∧ (ingest 5).ws.irHead ≠ (ingest 5).ws.irTail) &&
    readOffset (ingest 5) 0x61F0 16 == some (leBytes 8 0x7000 ++ leBytes 8 5) &&
    (readOffset { ingest 5 with poison := [0x61F0 / 32] } 0x61F0 16).isNone &&
    (readOffset (ingest 5) 0x7000 (recSize (dsc 0 0 true))).any (fun bs => ok (appendToken 5 none bs (ingest 5)) fun _ _ => true)) = true := by
  decide +kernel
/-- Stream 5 at a time, with tokens for its tick; its last flight runs or not. -/
def ticking (pol now : Nat) (cnts : List Nat) (runs waiting deferred : Bool) : Stream × State :=
  let x := { strm (dsc pol 0 true) true with cnts := cnts, waiting := waiting, deferred := deferred }
  (x, { putStream 5 x base with ptime := now * 65536, flights := [{ flight 8 with ready := true, tick := if runs then some (5, #v[8, 0, 0, 0]) else none }] })
theorem wit_ClockAndTickEvents_tick : (([0, 1, 2] : List Nat).all (fun pol => let d := dsc pol 0 true
      let t := tickTime d 9
      decide (polOf d = pol ∧ d[7] = 0 ∧ expTokens d = 3 ∧ 0 < t) && !bit (rw d 6) 19 &&
      ([(t, [3], false, false, false), (t, [2], false, true, false), (t + sigma d, [2], false, true, false), (t, [3], false, true, false),
        (t - 1, [], false, false, true), (t - 1, [], false, false, false), (t + sigma d, [2], false, false, false),
        (t + sigma d - 1, [2], false, false, false), (t, [], true, false, false), (t - 1, [], true, false, false),
        (tickTime d 10, [], true, false, true)] : List (Nat × List Nat × Bool × Bool × Bool)).all fun y =>
        let z := ticking pol y.1 y.2.1 y.2.2.1 y.2.2.2.1 y.2.2.2.2
        decide (streamAt z.2 5 = some z.1 ∧ z.1.armed = true) && !countPending z.2 5 && flightRuns z.2 5 == y.2.2.1) &&
    decide (expTokens (dsc 0 0 true) ≤ cntOf (ticking 0 0 [3] false false false).1 9 ∧ ¬ expTokens (dsc 0 0 true) ≤ cntOf (ticking 0 0 [2] false false false).1 9)) =
      true := by decide +kernel

/-- A range over the first offsets whose lines the host may copy. -/
def shared (hc : Bool) : State :=
  { base with ranges := base.ranges.set 5 { base := 0x20000, limit := 0x40000, slot := 1, v := true, hc := hc, pend := false } }
/-- A phase-free access of the host to the line at an offset completes there with nothing pending. -/
def hostSends (off : Nat) (x : HostAccess) (s : State) : Bool :=
  let line := (myModule s * 2 ^ 43 + off) / 64
  (phaseFreeFault hostWho (hostSpot s off) s).isNone &&
    ok (uncBegin (slotOfLine s 16 line 0) 16 line true hostAgent 0 { s with hostq := [x] }) fun c s1 =>
    ok (if c then .ok () s1 else homeClaim ((ruledSlot s1 16 line).getD (slotOfLine s 16 line 0)) line 0 s1) fun _ s2 =>
      s2.chains.isEmpty && s2.stores.isEmpty && s2.softErr.isEmpty
/-- What a host access asks of a line whose home answers nothing yet. -/
def hostWaits (wr : Bool) (x : HostAccess) : Bool :=
  match uncBegin (slotOfLine base 16 128 0) 16 128 wr hostAgent 0 { base with hostq := [x], eager := false } with
  | .error (.wait _) _ => true
  | _ => false
theorem wit_HostAndShardEvents : (!isRegister 0x4FFFFFFFFF8 && hostReaches 0x4FFFFFFFFF8 8 && hostReaches 0 1 && !hostReaches 0x50000000000 1 &&
    !isRegister 0x50000000000 && isMemory 0x4FFFFFFFFFF && isRegister regBase && decide ((0x4FFFFFFFFF8 : Nat) % 8 = 0 ∧ (2 : Nat) < 3 ∧ (3 : Nat) < 4 ∧ (1 : Nat) < 2) &&
    base.net.isEmpty && base.hostq.isEmpty && base.chains.isEmpty && decide (regBase % 8 + 8 ≤ 8) && hostSends 0x4FFFFFFFFFC (.write 0x4FFFFFFFFFC [1, 2, 3, 4]) base &&
    hostSends 0x2FFF8 (.add 0x2FFF8 true 7) (shared false) && hostSends 0x2FFFC (.cas 0x2FFFC false 7 8) (shared false) &&
    hostCached (shared true) 0x3FFF8 && !hostCached (shared true) 0x40000 && !hostCached (shared false) 0x3FFF8 &&
    hostWaits true (.write 0x2000 [1]) && hostWaits false (.read 0x2000 1) && base.hlines.isEmpty && base.added.isEmpty && base.parts.isEmpty &&
    base.regq.isEmpty && !({ base with regq := [(0, 0, 0)] } : State).regq.isEmpty &&
    (({ base with net := [{ msgOf .inv 16 16 with line := 128 }] } : State).net.find? fun m => (m.kind == .inv || m.kind == .upd) && m.dst == 16 && m.line == 128).isSome &&
    ok (uncBegin (slotOfLine base 16 128 0) 16 128 false hostAgent 0 { base with hostq := [.read 0x2000 8] }) (fun _ s1 => s1.chains.isEmpty && s1.stores.isEmpty && s1.softErr.isEmpty) &&
    (let s := shared true
     let t := hostShares 0x3FFF8 { s with hostq := [.read 0x3FFF8 8] }
     t.chains.isEmpty && t.stores.isEmpty && t.softErr.isEmpty && decide (s.regions.length < 12) && !(hlineAt s (0x3FFF8 / 64)).perf &&
     !(hlineAt s (0x3FFF8 / 64)).busy && !linePending s (0x3FFF8 / 64) && s.stores.isEmpty && s.softErr.isEmpty && !poisoned s 0x3FFF8 8)) = true := by
  decide +kernel
/-- A signed image without a header. -/
def unsigned : SignedImage := { header := [], body := [] }
theorem wit_TrustEvents : (decide (imageFault 0 1 unsigned ≠ 0 ∧ imageFault 0 4 unsigned ≠ 0) && (List.range 4).all (fun n =>
      ({ base with pk := { base.pk with spdm := n } } : State).pk.spdm == n) && decide ((0x100 : BitVec 32).getLsbD 8 = true ∧ (4 : BitVec 32).getLsbD 2 = true ∧
      (1 : Nat) < 2 ∧ (1 : Nat) ≤ 5) && base.queues.toList.all (fun x => !x.ctl.getLsbD 0) && base.nextFlight == 0 &&
    decide (({ base with pk := { base.pk with bootst := 0xFD } } : State).pk.bootst.extractLsb' 0 2 = 1#2) &&
    ({ base with queues := base.queues.set 15 { LaunchQueue.reset with ctl := 1 } } : State).queues.toList.any (fun x => x.ctl.getLsbD 0) &&
    !sequencerRuns base && sequencerRuns (lookups [job 1])) = true := by decide +kernel
theorem wit_PowerEvents : ([800, 1800] : List Nat).all (fun n =>
    decide (({ base with pk := { base.pk with pwrst := BitVec.ofNat 25 (n * 2 ^ 12) } } : State).pk.pwrst.toNat / 2 ^ 12 % 2 ^ 12 ≤ 1800)) = true := by decide +kernel
/-- The group registers with GO or without, members in them, and a port's failed replays. -/
def spg (go : Bool) (mem : Word) : State :=
  { base with spgCtl := if go then 0x40000 else 0, spgSel := 7, spgMem := base.spgMem.set 7 mem, pk := { base.pk with naks := [(15, 15)], ports := 0xFFFF } }
/-- The other member's part of an operation. -/
def peer (len : Nat) : PeerPart := { rank := 0, op := 3, red := 0, ty := 0, root := 0, len := len, data := List.replicate 64 7 }
theorem wit_FabricEvents : (decide (findD (spg false 0).pk.naks 15 0 = 15 ∧ findD base.pk.naks 15 0 + 1 < 16 ∧ (1 : Nat) ≠ myModule base) &&
    !(spg false 0).spgCtl.getLsbD 18 && (spg true 0).spgCtl.getLsbD 18 && installBad (0x40001 % 2 ^ 18) (spgMembers (spg false 0)) &&
    !installBad (0x40001 % 2 ^ 18) (spgMembers (spg false 0x8000000000000000)) && !groupBusy (spg true 0) 7 && groupBusy (opsS [bop 5] 7 (spg true 0)) 7 &&
    decide (opAt (opsS [bop 5] 7 base) 0 5 = some (bop 5)) && allAnnounced base (bop 5) ([peer 64].filter fun p => p.tag == (bop 5).ctl.toNat / 2 ^ 22 % 2 ^ 16) &&
    (1 ∈ ({ base with silent := [1] } : State).silent : Bool) && (loadAt 0 (whoAmI base) ⟨2 ^ 43, .dev 0⟩ 8 0 { base with silent := [1] } matches .error (.trap .remote _) _) && partsAgree (bop 5) [peer (colLen (bop 5).ctl)] &&
    !partsAgree (bop 5) [peer 63] &&
    (let o := { bop 5 with peers := some [peer 64], written := [0, 1, 2] }
     let s := opsS [o] 7 base
     decide (opAt s 0 5 = some o ∧ colOp o.ctl = 3 ∧ rankOf s o ≠ colRoot o.ctl ∧ granulesOf o = 4 ∧ 16 * 3 + 16 ≤ (peer 64).data.length ∧
       3 ∉ o.written ∧ findD s.parts (partKey 0 5 * 2 ^ 40 + 3) [] = []) &&
     ok (checkGranule 0 5 o (List.replicate 16 7) false 3 s) (fun _ s0 => decide (s0.spid = s.spid) && ok (putGranule 0 5 o (List.replicate 16 7) false 3 s0) fun _ _ => true) &&
     ok (workGranule 0 5 o [peer 64] 3 s) (fun _ _ => true) &&
     (match workGranule 0 5 { o with dst := 0x300000004000 } [peer 64] 3 s with
      | .error (.trap c _) _ => isPageFault c
      | _ => false) &&
     (match workGranule 0 5 { o with dst := 0x4001 } [peer 64] 3 s with
      | .error (.trap c _) _ => !isPageFault c
      | _ => false) &&
     (match workGranule 0 5 { o with dst := 0x0100000000004000 } [peer 64] 3 { s with queues := s.queues.set 0 { queueAt s 0 with ctl := 0x10000000000 } } with
      | .error (.wait _) _ => true
      | _ => false) &&
     (let held (key : Nat) : State := { s with eager := false, silent := [1], stores := [{ key := key, byte := 7, owner := bridleAgent 0, core := 0, cl := 0, lvl := 2, takers := [] }] }
      (match releaseFor (bridleAgent 0) .dm (held 0x3000) with
       | .error (.wait _) _ => true
       | _ => false) &&
      match releaseFor (bridleAgent 0) .dm (held (2 ^ 43)) with
      | .error (.trap _ _) _ => true
      | _ => false) &&
     opDone { o with written := [0, 1, 2, 3] } && opDone { o with stop := true } &&
     ok (releaseFor (bridleAgent 0) .dm s) fun _ s1 => decide (s1.strand.bound = true ∧ s1.strand.crew = o.by_.crew ∧
       s1.strand.idx.toNat = o.by_.idx ∧ s1.strand.colerr.getLsbD 4 = false))) = true := by decide +kernel

/-- What an image that passes every check looks like depends on the uninterpreted cryptography: when it accepts a signature, a
header that agrees with its body passes. -/
theorem wit_TrustEvents_image (kind : Nat) (img : SignedImage) (h : img.header.length = 256) (m : headerField img 0 4 = 0x4E474953)
    (k : headerField img 4 1 = kind) (z : allZero ((img.header.drop 5).take 3) = true) (n : headerField img 12 4 = img.body.length)
    (y : allZero (img.header.drop 212) = true) (d : Config.sha512 img.body = imgDigest img)
    (v : Config.ecdsaVerifies Config.onacyKey ((img.header.drop 80).take 132) (Config.sha512 (img.header.take 80)) = true)
    (floor : Nat) (w : floor ≤ headerField img 8 4) : imageFault floor kind img = 0 := by
  simp [imageFault, h, m, k, z, n, y, d, v, Nat.not_lt.mpr w]

theorem wit_DecodeReadsEncode : (wellFormed (.vadd gp .n64 31 0 (.imm 255) 7) && (encode (.vadd gp .n64 31 0 (.imm 255) 7)).isSome) = true := by
  decide +kernel
/-- A strand at the first slot of its line, or at a line not yet fetched. -/
def standing (h : BitVec 16) (tl : BitVec 96) (fetched : Bool) : State :=
  let s := { base with mem := memWrite base.mem 0x1000 (oneLine h tl) }
  { s with strand := { s.strand with pass := if fetched then some ⟨0x1000, BitVec.ofNat 512 (leNat (oneLine h tl))⟩ else none } }
theorem wit_StepRunsDecoded : (([.addi g0 3 1 5, .vadd g0 .i32 1 2 (.vec 3) 0] : List Instr).all (fun i =>
      let x := wordsOf i
      let b := BitVec.ofNat 512 (leNat (oneLine x.1 x.2))
      [true, false].all fun f => let s := standing x.1 x.2 f
        s.powered && s.sched.isEmpty && s.regq.isEmpty && !s.engineTurn && runs s.strand && decide (s.slice < 16) && s.strand.pendTrap.isNone &&
        s.strand.vqTrap.isNone && s.strand.refused.isNone && s.strand.scalarWait.isNone && s.strand.vqWait.isNone && s.strand.vq.isEmpty && lineBase s.strand.pc == 0x1000 &&
        lineValid b && addrForm s.strand.pc && decide (slotNo s.strand.pc < lineHeads b ∧ lineHead b (slotNo s.strand.pc) = x.1 ∧
          lineTail b (slotNo s.strand.pc) = x.2) && decide (headCheck x.1 = .ok () ∧ decode x.1 x.2 = .ok i) &&
        (f || ok (fetchCode (priv s.strand) 0x1000 { clock s with engineTurn := true, slice := s.slice + 1 }) fun c s1 => c == b && kept s s1)) &&
    (let x := wordsOf (.vadd g0 .i32 1 2 (.vec 3) 0)
     decide ((queued { entry 0 0 0 with head := x.1, tail := x.2 } 4 base).strand.vq.head? = some { entry 0 0 0 with head := x.1, tail := x.2 }))) =
      true := by decide +kernel
theorem wit_StepsKeepMemory : Memory.wf base.mem = true := by decide +kernel
theorem wit_StepGoesOnWithPower : (base.powered && !({ base with powered := false } : State).powered && !startsAgain { base with powered := false } &&
    startsAgain { base with powered := false, sched := [.powerCycle unsigned unsigned unsigned] }) = true := by decide +kernel

end Sys2Proof.Tests
end

section
/-! PROOFS. Every encoded well-formed instruction reads back (O55): what the field readers find in the tail of each format, what the
parser then answers for each instruction, and the heads of the hint space. -/

namespace Sys2Proof.Encoding

-- ## Heads

theorem headOp_encHead (op : Nat) (tl : BitVec 3) (g : Guard) (h : op < 256) : headOp (encHead op tl g) = op := by
  change (BitVec.extractLsb' 5 8 (tl ++ BitVec.ofNat 8 op ++ g.p ++ BitVec.ofBool g.neg ++ BitVec.ofBool g.y)).toNat = op
  simp (disch := decide) only [-Nat.reduceAdd, Nat.reduceSub, BitVec.extractLsb'_append_eq_of_le, BitVec.extractLsb'_append_eq_of_add_le,
    BitVec.extractLsb'_eq_self, BitVec.toNat_ofNat]
  exact Nat.mod_eq_of_lt h

theorem headTl_encHead (op : Nat) (tl : BitVec 3) (g : Guard) : headTl (encHead op tl g) = tl.toNat := by
  change (BitVec.extractLsb' 13 3 (tl ++ BitVec.ofNat 8 op ++ g.p ++ BitVec.ofBool g.neg ++ BitVec.ofBool g.y)).toNat = _
  simp (disch := decide) only [-Nat.reduceAdd, Nat.reduceSub, BitVec.extractLsb'_append_eq_of_le, BitVec.extractLsb'_eq_self]

theorem headGuard_encHead (op : Nat) (tl : BitVec 3) (g : Guard) : headGuard (encHead op tl g) = g := by
  change (⟨BitVec.extractLsb' 2 3 (tl ++ BitVec.ofNat 8 op ++ g.p ++ BitVec.ofBool g.neg ++ BitVec.ofBool g.y),
    (tl ++ BitVec.ofNat 8 op ++ g.p ++ BitVec.ofBool g.neg ++ BitVec.ofBool g.y).getLsbD 1,
    (tl ++ BitVec.ofNat 8 op ++ g.p ++ BitVec.ofBool g.neg ++ BitVec.ofBool g.y).getLsbD 0⟩ : Guard) = g
  simp (disch := decide) [-Nat.reduceAdd, BitVec.getElem_append, BitVec.extractLsb'_append_eq_of_le,
    BitVec.extractLsb'_append_eq_of_add_le, BitVec.extractLsb'_eq_self]

-- ## Codes

theorem tyOf_tyCode (ty : Ty) : tyOf (tyCode ty) = some ty := by cases ty <;> rfl
theorem rmOf_rmCode (rm : Rm) : rmOf (rmCode rm) = some rm := by cases rm <;> rfl
theorem scopeOf_scopeCode (sc : Scope) : scopeOf (scopeCode sc) = some sc := by cases sc <;> rfl

-- ## Tails

/-- What the field readers find in a T2-rrr tail. -/
structure ReadsT2 (d a b : BitVec 5) (x : BitVec 1) (t : BitVec 96) : Prop where
  fd : fD t = d
  fa : fA t = a
  fb : fB t = b
  fx : t[15] = x[0]

theorem readsT2_packT2 (d a b : BitVec 5) (x : BitVec 1) : ReadsT2 d a b x ((packT2 d a b x).setWidth 96) := by
  have ht : (packT2 d a b x).setWidth 96 = (x ++ b ++ a ++ d).setWidth 96 := rfl
  constructor <;>
  simp (disch := decide) [-Nat.reduceAdd, ht, fD, fA, fB, BitVec.getElem_append, BitVec.extractLsb'_setWidth_of_le,
    BitVec.extractLsb'_append_eq_of_le, BitVec.extractLsb'_append_eq_of_add_le, BitVec.extractLsb'_eq_self]

/-- What the field readers find in a T4-rri tail. -/
structure ReadsRri (d a : BitVec 5) (imm : BitVec 22) (t : BitVec 96) : Prop where
  fd : fD t = d
  fd3 : fD3 t = d.extractLsb' 0 3
  fa : fA t = a
  fimm : fImm22 t = imm
  flow3 : t.extractLsb' 10 3 = imm.extractLsb' 0 3
  flow4 : t.extractLsb' 10 4 = imm.extractLsb' 0 4
  flow6 : t.extractLsb' 10 6 = imm.extractLsb' 0 6
  flow12 : t.extractLsb' 10 12 = imm.extractLsb' 0 12
  fhigh6 : t.extractLsb' 16 6 = imm.extractLsb' 6 6
  fhigh18 : t.extractLsb' 14 18 = imm.extractLsb' 4 18
  fsx : t[22] = imm[12]

theorem readsRri_packRri (d a : BitVec 5) (imm : BitVec 22) : ReadsRri d a imm ((packRri d a imm).setWidth 96) := by
  have ht : (packRri d a imm).setWidth 96 = (imm ++ a ++ d).setWidth 96 := rfl
  constructor <;>
  simp (disch := decide) [-Nat.reduceAdd, ht, fD, fA, fD3, fImm22, BitVec.getElem_append, BitVec.extractLsb'_setWidth_of_le,
    BitVec.extractLsb'_append_eq_of_le, BitVec.extractLsb'_append_eq_of_add_le, BitVec.extractLsb'_eq_self]

/-- What the field readers find in a T4-br tail. -/
structure ReadsBr (dl : BitVec 24) (sl : BitVec 5) (f3 : BitVec 3) (t : BitVec 96) : Prop where
  fdl : fDl t = dl
  fsl : fSl t = sl
  ff3 : fF3 t = f3

theorem readsBr_packBr (dl : BitVec 24) (sl : BitVec 5) (f3 : BitVec 3) : ReadsBr dl sl f3 ((packBr dl sl f3).setWidth 96) := by
  have ht : (packBr dl sl f3).setWidth 96 = (f3 ++ sl ++ dl).setWidth 96 := rfl
  constructor <;>
  simp (disch := decide) only [-Nat.reduceAdd, Nat.reduceSub, ht, fDl, fSl, fF3, BitVec.extractLsb'_setWidth_of_le,
    BitVec.extractLsb'_append_eq_of_le, BitVec.extractLsb'_append_eq_of_add_le, BitVec.extractLsb'_eq_self]

/-- What the field readers find in a T4-rrrf tail. -/
structure ReadsRrrf (d a b c : BitVec 5) (rm : BitVec 3) (fn9 : BitVec 9) (t : BitVec 96) : Prop where
  fd : fD t = d
  fd3 : fD3 t = d.extractLsb' 0 3
  fa : fA t = a
  fa3 : fA3 t = a.extractLsb' 0 3
  fb : fB t = b
  fb3 : fB3 t = b.extractLsb' 0 3
  fc : fC t = c
  fc3 : fC3 t = c.extractLsb' 0 3
  frm : fRm4 t = rmOf rm
  ffn9 : fFn9 t = fn9.toNat
  flow3 : t.extractLsb' 23 3 = fn9.extractLsb' 0 3
  flow4 : t.extractLsb' 23 4 = fn9.extractLsb' 0 4
  fhigh4 : t.extractLsb' 27 4 = fn9.extractLsb' 4 4

theorem readsRrrf_packRrrf (d a b c : BitVec 5) (rm : BitVec 3) (fn9 : BitVec 9) :
    ReadsRrrf d a b c rm fn9 ((packRrrf d a b c rm fn9).setWidth 96) := by
  have ht : (packRrrf d a b c rm fn9).setWidth 96 = (fn9 ++ rm ++ c ++ b ++ a ++ d).setWidth 96 := rfl
  constructor <;>
  simp (disch := decide) only [-Nat.reduceAdd, Nat.reduceSub, ht, fD, fA, fB, fC, fD3, fA3, fB3, fC3, fRm4, fFn9,
    BitVec.extractLsb'_setWidth_of_le, BitVec.extractLsb'_append_eq_of_le, BitVec.extractLsb'_append_eq_of_add_le, BitVec.extractLsb'_eq_self]

/-- What the field readers find in a T6-v tail. -/
structure ReadsV (d a b c : BitVec 5) (m : BitVec 3) (ty : BitVec 4) (rm : BitVec 3) (ok : BitVec 2) (fn8 imm8 : BitVec 8)
    (t : BitVec 96) : Prop where
  fd : fD t = d
  fd3 : fD3 t = d.extractLsb' 0 3
  fd2 : t.extractLsb' 0 2 = d.extractLsb' 0 2
  fa : fA t = a
  fa3 : fA3 t = a.extractLsb' 0 3
  fa2 : t.extractLsb' 5 2 = a.extractLsb' 0 2
  fb : fB t = b
  fb3 : fB3 t = b.extractLsb' 0 3
  fc : fC t = c
  fc3 : fC3 t = c.extractLsb' 0 3
  fm : fM6 t = m
  fty : fTy6 t = tyOf ty
  frm : fRm6 t = rmOf rm
  fok : fOk t = ok.toNat
  ffn8 : fFn8 t = fn8.toNat
  fimm8 : fImm8 t = imm8
  fimm5 : t.extractLsb' 40 5 = imm8.extractLsb' 0 5

theorem readsV_packV (d a b c : BitVec 5) (m : BitVec 3) (ty : BitVec 4) (rm : BitVec 3) (ok : BitVec 2) (fn8 imm8 : BitVec 8) :
    ReadsV d a b c m ty rm ok fn8 imm8 ((packV d a b c m ty rm ok fn8 imm8).setWidth 96) := by
  have ht : (packV d a b c m ty rm ok fn8 imm8).setWidth 96 =
    (imm8 ++ fn8 ++ ok ++ rm ++ ty ++ m ++ c ++ b ++ a ++ d).setWidth 96 := rfl
  constructor <;>
  simp (disch := decide) only [-Nat.reduceAdd, Nat.reduceSub, ht, fD, fA, fB, fC, fD3, fA3, fB3, fC3, fM6, fTy6, fRm6, fOk, fFn8, fImm8,
    BitVec.extractLsb'_setWidth_of_le, BitVec.extractLsb'_append_eq_of_le, BitVec.extractLsb'_append_eq_of_add_le, BitVec.extractLsb'_eq_self]

/-- What the field readers find in a T8-vm tail. -/
structure ReadsVm (d a b : BitVec 5) (m : BitVec 3) (ty tyv scp : BitVec 4) (ord : BitVec 2) (fn4 nf : BitVec 4) (off : BitVec 24)
    (t : BitVec 96) : Prop where
  fd : fD t = d
  fa : fA t = a
  fb : fB t = b
  fm : fM8 t = m
  fty : fTy8 t = tyOf ty
  ftyv : fTyv t = tyOf tyv
  fscp : fScp8 t = scopeOf scp
  ford : t.extractLsb' 30 2 = ord
  ffn4 : fFn4 t = fn4
  fnf : fNf t = nf
  foff : fOff t = off
  foff2 : t.extractLsb' 40 2 = off.extractLsb' 0 2
  facq : t[32] = fn4[0]
  frel : t[33] = fn4[1]

theorem readsVm_packVm (d a b : BitVec 5) (m : BitVec 3) (ty tyv scp : BitVec 4) (ord : BitVec 2) (fn4 nf : BitVec 4) (off : BitVec 24) :
    ReadsVm d a b m ty tyv scp ord fn4 nf off ((packVm d a b m ty tyv scp ord fn4 nf off).setWidth 96) := by
  have ht : (packVm d a b m ty tyv scp ord fn4 nf off).setWidth 96 =
    (off ++ nf ++ fn4 ++ ord ++ scp ++ tyv ++ ty ++ m ++ b ++ a ++ d).setWidth 96 := rfl
  constructor <;>
  simp (disch := decide) [-Nat.reduceAdd, ht, fD, fA, fB, fM8, fTy8, fTyv, fScp8, fFn4, fNf, fOff, BitVec.getElem_append,
    BitVec.extractLsb'_setWidth_of_le, BitVec.extractLsb'_append_eq_of_le, BitVec.extractLsb'_append_eq_of_add_le, BitVec.extractLsb'_eq_self]

/-- What the field readers find in the T10-li tail. -/
theorem fields_packLi (d : BitVec 5) (imm : Word) :
    fD ((packLi d imm).setWidth 96) = d ∧ ((packLi d imm).setWidth 96).extractLsb' 16 64 = imm := by
  have ht : (packLi d imm).setWidth 96 = (imm ++ (0#11 : BitVec 11) ++ d).setWidth 96 := rfl
  simp (disch := decide) only [-Nat.reduceAdd, Nat.reduceSub, ht, fD, BitVec.extractLsb'_setWidth_of_le, BitVec.extractLsb'_append_eq_of_le,
    BitVec.extractLsb'_append_eq_of_add_le, BitVec.extractLsb'_eq_self, and_self]

/-- What the field readers find in a T12-eng tail. -/
structure ReadsEng (d a b c : BitVec 5) (fn5 : BitVec 5) (i0 i1 : BitVec 32) (t : BitVec 96) : Prop where
  fd : fD t = d
  fa : fA t = a
  fb : fB t = b
  fc : fC t = c
  ffn5 : fFn5 t = fn5.toNat
  fi0 : t.extractLsb' 32 32 = i0
  fi1 : t.extractLsb' 64 32 = i1

theorem readsEng_packEng (d a b c : BitVec 5) (fn5 : BitVec 5) (i0 i1 : BitVec 32) :
    ReadsEng d a b c fn5 i0 i1 (packEng d a b c 0 0 fn5 i0 i1) := by
  have ht : packEng d a b c 0 0 fn5 i0 i1 =
    (i1 ++ i0 ++ fn5 ++ 0#4 ++ 0#3 ++ c ++ b ++ a ++ d).setWidth 96 := (BitVec.setWidth_eq _).symm
  constructor <;>
    simp (disch := decide) only [-Nat.reduceAdd, Nat.reduceSub, ht, fD, fA, fB, fC, fFn5,
      BitVec.extractLsb'_setWidth_of_le, BitVec.extractLsb'_append_eq_of_le, BitVec.extractLsb'_append_eq_of_add_le, BitVec.extractLsb'_eq_self]

/-- A part of the I0 field. -/
theorem ReadsEng.part0 {d a b c fn5 : BitVec 5} {i0 i1 : BitVec 32} {t : BitVec 96} (r : ReadsEng d a b c fn5 i0 i1 t) (lo len : Nat)
    (h : lo + len ≤ 32) : t.extractLsb' (32 + lo) len = i0.extractLsb' lo len := by
  rw [← r.fi0]
  ext k hk
  simp only [BitVec.getElem_extractLsb', BitVec.getLsbD_extractLsb', decide_eq_true (show lo + k < 32 by omega), Bool.true_and,
    Nat.add_assoc]

/-- A part of the I1 field. -/
theorem ReadsEng.part1 {d a b c fn5 : BitVec 5} {i0 i1 : BitVec 32} {t : BitVec 96} (r : ReadsEng d a b c fn5 i0 i1 t) (lo len : Nat)
    (h : lo + len ≤ 32) : t.extractLsb' (64 + lo) len = i1.extractLsb' lo len := by
  rw [← r.fi1]
  ext k hk
  simp only [BitVec.getElem_extractLsb', BitVec.getLsbD_extractLsb', decide_eq_true (show lo + k < 32 by omega), Bool.true_and,
    Nat.add_assoc]

/-- A bit of the I0 field. -/
theorem ReadsEng.bit0 {d a b c fn5 : BitVec 5} {i0 i1 : BitVec 32} {t : BitVec 96} (r : ReadsEng d a b c fn5 i0 i1 t) (k : Nat)
    (h : k < 32) : t[32 + k] = i0[k] := by
  simp only [← r.fi0, BitVec.getElem_extractLsb', BitVec.getLsbD_eq_getElem (show 32 + k < 96 by omega)]

-- ## Reading an instruction back

/-- Whatever words encode an instruction, they decode to it. -/
def ReadsBack (i : Instr) : Prop := ∀ h t, encode i = some (h, t) → decode h t = .ok i

/-- An instruction below the hint space reads back when its operands are those that the parser of its opcode reads. -/
theorem readsBack_of_parse {op : Nat} {tl : BitVec 3} {g : Guard} {t : BitVec 96} {i : Instr}
    (he : encode i = some (encHead op tl g, t)) (ho : op < 0xF0 ∧ opTl op = some tl.toNat) (hw : wellFormed i = true) (hg : g.ok = true)
    (hp : parse op g t = some i) : ReadsBack i := by
  intro h t' he'
  obtain ⟨rfl, rfl⟩ := Prod.mk.inj (Option.some.inj (he.symm.trans he'))
  obtain ⟨hlt, htl⟩ := ho
  have hop := headOp_encHead op tl g (by omega)
  have hc : headCheck (encHead op tl g) = .ok () := by
    simp [headCheck, hop, htl, headTl_encHead, headGuard_encHead, hg, Nat.not_le.mpr hlt]
  exact (decode_ok_iff (hop.symm ▸ hlt)).mpr ⟨hc, by rw [hop, headGuard_encHead, hp], he, hw⟩

section
variable {op : Nat} {g : Guard} {i : Instr} (hw : wellFormed i = true) (hg : g.ok = true)
include hw hg

theorem readsBack_eT0 (he : encode i = eT0 op g) (ho : op < 0xF0 ∧ opTl op = some 0) (hp : parse op g 0 = some i) : ReadsBack i :=
  readsBack_of_parse he ho hw hg hp

theorem readsBack_eT2 {d a b : BitVec 5} {x : BitVec 1} (he : encode i = eT2 op g d a b x) (ho : op < 0xF0 ∧ opTl op = some 1)
    (hp : ∀ t, ReadsT2 d a b x t → parse op g t = some i) : ReadsBack i :=
  readsBack_of_parse he ho hw hg (hp _ (readsT2_packT2 d a b x))

theorem readsBack_eRri {d a : BitVec 5} {imm : BitVec 22} (he : encode i = eRri op g d a imm) (ho : op < 0xF0 ∧ opTl op = some 2)
    (hp : ∀ t, ReadsRri d a imm t → parse op g t = some i) : ReadsBack i :=
  readsBack_of_parse he ho hw hg (hp _ (readsRri_packRri d a imm))

theorem readsBack_eBr {dl : BitVec 24} {sl : BitVec 5} {f3 : BitVec 3} (he : encode i = eBr op g dl sl f3)
    (ho : op < 0xF0 ∧ opTl op = some 2) (hp : ∀ t, ReadsBr dl sl f3 t → parse op g t = some i) : ReadsBack i :=
  readsBack_of_parse he ho hw hg (hp _ (readsBr_packBr dl sl f3))

theorem readsBack_eRrrf {d a b c : BitVec 5} {rm : BitVec 3} {fn9 : Nat} (he : encode i = eRrrf op g d a b c rm fn9)
    (ho : op < 0xF0 ∧ opTl op = some 2) (hp : ∀ t, ReadsRrrf d a b c rm (BitVec.ofNat 9 fn9) t → parse op g t = some i) : ReadsBack i :=
  readsBack_of_parse he ho hw hg (hp _ (readsRrrf_packRrrf d a b c rm _))

theorem readsBack_eV {d a b c : BitVec 5} {m : BitVec 3} {ty : BitVec 4} {rm : BitVec 3} {ok : BitVec 2} {fn8 : Nat} {imm8 : BitVec 8}
    (he : encode i = eV op g d a b c m ty rm ok fn8 imm8) (ho : op < 0xF0 ∧ opTl op = some 3)
    (hp : ∀ t, ReadsV d a b c m ty rm ok (BitVec.ofNat 8 fn8) imm8 t → parse op g t = some i) : ReadsBack i :=
  readsBack_of_parse he ho hw hg (hp _ (readsV_packV d a b c m ty rm ok _ imm8))

theorem readsBack_eVm {d a b : BitVec 5} {m : BitVec 3} {ty tyv scp : BitVec 4} {ord : BitVec 2} {fn4 nf : BitVec 4} {off : BitVec 24}
    (he : encode i = eVm op g d a b m ty tyv scp ord fn4 nf off) (ho : op < 0xF0 ∧ opTl op = some 4)
    (hp : ∀ t, ReadsVm d a b m ty tyv scp ord fn4 nf off t → parse op g t = some i) : ReadsBack i :=
  readsBack_of_parse he ho hw hg (hp _ (readsVm_packVm d a b m ty tyv scp ord fn4 nf off))

theorem readsBack_eEng {d a b c fn5 : BitVec 5} {i0 i1 : BitVec 32} (he : encode i = eEng op g d a b c fn5 i0 i1)
    (ho : op < 0xF0 ∧ opTl op = some 6) (hp : ∀ t, ReadsEng d a b c fn5 i0 i1 t → parse op g t = some i) : ReadsBack i :=
  readsBack_of_parse he ho hw hg (hp _ (readsEng_packEng d a b c fn5 i0 i1))

end

-- ## The forms of operands

section
variable {g : Guard} {t : BitVec 96} {d a c : BitVec 5} {m : BitVec 3} {ty tyv : Ty} {rm : Rm}

theorem ReadsV.fBop_eq {b : BOp} {tyc : BitVec 4} {rmc : BitVec 3} {fn8 : BitVec 8}
    (r : ReadsV d a (bField b) c m tyc rmc (bKind b) fn8 (bImm b) t) : fBop t = some b := by
  cases b <;> simp [fBop, r.fok, r.fb, r.fimm8, bField, bKind, bImm]

theorem ReadsV.fStart_eq {st : Option (BitVec 5)} {tyc : BitVec 4} {rmc : BitVec 3} {fn8 imm8 : BitVec 8}
    (r : ReadsV d a (startField st) c m tyc rmc (startKind st) fn8 imm8 t) : fStart t = some st := by
  cases st <;> simp [fStart, r.fok, r.fb, startField, startKind]

theorem ReadsVm.fOrd_eq {b : BitVec 5} {tyc tyvc scp fn4 nf : BitVec 4} {off : BitVec 24} {o : Bool}
    (r : ReadsVm d a b m tyc tyvc scp (ordCode o) fn4 nf off t) : fOrd t = some o := by
  cases o <;> simp [fOrd, r.ford, ordCode]

theorem extract3_reg3 (x : BitVec 3) : (reg3 x).extractLsb' 0 3 = x := by revert x; decide
theorem extract2_reg2 (x : BitVec 2) : (reg2 x).extractLsb' 0 2 = x := by revert x; decide

/-- Integer binary form. -/
theorem pBin_eq {b : BOp} {rmc : BitVec 3} {fn8 : BitVec 8} (k : Guard → Ty → BitVec 5 → BitVec 5 → BOp → BitVec 3 → Instr)
    (r : ReadsV d a (bField b) c m (tyCode ty) rmc (bKind b) fn8 (bImm b) t) : pBin k g t = some (k g ty d a b m) := by
  simp [pBin, r.fty, tyOf_tyCode, r.fBop_eq, r.fd, r.fa, r.fm]

/-- Carry form. -/
theorem pCarry_eq {b : BOp} {mo : BitVec 3} {rmc : BitVec 3} {fn8 : BitVec 8}
    (k : Guard → Ty → BitVec 5 → BitVec 5 → BOp → BitVec 3 → BitVec 3 → Instr)
    (r : ReadsV d a (bField b) (reg3 mo) m (tyCode ty) rmc (bKind b) fn8 (bImm b) t) : pCarry k g t = some (k g ty d a b mo m) := by
  simp [pCarry, r.fty, tyOf_tyCode, r.fBop_eq, r.fd, r.fa, r.fm, r.fc3, extract3_reg3]

/-- Rounding binary form. -/
theorem pFbin_eq {b : BOp} {fn8 : BitVec 8} (k : Guard → Ty → Rm → BitVec 5 → BitVec 5 → BOp → BitVec 3 → Instr)
    (r : ReadsV d a (bField b) c m (tyCode ty) (rmCode rm) (bKind b) fn8 (bImm b) t) : pFbin k g t = some (k g ty rm d a b m) := by
  simp [pFbin, r.fty, tyOf_tyCode, r.frm, rmOf_rmCode, r.fBop_eq, r.fd, r.fa, r.fm]

/-- Rounding unary form. -/
theorem pFun_eq {b : BitVec 5} {ok : BitVec 2} {fn8 imm8 : BitVec 8} (k : Guard → Ty → Rm → BitVec 5 → BitVec 5 → BitVec 3 → Instr)
    (r : ReadsV d a b c m (tyCode ty) (rmCode rm) ok fn8 imm8 t) : pFun k g t = some (k g ty rm d a m) := by
  simp [pFun, r.fty, tyOf_tyCode, r.frm, rmOf_rmCode, r.fd, r.fa, r.fm]

/-- Unary form. -/
theorem pUn_eq {b : BitVec 5} {rmc : BitVec 3} {ok : BitVec 2} {fn8 imm8 : BitVec 8} (k : Guard → Ty → BitVec 5 → BitVec 5 → BitVec 3 → Instr)
    (r : ReadsV d a b c m (tyCode ty) rmc ok fn8 imm8 t) : pUn k g t = some (k g ty d a m) := by
  simp [pUn, r.fty, tyOf_tyCode, r.fd, r.fa, r.fm]

/-- Reduction form without rounding. -/
theorem pRed_eq {st : Option (BitVec 5)} {rmc : BitVec 3} {fn8 imm8 : BitVec 8}
    (k : Guard → Ty → BitVec 5 → BitVec 5 → Option (BitVec 5) → BitVec 3 → Instr)
    (r : ReadsV d a (startField st) c m (tyCode ty) rmc (startKind st) fn8 imm8 t) : pRed k g t = some (k g ty d a st m) := by
  simp [pRed, r.fty, tyOf_tyCode, r.fStart_eq, r.fd, r.fa, r.fm]

/-- Memory form without B. -/
theorem pMem_eq {b : BitVec 5} {scp fn4 nf : BitVec 4} {ord : BitVec 2} {off : BitVec 24}
    (k : Guard → Ty → Ty → BitVec 5 → BitVec 5 → BitVec 24 → BitVec 3 → Instr)
    (r : ReadsVm d a b m (tyCode ty) (tyCode tyv) scp ord fn4 nf off t) : pMem k g t = some (k g ty tyv d a off m) := by
  simp [pMem, r.fty, r.ftyv, tyOf_tyCode, r.fd, r.fa, r.fm, r.foff]

/-- Memory form with B. -/
theorem pMemB_eq {b : BitVec 5} {scp fn4 nf : BitVec 4} {ord : BitVec 2} {off : BitVec 24}
    (k : Guard → Ty → Ty → BitVec 5 → BitVec 5 → BitVec 5 → BitVec 24 → BitVec 3 → Instr)
    (r : ReadsVm d a b m (tyCode ty) (tyCode tyv) scp ord fn4 nf off t) : pMemB k g t = some (k g ty tyv d a b off m) := by
  simp [pMemB, r.fty, r.ftyv, tyOf_tyCode, r.fd, r.fa, r.fb, r.fm, r.foff]

/-- Segment form. -/
theorem pSeg_eq {b : BitVec 5} {scp fn4 nf : BitVec 4} {ord : BitVec 2} {off : BitVec 24}
    (k : Guard → Ty → Ty → BitVec 5 → BitVec 5 → BitVec 4 → BitVec 24 → BitVec 3 → Instr)
    (r : ReadsVm d a b m (tyCode ty) (tyCode tyv) scp ord fn4 nf off t) : pSeg k g t = some (k g ty tyv d a nf off m) := by
  simp [pSeg, r.fty, r.ftyv, tyOf_tyCode, r.fd, r.fa, r.fm, r.fnf, r.foff]

/-- Scalar memory form. -/
theorem pLdSt_eq {b : BitVec 5} {tyvc scp fn4 nf : BitVec 4} {ord : BitVec 2} {off : BitVec 24}
    (k : Guard → Ty → BitVec 5 → BitVec 5 → BitVec 24 → Instr)
    (r : ReadsVm d a b m (tyCode ty) tyvc scp ord fn4 nf off t) : pLdSt k g t = some (k g ty d a off) := by
  simp [pLdSt, r.fty, tyOf_tyCode, r.fd, r.fa, r.foff]

/-- Atomic form. -/
theorem pAmo_eq {b : BitVec 5} {tyvc nf : BitVec 4} {ord : BitVec 2} {off : BitVec 24} {sc : Scope} {acq rel : Bool}
    (k : Guard → Ty → Scope → Bool → Bool → BitVec 5 → BitVec 5 → BitVec 5 → BitVec 24 → Instr)
    (r : ReadsVm d a b m (tyCode ty) tyvc (scopeCode sc) ord ((0#2 : BitVec 2) ++ BitVec.ofBool rel ++ BitVec.ofBool acq) nf off t) :
    pAmo k g t = some (k g ty sc acq rel d a b off) := by
  have hq : t[32] = acq := r.facq.trans (by cases acq <;> cases rel <;> rfl)
  have hr : t[33] = rel := r.frel.trans (by cases acq <;> cases rel <;> rfl)
  simp [pAmo, r.fty, tyOf_tyCode, r.fscp, scopeOf_scopeCode, hq, hr, r.fd, r.fa, r.fb, r.foff]

/-- Rounding form of the scalar floating-point instructions. -/
theorem pF3_eq {b : BitVec 5} {f : FFmt} (k : Guard → FFmt → Rm → BitVec 5 → BitVec 5 → BitVec 5 → Instr)
    (r : ReadsRrrf d a b c (rmCode rm) (BitVec.ofNat 9 (ffmtCode f)) t) : pF3 k g t = some (k g f rm d a b) := by
  have hf : ffmtOf (fFn9 t) = some f := by rw [r.ffn9]; cases f <;> rfl
  simp [pF3, hf, r.frm, rmOf_rmCode, r.fd, r.fa, r.fb]

end

-- ## Fields inside a field

section
variable (d a : BitVec 5) (imm : BitVec 18) (pos len1 : BitVec 6) (sx : Bool)

/-- The parts of the immediate of `bfx`. -/
theorem fields_bfx : ((0#9 : BitVec 9) ++ BitVec.ofBool sx ++ len1 ++ pos).extractLsb' 0 6 = pos ∧
    ((0#9 : BitVec 9) ++ BitVec.ofBool sx ++ len1 ++ pos).extractLsb' 6 6 = len1 ∧
    ((0#9 : BitVec 9) ++ BitVec.ofBool sx ++ len1 ++ pos)[12] = sx := by
  simp (disch := decide) [-Nat.reduceAdd, BitVec.getElem_append, BitVec.extractLsb'_append_eq_of_le,
    BitVec.extractLsb'_append_eq_of_add_le, BitVec.extractLsb'_eq_self]

/-- The parts of the immediate of `bfi`. -/
theorem fields_bfi : ((0#10 : BitVec 10) ++ len1 ++ pos).extractLsb' 0 6 = pos ∧
    ((0#10 : BitVec 10) ++ len1 ++ pos).extractLsb' 6 6 = len1 := by
  simp (disch := decide) [-Nat.reduceAdd, BitVec.extractLsb'_append_eq_of_le,
    BitVec.extractLsb'_append_eq_of_add_le, BitVec.extractLsb'_eq_self]

/-- The parts of the immediate of `cmpi`. -/
theorem fields_cmpi (cc : Cond) : condOf ((imm ++ BitVec.ofNat 4 (condCode cc)).extractLsb' 0 4).toNat = some cc ∧
    (imm ++ BitVec.ofNat 4 (condCode cc)).extractLsb' 4 18 = imm := by
  simp (disch := decide) only [-Nat.reduceAdd, Nat.reduceSub, BitVec.extractLsb'_append_eq_of_le, BitVec.extractLsb'_append_eq_of_add_le,
    BitVec.extractLsb'_eq_self, and_true]
  cases cc <;> rfl

/-- The parts of I1 of the draining `lkacc`. -/
theorem fields_lkaccDrn (n : BitVec 3) (fc : BitVec 5) : ((0#24 : BitVec 24) ++ n ++ fc).extractLsb' 0 5 = fc ∧
    ((0#24 : BitVec 24) ++ n ++ fc).extractLsb' 5 3 = n := by
  simp (disch := decide) [-Nat.reduceAdd, BitVec.extractLsb'_append_eq_of_le,
    BitVec.extractLsb'_append_eq_of_add_le, BitVec.extractLsb'_eq_self]

/-- The parts of I0 of `slabgrow`. -/
theorem fields_slabgrow (ch : BitVec 2) (z : BitVec 6) :
    ((0#22 : BitVec 22) ++ ch ++ (0#2 : BitVec 2) ++ z).extractLsb' 0 6 = z ∧
    ((0#22 : BitVec 22) ++ ch ++ (0#2 : BitVec 2) ++ z).extractLsb' 6 2 = 0 ∧
    ((0#22 : BitVec 22) ++ ch ++ (0#2 : BitVec 2) ++ z).extractLsb' 8 2 = ch := by
  simp (disch := decide) [-Nat.reduceAdd, BitVec.extractLsb'_append_eq_of_le,
    BitVec.extractLsb'_append_eq_of_add_le, BitVec.extractLsb'_eq_self]

/-- The parts of I0 of `rangeset`. -/
theorem fields_rangeAttr (slot : BitVec 3) (v hc : Bool) : (rangeAttr slot v hc).extractLsb' 0 3 = slot ∧
    (rangeAttr slot v hc)[3] = v ∧ (rangeAttr slot v hc)[4] = hc := by
  revert slot v hc; decide

/-- An integer type is read from the low three bits of its code. -/
theorem tyOf_low3 {ty : Ty} (h : ty.isInt = true) : tyOf ((0#1 : BitVec 1) ++ ((tyCode ty).setWidth 22).extractLsb' 0 3) = some ty := by
  revert h; cases ty <;> decide

/-- The two types of `fcvt`. -/
theorem fields_fcvt (x y : BitVec 4) : (BitVec.ofNat 9 (x.toNat * 16 + y.toNat)).extractLsb' 0 4 = y ∧
    (BitVec.ofNat 9 (x.toNat * 16 + y.toNat)).extractLsb' 4 4 = x := by
  revert x y; decide

/-- The shift of `lea`. -/
theorem fields_lea (sh : BitVec 3) : (BitVec.ofNat 9 sh.toNat).extractLsb' 0 3 = sh := by revert sh; decide

end

-- ## The instructions with codes among their operands

section
variable {g : Guard} {i1 : BitVec 32} {i8 f8 : BitVec 8} {rmc : BitVec 3} {tyc : BitVec 4} {ok : BitVec 2} {f5 : BitVec 5}
  {t : BitVec 96} {d a b c lo hi sm sl sk z fc : BitVec 5} {p q r3 m : BitVec 3} {ty dty sty : Ty} {rm : Rm}

theorem parse_ext (hi : ty.isInt = true) (r : ReadsRri d a ((tyCode ty).setWidth 22) t) : parse 0x1B g t = some (.ext g d a ty) := by
  simp [parse, parseScalar, r.fd, r.fa, r.flow3, tyOf_low3 hi]

theorem parse_bfx {pos len1 : BitVec 6} {sx : Bool} (r : ReadsRri d a ((0#9 : BitVec 9) ++ BitVec.ofBool sx ++ len1 ++ pos) t) :
    parse 0x1C g t = some (.bfx g d a pos len1 sx) := by
  obtain ⟨hp, hl, hs⟩ := fields_bfx pos len1 sx
  simp [parse, parseScalar, r.fd, r.fa, r.flow6.trans hp, r.fhigh6.trans hl, r.fsx.trans hs]

theorem parse_bfi {pos len1 : BitVec 6} (r : ReadsRri d a ((0#10 : BitVec 10) ++ len1 ++ pos) t) :
    parse 0x1D g t = some (.bfi g d a pos len1) := by
  obtain ⟨hp, hl⟩ := fields_bfi pos len1
  simp [parse, parseScalar, r.fd, r.fa, r.flow6.trans hp, r.fhigh6.trans hl]

theorem parse_cmpi {cc : Cond} {imm : BitVec 18} (r : ReadsRri (reg3 p) a (imm ++ BitVec.ofNat 4 (condCode cc)) t) :
    parse 0x24 g t = some (.cmpi g cc p a imm) := by
  obtain ⟨hc, hi⟩ := fields_cmpi imm cc
  have hcc : condOf (t.extractLsb' 10 4).toNat = some cc := (congrArg _ (congrArg _ r.flow4)).trans hc
  simp only [parse, parseScalar, r.fd3, extract3_reg3, r.fa, hcc, r.fhigh18.trans hi]; rfl

theorem parse_lea (r : ReadsRrrf d a b c rmc (BitVec.ofNat 9 m.toNat) t) : parse 0x1E g t = some (.lea g d a b m) := by
  simp only [parse, parseScalar, r.fd, r.fa, r.fb, r.flow3, fields_lea]; rfl

theorem parse_cmp {cc : Cond} (r : ReadsRrrf (reg3 p) a b c rmc (BitVec.ofNat 9 (condCode cc)) t) :
    parse 0x1F g t = some (.cmp g cc p a b) := by
  have hc : condOf (fFn9 t) = some cc := by rw [r.ffn9]; cases cc <;> rfl
  simp [parse, parseScalar, hc, r.fd3, extract3_reg3, r.fa, r.fb]

theorem parse_pop {op : PredOp} (r : ReadsRrrf (reg3 p) (reg3 q) (reg3 r3) c rmc (BitVec.ofNat 9 (predOpCode op)) t) :
    parse 0x27 g t = some (.pop g op p q r3) := by
  have ho : predOpOf (fFn9 t) = some op := by rw [r.ffn9]; cases op <;> rfl
  simp [parse, parseScalar, ho, r.fd3, r.fa3, r.fb3, extract3_reg3]

theorem ReadsRrrf.ffmt {f : FFmt} {rmc : BitVec 3}
    (r : ReadsRrrf d a b c rmc (BitVec.ofNat 9 (ffmtCode f)) t) : ffmtOf (fFn9 t) = some f := by
  rw [r.ffn9]; cases f <;> rfl

theorem parse_fcmp {f : FFmt} {cc : FCond} (r : ReadsRrrf (reg3 p) a b c rmc (BitVec.ofNat 9 (fcondCode cc * 4 + ffmtCode f)) t) :
    parse 0x30 g t = some (.fcmp g f cc p a b) := by
  have hf : ffmtOf (fFn9 t % 4) = some f := by rw [r.ffn9]; cases f <;> cases cc <;> rfl
  have hc : fcondOf (fFn9 t / 4) = some cc := by rw [r.ffn9]; cases f <;> cases cc <;> rfl
  simp [parse, parseScalar, hf, hc, r.fd3, extract3_reg3, r.fa, r.fb]

theorem parse_fcvt (r : ReadsRrrf d a b c (rmCode rm) (BitVec.ofNat 9 ((tyCode sty).toNat * 16 + (tyCode dty).toNat)) t) :
    parse 0x31 g t = some (.fcvt g dty sty rm d a) := by
  obtain ⟨hd, hs⟩ := fields_fcvt (tyCode sty) (tyCode dty)
  simp only [parse, parseScalar, r.flow4.trans hd, r.fhigh4.trans hs, tyOf_tyCode, r.frm, rmOf_rmCode, r.fd, r.fa]; rfl

theorem parse_vscan {op : ScanOp} {st : Option (BitVec 5)}
    (r : ReadsV d a (startField st) c m (tyCode ty) (rmCode rm) (startKind st) (BitVec.ofNat 8 (scanCode op)) i8 t) :
    parse 0x78 g t = some (.vscan g op ty rm d a st m) := by
  have ho : scanOf (fFn8 t) = some op := by rw [r.ffn8]; cases op <;> rfl
  simp [parse, parseVector, ho, r.fty, tyOf_tyCode, r.frm, rmOf_rmCode, r.fStart_eq, r.fd, r.fa, r.fm]

theorem parse_vfclamp {sc : Bool} (r : ReadsV d a lo hi m (tyCode ty) rmc (ordCode sc) f8 i8 t) :
    parse 0x60 g t = some (.vfclamp g ty d a sc lo hi m) := by
  cases sc <;> simp [parse, parseVector, r.fty, tyOf_tyCode, r.fok, ordCode, r.fd, r.fa, r.fb, r.fc, r.fm]

theorem parse_vfcvt (r : ReadsV d a b c m (tyCode dty) (rmCode rm) ok (BitVec.ofNat 8 (tyCode sty).toNat) i8 t) :
    parse 0x61 g t = some (.vfcvt g dty sty rm d a m) := by
  have hs : (if fFn8 t < 16 then tyOf (BitVec.ofNat 4 (fFn8 t)) else none) = some sty := by rw [r.ffn8]; cases sty <;> rfl
  simp [parse, parseVector, r.fty, tyOf_tyCode, hs, r.frm, rmOf_rmCode, r.fd, r.fa, r.fm]

theorem parse_vcmp {cc : Cond} {x : BOp}
    (r : ReadsV (reg3 p) a (bField x) c m (tyCode ty) rmc (bKind x) (BitVec.ofNat 8 (condCode cc)) (bImm x) t) :
    parse 0x64 g t = some (.vcmp g cc ty p a x m) := by
  have hc : condOf (fFn8 t) = some cc := by rw [r.ffn8]; cases cc <;> rfl
  simp [parse, parseVector, hc, r.fty, tyOf_tyCode, r.fBop_eq, r.fd3, extract3_reg3, r.fa, r.fm]

theorem parse_vfcmp {cc : FCond} {x : BOp}
    (r : ReadsV (reg3 p) a (bField x) c m (tyCode ty) rmc (bKind x) (BitVec.ofNat 8 (fcondCode cc)) (bImm x) t) :
    parse 0x65 g t = some (.vfcmp g cc ty p a x m) := by
  have hc : fcondOf (fFn8 t) = some cc := by rw [r.ffn8]; cases cc <;> rfl
  simp [parse, parseVector, hc, r.fty, tyOf_tyCode, r.fBop_eq, r.fd3, extract3_reg3, r.fa, r.fm]

theorem parse_mop {op : PredOp} (r : ReadsV (reg3 p) (reg3 q) (reg3 r3) c m tyc rmc ok (BitVec.ofNat 8 (predOpCode op)) i8 t) :
    parse 0x66 g t = some (.mop g op p q r3) := by
  have ho : predOpOf (fFn8 t) = some op := by rw [r.ffn8]; cases op <;> rfl
  simp [parse, parseVector, ho, r.fd3, r.fa3, r.fb3, extract3_reg3]

theorem parse_vop {f : Bool} {x : BitVec 2} (r : ReadsV (reg2 x) a b c m tyc rmc ok (BitVec.ofNat 8 (if f then 1 else 0)) i8 t) :
    parse 0x90 g t = some (.vop g f x a b i8) := by
  cases f <;> simp [parse, parseMemory, r.ffn8, r.fd2, extract2_reg2, r.fa, r.fb, r.fimm8]

theorem parse_vopm {f : Bool} {x : BitVec 2} (r : ReadsV (reg2 x) a b c m tyc rmc ok (BitVec.ofNat 8 (if f then 1 else 0)) i8 t) :
    parse 0x91 g t = some (.vopm g f x a b c i8) := by
  cases f <;> simp [parse, parseMemory, r.ffn8, r.fd2, extract2_reg2, r.fa, r.fb, r.fc, r.fimm8]

theorem parse_tbuild {ng : Bool} (r : ReadsEng d a b c f5 (if ng then 1 else 0) i1 t) : parse 0xA2 g t = some (.tbuild g ng a b c) := by
  have hn : t[32] = ng := (r.bit0 0 (by decide)).trans (by cases ng <;> rfl)
  simp [parse, parseMemory, hn, r.fa, r.fb, r.fc]

theorem parse_lkaccDrn {n : BitVec 3} (r : ReadsEng d a b c f5 2 ((0#24 : BitVec 24) ++ n ++ fc) t) :
    parse 0xA3 g t = some (.lkaccDrn g d a fc n) := by
  obtain ⟨hf, hn⟩ := fields_lkaccDrn n fc
  have hk : (t.extractLsb' 32 2).toNat = 2 := congrArg _ (r.part0 0 2 (by decide))
  simp only [parse, parseMemory, hk, (r.part1 0 5 (by decide)).trans hf, (r.part1 5 3 (by decide)).trans hn, r.fd, r.fa]; rfl

theorem parse_slabgrow {ch : BitVec 2} {z : BitVec 6} (r : ReadsEng d a b c f5 ((0#22 : BitVec 22) ++ ch ++ (0#2 : BitVec 2) ++ z) i1 t) :
    parse 0xAC g t = some (.slabgrow g d a b z ch) := by
  obtain ⟨hz, h0, hc⟩ := fields_slabgrow ch z
  have hk : (t.extractLsb' 38 2).toNat = 0 := congrArg _ ((r.part0 6 2 (by decide)).trans h0)
  simp only [parse, parseMemory, hk, (r.part0 0 6 (by decide)).trans hz, (r.part0 8 2 (by decide)).trans hc, r.fd, r.fa, r.fb]; rfl

theorem parse_slabgrowRetire (r : ReadsEng d a b c f5 64 i1 t) : parse 0xAC g t = some (.slabgrowRetire g d a) := by
  have hk : (t.extractLsb' 38 2).toNat = 1 := congrArg _ (r.part0 6 2 (by decide))
  simp only [parse, parseMemory, hk, r.fd, r.fa]; rfl

/-- Both forms of `rangeset`, which FN5 tells apart. -/
theorem parse_rangeset {slot : BitVec 3} {v hc : Bool} (r : ReadsEng d a b c f5 (rangeAttr slot v hc) i1 t) :
    (f5 = 0 → parse 0xD9 g t = some (.rangeset g d a b c slot v hc)) ∧ (f5 = 1 → parse 0xD9 g t = some (.rangesetQ g d a b c slot v hc)) := by
  obtain ⟨hs, hv, hh⟩ := fields_rangeAttr slot v hc
  have hslot : t.extractLsb' 32 3 = slot := (r.part0 0 3 (by decide)).trans hs
  have hv' : t[35] = v := (r.bit0 3 (by decide)).trans hv
  have hh' : t[36] = hc := (r.bit0 4 (by decide)).trans hh
  constructor <;> rintro rfl <;> simp [parse, parseSystem, r.ffn5, hslot, hv', hh', r.fd, r.fa, r.fb, r.fc]

end

-- ## The hint space

/-- A word of the hint space with a tail length of R41 decodes to a hint. -/
theorem decode_encHead_hint {op : Nat} {tl : BitVec 3} {g : Guard} (t : BitVec 96) (ho : op < 8) (htl : tl ≠ 7) (hg : g.ok = true) :
    decode (encHead (0xF0 + op) tl g) t = .ok (decodeHint (encHead (0xF0 + op) tl g) t) := by
  have hop := headOp_encHead (0xF0 + op) tl g (by omega)
  have htl' : tl.toNat ≠ 7 := fun h => htl (BitVec.eq_of_toNat_eq h)
  have hr : 0xF0 ≤ 0xF0 + op ∧ 0xF0 + op ≤ 0xF7 := by omega
  exact decode_hint (hop.symm ▸ hr.1) (by simp only [headCheck, hop, hr, htl', headTl_encHead, headGuard_encHead, hg]; rfl)

/-- The bare hint is `nop` or `yield` by its yield bit. -/
theorem decodeHint_bare (g : Guard) : decodeHint (encHead 0xF0 0 g) 0 = if g.y then .yield g else .nop g := by
  have hop : headOp (encHead 0xF0 0#3 g) = 0xF0 := headOp_encHead 0xF0 0 g (by decide)
  simp [decodeHint, hop, headTl_encHead, headGuard_encHead]

theorem readsBack_bare {g : Guard} {i : Instr} (hg : g.ok = true) (he : encode i = eT0 0xF0 g) (hi : (if g.y then .yield g else .nop g) = i) :
    ReadsBack i := by
  intro h t he'
  obtain ⟨rfl, rfl⟩ := Prod.mk.inj (Option.some.inj (he.symm.trans he'))
  exact (decode_encHead_hint (op := 0) 0 (by decide) (by decide) hg).trans (congrArg _ ((decodeHint_bare g).trans hi))

theorem readsBack_hint {g : Guard} {op tl : BitVec 3} {tail : BitVec 96} (hw : wellFormed (.hint g op tl tail) = true) :
    ReadsBack (.hint g op tl tail) := by
  intro h t he
  obtain ⟨rfl, rfl⟩ := Prod.mk.inj (Option.some.inj he)
  have hw' : (g.ok && tl != 7#3 && !(op == 0#3 && tl == 0#3) && decide (tail.toNat < 2 ^ (16 * tl.toNat))) = true := hw
  simp only [Bool.and_eq_true, Bool.not_eq_true', bne_iff_ne, Bool.and_eq_false_iff, beq_eq_false_iff_ne] at hw'
  obtain ⟨⟨⟨hg, htl⟩, hbare⟩, -⟩ := hw'
  have hop := headOp_encHead (0xF0 + op.toNat) tl g (by omega)
  have hnot : ¬ (0xF0 + op.toNat = 0xF0 ∧ tl.toNat = 0) := by
    rintro ⟨h0, h1⟩
    exact hbare.elim (· (BitVec.eq_of_toNat_eq (by simpa using h0))) (· (BitVec.eq_of_toNat_eq h1))
  have hop3 : BitVec.ofNat 3 (0xF0 + op.toNat) = op := BitVec.eq_of_toNat_eq (by simp; omega)
  rw [decode_encHead_hint tail op.isLt htl hg, decodeHint, hop, headTl_encHead, headGuard_encHead, if_neg hnot, hop3, BitVec.ofNat_toNat,
    BitVec.setWidth_eq]

-- ## Every instruction

theorem readsBack (i : Instr) (hw : wellFormed i = true) : ReadsBack i := by
  cases i with
  -- T2-rrr
  | add g d a b | sub g d a b | mul g d a b | mulh g d a b | mulhn g d a b | div g d a b | divn g d a b | rem g d a b | remn g d a b
  | and g d a b | or g d a b | xor g d a b | andn g d a b | orn g d a b | min g d a b | max g d a b | minn g d a b | maxn g d a b
  | shl g d a b | shr g d a b | sar g d a b | rot g d a b | park g d a b | claim g d a b | bankrole g d a b | launch g d a b
  | tlbinv g d a b | prtload g d a b | strmset g d a b | stappend g d a b | tickarm g d a b =>
    exact readsBack_eT2 hw hw rfl (by decide) fun t ⟨hd, ha, hb, _⟩ => by subst hd ha hb; rfl
  | clz g d a | ctz g d a | popc g d a | jr g d a | vcfg g d a | tshape g d a | lkwait g d a | slabst g d a
  | ctxsave g d a | ctxload g d a | rangerd g d a | tickoff g d a =>
    exact readsBack_eT2 hw hw rfl (by decide) fun t ⟨hd, ha, _, _⟩ => by subst hd ha; rfl
  | cbload g a => exact readsBack_eT2 hw hw rfl (by decide) fun t ⟨_, ha, _, _⟩ => by subst ha; rfl
  | pubh g a b => exact readsBack_eT2 hw hw rfl (by decide) fun t ⟨_, ha, hb, _⟩ => by subst ha hb; rfl
  | setvl g d a | setvlW g d a b =>
    exact readsBack_eT2 hw hw rfl (by decide) fun t r => by simp [parse, parseVector, r.fx, r.fd, r.fa, r.fb]
  -- T0
  | ret g | eret g | endStrand g | barCl g => exact readsBack_eT0 hw hw rfl (by decide) rfl
  -- T4-rri
  | addi g d a imm | andi g d a imm | ori g d a imm | xori g d a imm =>
    exact readsBack_eRri hw hw rfl (by decide) fun t r => by
      rw [← r.fd, ← r.fa, ← r.fimm]; rfl
  | lpc g d imm => exact readsBack_eRri hw hw rfl (by decide) fun t r => by rw [← r.fd, ← r.fimm]; rfl
  | sys g imm | trap g imm => exact readsBack_eRri hw hw rfl (by decide) fun t r => by rw [← r.fimm]; rfl
  | csrwr g d csr a | csrset g d csr a | csrclr g d csr a | csrrd g d csr =>
    exact readsBack_eRri hw hw rfl (by decide) fun t r => by
      simp [parse, parseScalar, r.fd, r.fa, r.flow12, BitVec.extractLsb'_setWidth_of_le, BitVec.extractLsb'_eq_self]
  | ext g d a ty =>
    exact readsBack_eRri hw (Bool.and_elim_left hw) rfl (by decide) fun t r =>
      parse_ext (Bool.and_elim_left (Bool.and_elim_left (Bool.and_elim_right hw))) r
  | bfx g d a pos len1 sx => exact readsBack_eRri hw (Bool.and_elim_left hw) rfl (by decide) fun t r => parse_bfx r
  | bfi g d a pos len1 => exact readsBack_eRri hw (Bool.and_elim_left hw) rfl (by decide) fun t r => parse_bfi r
  | cmpi g cc d a imm => exact readsBack_eRri hw hw rfl (by decide) fun t r => parse_cmpi r
  -- T4-br
  | br g dl sl | jal g dl sl => exact readsBack_eBr hw hw rfl (by decide) fun t ⟨hd, hs, _⟩ => by subst hd hs; rfl
  | dbnz g c dl sl => exact readsBack_eBr hw hw rfl (by decide) fun t ⟨hd, hs, hc⟩ => by subst hd hs hc; rfl
  -- T4-rrrf
  | fadd g f rm d a b | fsub g f rm d a b | fmul g f rm d a b | fma g f rm d a b c | fdiv g f rm d a b | fsqrt g f rm d a =>
    exact readsBack_eRrrf hw hw rfl (by decide) fun t r => by
      simp [parse, parseScalar, pF3_eq _ r, r.fc]
  | sel g d a b c =>
    exact readsBack_eRrrf hw hw rfl (by decide) fun t r => by
      simp [parse, parseScalar, r.fd, r.fa, r.fb, r.fc3, extract3_reg3]
  | lea g d a b sh => exact readsBack_eRrrf hw hw rfl (by decide) fun t r => parse_lea r
  | cmp g cc d a b => exact readsBack_eRrrf hw hw rfl (by decide) fun t r => parse_cmp r
  | pop g op d a b => exact readsBack_eRrrf hw (Bool.and_elim_left hw) rfl (by decide) fun t r => parse_pop r
  | fmin g f d a b | fmax g f d a b | fclass g f d a =>
    exact readsBack_eRrrf hw hw rfl (by decide) fun t r => by
      simp [parse, parseScalar, r.ffmt, r.fd, r.fa, r.fb]
  | fcmp g f cc d a b => exact readsBack_eRrrf hw hw rfl (by decide) fun t r => parse_fcmp r
  | fcvt g dty sty rm d a => exact readsBack_eRrrf hw (Bool.and_elim_left hw) rfl (by decide) fun t r => parse_fcvt r
  | vfenceSv g | vfenceVs g | vfenceAll g =>
    exact readsBack_eRrrf hw hw rfl (by decide) fun t r => by simp [parse, parseMemory, r.ffn9]
  -- T10-li
  | li g d imm =>
    obtain ⟨hd, hi⟩ := fields_packLi d imm
    exact readsBack_of_parse rfl (by decide) hw hw (by simp only [parse, parseScalar, hd, hi]; rfl)
  -- T6-v
  | vadd g ty d a b m | vsub g ty d a b m | vmul g ty d a b m | vmulh g ty d a b m | vmin g ty d a b m | vmax g ty d a b m
  | vand g ty d a b m | vor g ty d a b m | vxor g ty d a b m | vshl g ty d a b m | vshr g ty d a b m | vsar g ty d a b m
  | vadds g ty d a b m | vsubs g ty d a b m =>
    exact readsBack_eV hw (Bool.and_elim_left hw) rfl (by decide) fun t r => pBin_eq _ r
  | vfmin g ty d a b m | vfmax g ty d a b m =>
    exact readsBack_eV hw (Bool.and_elim_left (Bool.and_elim_left hw)) rfl (by decide) fun t r => pBin_eq _ r
  | vslideUp g ty d a b m | vslideDown g ty d a b m =>
    exact readsBack_eV hw (Bool.and_elim_left (Bool.and_elim_left (Bool.and_elim_left hw))) rfl (by decide) fun t r => by
      simp [parse, parseVector, r.ffn8, pBin_eq _ r]
  | vabs g ty d a m | vneg g ty d a m => exact readsBack_eV hw (Bool.and_elim_left hw) rfl (by decide) fun t r => pUn_eq _ r
  | vcompress g ty d a m | vexpand g ty d a m =>
    exact readsBack_eV hw (Bool.and_elim_left (Bool.and_elim_left hw)) rfl (by decide) fun t r => pUn_eq _ r
  | vadc g ty d a b mo mi | vsbc g ty d a b mo mi => exact readsBack_eV hw (Bool.and_elim_left hw) rfl (by decide) fun t r => pCarry_eq _ r
  | vfadd g ty rm d a b m | vfsub g ty rm d a b m | vfmul g ty rm d a b m | vfdiv g ty rm d a b m =>
    exact readsBack_eV hw (Bool.and_elim_left (Bool.and_elim_left hw)) rfl (by decide) fun t r => pFbin_eq _ r
  | vfma g ty rm d a b c m =>
    exact readsBack_eV hw (Bool.and_elim_left (Bool.and_elim_left hw)) rfl (by decide) fun t r => by simp [parse, parseVector, pFbin_eq _ r, r.fc]
  | vfsqrt g ty rm d a m | vfrcp g ty rm d a m | vfrsq g ty rm d a m | vfexp2 g ty rm d a m | vflog2 g ty rm d a m =>
    exact readsBack_eV hw (Bool.and_elim_left hw) rfl (by decide) fun t r => pFun_eq _ r
  | vredmax g ty d a st m | vredmin g ty d a st m | vredand g ty d a st m | vredor g ty d a st m =>
    exact readsBack_eV hw (Bool.and_elim_left hw) rfl (by decide) fun t r => pRed_eq _ r
  | vredsumF g ty rm d a st m | vredsumC g ty rm d a st m =>
    exact readsBack_eV hw (Bool.and_elim_left (Bool.and_elim_left hw)) rfl (by decide) fun t r => by
      simp [parse, parseVector, r.fty, tyOf_tyCode, r.frm, rmOf_rmCode, r.fStart_eq, r.ffn8, r.fd, r.fa, r.fm]
  | vredsumCs g ty rm d a st c m =>
    exact readsBack_eV hw (Bool.and_elim_left hw) rfl (by decide) fun t r => by
      simp [parse, parseVector, r.fty, tyOf_tyCode, r.frm, rmOf_rmCode, r.fStart_eq, r.ffn8, r.fd, r.fa, r.fc, r.fm]
  | vscan g op ty rm d a st m => exact readsBack_eV hw (Bool.and_elim_left (Bool.and_elim_left hw)) rfl (by decide) fun t r => parse_vscan r
  | vfclamp g ty d a sc lo hi m => exact readsBack_eV hw (Bool.and_elim_left hw) rfl (by decide) fun t r => parse_vfclamp r
  | vfcvt g dty sty rm d a m =>
    exact readsBack_eV hw (Bool.and_elim_left (Bool.and_elim_left (Bool.and_elim_left hw))) rfl (by decide) fun t r => parse_vfcvt r
  | vquant g ty d a e m =>
    exact readsBack_eV hw (Bool.and_elim_left (Bool.and_elim_left (Bool.and_elim_left (Bool.and_elim_left hw)))) rfl (by decide) fun t r => by
      simp [parse, parseVector, r.fty, tyOf_tyCode, r.fd, r.fa, r.fc, r.fm]
  | vdequant g ty d a e m =>
    exact readsBack_eV hw (Bool.and_elim_left (Bool.and_elim_left (Bool.and_elim_left hw))) rfl (by decide) fun t r => by
      simp [parse, parseVector, r.fty, tyOf_tyCode, r.fd, r.fa, r.fc, r.fm]
  | vcmp g cc ty d a b m => exact readsBack_eV hw (Bool.and_elim_left hw) rfl (by decide) fun t r => parse_vcmp r
  | vfcmp g cc ty d a b m => exact readsBack_eV hw (Bool.and_elim_left (Bool.and_elim_left hw)) rfl (by decide) fun t r => parse_vfcmp r
  | mop g op d a b => exact readsBack_eV hw (Bool.and_elim_left hw) rfl (by decide) fun t r => parse_mop r
  | mshup g d a b c | mshdn g d a b c =>
    exact readsBack_eV hw hw rfl (by decide) fun t r => by
      simp [parse, parseVector, r.fd3, r.fa3, extract3_reg3, r.fb, r.fc]
  | mpop g d a | mfirst g d a =>
    exact readsBack_eV hw hw rfl (by decide) fun t r => by simp [parse, parseVector, r.fd, r.fa3, extract3_reg3]
  | vperm g ty d a b m =>
    exact readsBack_eV hw (Bool.and_elim_left (Bool.and_elim_left (Bool.and_elim_left hw))) rfl (by decide) fun t r => by
      simp [parse, parseVector, r.fty, tyOf_tyCode, r.fd, r.fa, r.fb, r.fm]
  | vbcast g ty d b m =>
    exact readsBack_eV hw (Bool.and_elim_left (Bool.and_elim_left (Bool.and_elim_left hw))) rfl (by decide) fun t r => by
      simp [parse, parseVector, r.fty, tyOf_tyCode, r.fBop_eq, r.fd, r.fm]
  | vmvs g ty d a i | vsv g ty d a i =>
    exact readsBack_eV hw (Bool.and_elim_left hw) rfl (by decide) fun t r => by
      simp [parse, parseVector, r.fty, tyOf_tyCode, r.fBop_eq, r.fd, r.fa]
  | vid g ty d m =>
    exact readsBack_eV hw (Bool.and_elim_left hw) rfl (by decide) fun t r => by simp [parse, parseVector, r.fty, tyOf_tyCode, r.fd, r.fm]
  | vsmax g d a sm sl sk m =>
    exact readsBack_eV hw (Bool.and_elim_left (Bool.and_elim_left (Bool.and_elim_left hw))) rfl (by decide) fun t r => by
      simp [parse, parseVector, r.fd, r.fa, r.fb, r.fc, r.fimm5, r.fm, BitVec.extractLsb'_setWidth_of_le, BitVec.extractLsb'_eq_self]
  | vwait g d a b c m =>
    exact readsBack_eV hw (Bool.and_elim_left hw) rfl (by decide) fun t r => by
      simp [parse, parseMemory, r.fBop_eq, r.fd3, extract3_reg3, r.fa, r.fc, r.fm]
  | vop g f d a b r1 => exact readsBack_eV hw hw rfl (by decide) fun t r => parse_vop r
  | vopm g f d a b c r1 => exact readsBack_eV hw hw rfl (by decide) fun t r => parse_vopm r
  | vopz g d => exact readsBack_eV hw hw rfl (by decide) fun t r => by simp [parse, parseMemory, r.fd2, extract2_reg2]
  | vopr g d a row mo m =>
    exact readsBack_eV hw (Bool.and_elim_left hw) rfl (by decide) fun t r => by
      simp [parse, parseMemory, r.fBop_eq, r.fd, r.fa2, extract2_reg2, r.fc3, extract3_reg3, r.fm]
  | mkiv g d a => exact readsBack_eV hw hw rfl (by decide) fun t r => by simp [parse, parseMemory, r.fd2, extract2_reg2, r.fa]
  | vdrn g d c => exact readsBack_eV hw hw rfl (by decide) fun t r => by simp [parse, parseMemory, r.fd, r.fc]
  -- T8-vm
  | vld g ty tyv d a off m | vldff g ty tyv d a off m | vst g ty tyv d a off m =>
    exact readsBack_eVm hw (Bool.and_elim_left hw) rfl (by decide) fun t r => pMem_eq _ r
  | vlds g ty tyv d a b off m | vldx g ty tyv d a b off m | vsts g ty tyv d a b off m =>
    exact readsBack_eVm hw (Bool.and_elim_left hw) rfl (by decide) fun t r => pMemB_eq _ r
  | vldseg g ty tyv d a nf off m | vstseg g ty tyv d a nf off m =>
    exact readsBack_eVm hw (Bool.and_elim_left (Bool.and_elim_left hw)) rfl (by decide) fun t r => pSeg_eq _ r
  | vstx g ty tyv o d a b off m =>
    exact readsBack_eVm hw (Bool.and_elim_left hw) rfl (by decide) fun t r => by simp [parse, parseMemory, r.fOrd_eq, pMemB_eq _ r]
  | vsadd g ty sc o d a b off m =>
    exact readsBack_eVm hw (Bool.and_elim_left (Bool.and_elim_left hw)) rfl (by decide) fun t r => by
      simp [parse, parseMemory, r.fOrd_eq, r.fty, tyOf_tyCode, r.fscp, scopeOf_scopeCode, r.fd, r.fa, r.fb, r.foff, r.fm]
  | ld g ty d a off | st g ty d a off => exact readsBack_eVm hw (Bool.and_elim_left hw) rfl (by decide) fun t r => pLdSt_eq _ r
  | ldfeKeep g ty d a off | ldfeClr g ty d a off | stfeFill g ty d a off | stfeWait g ty d a off =>
    exact readsBack_eVm hw (Bool.and_elim_left hw) rfl (by decide) fun t r => by simp [parse, parseSystem, r.ffn4, pLdSt_eq _ r]
  | cpwait g sc d a ch =>
    exact readsBack_eVm hw (Bool.and_elim_left hw) rfl (by decide) fun t r => by
      simp [parse, parseMemory, r.fscp, scopeOf_scopeCode, r.fd, r.fa, r.foff2, BitVec.extractLsb'_setWidth_of_le, BitVec.extractLsb'_eq_self]
  | phase g sc | rel g sc | acq g sc =>
    exact readsBack_eVm hw hw rfl (by decide) fun t r => by simp [parse, parseSystem, r.fscp, scopeOf_scopeCode]
  | amoadd g ty sc q l d a b off | amofadd g ty sc q l d a b off | amomin g ty sc q l d a b off | amomax g ty sc q l d a b off
  | amoand g ty sc q l d a b off | amoor g ty sc q l d a b off | amoxor g ty sc q l d a b off | amoswap g ty sc q l d a b off
  | amocas g ty sc q l d a b off =>
    exact readsBack_eVm hw (Bool.and_elim_left (Bool.and_elim_left hw)) rfl (by decide) fun t r => pAmo_eq _ r
  | mcst g ty d a b off | rld g ty d a b off =>
    exact readsBack_eVm hw (Bool.and_elim_left hw) rfl (by decide) fun t r => by
      simp [parse, parseSystem, r.fty, tyOf_tyCode, r.fd, r.fa, r.fb, r.foff]
  | colwait g sc d a =>
    exact readsBack_eVm hw (Bool.and_elim_left hw) rfl (by decide) fun t r => by simp [parse, parseSystem, r.fscp, scopeOf_scopeCode, r.fd, r.fa]
  -- T12-eng
  | tbuild g ng a b c => exact readsBack_eEng hw hw rfl (by decide) fun t r => parse_tbuild r
  | lkaccOw g d a b c | lkaccAcc g d a b c =>
    exact readsBack_eEng hw hw rfl (by decide) fun t r => by
      simp [parse, parseMemory, r.part0 0 2 (by decide), r.fd, r.fa, r.fb, r.fc]
  | lkaccDrn g d a fc n => exact readsBack_eEng hw hw rfl (by decide) fun t r => parse_lkaccDrn r
  | slabgrow g d a b z ch => exact readsBack_eEng hw hw rfl (by decide) fun t r => parse_slabgrow r
  | slabgrowRetire g d a => exact readsBack_eEng hw hw rfl (by decide) fun t r => parse_slabgrowRetire r
  | rangeset g d a b c slot v hc => exact readsBack_eEng hw hw rfl (by decide) fun t r => (parse_rangeset r).1 rfl
  | rangesetQ g d a b c slot v hc => exact readsBack_eEng hw hw rfl (by decide) fun t r => (parse_rangeset r).2 rfl
  -- the hint space
  | nop g =>
    have hy : (!g.y) = true := Bool.and_elim_right hw
    exact readsBack_bare (Bool.and_elim_left hw) rfl (if_neg (by simpa using hy))
  | yield g => exact readsBack_bare (Bool.and_elim_left hw) rfl (if_pos (Bool.and_elim_right hw))
  | hint g op tl tail => exact readsBack_hint hw
  | _ => intro h t he; cases he

/-- Settles O55: every well-formed instruction that has words reads back from them. -/
theorem decodeReadsEncode : Obligations.DecodeReadsEncode :=
  fun i h t hw he => readsBack i hw h t he

end Sys2Proof.Encoding
end

section
/-! PROOFS. Control transfers, CSR instructions, hints, `park`, `end` and the boundaries of phases (O6, O7, O12, O30). -/

namespace Sys2Proof.ScalarFlow

open Sys2Proof.Machine Sys2Proof.Laws

-- ## The frame of a ready scalar instruction

/-- An instruction that reads nothing meets no register-file error. -/
theorem upsetValue_nil (t : Strand) : upsetValue t [] [] = none := by
  have h : t.upsets.find? (fun _ => false) = none := List.find?_eq_none.mpr (by simp)
  simp [upsetValue, h]

/-- The predicates of a guard and no registers: ready means that the guard is true and readable. -/
theorem ready_of_guard {g : Guard} {s : State} (hg : guardOn g s.strand = true) (hu : upsetValue s.strand [] [g.p] = none) :
    Ready g [] [] [] s :=
  ⟨hg, rfl, hu, upsetValue_nil _⟩

/-- A ready instruction whose check passes is one without a check. -/
theorem scalarOp_checked {g : Guard} {rs ws : List (BitVec 5)} {ps : List (BitVec 3)} {pre : M Unit} {work : M Word} {s : State}
    (hp : pre s = .ok () s) : scalarOp g rs ws ps pre work s = scalarOp g rs ws ps noCheck work s := by
  simp only [scalarOp, hp, noCheck]

/-- A failed check comes before the guard. -/
theorem scalarOp_checkTraps {g : Guard} {rs ws : List (BitVec 5)} {ps : List (BitVec 3)} {pre : M Unit} {work : M Word} {s s1 : State}
    {c : Cause} {v : Word} (hp : pre s = .error (.trap c v) s1) :
    scalarOp g rs ws ps pre work s = .next (raiseScalar c v s.strand.pc s1) := by
  simp only [scalarOp, hp]

/-- A check that waits comes before the guard. -/
theorem scalarOp_checkWaits {g : Guard} {rs ws : List (BitVec 5)} {ps : List (BitVec 3)} {pre : M Unit} {work : M Word} {s s1 : State}
    {k : WaitKind} (hp : pre s = .error (.wait k) s1) : scalarOp g rs ws ps pre work s = .next (waitScalar k s1) := by
  simp only [scalarOp, hp]

/-- The work of a ready instruction answers where the stream goes on. -/
theorem scalarOp_goes {g : Guard} {rs ws : List (BitVec 5)} {ps : List (BitVec 3)} {work : M Word} {s s1 : State} {a : Word}
    (h : Ready g rs ws ps s) (hw : work s = .ok a s1) : scalarOp g rs ws ps noCheck work s = .next (mapStrand (goTo a) s1) := by
  rw [scalarOp_ready h, hw]

/-- The work of a ready instruction traps. -/
theorem scalarOp_traps {g : Guard} {rs ws : List (BitVec 5)} {ps : List (BitVec 3)} {work : M Word} {s s1 : State} {c : Cause} {v : Word}
    (h : Ready g rs ws ps s) (hw : work s = .error (.trap c v) s1) :
    scalarOp g rs ws ps noCheck work s = .next (raiseWith s.strand.fflags c v s.strand.pc s1) := by
  rw [scalarOp_ready h, hw]

/-- The work of a ready instruction waits. -/
theorem plainOp_waits {g : Guard} {rs ws : List (BitVec 5)} {ps : List (BitVec 3)} {work : M Unit} {s s1 : State} {k : WaitKind}
    (h : Ready g rs ws ps s) (hw : work s = .error (.wait k) s1) : plainOp g rs ws ps work s = .next (waitScalar k s1) := by
  simp only [plainOp, scalarOp_ready h, thenNext, hw]

-- ## Transfers (R38, R87 to R89)

/-- A target that passes its check is entered. -/
theorem enterLine_reaches {s s1 : State} {a : Word} {p : Pass} (h : Reaches s a p s1) :
    enterLine a s = .ok () (mapStrand (fun t => { t with pass := some p }) s1) := by
  unfold Reaches at h
  simp only [enterLine, h]

/-- A target that fails its check ends the transfer with what the check raises. -/
theorem enterLine_stops {s s1 : State} {a : Word} {e : Stop} (h : targetCheck (priv s.strand) a s = .error e s1) :
    enterLine a s = .error e s1 := by
  simp only [enterLine, h]

/-- An address that is not the form of an instruction address, or lies beyond the address space, is no target (R27, R30). -/
theorem targetCheck_badForm {sup : Bool} {a : Word} {s : State}
    (h : a.toNat % 2 ≠ 0 ∨ a.toNat % 64 < 2 ∨ a.toNat / 2 ^ 57 ≠ 0) : targetCheck sup a s = .error (.trap .badTarget a) s := by
  have hb : (!addrForm a || a.toNat / 2 ^ 57 != 0) = true := by
    rcases h with h | h | h
    · simp [addrForm, h]
    · simp [addrForm, Nat.not_le.mpr h]
    · rw [bne_iff_ne.mpr h, Bool.or_true]
  simp only [targetCheck, targetCheckFor, hb, if_true]

/-- The target of R38 as the statement writes it. -/
theorem branchTarget_eq (pc : Word) (dl : BitVec 24) (sl : BitVec 5) :
    branchTarget pc dl sl = (pc &&& ~~~63#64) + dl.signExtend 64 * 64 + 2 + 2 * sl.setWidth 64 := rfl

/-- A near target lies in the slot that SL names, whatever the line (R38). -/
theorem near_slot (pc : Word) (dl : BitVec 24) (sl : BitVec 5) :
    ((pc &&& ~~~63#64) + dl.signExtend 64 * 64 + 2 + 2 * sl.setWidth 64).toNat % 64 = (2 + 2 * sl.toNat) % 64 := by
  have hl : (pc &&& ~~~63#64).toNat % 64 = 0 := by
    rw [BitVec.toNat_and]
    exact (Nat.and_mod_two_pow (n := 6)).trans (Nat.and_zero _)
  have hs : (sl.setWidth 64).toNat = sl.toNat := by simp; omega
  simp only [BitVec.toNat_add, BitVec.toNat_mul, hs]
  have h2 : (2#64).toNat = 2 := rfl
  have h64 : (64#64).toNat = 64 := rfl
  simp only [BitVec.ofNat_eq_ofNat, h2, h64] at *
  omega

/-- What each transfer does with its target, `f` being its effect on registers behind the check. -/
structure Transfers (i : Instr) (tgt : Word) (f : Strand → Strand) (s : State) : Prop where
  enters : ∀ p s1, Reaches s tgt p s1 → exec i s = .next (mapStrand (fun t => goTo tgt (f { t with pass := some p })) s1)
  stops : ∀ c v s1, targetCheck (priv s.strand) tgt s = .error (.trap c v) s1 →
    exec i s = .next (raiseWith s.strand.fflags c v s.strand.pc s1)

/-- A transfer whose work is the check followed by `f` on the strand. -/
theorem transfers_of_work {i : Instr} {tgt : Word} {f : Strand → Strand} {s : State} {g : Guard} {rs ws : List (BitVec 5)} {work : M Word}
    (h : Ready g rs ws [] s) (hx : exec i s = scalarOp g rs ws [] noCheck work s)
    (hok : ∀ s1, enterLine tgt s = .ok () s1 → work s = .ok tgt (mapStrand f s1))
    (herr : ∀ e s1, enterLine tgt s = .error e s1 → work s = .error e s1) : Transfers i tgt f s where
  enters _ _ hr := hx.trans (scalarOp_goes h (hok _ (enterLine_reaches hr)))
  stops _ _ _ hc := hx.trans (scalarOp_traps h (herr _ _ (enterLine_stops hc)))

/-- A bad form of a target raises *bad target* with it (R30). -/
theorem Transfers.badForm {i : Instr} {tgt : Word} {f : Strand → Strand} {s : State} (h : Transfers i tgt f s)
    (hb : tgt.toNat % 2 ≠ 0 ∨ tgt.toNat % 64 < 2 ∨ tgt.toNat / 2 ^ 57 ≠ 0) :
    exec i s = .next (raiseScalar .badTarget tgt s.strand.pc s) :=
  h.stops _ _ _ (targetCheck_badForm hb)

section
variable {g : Guard} {d a : BitVec 5} {c : BitVec 3} {dl : BitVec 24} {sl : BitVec 5} {s : State}

theorem bind_ok {α β : Type} {m : M α} {f : α → M β} {s s1 : State} {x : α} (h : m s = .ok x s1) : (m >>= f) s = f x s1 := by
  show EStateM.bind m f s = _
  simp only [EStateM.bind, h]

theorem bind_error {α β : Type} {m : M α} {f : α → M β} {s s1 : State} {e : Stop} (h : m s = .error e s1) : (m >>= f) s = .error e s1 := by
  show EStateM.bind m f s = _
  simp only [EStateM.bind, h]

theorem br_transfers (h : Ready g [] [] [] s) : Transfers (.br g dl sl) (branchTarget s.strand.pc dl sl) id s :=
  transfers_of_work h rfl (fun _ he => bind_ok (m := enterLine _) he) (fun _ _ he => bind_error (m := enterLine _) he)

theorem ret_transfers (h : Ready g [1] [] [] s) : Transfers (.ret g) (getS s.strand 1) id s :=
  transfers_of_work h rfl (fun _ he => bind_ok (m := enterLine _) he) (fun _ _ he => bind_error (m := enterLine _) he)

theorem jal_transfers (h : Ready g [] [1] [] s) :
    Transfers (.jal g dl sl) (branchTarget s.strand.pc dl sl) (fun t => setS t 1 (successor s.strand)) s :=
  transfers_of_work h rfl (fun _ he => bind_ok (m := enterLine _) he) (fun _ _ he => bind_error (m := enterLine _) he)

theorem jr_transfers (h : Ready g [a] [d] [] s) :
    Transfers (.jr g d a) (getS s.strand a) (fun t => setS t d (successor s.strand)) s :=
  transfers_of_work h rfl (fun _ he => bind_ok (m := enterLine _) he) (fun _ _ he => bind_error (m := enterLine _) he)

/-- Loops are counted in a register that no operand of the transfer changes before the check. -/
theorem dbnz_transfers (h : Ready g [counterReg c] [counterReg c] [] s) (hc : getS s.strand (counterReg c) ≠ 1) :
    Transfers (.dbnz g c dl sl) (branchTarget s.strand.pc dl sl)
      (fun t => setS t (counterReg c) (getS s.strand (counterReg c) - 1)) s := by
  have hn : ¬ getS s.strand (counterReg c) - 1#64 = 0 := fun h0 => hc (sub_eq_zero.mp h0)
  refine transfers_of_work h rfl (fun s1 he => ?_) (fun e s1 he => ?_)
  · rw [bind_ok (m := ask _) (x := _) rfl, if_neg hn]
    exact bind_ok (m := enterLine _) he
  · rw [bind_ok (m := ask _) (x := _) rfl, if_neg hn]
    exact bind_error (m := enterLine _) he

/-- A counter that becomes 0 falls through (R89). -/
theorem dbnz_ends (h : Ready g [counterReg c] [counterReg c] [] s) (hc : getS s.strand (counterReg c) = 1) :
    exec (.dbnz g c dl sl) s = .next (doneWith (fun t => setS t (counterReg c) 0) s) := by
  refine scalarOp_goes h ?_
  rw [bind_ok (m := ask _) (x := _) rfl, if_pos (by rw [hc]; rfl)]
  rfl

end

/-- Settles O6: every transfer is its check, followed by its link or its counter. -/
theorem transferResults : Obligations.TransferResults := by
  unfold Obligations.TransferResults
  refine ⟨fun g d a c dl sl p s s1 => ⟨fun h hr => (br_transfers h).enters p s1 hr, fun h hr => (jal_transfers h).enters p s1 hr,
    fun h hr => (jr_transfers h).enters p s1 hr, fun h hr => (ret_transfers h).enters p s1 hr,
    fun h hc hr => (dbnz_transfers h hc).enters p s1 hr, fun h hc => dbnz_ends h hc⟩, ?_⟩
  intro g d a c dl sl s near ctr bad
  have all {i : Instr} {tgt : Word} {f : Strand → Strand} (h : Transfers i tgt f s) : bad i tgt := ⟨h.badForm, h.stops⟩
  exact ⟨near_slot _ dl sl, fun h => all (br_transfers h), fun h => all (jal_transfers h), fun h => all (jr_transfers h),
    fun h => all (ret_transfers h), fun h hc => all (dbnz_transfers h hc)⟩

-- ## CSRs (R14, R90, R91)

section
variable {g : Guard} {d a : BitVec 5} {n : BitVec 12} {s : State}

/-- A CSR instruction that names a CSR it may name passes the check (R14). -/
theorem csrCheck_passes (i : Instr) {k : Nat} (ha : csrAssigned k = true) (hp : 0x100 ≤ k ∧ k ≤ 0x1FF → priv s.strand = true) :
    csrCheck i k s = .ok () s := by
  have h : ¬ (0x100 ≤ k ∧ k ≤ 0x1FF ∧ (!priv s.strand) = true) := fun ⟨h1, h2, h3⟩ => by simp [hp ⟨h1, h2⟩] at h3
  simp only [csrCheck, ha, Bool.not_true, Bool.false_eq_true, if_false, if_neg h]

/-- The waits of a CSR instruction, when none of them holds. -/
theorem csrWait_passes {k : Nat} {r w : Bool} (hf : k = 0x010 → s.strand.vq = []) (hb : csrBusy s.strand k = false)
    (hw : w = true → k = 0x203 ∨ k = 0x205 → s.strand.vq = []) : csrWait k r w s = .ok () s := by
  have h1 : ¬ (k = 0x010 ∧ (!s.strand.vq.isEmpty) = true) := fun ⟨h, he⟩ => by simp [hf h] at he
  have h3 : ¬ (w = true ∧ (k = 0x203 ∨ k = 0x205) ∧ (!s.strand.vq.isEmpty) = true) := fun ⟨h, h', he⟩ => by simp [hw h h'] at he
  simp only [csrWait, if_neg h1, hb, Bool.false_eq_true, and_false, if_false, if_neg h3]

/-- What `csrrd` leaves (R90). -/
theorem csrReadWork_ok {hd : Word} {k : Nat} (hl : csrLaunches k = false) (hf : k = 0x010 → s.strand.vq = [])
    (hb : csrBusy s.strand k = false) :
    csrReadWork hd k d s = .ok () (mapStrand (fun t => setS t d (csrValue s k)) (csrLatch k s)) := by
  have h510 : k ≠ 0x510 := fun h => by simp [csrLaunches, h] at hl
  rw [csrReadWork, if_neg h510, if_neg (by simp [hl]), bind_ok (csrWait_passes hf hb (by simp))]
  rfl

/-- What a CSR write leaves (R90). -/
theorem csrWriteWork_ok {k : Nat} {reads : Bool} {f : Word → Word → Word} (hl : csrLaunches k = false)
    (hf : k = 0x010 → s.strand.vq = []) (hb : csrBusy s.strand k = false) (hw : k = 0x203 ∨ k = 0x205 → s.strand.vq = []) :
    csrWriteWork k reads d a f s =
      let old := if reads then csrValue s k else 0
      .ok () (mapStrand (fun t => setS (csrStore k (f old (getS s.strand a)) (getS s.strand a) t) d old)
        (if d = 0 then s else csrLatch k s)) := by
  rw [csrWriteWork, if_neg (by simp [hl]), bind_ok (csrWait_passes hf hb fun _ => hw)]
  rfl

/-- A CSR write that passes its checks and waits (R90). -/
theorem csrWrite_done {i : Instr} {reads : Bool} {f : Word → Word → Word} (h : Ready g [a] [d] [] s) (ha : csrAssigned n.toNat = true)
    (hl : csrLaunches n.toNat = false) (hp : 0x100 ≤ n.toNat ∧ n.toNat ≤ 0x1FF → priv s.strand = true)
    (hf : n.toNat = 0x010 → s.strand.vq = []) (hb : csrBusy s.strand n.toNat = false)
    (hw : n.toNat = 0x203 ∨ n.toNat = 0x205 → s.strand.vq = [])
    (hx : exec i s = scalarOp g [a] [d] [] (csrCheck i n.toNat) (thenNext (csrWriteWork n.toNat reads d a f)) s) :
    exec i s =
      let old := if reads then csrValue s n.toNat else 0
      .next (doneWith (fun t => setS (csrStore n.toNat (f old (getS s.strand a)) (getS s.strand a) t) d old)
        (if d = 0 then s else csrLatch n.toNat s)) := by
  rw [hx, scalarOp_checked (csrCheck_passes i ha hp)]
  exact plainOp_ready h (csrWriteWork_ok hl hf hb hw)

end

/-- Settles O7: the check, the waits and the effect of each CSR instruction. -/
theorem csrResults : Obligations.CsrResults := by
  unfold Obligations.CsrResults
  constructor
  · intro g d a n s ha hl hp hf hb old x
    refine ⟨fun h => ?_, fun h hw => ⟨?_, ?_, ?_⟩⟩
    · show scalarOp g [] [d] [] (csrCheck _ _) (thenNext _) s = _
      rw [scalarOp_checked (csrCheck_passes _ ha hp)]
      exact plainOp_ready h (csrReadWork_ok hl hf hb)
    · have k := csrWrite_done (reads := d != 0) (i := .csrwr g d n a) (f := fun _ x => x) h ha hl hp hf hb hw rfl
      by_cases hd : d = 0 <;> simpa [hd] using k
    · exact csrWrite_done (reads := true) (i := .csrset g d n a) (f := fun o x => o ||| x) h ha hl hp hf hb hw rfl
    · exact csrWrite_done (reads := true) (i := .csrclr g d n a) (f := fun o x => o &&& ~~~x) h ha hl hp hf hb hw rfl
  · intro g d a n s i hi
    have hx : ∃ rs work, exec i s = scalarOp g rs [d] [] (csrCheck i n.toNat) work s := by
      simp only [List.mem_cons, List.not_mem_nil, or_false] at hi
      rcases hi with rfl | rfl | rfl | rfl <;> exact ⟨_, _, rfl⟩
    obtain ⟨rs, work, hx⟩ := hx
    refine ⟨fun ha => ?_, fun ha h1 h2 hp => ?_⟩
    · exact hx.trans (scalarOp_checkTraps (by simp [csrCheck, ha]))
    · exact hx.trans (scalarOp_checkTraps (by simp [csrCheck, ha, h1, h2, hp]))

-- ## Hints, `park` and `end` (R35, R41, R94, R95)

/-- The acting strand's place and number do not depend on its registers. -/
theorem acquireAt_setS (sc : Scope) (d : BitVec 5) (v : Word) (s : State) :
    acquireAt sc (mapStrand (fun t => setS t d v) s) =
      .ok () (acquireFor (me s) (myCluster s) (myCore s) sc (mapStrand (fun t => setS t d v) s)) := by
  simp [acquireAt, change, me, myCluster, myCore]

/-- No queued fence makes a scalar access wait. -/
theorem fenceWait_passes {s : State} (h : NoFence s) : fenceWait s = .ok () s := by
  unfold NoFence at h
  simp [fenceWait, h]

/-- The end of a strand is counted with its crew (R95). -/
theorem closeStrand_counts {s : State} {c : Crew} (hc : c ∈ s.crews) (hi : c.id = s.strand.crew) :
    { c with ended := insertN c.ended s.strand.idx.toNat } ∈ (closeStrand s).crews :=
  List.mem_map.mpr ⟨c, hc, if_pos hi⟩

/-- Settles O12: hints, `park` by the word that it reads, and `end` by its guard and the VQ. -/
theorem hintParkEndResults : Obligations.HintParkEndResults := by
  unfold Obligations.HintParkEndResults
  refine ⟨fun g op tl tail s h => ⟨plainOp_ready (work := noCheck) h rfl, plainOp_ready (work := endTurn true) h rfl,
    plainOp_ready (work := endTurn g.y) h rfl⟩, ?_, ?_⟩
  · intro g d a b v s s1 h hnf hv hs
    have hb : getS s1.strand b = getS s.strand b := by rw [hs]
    refine ⟨fun hne => plainOp_ready h ?_, fun heq => plainOp_waits h ?_⟩
    · rw [bind_ok (fenceWait_passes hnf)]
      refine (bind_ok (m := atomicRead _ _ _ _) hv).trans ?_
      refine (bind_ok (m := waitIf _ _) (x := ()) (s1 := s1) (by simp [waitIf, hb, hne])).trans ?_
      refine (acquireAt_setS .dm d (word v) s1).trans ?_
      simp only [me, myCluster, myCore, hs]
    · rw [bind_ok (fenceWait_passes hnf)]
      refine (bind_ok (m := atomicRead _ _ _ _) hv).trans ?_
      exact bind_error (m := waitIf _ _) (by simp [waitIf, hb, heq])
  · intro g s s1 hu
    refine ⟨fun hg hq hr => ⟨?_, rfl, fun c hc hi => closeStrand_counts hc hi⟩, fun hg hq => ?_, fun hg => ?_⟩
    · have hr' : releaseAt .dm s = .ok () s1 := hr
      show execEndStrand g s = _
      simp only [execEndStrand, hu, hg, if_true, hq, List.isEmpty_nil, Bool.not_true, Bool.false_eq_true, if_false, hr']
    · show execEndStrand g s = _
      simp [execEndStrand, hu, hg, hq]
    · show execEndStrand g s = _
      simp [execEndStrand, hu, hg]

-- ## Boundaries of phases (R34, R193, R194)

/-- The release of a boundary behind no older vector store. -/
theorem releaseAll_drained {sc : Scope} {s s1 : State} (ho : s.strand.vq.any entryStores = false)
    (hr : releaseFor (me s) sc s = .ok () s1) : releaseAll sc s = .ok () s1 := by
  have hr' : releaseAt sc s = .ok () s1 := hr
  simp [releaseAll, storesDrained, ho, hr']

/-- Older vector stores hold up a release. -/
theorem storesDrained_waits {s : State} (ho : s.strand.vq.any entryStores = true) : storesDrained s = .error (.wait .drain) s := by
  simp [storesDrained, ho]

section
variable {g : Guard} {order work : M Unit} {s s1 : State}

/-- A boundary whose guard is true is its work. -/
theorem boundaryOp_on (hg : guardOn g s.strand = true) : boundaryOp g order work s = plainOp g [] [] [] work s := by
  simp only [boundaryOp, hg, if_true, plainOp]

/-- A boundary whose guard is false orders the two streams and goes on. -/
theorem boundaryOp_off (hg : guardOn g s.strand = false) (hu : upsetValue s.strand [] [g.p] = none) (ho : order s = .ok () s) :
    boundaryOp g order work s = .next (advance (orderStores (me s) (2 ^ 64) s)) := by
  have hp : (do order; change fun s => orderStores (me s) (2 ^ 64) s : M Unit) s = .ok () (orderStores (me s) (2 ^ 64) s) :=
    bind_ok ho
  simp only [boundaryOp, hg, Bool.false_eq_true, if_false, scalarOp, hp, hu]

/-- A boundary waits for the older vector stores whatever its guard says. -/
theorem boundaryOp_waits (hu : upsetValue s.strand [] [g.p] = none) (ho : storesDrained s = .error (.wait .drain) s)
    (hw : work s = .error (.wait .drain) s) : boundaryOp g storesDrained work s = .next (waitScalar .drain s) := by
  by_cases hg : guardOn g s.strand = true
  · rw [boundaryOp_on hg]
    exact plainOp_waits (ready_of_guard hg hu) hw
  · unfold boundaryOp
    rw [if_neg hg]
    exact scalarOp_checkWaits (bind_error ho)

end

/-- Settles O30: what each boundary waits for, and its effect by its guard. -/
theorem boundaryResults : Obligations.BoundaryResults := by
  unfold Obligations.BoundaryResults
  intro g sc s s1 hu acquire older
  refine ⟨fun hg => ?_, fun hg ho hr => ?_, fun ho => ?_, fun hg => ⟨boundaryOp_off (order := noCheck) (work := acquireAt sc) hg hu rfl, fun ho => ?_⟩⟩
  · exact (boundaryOp_on hg).trans (plainOp_ready (work := acquireAt sc) (ready_of_guard hg hu) rfl)
  · have h := ready_of_guard hg hu
    have hw := releaseAll_drained ho hr
    exact ⟨(boundaryOp_on hg).trans (plainOp_ready h hw), (boundaryOp_on hg).trans (plainOp_ready h (bind_ok hw))⟩
  · have hd := storesDrained_waits ho
    have hr : releaseAll sc s = .error (.wait .drain) s := by simp [releaseAll, hd]
    exact ⟨boundaryOp_waits hu hd hr, boundaryOp_waits hu hd (bind_error hr)⟩
  · have hd : storesDrained s = .ok () s := by
      have ho' : s.strand.vq.any entryStores = false := ho
      simp [storesDrained, ho']
    exact ⟨boundaryOp_off hg hu hd, boundaryOp_off hg hu hd⟩

end Sys2Proof.ScalarFlow
end

section
/-! PROOFS. What a written CSR reads as (O8), and what reset leaves (O60). -/

namespace Sys2Proof.CsrState

open Sys2Proof.Machine Sys2Proof.Laws

-- ## The fields of a written CSR (R16, R229, R366)

/-- The set that CH names, after it was written (R229). -/
theorem copySetOf_writeCopySet (f : CopySet → CopySet) (t : Strand) : copySetOf (writeCopySet f t) = f (copySetOf t) := by
  simp [copySetOf, writeCopySet]

/-- A field keeps the low bits of the value written. -/
theorem setWidth_eq_word (v : Word) (k : Nat) : (v.setWidth k).setWidth 64 = word (v.toNat % 2 ^ k) := by
  apply BitVec.eq_of_toNat_eq
  simp [word]

/-- A field of 64 bits keeps the whole value. -/
theorem eq_word (v : Word) : v = word (v.toNat % 2 ^ 64) := by
  rw [Nat.mod_eq_of_lt v.isLt]
  exact (BitVec.ofNat_toNat 64 v ▸ BitVec.setWidth_eq v).symm

/-- The data registers of the copy set that CH names read as they were written. -/
theorem copySet_readsBack (v a : Word) (s : State) :
    ∀ p ∈ [(0x300, 57), (0x301, 57), (0x302, 48), (0x303, 63), (0x304, 63)],
      csrValue (mapStrand (csrStore p.1 v a) s) p.1 = word (v.toNat % 2 ^ p.2) := by
  simp only [List.forall_mem_cons, List.not_mem_nil, false_imp_iff, implies_true, and_true]
  refine ⟨?_, ?_, ?_, ?_, ?_⟩
  · exact congrArg CopySet.src (copySetOf_writeCopySet _ s.strand)
  · exact congrArg CopySet.dst (copySetOf_writeCopySet _ s.strand)
  · exact congrArg CopySet.ext (copySetOf_writeCopySet _ s.strand)
  · exact congrArg CopySet.sstr (copySetOf_writeCopySet _ s.strand)
  · exact congrArg CopySet.dstr (copySetOf_writeCopySet _ s.strand)

-- ## `STATUS` (R17, R101)

/-- A write of `STATUS` sets no bit but the enables and the mode bits. -/
theorem withModes_high (st : Word) (p q : Bool) (i : Nat) (hi : i = 7 ∨ 10 ≤ i) : (withModes st p q).getLsbD i = false := by
  have h7F : (0x7F#64).getLsbD i = false := by
    rw [show (0x7F#64) = BitVec.ofNat 64 (2 ^ 7 - 1) from rfl, BitVec.getLsbD_ofNat, Nat.testBit_two_pow_sub_one]
    simp only [Bool.and_eq_false_iff, decide_eq_false_iff_not]
    omega
  have hm : (word (b2n p * 2 ^ 8 + b2n q * 2 ^ 9)).getLsbD i = false := by
    rcases hi with rfl | hi
    · cases p <;> cases q <;> rfl
    · rw [word, BitVec.getLsbD_ofNat, Nat.testBit_lt_two_pow, Bool.and_false]
      have hp : b2n p ≤ 1 := by cases p <;> decide
      have hq : b2n q ≤ 1 := by cases q <;> decide
      exact lt_of_lt_of_le (b := 2 ^ 10) (by omega) (Nat.pow_le_pow_right (by decide) hi)
  rw [withModes, BitVec.getLsbD_or, BitVec.getLsbD_and, h7F, hm, Bool.and_false, Bool.false_or]

/-- Settles O8: by the field of each CSR. -/
theorem csrReadsBack : Obligations.CsrReadsBack := by
  unfold Obligations.CsrReadsBack
  refine fun v a s => ⟨?_, ⟨fun i hi => withModes_low _ _ _ i hi, withModes_priv _ _ _, ?_, fun i _ hi => withModes_high _ _ _ i hi⟩, ?_⟩
  · have hc := copySet_readsBack v a s
    simp only [List.forall_mem_cons, List.not_mem_nil, false_imp_iff, implies_true, and_true] at hc ⊢
    obtain ⟨h300, h301, h302, h303, h304⟩ := hc
    exact ⟨setWidth_eq_word v 6, setWidth_eq_word v 3, eq_word v, eq_word v, rfl, eq_word v, eq_word v, eq_word v, eq_word v,
      h300, h301, h302, h303, h304, rfl, rfl, rfl, eq_word v⟩
  · refine (withModes_ppriv _ _ _).trans ?_
    rfl
  · simp only [List.forall_mem_cons, List.not_mem_nil, false_imp_iff, implies_true, and_true]
    refine ⟨?_, ?_, ?_, ?_, ?_, ?_, ?_, ?_, ?_, ?_, ?_, ?_, ?_, ?_, ?_, ?_⟩ <;> rfl

-- ## Reset

/-- Settles O60: each table of the reset state is empty or holds its reset value at every place. -/
theorem resetValues : Obligations.ResetValues := by
  unfold Obligations.ResetValues
  refine ⟨rfl, rfl, rfl, rfl, rfl, rfl, fun _ => rfl, fun co b hb => ?_, fun cl b hb => ?_, fun _ _ => rfl, fun cl ch hch => ?_,
    fun cl k => ?_, fun r hr => ?_, ?_, fun k hk => ?_, fun k => ?_, rfl, rfl⟩
  · show CoreState.reset.banks[b]? = _
    simp [CoreState.reset, hb]
  · show ClusterState.reset.banks[b]? = _
    simp [ClusterState.reset, hb]
  · show (ClusterState.reset.reel[ch]?).getD Channel.reset = Channel.reset
    simp [ClusterState.reset, hch]
  · show ((ClusterState.reset.pairs[k]?).getD Pair.free).state = .free
    by_cases hk : k < 16 <;> simp [ClusterState.reset, hk, Pair.free]
  · have h : r ∈ State.reset.ranges := Vector.mem_toList_iff.mp hr
    rw [Vector.eq_of_mem_replicate h]
  · decide
  · show (nthD shippedProtos k protoEmpty).loaded = false
    obtain rfl | rfl | h8 : k = 6 ∨ k = 7 ∨ 8 ≤ k := by omega
    · rfl
    · rfl
    · rw [nthD, List.getElem?_eq_none h8]
      rfl
  · show (if h : k < 16 then State.reset.queues[k] else LaunchQueue.reset) = _
    split
    · simp [State.reset]
    · rfl

end Sys2Proof.CsrState
end

section
/-! PROOFS. How an instruction enters the VQ (O13), and what a step of a standing strand executes (O57). -/

namespace Sys2Proof.IssueAndStep

open Sys2Proof.Machine Sys2Proof.Laws

-- ## Entering the VQ (R19, R20, R33, R34)

section
variable {i : Instr} {g : Guard} {whole : Bool} {work : VqEntry → M Unit} {s : State}

/-- With an empty VQ a guarded instruction executes as the only entry, its operands captured (log 69). -/
theorem vqOp_enters {h : BitVec 16} {t : BitVec 96} (hq : s.strand.vq = []) (hg : guardOn g s.strand = true) (he : encode i = some (h, t)) :
    vqOp i g whole false work s = vqOp i g whole false work (pushVq (capture s.strand h t false) s) := by
  have hr : AtHead { capture s.strand h t false with age := s.stepNo } (pushVq (capture s.strand h t false) s) := by
    simp [AtHead, pushVq, hq]
  rw [vqOp_head hr]
  simp only [vqOp, hq, hg, he, Bool.true_or, if_true, Bool.not_true]
  rfl

/-- With an empty VQ and a false guard the stream only goes on. -/
theorem vqOp_guardOff (hq : s.strand.vq = []) (hg : guardOn g s.strand = false) : vqOp i g whole false work s = .next (advance s) := by
  simp [vqOp, hq, hg]

end

/-- Each instruction of the sample is one of the VQ that a false guard keeps out. -/
theorem vqSample_isVqOp {g : Guard} {ty : Ty} {d a b : BitVec 5} {m : BitVec 3} {off : BitVec 24} {i : Instr}
    (hi : i ∈ vqSample g ty d a b m off) : ∃ whole work, ∀ s, exec i s = vqOp i g whole false work s := by
  simp only [vqSample, List.mem_cons, List.not_mem_nil, or_false] at hi
  rcases hi with rfl | rfl | rfl | rfl | rfl | rfl | rfl | rfl | rfl | rfl | rfl | rfl | rfl <;> exact ⟨_, _, fun _ => rfl⟩

section
variable {head : BitVec 16} {tail : BitVec 96} {s : State}

/-- What a running strand does with a VQ-class head. -/
theorem exec_vqEnqueue (hr : runs s.strand = true) (hc : classify head tail = .queue head tail) :
    exec (.vqEnqueue head tail) s = .next (issueEntry head tail s) := by
  show execVqEnqueue head tail s = _
  simp [execVqEnqueue, hr, hc]

/-- A false guard keeps an entry out, but for `vfence` and `bar.cl` (R34). -/
theorem issueEntry_guardOff (hu : upsetValue s.strand [] [(headGuard head).p] = none) (ho : guardOn (headGuard head) s.strand = false)
    (ha : entersAlways (headOp head) = false) : issueEntry head tail s = advance s := by
  simp [issueEntry, hu, ho, ha]

/-- `vcfg` in supervisor mode is illegal (R19). -/
theorem issueEntry_vcfg (hu : upsetValue s.strand [] [(headGuard head).p] = none) (ho : guardOn (headGuard head) s.strand = true)
    (hop : headOp head = 0x40) (hp : priv s.strand = true) :
    issueEntry head tail s = raiseScalar .illegal (head.setWidth 64) s.strand.pc s := by
  simp [issueEntry, hu, ho, hop, hp]

/-- An entry that the guard and the mode let in waits for room and for the registers that it reads, and then goes in. -/
theorem issueEntry_admitted (hu : upsetValue s.strand [] [(headGuard head).p] = none)
    (ho : guardOn (headGuard head) s.strand = true ∨ entersAlways (headOp head) = true)
    (hv : ¬ (guardOn (headGuard head) s.strand = true ∧ headOp head = 0x40 ∧ priv s.strand = true)) :
    issueEntry head tail s =
      if 64 ≤ s.strand.vq.length then waitScalar .vqFull s
      else if vqWritesAny s.strand.vq (entryReads (headOp head) tail) then waitScalar .interlock s
      else match upsetValue s.strand (entryReads (headOp head) tail) [] with
        | some v => raiseScalar .dataError v s.strand.pc s
        | none => pushVq (capture s.strand head tail (!guardOn (headGuard head) s.strand)) s := by
  have h1 : (!guardOn (headGuard head) s.strand && !entersAlways (headOp head)) = false := by
    rcases ho with h | h <;> simp [h]
  have h2 : (guardOn (headGuard head) s.strand && headOp head == 0x40 && priv s.strand) = false := by
    rw [Bool.eq_false_iff]
    intro h
    simp only [Bool.and_eq_true, beq_iff_eq] at h
    exact hv ⟨h.1.1, h.1.2, h.2⟩
  simp only [issueEntry, hu, h1, h2, Bool.false_eq_true, if_false] <;> rfl

/-- The opcodes that enter always, as the statement names them. -/
theorem entersAlways_iff (op : Nat) : entersAlways op = true ↔ op = 0x8B ∨ op = 0xAB := by
  simp [entersAlways]

end

/-- Settles O13: through the frame of the VQ's instructions, and by the branches of the issue. -/
theorem vqIssues : Obligations.VqIssues := by
  unfold Obligations.VqIssues
  constructor
  · intro g ty d a b m off s hq i hi
    obtain ⟨whole, work, hx⟩ := vqSample_isVqOp hi
    refine ⟨fun h t hg he => ?_, fun hg => ?_⟩
    · rw [hx, hx]
      exact vqOp_enters hq hg he
    · rw [hx]
      exact vqOp_guardOff hq hg
  · intro head tail s hr hu t on reads always
    refine ⟨fun hc => ?_, fun hc => ?_⟩
    · show execVqEnqueue head tail s = _
      simp only [execVqEnqueue, hr, hc, Bool.not_true, Bool.false_eq_true, if_false]
      rfl
    rw [exec_vqEnqueue hr hc]
    refine ⟨fun ho ha => ?_, fun ho hop hp => ?_, fun ho hv => ?_⟩
    · rw [issueEntry_guardOff hu ho (Bool.eq_false_iff.mpr fun h => ha ((entersAlways_iff _).mp h))]
    · rw [issueEntry_vcfg hu ho hop hp]
    · rw [issueEntry_admitted hu (ho.imp_right (entersAlways_iff _).mpr) hv]
      refine ⟨fun hl => ?_, fun hl hw => ?_, fun hl hw hn => ?_⟩
      · rw [if_pos hl]
      · rw [if_neg (Nat.not_le.mpr hl), if_pos hw]
      · have hw' : ¬ vqWritesAny s.strand.vq (entryReads (headOp head) tail) = true := Bool.eq_false_iff.mp hw
        have hn' : upsetValue s.strand (entryReads (headOp head) tail) [] = none := hn
        rw [if_neg (Nat.not_le.mpr hl), if_neg hw', hn']
        exact ⟨_, _, rfl, rfl, rfl, rfl, rfl, rfl, rfl, rfl, rfl, rfl, rfl, rfl, rfl⟩

-- ## A step (R25, R26, R31, R33)

section
variable {s s1 : State}

/-- The clock moves nothing but the time, the step's number and the patches held. -/
theorem clock_fields (s : State) : (clock s).strand = s.strand ∧ (clock s).sched = s.sched ∧ (clock s).regq = s.regq ∧
    (clock s).engineTurn = s.engineTurn ∧ (clock s).slice = s.slice := by
  unfold clock
  dsimp only
  split <;> exact ⟨rfl, rfl, rfl, rfl, rfl⟩

/-- The state in which a running strand takes its turn. -/
def turned (s : State) : State := { clock s with engineTurn := true, slice := s.slice + 1 }

theorem turned_strand (s : State) : (turned s).strand = s.strand := (clock_fields s).1

/-- The acting strand runs, has turns left and has nothing to wait for or to settle first. -/
structure Free (s : State) : Prop where
  powered : s.powered = true
  sched : s.sched = []
  regq : s.regq = []
  engine : s.engineTurn = false
  runs : runs s.strand = true
  slice : s.slice < 16
  pendTrap : s.strand.pendTrap = none
  vqTrap : s.strand.vqTrap = none
  refused : s.strand.refused = none
  scalarWait : s.strand.scalarWait = none
  vqWait : s.strand.vqWait = none

/-- Nothing yields, and no trap comes first. -/
theorem strandTurn_free {t : State} (hs : t.strand = s.strand) (h : Free s) :
    strandTurn t = if vqGoes t then vqTurn t else scalarTurn t := by
  have hy : yieldDue t.strand = false := by simp [yieldDue, hs, h.scalarWait, h.vqWait]
  have ht : trapTurn t = none := by simp only [trapTurn, hs, h.refused, h.vqTrap, h.pendTrap]
  rw [strandTurn, if_neg (Bool.eq_false_iff.mp hy), ht]
  rfl

/-- Without a register write the strands have the turn after the units. -/
theorem ownTurn_strands {t : State} (hr : t.regq = []) (he : t.engineTurn = false) :
    ownTurn t = strandsOrUnits { t with engineTurn := true } := by
  unfold ownTurn
  split
  · next h => simp [hr] at h
  · rw [if_neg (by simp [he])]

/-- A strand that runs and has turns left keeps the turn. -/
theorem strandsOrUnits_keeps {t : State} (hr : runs t.strand = true) (hs : t.slice < 16) (hw : t.strand.scalarWait = none) :
    strandsOrUnits t = strandTurn { t with slice := t.slice + 1 } := by
  have hc : (!runs t.strand || decide (16 ≤ t.slice) || stalls t.strand) = false := by simp [hr, hs, stalls, hw]
  have hn : nextStrand t = { t with slice := t.slice + 1 } := by
    rw [nextStrand, if_neg (Bool.eq_false_iff.mp hc)]
  rw [strandsOrUnits, hn]
  exact if_pos hr

/-- The turn of a free strand is what the step does. -/
theorem select_free (h : Free s) : select s = if vqGoes (turned s) then vqTurn (turned s) else scalarTurn (turned s) := by
  obtain ⟨hst, hsc, hrq, het, hsl⟩ := clock_fields s
  have hs : { clock s with engineTurn := true, slice := (clock s).slice + 1 } = turned s := by rw [hsl, turned]
  rw [select, hsc.trans h.sched]
  show ownTurn (clock s) = _
  rw [ownTurn_strands (hrq.trans h.regq) (het.trans h.engine),
    strandsOrUnits_keeps (hst.symm ▸ h.runs) (hsl.symm ▸ h.slice) (hst.symm ▸ h.scalarWait)]
  exact (congrArg strandTurn hs).trans (strandTurn_free (turned_strand s) h)

/-- A step of a machine with power does what is chosen. -/
theorem step_runs {i : Instr} {t : State} (hp : s.powered = true) (hc : select s = .run i t) : step s = exec i t := by
  simp only [step, hp, Bool.true_or, if_true, hc]

/-- With an empty VQ it is the scalar stream's turn. -/
theorem step_scalar {i : Instr} {t : State} (h : Free s) (hq : s.strand.vq = []) (hc : scalarTurn (turned s) = .run i t) :
    step s = exec i t := by
  have hv : vqGoes (turned s) = false := by simp [vqGoes, turned_strand, hq]
  refine step_runs h.powered ((select_free h).trans ?_)
  rw [hv, if_neg (by decide), hc]

/-- With an entry at its head it is the VQ's turn. -/
theorem step_vq {i : Instr} {e : VqEntry} (h : Free s) (he : AtHead e s) (hd : decode e.head e.tail = .ok i) :
    step s = exec i (turned s) := by
  obtain ⟨r, hr⟩ : ∃ r, s.strand.vq = e :: r := List.head?_eq_some_iff.mp he
  have hv : vqGoes (turned s) = true := by simp [vqGoes, turned_strand, hr, h.vqWait]
  refine step_runs h.powered ((select_free h).trans ?_)
  rw [hv, if_pos rfl, vqTurn, turned_strand, hr]
  simp only [hd]

/-- The slot at which a strand stands, in the line `p`. -/
structure Stands (p : Pass) (t : Strand) : Prop where
  base : p.base = lineBase t.pc
  valid : lineValid p.bytes = true
  form : addrForm t.pc = true
  slot : slotNo t.pc < lineHeads p.bytes

/-- A line in which the strand stands is used for the pass. -/
theorem fetchIssue_of_line {p : Pass} {t s1 : State} (hl : currentLine t = .ok p s1) (h : Stands p s1.strand) :
    fetchIssue t = .ok (classify (lineHead p.bytes (slotNo s1.strand.pc)) (lineTail p.bytes (slotNo s1.strand.pc)))
      (mapStrand (fun t => { t with pass := some p }) s1) := by
  simp only [fetchIssue, issueLine, hl, h.valid, h.form, h.slot, decide_true, Bool.and_self, if_true]
  rfl

/-- The line of the pass in progress goes on being used. -/
theorem currentLine_pass {p : Pass} {t : State} (hp : t.strand.pass = some p) (hb : p.base = lineBase t.strand.pc) :
    currentLine t = .ok p t := by
  simp only [currentLine, hp, hb, if_true]

/-- A new pass uses the line fetched. -/
theorem currentLine_fetch {p : Pass} {t s1 : State} (hp : t.strand.pass = none) (hb : p.base = lineBase t.strand.pc)
    (hf : fetchCode (priv t.strand) p.base t = .ok p.bytes s1) : currentLine t = .ok p s1 := by
  rw [currentLine, hp, ← hb]
  simp only [hf]

/-- A strand whose pass is given already keeps it. -/
theorem mapStrand_pass {p : Pass} {t : State} (hp : t.strand.pass = some p) : mapStrand (fun t => { t with pass := some p }) t = t := by
  simp only [mapStrand, ← hp]

/-- What the scalar stream does with a head that passes the first step of R33, in the turn that a head with Y = 1 ends. -/
theorem scalarTurn_of_line {p : Pass} {t s1 : State} (hl : currentLine t = .ok p s1) (h : Stands p s1.strand)
    (hc : headCheck (lineHead p.bytes (slotNo s1.strand.pc)) = .ok ()) :
    let head := lineHead p.bytes (slotNo s1.strand.pc)
    let tail := lineTail p.bytes (slotNo s1.strand.pc)
    let last := fun s : State => if (headGuard head).y then { s with slice := 16 } else s
    let fetched := last (mapStrand (fun t => { t with pass := some p }) s1)
    (∀ i, opIsVq (headOp head) = false → decode head tail = .ok i → scalarTurn t = .run i fetched) ∧
    (opIsVq (headOp head) = true → scalarTurn t = .run (.vqEnqueue head tail) fetched) := by
  refine ⟨fun i hv hd => ?_, fun hv => ?_⟩
  · simp only [scalarTurn, fetchIssue_of_line hl h, classify, hc, hv, Bool.false_eq_true, if_false, hd]
    rfl
  · simp only [scalarTurn, fetchIssue_of_line hl h, classify, hc, hv, if_true]
    rfl

end

/-- Settles O57: the choice of the step, then the line in which the strand stands. -/
theorem stepRunsDecoded : Obligations.StepRunsDecoded := by
  unfold Obligations.StepRunsDecoded
  intro i p s s1 h1 h2 h3 h4 h5 h6 h7 h8 h9 h10 h11 turned' standing head tail last
  have h : Free s := ⟨h1, h2, h3, h4, h5, h6, h7, h8, h9, h10, h11⟩
  have hst := turned_strand s
  refine ⟨fun hq ⟨hb, hv, hf, hs⟩ hc => ⟨fun hp => ?_, fun hp hfc hs1 => ?_⟩, fun e he hd => step_vq h he hd⟩
  · have hp' : (turned s).strand.pass = some p := hst ▸ hp
    have k := scalarTurn_of_line (currentLine_pass hp' (hst ▸ hb)) (hst.symm ▸ ⟨hb, hv, hf, hs⟩) (hst.symm ▸ hc)
    rw [mapStrand_pass hp', hst] at k
    exact ⟨fun ho hd => step_scalar h hq (k.1 i ho hd), fun ho => step_scalar h hq (k.2 ho)⟩
  · have hl : currentLine (turned s) = .ok p s1 :=
      currentLine_fetch (hst ▸ hp) (hst ▸ hb) (hst.symm ▸ hfc)
    have k := scalarTurn_of_line hl (hs1.symm ▸ ⟨hb, hv, hf, hs⟩) (hs1.symm ▸ hc)
    rw [hs1] at k
    exact ⟨fun ho hd => step_scalar h hq (k.1 i ho hd), fun ho => step_scalar h hq (k.2 ho)⟩

end Sys2Proof.IssueAndStep
end

section
/-! Work at the homes of lines, and what a recall does about it, leave every strand as it is: the acting one, the others and
the recalled ones. -/

namespace Sys2Proof.StrandFrame

open Sys2Proof.Machine

/-- The acting strand, the other strands and the recalled ones of two states agree. -/
def SameStrands (t s : State) : Prop := t.strand = s.strand ∧ t.others = s.others ∧ t.parked = s.parked

theorem SameStrands.trans {u t s : State} (h : SameStrands u t) (k : SameStrands t s) : SameStrands u s :=
  ⟨h.1.trans k.1, h.2.1.trans k.2.1, h.2.2.trans k.2.2⟩

theorem SameStrands.refl (s : State) : SameStrands s s := ⟨rfl, rfl, rfl⟩

theorem ite_sameStrands {c : Prop} [Decidable c] {a b s : State} (ha : SameStrands a s) (hb : SameStrands b s) :
    SameStrands (if c then a else b) s := by
  split
  · exact ha
  · exact hb

/-- Steps that each keep the strands keep them together. -/
theorem foldl_sameStrands {α : Type} {f : State → α → State} (hf : ∀ s x, SameStrands (f s x) s) (l : List α) (s : State) :
    SameStrands (l.foldl f s) s := by
  induction l generalizing s with
  | nil => exact ⟨rfl, rfl, rfl⟩
  | cons x l ih => exact (ih (f s x)).trans (hf s x)

-- ## Tables and logs

theorem logError_sameStrands (k a : Nat) (v : Word) (s : State) : SameStrands (logError k a v s) s := ⟨rfl, rfl, rfl⟩

theorem machineError_sameStrands (w l : Nat) (s : State) : SameStrands (machineError w l s) s := ⟨rfl, rfl, rfl⟩

theorem correctUnit_sameStrands (u : Nat) (s : State) : SameStrands (correctUnit u s) s := ⟨rfl, rfl, rfl⟩

theorem putRegion_sameStrands (s : State) (r : Region) : SameStrands (putRegion s r) s := ⟨rfl, rfl, rfl⟩

theorem putHline_sameStrands (s : State) (h : HLine) : SameStrands (putHline s h) s := ⟨rfl, rfl, rfl⟩

theorem putCline_sameStrands (s : State) (c : CLine) : SameStrands (putCline s c) s := ⟨rfl, rfl, rfl⟩

theorem post_sameStrands (m : Msg) (s : State) : SameStrands (post m s) s := ⟨rfl, rfl, rfl⟩

theorem admitted_sameStrands (m : Msg) (s : State) : SameStrands (admitted m s) s := ⟨rfl, rfl, rfl⟩

theorem unstale_sameStrands (l : List Nat) (s : State) : SameStrands (unstale l s) s := by
  unfold unstale
  split <;> exact ⟨rfl, rfl, rfl⟩

theorem freeEntry_sameStrands (r : Nat) (s : State) : SameStrands (freeEntry r s) s := by
  unfold freeEntry
  split
  · split <;> exact ⟨rfl, rfl, rfl⟩
  · exact ⟨rfl, rfl, rfl⟩

theorem readUnits_sameStrands (key n : Nat) (s : State) : SameStrands (readUnits key n s) s := by
  unfold readUnits
  split
  · exact ⟨rfl, rfl, rfl⟩
  · exact foldl_sameStrands (fun s u => by split <;> exact ⟨rfl, rfl, rfl⟩) _ s

theorem healPoison_sameStrands (l : List Nat) (s : State) : SameStrands (healPoison l s) s := by
  refine SameStrands.trans ?_ (unstale_sameStrands l s)
  unfold healPoison
  dsimp only
  split
  · exact ⟨rfl, rfl, rfl⟩
  · exact foldl_sameStrands (fun s u => by split_ifs <;> exact ⟨rfl, rfl, rfl⟩) _ _

theorem addSliceFlags_sameStrands (key : Nat) (f : BitVec 6) (s : State) : SameStrands (addSliceFlags key f s) s := by
  unfold addSliceFlags
  split <;> exact ⟨rfl, rfl, rfl⟩

theorem addAnswer_sameStrands (m : Msg) (f : Nat) (s : State) : SameStrands (addAnswer m f s) s := by
  unfold addAnswer
  split <;> exact ⟨rfl, rfl, rfl⟩

theorem flushOwn_sameStrands (a key n : Nat) (s : State) : SameStrands (flushOwn a key n s) s :=
  (unstale_sameStrands ..).trans ⟨rfl, rfl, rfl⟩

-- ## A cluster's copies

theorem raiseOnce_sameStrands (slot cl line : Nat) (h : HeldEv) (s : State) :
    SameStrands (raiseOnce slot cl line h s) s := by
  unfold raiseOnce
  dsimp only
  split
  · exact ⟨rfl, rfl, rfl⟩
  · split
    · split <;> exact ⟨rfl, rfl, rfl⟩
    · exact (foldl_sameStrands (fun s m => post_sameStrands m s) _ _).trans ⟨rfl, rfl, rfl⟩

theorem reraise_sameStrands (slot cl line n : Nat) (s : State) : SameStrands (reraise slot cl line n s) s := by
  induction n generalizing s with
  | zero => exact ⟨rfl, rfl, rfl⟩
  | succ n ih =>
    unfold reraise
    dsimp only
    split
    · exact ⟨rfl, rfl, rfl⟩
    · exact (ih _).trans ((raiseOnce_sameStrands ..).trans ⟨rfl, rfl, rfl⟩)

theorem afterChange_sameStrands (slot cl line st : Nat) (s : State) : SameStrands (afterChange slot cl line st s) s := by
  unfold afterChange
  split
  · exact ⟨rfl, rfl, rfl⟩
  · exact reraise_sameStrands ..

theorem clusterRaise_sameStrands (slot cl line ev : Nat) (bs : List (Nat × Byte)) (f w : Nat) (s : State) :
    SameStrands (clusterRaise slot cl line ev bs f w s) s :=
  (afterChange_sameStrands ..).trans (raiseOnce_sameStrands ..)

theorem dropCopy_sameStrands (slot cl line : Nat) (s : State) : SameStrands (dropCopy slot cl line s) s := by
  unfold dropCopy
  dsimp only
  split
  · exact (afterChange_sameStrands ..).trans ⟨rfl, rfl, rfl⟩
  · exact ⟨rfl, rfl, rfl⟩

theorem dropCopies_sameStrands (line : Nat) (s : State) : SameStrands (dropCopies line s) s :=
  foldl_sameStrands (fun _ _ => dropCopy_sameStrands ..) _ s

theorem dropNeighbours_sameStrands (cl line : Nat) (s : State) : SameStrands (dropNeighbours cl line s) s :=
  foldl_sameStrands (fun _ _ => dropCopy_sameStrands ..) _ s

theorem dropLeft_sameStrands (line : Nat) (v : BitVec 16) (s : State) : SameStrands (dropLeft line v s) s :=
  foldl_sameStrands (fun _ _ => dropNeighbours_sameStrands ..) _ s

theorem dropFar_sameStrands (line : Nat) (k : Option Nat) (s : State) : SameStrands (dropFar line k s) s :=
  foldl_sameStrands (fun _ _ => dropCopy_sameStrands ..) _ s

theorem noBackoff_sameStrands (cl line : Nat) (s : State) : SameStrands (noBackoff cl line s) s := ⟨rfl, rfl, rfl⟩

-- ## A line's home

theorem homeWrite_sameStrands (s : State) (cl line : Nat) (bs : List (Nat × Byte)) :
    SameStrands (homeWrite s cl line bs) s :=
  (healPoison_sameStrands ..).trans ⟨rfl, rfl, rfl⟩

theorem postAll_sameStrands (l : List Msg) (s : State) : SameStrands (l.foldl (fun s x => post x s) s) s :=
  foldl_sameStrands (fun s x => post_sameStrands x s) l s

theorem homeApply_sameStrands (w : ActionWord) (m : Msg) (s : State) : SameStrands (homeApply w m s).1 s := by
  unfold homeApply
  extract_lets line isUnc far s0 s1 h r ts faulted out sends s2 vec s3 h1 s4 s5
  have h0 : SameStrands s0 s := ite_sameStrands (homeWrite_sameStrands ..) (.refl s)
  have k1 : SameStrands s1 s0 :=
    ite_sameStrands (dropFar_sameStrands ..) (ite_sameStrands (dropFar_sameStrands ..) (.refl s0))
  have h2 : SameStrands s2 s1 := postAll_sameStrands sends s1
  have h3 : SameStrands s3 s2 := ite_sameStrands (.refl s2) ((dropLeft_sameStrands ..).trans (putRegion_sameStrands ..))
  have h4 : SameStrands s4 s3 := putHline_sameStrands ..
  have h5 : SameStrands s5 s4 := ite_sameStrands ((post_sameStrands ..).trans (readUnits_sameStrands ..)) (.refl s4)
  exact h5.trans (h4.trans (h3.trans (h2.trans (k1.trans h0))))

theorem homeWord_sameStrands (slot n : Nat) (w : ActionWord) (m : Msg) (s : State) :
    SameStrands (homeWord slot n w m s) s := by
  induction n generalizing w s with
  | zero => exact homeApply_sameStrands w m s
  | succ n ih =>
    unfold homeWord
    dsimp only
    split
    · split
      · exact homeApply_sameStrands w m s
      · exact (ih _ _).trans (homeApply_sameStrands w m s)
    · exact homeApply_sameStrands w m s

theorem displaceRegion_sameStrands (slot r : Nat) (s : State) : SameStrands (displaceRegion slot r s) s := by
  unfold displaceRegion
  refine (freeEntry_sameStrands ..).trans (foldl_sameStrands (fun s l => ?_) _ s)
  split
  · exact (homeWord_sameStrands ..).trans (putRegion_sameStrands ..)
  · exact .refl s

theorem makeRoomN_sameStrands (r n : Nat) (s : State) : SameStrands (makeRoomN r n s) s := by
  induction n generalizing s with
  | zero => exact ⟨rfl, rfl, rfl⟩
  | succ n ih =>
    unfold makeRoomN
    dsimp only
    split
    · exact ⟨rfl, rfl, rfl⟩
    · split
      · exact (ih _).trans (displaceRegion_sameStrands ..)
      · exact ⟨rfl, rfl, rfl⟩

theorem makeRoom_sameStrands (r : Nat) (s : State) : SameStrands (makeRoom r s) s := by
  unfold makeRoom
  split
  · exact ⟨rfl, rfl, rfl⟩
  · exact makeRoomN_sameStrands ..

theorem homeDispatch_sameStrands (slot ev : Nat) (m : Msg) (s : State) : SameStrands (homeDispatch slot ev m s) s := by
  unfold homeDispatch
  split
  · exact ⟨rfl, rfl, rfl⟩
  · exact (makeRoom_sameStrands ..).trans (homeWord_sameStrands ..)

-- ## Scatter-adds and queues

theorem addCheck_sameStrands {slot : Nat} {m : Msg} {s s1 : State} (h : addCheck slot m s = .ok s1) : SameStrands s1 s := by
  have claim : claimMark slot m.line s = .ok s1 → SameStrands s1 s := by
    unfold claimMark
    dsimp only
    split
    · intro h; cases h
    · split
      · intro h; cases h; exact ⟨rfl, rfl, rfl⟩
      · split <;> intro h <;> cases h
        exact ⟨rfl, rfl, rfl⟩
  unfold addCheck at h
  split at h
  · cases h; exact ⟨rfl, rfl, rfl⟩
  · exact claim h

theorem openChain_sameStrands (slot : Nat) (m : Msg) (s : State) : SameStrands (openChain slot m s) s := by
  unfold openChain
  split
  · exact addAnswer_sameStrands ..
  next s1 h =>
    extract_lets s2
    have h2 : SameStrands s2 s1 := (dropCopies_sameStrands ..).trans (flushOwn_sameStrands ..)
    exact (addAnswer_sameStrands ..).trans (SameStrands.trans ⟨rfl, rfl, rfl⟩ (h2.trans (addCheck_sameStrands h)))

theorem joinAdd_sameStrands (slot : Nat) (m : Msg) (s : State) : SameStrands (joinAdd slot m s) s := by
  unfold joinAdd
  split
  · exact addAnswer_sameStrands ..
  next s1 h => exact (addAnswer_sameStrands ..).trans (SameStrands.trans (t := s1) ⟨rfl, rfl, rfl⟩ (addCheck_sameStrands h))

theorem homeRun_sameStrands (n line : Nat) (s : State) : SameStrands (homeRun n line s) s := by
  induction n generalizing s with
  | zero => exact ⟨rfl, rfl, rfl⟩
  | succ n ih =>
    unfold homeRun
    dsimp only
    split
    · exact ⟨rfl, rfl, rfl⟩
    · split
      · exact ⟨rfl, rfl, rfl⟩
      · split
        · exact ⟨rfl, rfl, rfl⟩
        · exact (ih _).trans (ite_sameStrands ((openChain_sameStrands ..).trans ⟨rfl, rfl, rfl⟩)
            ((homeDispatch_sameStrands ..).trans ⟨rfl, rfl, rfl⟩))

theorem homeNext_sameStrands (line : Nat) (s : State) : SameStrands (homeNext line s) s :=
  (freeEntry_sameStrands ..).trans (homeRun_sameStrands ..)

theorem homeRaise_sameStrands (slot ev : Nat) (m : Msg) (s : State) : SameStrands (homeRaise slot ev m s) s :=
  (homeNext_sameStrands ..).trans (homeDispatch_sameStrands ..)

theorem endGrant_sameStrands (line : Nat) (s : State) : SameStrands (endGrant line s) s :=
  (homeNext_sameStrands ..).trans ⟨rfl, rfl, rfl⟩

theorem enqueue_sameStrands (m : Msg) (s : State) : SameStrands (enqueue m s) s := ⟨rfl, rfl, rfl⟩

theorem refuse_sameStrands (m : Msg) (s : State) : SameStrands (refuse m s) s := by
  unfold refuse
  dsimp only
  split_ifs <;> exact ⟨rfl, rfl, rfl⟩

theorem chainsFreed_sameStrands (key : Nat) (s : State) : SameStrands (chainsFreed key s) s :=
  foldl_sameStrands (fun _ _ => homeNext_sameStrands ..) _ s

-- ## Messages

theorem homeRequest_sameStrands (m : Msg) (s : State) : SameStrands (homeRequest m s) s := by
  unfold homeRequest
  exact ite_sameStrands (enqueue_sameStrands m s) <|
    ite_sameStrands ((admitted_sameStrands ..).trans (joinAdd_sameStrands ..)) <|
    ite_sameStrands (ite_sameStrands (enqueue_sameStrands m s) (refuse_sameStrands m s)) <|
    ite_sameStrands ((admitted_sameStrands ..).trans ((homeNext_sameStrands ..).trans (openChain_sameStrands ..)))
      ((admitted_sameStrands ..).trans (homeRaise_sameStrands ..))

theorem homeQuit_sameStrands (m : Msg) (s : State) : SameStrands (homeQuit m s) s := by
  unfold homeQuit
  exact ite_sameStrands (ite_sameStrands ((endGrant_sameStrands ..).trans (putHline_sameStrands ..)) (putHline_sameStrands ..))
    ((homeNext_sameStrands ..).trans (putHline_sameStrands ..))

theorem homeMemReturn_sameStrands (slot line : Nat) (s : State) : SameStrands (homeMemReturn slot line s) s := by
  unfold homeMemReturn
  dsimp only
  split
  · exact machineError_sameStrands ..
  · split
    · exact machineError_sameStrands ..
    · exact (homeNext_sameStrands ..).trans ((makeRoom_sameStrands ..).trans (homeWord_sameStrands ..))

theorem homeAck_sameStrands (slot : Nat) (m : Msg) (s : State) : SameStrands (homeAck slot m s) s := by
  unfold homeAck
  extract_lets h
  split
  · exact machineError_sameStrands ..
  · split
    · exact machineError_sameStrands ..
    · extract_lets s1 h1 s2
      have k1 : SameStrands s1 s := (homeWord_sameStrands ..).trans (putHline_sameStrands ..)
      have k2 : SameStrands s2 s := (putHline_sameStrands ..).trans k1
      split
      · split
        · exact (machineError_sameStrands ..).trans k2
        · exact (homeNext_sameStrands ..).trans ((homeWord_sameStrands ..).trans k2)
      · exact (homeNext_sameStrands ..).trans k2

theorem deliver_sameStrands (m : Msg) (s : State) : SameStrands (deliver m s) s := by
  unfold deliver
  dsimp only
  have raise (slot ev : Nat) (bs : List (Nat × Byte)) (f : Nat) :
      SameStrands (noBackoff m.dst m.line (clusterRaise slot m.dst m.line ev bs f m.writer s)) s :=
    (noBackoff_sameStrands ..).trans (clusterRaise_sameStrands ..)
  cases m.kind
  case quit => exact homeQuit_sameStrands m s
  case none => exact homeMemReturn_sameStrands ..
  case inv => exact ite_sameStrands (post_sameStrands ..) (clusterRaise_sameStrands ..)
  case upd => exact ite_sameStrands (post_sameStrands ..) (clusterRaise_sameStrands ..)
  case data => exact ite_sameStrands (raise ..) (.refl s)
  case ack => exact ite_sameStrands (homeAck_sameStrands ..) (ite_sameStrands (raise ..) (.refl s))
  case nack => exact ite_sameStrands ((putCline_sameStrands ..).trans (clusterRaise_sameStrands ..)) (.refl s)
  all_goals exact homeRequest_sameStrands m s

theorem settleN_sameStrands (n : Nat) (s : State) : SameStrands (settleN n s) s := by
  induction n generalizing s with
  | zero => exact ⟨rfl, rfl, rfl⟩
  | succ n ih =>
    unfold settleN
    split
    · exact ⟨rfl, rfl, rfl⟩
    · exact (ih _).trans ((deliver_sameStrands ..).trans ⟨rfl, rfl, rfl⟩)

theorem settle_sameStrands (s : State) : SameStrands (settle s) s := by
  unfold settle
  split
  · exact settleN_sameStrands ..
  · exact ⟨rfl, rfl, rfl⟩

-- ## Writes at a home

theorem closeChain_sameStrands (c : Chain) (s : State) : SameStrands (closeChain c s) s := by
  unfold closeChain
  extract_lets n s0 r s1 x s2 s3
  have h1 : SameStrands s1 s0 := (healPoison_sameStrands ..).trans ⟨rfl, rfl, rfl⟩
  have h2 : SameStrands s2 s1 := (homeNext_sameStrands ..).trans (putHline_sameStrands ..)
  have h3 : SameStrands s3 s2 := (chainsFreed_sameStrands ..).trans (addSliceFlags_sameStrands ..)
  have h : SameStrands s3 s := h3.trans (h2.trans (h1.trans (readUnits_sameStrands ..)))
  exact ite_sameStrands h ((settle_sameStrands s3).trans h)

theorem behindChains_sameStrands (key n : Nat) (s : State) : SameStrands (behindChains key n s) s := by
  unfold behindChains
  split
  · exact ⟨rfl, rfl, rfl⟩
  · exact foldl_sameStrands (fun _ _ => closeChain_sameStrands ..) _ s

/-- A write performed at a home leaves every strand. -/
theorem homePoke_sameStrands (key : Nat) (bs : List Byte) (s : State) : SameStrands (homePoke key bs s) s := by
  unfold homePoke
  extract_lets s0 s1
  have h : SameStrands s1 s := ((healPoison_sameStrands ..).trans ⟨rfl, rfl, rfl⟩).trans (behindChains_sameStrands ..)
  exact ite_sameStrands h ((foldl_sameStrands (fun _ _ => dropCopies_sameStrands ..) _ _).trans h)

-- ## What a recall does about a strand (R226, R297, R298)

theorem dropUnc_sameStrands (w : Nat) (s : State) : SameStrands (dropUnc w s) s := by
  unfold dropUnc
  split <;> exact ⟨rfl, rfl, rfl⟩

theorem dropBoth_sameStrands (a : Nat) (s : State) : SameStrands (dropBoth a s) s :=
  (dropUnc_sameStrands ..).trans (dropUnc_sameStrands ..)

theorem freeBanks_sameStrands (id : BitVec 18) (s : State) : SameStrands (freeBanks id s) s := ⟨rfl, rfl, rfl⟩

theorem saveEntries_sameStrands (l : List VqEntry) (s : State) : SameStrands (saveEntries l s).2 s := by
  induction l generalizing s with
  | nil => exact .refl s
  | cons e l ih => exact (ih (saveEntry e s).2).trans ⟨rfl, rfl, rfl⟩

theorem areaWords_sameStrands (t : Strand) (lost : Bool) (low : Nat) (s : State) :
    SameStrands (areaWords t lost low s).2 s :=
  (saveEntries_sameStrands t.saved (saveEntries t.vq s).2).trans (saveEntries_sameStrands t.vq s)

theorem suspendRunning_sameStrands (cl : Nat) (s : State) : SameStrands (suspendRunning cl s) s := by
  unfold suspendRunning
  split
  · exact ite_sameStrands ⟨rfl, rfl, rfl⟩ (.refl s)
  · exact .refl s

theorem suspendJobs_sameStrands (id : Nat) (s : State) : SameStrands (suspendJobs id s) s := by
  unfold suspendJobs
  refine foldl_sameStrands (fun s c => ?_) _ s
  extract_lets s1
  exact SameStrands.trans (t := s1) ⟨rfl, rfl, rfl⟩ (ite_sameStrands (suspendRunning_sameStrands ..) (.refl s))

end Sys2Proof.StrandFrame
end

section
/-! PROOFS. Crews are bound, recalled and rotated (O48). -/

namespace Sys2Proof.Binding

open Sys2Proof.Machine Sys2Proof.Laws Sys2Proof.StrandFrame

-- ## Which crew is bound (R294 to R296)

section
variable {x : Flight} {c : Crew} {s s1 : State}

/-- Where no crew has ended, no window returns. -/
theorem returnEnded_none (h : s.crews.any (crewDone s) = false) : returnEnded s = s := by
  have hf : s.crews.filter (crewDone s) = [] := by simpa [List.filter_eq_nil_iff] using h
  rw [returnEnded, hf, List.foldl_nil]

theorem mem_of_bestPlacement {l : List (Nat × State)} {y : Nat × State} (h : bestPlacement l = some y) : y ∈ l := by
  unfold bestPlacement at h
  revert y
  refine List.foldlRecOn (motive := fun o => ∀ {y}, o = some y → y ∈ l) l _ (by simp) fun o ho a ha y hy => ?_
  cases o with
  | none => cases hy; exact ha
  | some z =>
    dsimp only at hy
    split at hy
    · cases hy; exact ha
    · exact ho hy

/-- A flight whose best placement is not outranked is bound there. -/
theorem bindCrew_binds {f : Nat} {y : Nat × State} (he : s.crews.any (crewDone s) = false) (hx : flightAt s f = some x)
    (hy : bestPlacement (placements s x) = some y) (ho : outranked s y.1 = false) : exec (.bindCrew f) s = .next y.2 := by
  change execBindCrew f s = _
  simp only [execBindCrew, returnEnded_none he, hx, hy, ho, Bool.false_eq_true, if_false]

/-- A flight without a placement that is not outranked binds nothing. -/
theorem bindCrew_stays {f : Nat} (he : s.crews.any (crewDone s) = false) (hx : flightAt s f = some x)
    (ho : ∀ y, bestPlacement (placements s x) = some y → outranked s y.1 = true) : exec (.bindCrew f) s = .next s := by
  change execBindCrew f s = _
  simp only [execBindCrew, returnEnded_none he, hx]
  cases hy : bestPlacement (placements s x) with
  | none => rfl
  | some y => simp [ho y hy]

theorem flightAt_single (hf : s.flights = [x]) : flightAt s x.no = some x := by simp [flightAt, hf]

/-- What a flight without a crew recalled can come to. -/
theorem placements_next (hr : resumable s x.no = []) :
    placements s x = ((bindNext x s).map fun t => (x.prio, t)).toList := by
  cases hb : bindNext x s <;> simp [placements, hr, hb]

theorem bindCrew_next (he : s.crews.any (crewDone s) = false) (hf : s.flights = [x]) (hr : resumable s x.no = [])
    (hb : bindNext x s = some s1) : exec (.bindCrew x.no) s = .next s1 := by
  have hp : placements s x = [(x.prio, s1)] := by simp [placements_next hr, hb]
  refine bindCrew_binds (y := (x.prio, s1)) he (flightAt_single hf) (by simp [hp, bestPlacement]) ?_
  simp [outranked, hf, hp]

theorem bindCrew_noRoom (he : s.crews.any (crewDone s) = false) (hf : s.flights = [x]) (hr : resumable s x.no = [])
    (hb : bindNext x s = none) : exec (.bindCrew x.no) s = .next s := by
  have hp : placements s x = [] := by simp [placements_next hr, hb]
  exact bindCrew_stays he (flightAt_single hf) (by simp [hp, bestPlacement])

/-- A recalled crew goes first at equal priority (R296). -/
theorem bindCrew_recalledFirst (he : s.crews.any (crewDone s) = false) (hf : s.flights = [x]) (hs : x.shut = false)
    (hr : resumable s x.no = [c]) (hc : resumeCrew c s = some s1) (hp : c.prio ≤ x.prio) :
    exec (.bindCrew x.no) s = .next s1 := by
  have hl : placements s x = (c.prio, s1) :: ((bindNext x s).map fun t => (x.prio, t)).toList := by
    cases hb : bindNext x s <;> simp [placements, hr, hb, hs, hc]
  refine bindCrew_binds (y := (c.prio, s1)) he (flightAt_single hf) ?_ ?_
  · cases hb : bindNext x s <;> simp [hl, hb, bestPlacement, hp]
  · cases hb : bindNext x s <;> simp [outranked, hf, hl, hb, hp]

/-- No crew is bound while one of strictly higher priority can be placed (R296). -/
theorem bindCrew_outranked {y : Flight} {z : Nat × State} (he : s.crews.any (crewDone s) = false)
    (hx : flightAt s x.no = some x) (hy : y ∈ s.flights) (hz : z ∈ placements s y) (hw : ∀ w ∈ placements s x, z.1 < w.1) :
    exec (.bindCrew x.no) s = .next s := by
  refine bindCrew_stays he hx fun w hb => ?_
  simp only [outranked, List.any_eq_true, decide_eq_true_eq]
  exact ⟨y, hy, z, hz, hw w (mem_of_bestPlacement hb)⟩

theorem bindNext_notReady (h : x.ready = false) : bindNext x s = none := by simp [bindNext, h]

end

-- ## A fresh strand (R18, R295)

theorem word_rw (r : Vector Word 8) (k : Nat) (h : k < 8) : word (rw r k) = r[k] := by simp [word, rw, h]

/-- The scalar registers of a fresh strand. -/
theorem freshStrand_getS (s : State) (x : Flight) (c : Crew) (i csa : Nat) (id : BitVec 18) (r : BitVec 5) :
    getS (freshStrand s x c i csa id) r =
      if r = 2 then (queueAt s x.queue).stk + word ((csa + 1) * 2 ^ ((queueAt s x.queue).stksz.toNat % 32))
      else if r = 30 then x.words[3]
      else if r = 31 then (if c.ws + c.wf = 0 then 0 else word (0x00FFFFFF00000000 + c.wb * 0x80000))
      else match x.tick with
        | none => if r = 4 then x.words[2] else 0
        | some y => if r = 4 then y.2[0] else if r = 5 then y.2[1] else if r = 6 then y.2[2] else if r = 7 then y.2[3]
            else if r = 8 then x.words[2] else 0 := by
  have e1 : word (rw x.words 2) = x.words[2] := word_rw _ 2 (by decide)
  have e2 : word (rw x.words 3) = x.words[3] := word_rw _ 3 (by decide)
  have hb (n : Nat) : bits n 4 0 = n % 32 := by simp [bits]
  by_cases h0 : r = 0
  · cases x.tick <;> simp [getS, h0]
  · cases ht : x.tick
    all_goals
      simp only [getS, h0, freshStrand, ht, e1, e2, hb, if_false, Vector.getElem_setIfInBounds, Vector.getElem_replicate,
        BitVec.toNat_eq (x := r)]
      grind

-- ## Recall and the quantum (R296, R297)

theorem undoReturn_id (t : Strand) : (undoReturn t).id = t.id := by
  unfold undoReturn
  split <;> rfl

/-- The state in which a strand's context and its jobs' are written to its area, the strand still in its place (R298). -/
def writtenArea (t : Strand) (s : State) : State :=
  let js := openLookups s (clusterOf t.id) t.crew t.idx.toNat
  let area := areaWords t false (lowOf js t).toNat (dropBoth t.id.toNat s)
  (area.1 ++ jobWords js).foldl (fun s1 x => homePoke (csaKey s t.csa + x.1) (leBytes 8 x.2) s1) (freeBanks t.id area.2)

theorem writtenArea_sameStrands (t : Strand) (s : State) : SameStrands (writtenArea t s) s :=
  (foldl_sameStrands (fun _ _ => homePoke_sameStrands ..) _ _).trans <|
    (freeBanks_sameStrands ..).trans <| (areaWords_sameStrands ..).trans (dropBoth_sameStrands ..)

/-- What saving a strand's context does to the strands (R297). -/
theorem saveStrand_strands (t : Strand) (s : State) :
    (saveStrand t s).strand = (if s.strand.bound && s.strand.id = t.id then Strand.unbound else s.strand) ∧
      (saveStrand t s).others = s.others.filter (fun x => x.id != t.id) ∧
      (saveStrand t s).parked = s.parked ++ [stub (undoReturn t)] := by
  obtain ⟨hs, ho, hp⟩ := writtenArea_sameStrands (undoReturn t) s
  rw [← undoReturn_id t, ← hs, ← ho, ← hp]
  exact ⟨rfl, rfl, rfl⟩

theorem mem_boundStrands {s : State} {u : Strand} : u ∈ boundStrands s ↔ (u = s.strand ∨ u ∈ s.others) ∧ u.bound = true := by
  simp [boundStrands]

/-- A saved strand is no longer bound. -/
theorem boundStrands_saveStrand {t u : Strand} {s : State} (h : u ∈ boundStrands (saveStrand t s)) :
    u ∈ boundStrands s ∧ u.id ≠ t.id := by
  obtain ⟨hs, ho, -⟩ := saveStrand_strands t s
  rw [mem_boundStrands, hs, ho] at h
  obtain ⟨h | h, hb⟩ := h
  · split at h
    · rw [h] at hb; cases hb
    · rename_i hn
      subst h
      exact ⟨mem_boundStrands.mpr ⟨.inl rfl, hb⟩, by simpa [hb] using hn⟩
  · obtain ⟨hm, hi⟩ := List.mem_filter.mp h
    exact ⟨mem_boundStrands.mpr ⟨.inr hm, hb⟩, by simpa using hi⟩

/-- Once the contexts of some strands are saved, none of their numbers is bound. -/
theorem boundStrands_saveAll {l : List Strand} {u : Strand} {s : State}
    (h : u ∈ boundStrands (l.foldl (fun s t => saveStrand t s) s)) : u ∈ boundStrands s ∧ ∀ t ∈ l, u.id ≠ t.id := by
  induction l generalizing s with
  | nil => exact ⟨h, by simp⟩
  | cons t l ih =>
    obtain ⟨hu, hl⟩ := ih h
    obtain ⟨hb, ht⟩ := boundStrands_saveStrand hu
    exact ⟨hb, by simpa [ht] using hl⟩

theorem parked_saveAll (l : List Strand) (s : State) :
    (l.foldl (fun s t => saveStrand t s) s).parked.length = s.parked.length + l.length := by
  induction l generalizing s with
  | nil => rfl
  | cons t l ih =>
    obtain ⟨-, -, hp⟩ := saveStrand_strands t s
    rw [List.foldl_cons, ih, hp, List.length_append, List.length_cons, List.length_cons, List.length_nil]
    omega

/-- The bound strands of a crew. -/
def boundOf (id : Nat) (s : State) : List Strand := (boundStrands s).filter fun t => t.crew == id

theorem recallCrew_eq (id : Nat) (s : State) : recallCrew id s =
    if holdsLock s id then s
    else if (boundOf id s).isEmpty then s
    else if (boundOf id s).any fun t => saveFails s t then loseCrew id ((boundOf id s).foldl (fun s t => markLost t s) s)
    else
      let s1 := (boundOf id s).foldl (fun s t => saveStrand t s) (suspendJobs id s)
      { s1 with crews := s1.crews.map fun c => if c.id = id then { c with readyAt := nowNs s } else c } := rfl

/-- A recall of a crew whose contexts can be saved leaves none of it bound, and each of its strands recalled (R297). -/
theorem recallCrew_saves {id : Nat} {s : State} (hl : holdsLock s id = false)
    (hf : ∀ t ∈ boundStrands s, t.crew = id → saveFails s t = false) :
    (∀ u ∈ boundStrands (recallCrew id s), u.crew ≠ id ∨ u.bound = false) ∧
      (recallCrew id s).parked.length = s.parked.length + (boundOf id s).length := by
  obtain ⟨hs, ho, hp⟩ := suspendJobs_sameStrands id s
  have hb : boundStrands (suspendJobs id s) = boundStrands s := by rw [boundStrands, hs, ho]; rfl
  have hok : (boundOf id s).any (fun t => saveFails s t) = false := by
    simpa [boundOf] using fun t ht hc => hf t ht hc
  have hmem {u : Strand} (hu : u ∈ boundStrands s) (hc : u.crew = id) : u ∈ boundOf id s :=
    List.mem_filter.mpr ⟨hu, by simpa using hc⟩
  rw [recallCrew_eq, hl, hok]
  simp only [Bool.false_eq_true, if_false]
  split
  next he =>
    have hn : boundOf id s = [] := List.isEmpty_iff.mp he
    exact ⟨fun u hu => .inl fun hc => by simpa [hn] using hmem hu hc, by simp [hn]⟩
  next =>
    refine ⟨fun u hu => .inl fun hc => ?_, (parked_saveAll _ _).trans (by rw [hp])⟩
    obtain ⟨hu1, hne⟩ := boundStrands_saveAll (l := boundOf id s) (s := suspendJobs id s) hu
    exact hne u (hmem (hb ▸ hu1) hc) rfl

section
variable {c : Crew} {s : State} (hc : s.crews.find? (fun y => y.id == c.id) = some c)
include hc

theorem quantumExpiry_recalls (h : ∃ p ∈ slotWaiters s c.cl, p ≤ c.prio) :
    exec (.quantumExpiry c.id) s = .next (recallCrew c.id s) := by
  have ha : (slotWaiters s c.cl).any (fun p => decide (p ≤ c.prio)) = true := by simpa using h
  change execQuantumExpiry c.id s = _
  simp only [execQuantumExpiry, hc, ha, if_true]

theorem quantumExpiry_stays (h : ∀ p ∈ slotWaiters s c.cl, c.prio < p) : exec (.quantumExpiry c.id) s = .next s := by
  have ha : (slotWaiters s c.cl).any (fun p => decide (p ≤ c.prio)) = false := by simpa using h
  change execQuantumExpiry c.id s = _
  simp only [execQuantumExpiry, hc, ha, Bool.false_eq_true, if_false]

end

/-- Settles O48: binding through the placements of the flights, the fresh strand register by register, recall by induction on
the crew's bound strands, whose saves touch no other strand. -/
theorem bindingEvents : Obligations.BindingEvents := by
  intro x c i csa id r s s1
  refine ⟨fun he => ⟨fun hf hr => ⟨bindCrew_next he hf hr, bindCrew_noRoom he hf hr⟩, bindCrew_recalledFirst he,
    fun y z => bindCrew_outranked he⟩, bindNext_notReady, ?_, ?_, fun hc => ⟨fun h => ⟨_, quantumExpiry_recalls hc h, rfl⟩,
    quantumExpiry_stays hc⟩⟩
  · exact ⟨word_rw x.words 0 (by decide), by simp [priv, freshStrand, Strand.unbound], rfl, rfl, rfl, rfl,
      freshStrand_getS s x c i csa id r⟩
  · intro hl hf
    obtain ⟨hb, hp⟩ := recallCrew_saves hl hf
    exact ⟨recallCrew c.id s, rfl, hb, hp⟩

end Sys2Proof.Binding
end

section
/-! PROOFS. Supervisor-only instructions in user mode, and the changes of role that a user-mode `bankrole` may ask for (O11). -/

namespace Sys2Proof.Privilege

open Sys2Proof.Machine Sys2Proof.Laws Sys2Proof.ScalarFlow

-- ## The check of the mode (R42)

section
variable {i : Instr} {g : Guard} {s : State}

/-- In user mode, behind a true and readable guard, the check raises *privileged*. -/
theorem supervisorOnly_traps (hp : priv s.strand = false) (hu : upsetValue s.strand [] [g.p] = none)
    (hg : guardOn g s.strand = true) : supervisorOnly i g s = .error (.trap .privileged (headWord i)) s := by
  simp [supervisorOnly, hp, hu, hg]

/-- The check comes behind the guard: a false one passes it. -/
theorem supervisorOnly_guardOff (hg : guardOn g s.strand = false) : supervisorOnly i g s = .ok () s := by
  simp [supervisorOnly, hg]

end

/-- An instruction that executes in state `s` as a scalar one behind the check of the mode, whatever it reads and does. -/
def ChecksMode (i : Instr) (g : Guard) (s : State) : Prop :=
  ∃ rs ws work, exec i s = scalarOp g rs ws [] (supervisorOnly i g) work s

namespace ChecksMode

variable {i : Instr} {g : Guard} {s : State}

theorem traps (h : ChecksMode i g s) (hp : priv s.strand = false) (hu : upsetValue s.strand [] [g.p] = none)
    (hg : guardOn g s.strand = true) : exec i s = .next (raiseScalar .privileged (headWord i) s.strand.pc s) := by
  obtain ⟨rs, ws, work, hx⟩ := h
  exact hx.trans (scalarOp_checkTraps (supervisorOnly_traps hp hu hg))

theorem guardOff (h : ChecksMode i g s) (hu : upsetValue s.strand [] [g.p] = none) (hg : guardOn g s.strand = false) :
    exec i s = .next (advance s) := by
  obtain ⟨rs, ws, work, hx⟩ := h
  rw [hx, scalarOp_checked (supervisorOnly_guardOff hg)]
  exact scalarOp_guardOff hg hu

end ChecksMode

section
variable {g : Guard} {d a : BitVec 5} {s : State}

/-- An `eret` at its start: one that goes on after a wait has made the check. -/
theorem eret_checksMode (hr : s.strand.returning = none) : ChecksMode (.eret g) g s := by
  refine ⟨[], [], eretStarts, ?_⟩
  show execEret g s = _
  simp only [execEret, hr]

/-- A `ctxload` at its start. -/
theorem ctxload_checksMode (hr : s.strand.returning = none) : ChecksMode (.ctxload g d a) g s := by
  refine ⟨[a], [d], loadContext d a, ?_⟩
  show execCtxload g d a s = _
  simp only [execCtxload, hr]

end

-- ## The changes of role in user mode (R189)

section
variable {g : Guard} {rs ws : List (BitVec 5)} {ps : List (BitVec 3)} {work : M Unit} {s s1 : State}

/-- The work of a ready instruction that goes on at its successor traps. -/
theorem plainOp_traps {c : Cause} {v : Word} (h : Ready g rs ws ps s) (hw : work s = .error (.trap c v) s1) :
    plainOp g rs ws ps work s = .next (raiseWith s.strand.fflags c v s.strand.pc s1) :=
  scalarOp_traps h (by simp only [thenNext, hw])

end

/-- Operand A of `bankrole` names a bank of the core store, or with bit 8 one of the cluster store. -/
def NamesBank (x : Nat) : Prop := x = x % 64 ∧ x % 64 < 16 ∨ x = x % 64 + 256 ∧ x % 64 < 48

/-- Bit 8 of a legal operand A picks the cluster store. -/
theorem bit8_iff {x : Nat} (hx : NamesBank x) : bit x 8 = true ↔ x = x % 64 + 256 := by
  unfold NamesBank at hx
  simp only [bit, beq_iff_eq]
  omega

/-- The operands are legal: no reserved bit is set, and the bank and the role exist. -/
theorem bankrole_legal {x y : Nat} (hx : NamesBank x) (hy : y < 3) :
    (bits x 7 6 != 0 || x / 2 ^ 9 != 0 || y / 4 != 0 || y == 3 || decide ((if bit x 8 then 47 else 15) < bits x 5 0)) = false := by
  have h8 := bit8_iff hx
  unfold NamesBank at hx
  have hb : bits x 5 0 = x % 64 := by simp [bits]
  have h76 : bits x 7 6 = 0 := by simp only [bits]; omega
  have h9 : x < 512 := by omega
  have h4 : y / 4 = 0 := by omega
  have h3 : y ≠ 3 := by omega
  have hlast : ¬ (if bit x 8 then 47 else 15) < x % 64 := by
    rcases hx with ⟨he, hl⟩ | ⟨he, hl⟩
    · split <;> omega
    · rw [if_pos (h8.mpr he)]
      omega
  simp [hb, h76, h9, h4, h3, hlast]

/-- The check of reserved operands passes (R189). -/
theorem bankrole_passes {i : Instr} {x y : Nat} (hx : NamesBank x) (hy : y < 3) :
    illegalIf (bits x 7 6 != 0 || x / 2 ^ 9 != 0 || y / 4 != 0 || y == 3 ||
      decide ((if bit x 8 then 47 else 15) < bits x 5 0)) i s = .ok () s :=
  if_neg (Bool.eq_false_iff.mp (bankrole_legal hx hy))

/-- A bank that exists and is not in role C is in role S or F. -/
theorem notC_iff (r : Option ClBank) : (r != some .c && r.isSome) = true ↔ r = some .s ∨ r = some .f := by
  rcases r with _ | _ | _ | _ <;> decide

/-- The change that user mode is allowed (R189): of a bank of the crew's own window, from S or F, to S or F. -/
def OwnChange (x y : Nat) (s : State) : Prop :=
  x = x % 64 + 256 ∧ s.strand.wb ≤ x % 64 ∧ x % 64 < s.strand.wb + s.strand.wn ∧
    ((clusterAt s (myCluster s)).banks[x % 64]? = some .s ∨ (clusterAt s (myCluster s)).banks[x % 64]? = some .f) ∧ y ≠ 0

/-- The test that `execBankrole` makes of a user-mode change. -/
def changePermitted (x y : Nat) (s : State) : Bool :=
  let now := (clusterAt s (myCluster s)).banks[bits x 5 0]?
  bit x 8 && (decide (s.strand.wb ≤ bits x 5 0) && decide (bits x 5 0 < s.strand.wb + s.strand.wn)) && now != some .c &&
    now.isSome && y != 0

theorem changePermitted_iff {x y : Nat} {s : State} (hx : NamesBank x) : changePermitted x y s = true ↔ OwnChange x y s := by
  have hb : bits x 5 0 = x % 64 := by simp [bits]
  have hn := notC_iff (clusterAt s (myCluster s)).banks[x % 64]?
  simp only [Bool.and_eq_true] at hn
  simp only [changePermitted, OwnChange, hb, Bool.and_eq_true, bit8_iff hx, decide_eq_true_eq, bne_iff_ne (b := 0), ← hn]
  tauto

section
variable {g : Guard} {d a b : BitVec 5} {s : State}

/-- A change that user mode is not permitted raises *privileged* (R189). -/
theorem bankrole_traps (hp : priv s.strand = false) (h : Ready g [a, b] [d] [] s) (hx : NamesBank (getS s.strand a).toNat)
    (hy : (getS s.strand b).toNat < 3) (hc : changePermitted (getS s.strand a).toNat (getS s.strand b).toNat s = false) :
    exec (.bankrole g d a b) s = .next (raiseScalar .privileged (headWord (.bankrole g d a b)) s.strand.pc s) := by
  refine plainOp_traps h ?_
  refine (bind_ok (m := illegalIf _ _) (bankrole_passes hx hy)).trans ?_
  refine bind_error (m := trapIf _ _ _) (if_pos ?_)
  rw [hp]
  exact congrArg (!·) hc

/-- A permitted change gets past the trap and waits for an empty VQ. -/
theorem bankrole_waits (hp : priv s.strand = false) (h : Ready g [a, b] [d] [] s) (hx : NamesBank (getS s.strand a).toNat)
    (hy : (getS s.strand b).toNat < 3) (hc : changePermitted (getS s.strand a).toNat (getS s.strand b).toNat s = true)
    (hq : s.strand.vq ≠ []) : exec (.bankrole g d a b) s = .next (waitScalar .drain s) := by
  refine plainOp_waits h ?_
  refine (bind_ok (m := illegalIf _ _) (bankrole_passes hx hy)).trans ?_
  refine (bind_ok (m := trapIf _ _ _) (if_neg ?_)).trans ?_
  · rw [hp]
    exact Bool.eq_false_iff.mp (congrArg (!·) hc)
  · exact bind_error (m := waitIf _ _) (if_pos (by simpa using hq))

end

/-- Settles O11: each instruction of the list makes the check of the mode; `bankrole` tests the change asked for. -/
theorem supervisorOnly : Obligations.SupervisorOnly := by
  unfold Obligations.SupervisorOnly
  constructor
  · intro g d a b c slot v hc s hp hr hu i hi
    have hm : ChecksMode i g s := by
      simp only [List.mem_cons, List.not_mem_nil, or_false] at hi
      rcases hi with rfl | rfl | rfl | rfl | rfl | rfl | rfl | rfl | rfl
      · exact eret_checksMode hr
      · exact ⟨_, _, _, rfl⟩
      · exact ⟨_, _, _, rfl⟩
      · exact ctxload_checksMode hr
      · exact ⟨_, _, _, rfl⟩
      · exact ⟨_, _, _, rfl⟩
      · exact ⟨_, _, _, rfl⟩
      · exact ⟨_, _, _, rfl⟩
      · exact ⟨_, _, _, rfl⟩
    exact ⟨hm.traps hp hu, hm.guardOff hu⟩
  · intro g d a b s hp h x y bank old own hx hy
    have ho : changePermitted x y s = true ↔ own := changePermitted_iff hx
    exact ⟨fun hn => bankrole_traps hp h hx hy (Bool.eq_false_iff.mpr (mt ho.mp hn)),
      fun hn => bankrole_waits hp h hx hy (ho.mpr hn)⟩

end Sys2Proof.Privilege
end

section
/-! PROOFS. Scalar integer instructions: their results and their frame (O1), division (O2). -/

namespace Sys2Proof.ScalarInteger

open Sys2Proof.Machine Sys2Proof.Laws

-- ## The frame of the integer instructions (R62, R63)

section
variable {g : Guard} {i : Instr} {rs ws : List (BitVec 5)} {ps : List (BitVec 3)} {s : State}

/-- A ready instruction whose work changes the strand alone does that and goes on. -/
theorem plainOp_doneWith {f : Strand → Strand} (h : Ready g rs ws ps s) :
    plainOp g rs ws ps (onStrand f) s = .next (doneWith f s) :=
  plainOp_ready h rfl

/-- A ready instruction that writes a scalar register writes what its function gives for the strand before. -/
theorem exec_setS {d : BitVec 5} {f : Strand → Word} {v : Word}
    (hx : exec i s = plainOp g rs ws ps (onStrand fun t => setS t d (f t)) s) (h : Ready g rs ws ps s) (hv : f s.strand = v := by rfl) :
    exec i s = .next (doneWith (fun t => setS t d v) s) :=
  hv ▸ hx.trans (plainOp_doneWith h)

/-- A ready instruction that writes a predicate writes what its function gives for the strand before. -/
theorem exec_setP {d : BitVec 3} {f : Strand → Bool} {v : Bool}
    (hx : exec i s = plainOp g rs ws ps (onStrand fun t => setP t d (f t)) s) (h : Ready g rs ws ps s) (hv : f s.strand = v := by rfl) :
    exec i s = .next (doneWith (fun t => setP t d v) s) :=
  hv ▸ hx.trans (plainOp_doneWith h)

end

-- ## Products, orders and shifts (R63)

/-- The upper half of the signed product, as that of the product of the extended operands. -/
theorem mulh_eq (x y : Word) :
    BitVec.ofInt 64 (x.toInt * y.toInt / 2 ^ 64) = ((x.signExtend 128 * y.signExtend 128) >>> 64).setWidth 64 := by
  have hp : x.signExtend 128 * y.signExtend 128 = BitVec.ofInt 128 (x.toInt * y.toInt) := (BitVec.ofInt_mul ..).symm
  rw [hp]
  generalize x.toInt * y.toInt = z
  apply BitVec.eq_of_toNat_eq
  simp only [BitVec.toNat_ofInt, BitVec.toNat_setWidth, BitVec.toNat_ushiftRight, Nat.shiftRight_eq_div_pow]
  omega

/-- The upper half of the natural product, as that of the product of the extended operands. -/
theorem mulhn_eq (x y : Word) :
    word (x.toNat * y.toNat / 2 ^ 64) = ((x.setWidth 128 * y.setWidth 128) >>> 64).setWidth 64 := by
  have hlt : x.toNat * y.toNat < 2 ^ 128 := lt_of_lt_of_eq (Nat.mul_lt_mul'' x.isLt y.isLt) (by decide)
  apply BitVec.eq_of_toNat_eq
  simp only [word, BitVec.toNat_ofNat, BitVec.toNat_setWidth, BitVec.toNat_ushiftRight, BitVec.toNat_mul, Nat.shiftRight_eq_div_pow,
    Nat.mod_eq_of_lt (Nat.lt_trans x.isLt (by decide : 2 ^ 64 < 2 ^ 128)),
    Nat.mod_eq_of_lt (Nat.lt_trans y.isLt (by decide : 2 ^ 64 < 2 ^ 128)), Nat.mod_eq_of_lt hlt]

theorem min_eq (x y : Word) : (if y.slt x then y else x) = if x.toInt ≤ y.toInt then x else y := by
  simp only [BitVec.slt_iff_toInt_lt, ← Int.not_le, ite_not]

theorem minn_eq (x y : Word) : (if y.ult x then y else x) = if x.toNat ≤ y.toNat then x else y := by
  simp only [BitVec.ult_iff_lt, BitVec.lt_def, ← Nat.not_le, ite_not]

/-- Equal operands have one maximum, whichever is taken. -/
theorem max_eq (x y : Word) : (if x.slt y then y else x) = if x.toInt ≤ y.toInt then y else x := by
  simp only [BitVec.slt_iff_toInt_lt, Int.lt_iff_le_and_ne, ne_eq, BitVec.toInt_inj]
  split_ifs <;> simp_all

/-- Equal operands have one maximum, whichever is taken. -/
theorem maxn_eq (x y : Word) : (if x.ult y then y else x) = if x.toNat ≤ y.toNat then y else x := by
  simp only [BitVec.ult_iff_lt, BitVec.lt_def, Nat.lt_iff_le_and_ne, ne_eq, BitVec.toNat_inj]
  split_ifs <;> simp_all

theorem rot_eq (x : Word) (k : Nat) : (x <<< (k % 64)) ||| (x >>> (64 - k % 64)) = x.rotateLeft (k % 64) := by
  rw [BitVec.rotateLeft_def, Nat.mod_mod]

-- ## Counts of bits (R63)

theorem bit_eq_testBit (x i : Nat) : bit x i = x.testBit i := by
  rw [bit, Nat.testBit_eq_decide_div_mod_eq]; rfl

/-- Leading zeros: the zero bits from the top, ended by a one or the bottom. -/
theorem clzN_spec (n x : Nat) : clzN n x ≤ n ∧ (∀ i < clzN n x, x.testBit (n - 1 - i) = false) ∧
    (clzN n x < n → x.testBit (n - 1 - clzN n x) = true) := by
  induction n with
  | zero => simp [clzN]
  | succ n ih =>
    obtain ⟨hle, hz, ho⟩ := ih
    by_cases hb : x.testBit n = true
    · simp [clzN, bit_eq_testBit, hb]
    · have hc : clzN (n + 1) x = 1 + clzN n x := by simp [clzN, bit_eq_testBit, hb]
      rw [hc]
      refine ⟨by omega, fun i hi => ?_, fun h => ?_⟩
      · cases i with
        | zero => simpa using hb
        | succ i => exact (show n + 1 - 1 - (i + 1) = n - 1 - i by omega) ▸ hz i (by omega)
      · exact (show n + 1 - 1 - (1 + clzN n x) = n - 1 - clzN n x by omega) ▸ ho (by omega)

/-- Trailing zeros: the zero bits from the bottom, ended by a one or the top. -/
theorem ctzN_spec (n x : Nat) : ctzN n x ≤ n ∧ (∀ i < ctzN n x, x.testBit i = false) ∧
    (ctzN n x < n → x.testBit (ctzN n x) = true) := by
  induction n generalizing x with
  | zero => simp [ctzN]
  | succ n ih =>
    obtain ⟨hle, hz, ho⟩ := ih (x / 2)
    by_cases hb : x % 2 = 1
    · simp [ctzN, hb, Nat.testBit_zero]
    · have hc : ctzN (n + 1) x = ctzN n (x / 2) + 1 := by simp [ctzN, hb, Nat.add_comm]
      rw [hc]
      refine ⟨by omega, fun i hi => ?_, fun h => ?_⟩
      · cases i with
        | zero => simpa [Nat.testBit_zero] using hb
        | succ i => exact Nat.testBit_succ x i ▸ hz i (by omega)
      · exact Nat.testBit_succ x _ ▸ ho (by omega)

/-- The one bits among the low n. -/
theorem popN_eq_countP (n x : Nat) : popN n x = (List.range n).countP fun i => x.testBit i := by
  induction n generalizing x with
  | zero => rfl
  | succ n ih =>
    have hs : (fun i => x.testBit i) ∘ Nat.succ = fun i => (x / 2).testBit i := funext fun i => Nat.testBit_succ x i
    rw [popN, ih, List.range_succ_eq_map, List.countP_cons, List.countP_map, hs, Nat.testBit_zero, Nat.add_comm]
    rcases Nat.mod_two_eq_zero_or_one x with h | h <;> simp [h]

-- ## Extensions and fields (R68, R69)

/-- The signed value of the low bits of a number is that of the vector of those bits. -/
theorem signedOf_eq_toInt (w x : Nat) : signedOf w x = (BitVec.ofNat w x).toInt := by
  simp only [signedOf, BitVec.toInt, BitVec.toNat_ofNat]

/-- The value that a type's bits put in a register (R75, R82, R85): extended with the sign for i types, with zeros for others. -/
theorem toReg_eq (ty : Ty) (x : Nat) : toReg ty x =
    if ty.isSigned then (BitVec.ofNat ty.width x).signExtend 64 else (BitVec.ofNat ty.width x).setWidth 64 := by
  have hu : word (x % 2 ^ ty.width) = (BitVec.ofNat ty.width x).setWidth 64 := by
    rw [word, ← BitVec.toNat_ofNat, BitVec.ofNat_toNat]
  simp only [toReg, signedOf_eq_toInt, hu, BitVec.signExtend]

/-- The low bits of a register, extended as their type says (R68). -/
theorem toReg_toNat (ty : Ty) (x : Word) :
    toReg ty x.toNat = if ty.isSigned then (x.setWidth ty.width).signExtend 64 else (x.setWidth ty.width).setWidth 64 := by
  rw [toReg_eq, BitVec.ofNat_toNat]

/-- `bfi` bit by bit: the inserted field, and the rest of the destination. -/
theorem getLsbD_insertField (x y : Word) (pos len i : Nat) (hi : i < 64) :
    ((y &&& ~~~(word (2 ^ len - 1) <<< pos)) ||| ((x <<< pos) &&& (word (2 ^ len - 1) <<< pos))).getLsbD i =
      if pos ≤ i ∧ i < pos + len then x.getLsbD (i - pos) else y.getLsbD i := by
  have hm : (word (2 ^ len - 1) <<< pos).getLsbD i = decide (pos ≤ i ∧ i < pos + len) := by
    simp only [word, BitVec.getLsbD_shiftLeft, BitVec.getLsbD_ofNat, Nat.testBit_two_pow_sub_one]
    by_cases h : pos ≤ i
    · simp [h, hi, Nat.not_lt.mpr h, Nat.sub_lt_iff_lt_add' h, show i < pos + 64 by omega]
    · simp [h, Nat.not_le.mp h]
  simp only [BitVec.getLsbD_or, BitVec.getLsbD_and, BitVec.getLsbD_not, hm, hi, BitVec.getLsbD_shiftLeft]
  by_cases h : pos ≤ i ∧ i < pos + len
  · simp [h, Nat.not_lt.mpr h.1]
  · simp [h]

-- ## Conditions (R66, R67)

/-- Each condition as the order that the rule gives it. -/
theorem condHolds_eq (x y : Word) :
    condHolds .eq x y = decide (x = y) ∧ condHolds .ne x y = decide (x ≠ y) ∧ condHolds .lt x y = decide (x.toInt < y.toInt) ∧
    condHolds .ge x y = decide (y.toInt ≤ x.toInt) ∧ condHolds .le x y = decide (x.toInt ≤ y.toInt) ∧
    condHolds .gt x y = decide (y.toInt < x.toInt) ∧ condHolds .ltn x y = decide (x.toNat < y.toNat) ∧
    condHolds .gen x y = decide (y.toNat ≤ x.toNat) ∧ condHolds .len x y = decide (x.toNat ≤ y.toNat) ∧
    condHolds .gtn x y = decide (y.toNat < x.toNat) := by
  have slt (u v : Word) : u.slt v = decide (u.toInt < v.toInt) := rfl
  have ult (u v : Word) : u.ult v = decide (u.toNat < v.toNat) := rfl
  simp only [condHolds, slt, ult, ← decide_not, Int.not_lt, Nat.not_lt, bne, ne_eq, BEq.beq, and_self]


/-- Settles O1: each instruction is a frame around a function of its operands, whose value is the rule's. -/
theorem scalarIntegerResults : Obligations.ScalarIntegerResults := by
  unfold Obligations.ScalarIntegerResults
  refine ⟨?_, ?_, ?_⟩
  · intro g d a b sh s h x y out
    exact ⟨exec_setS rfl h, exec_setS rfl h, exec_setS rfl h, exec_setS rfl h (by exact mulh_eq x y),
      exec_setS rfl h (by exact mulhn_eq x y), exec_setS rfl h, exec_setS rfl h, exec_setS rfl h, exec_setS rfl h, exec_setS rfl h,
      exec_setS rfl h (by exact min_eq x y), exec_setS rfl h (by exact max_eq x y), exec_setS rfl h (by exact minn_eq x y),
      exec_setS rfl h (by exact maxn_eq x y), exec_setS rfl h, exec_setS rfl h, exec_setS rfl h,
      exec_setS rfl h (by exact rot_eq x y.toNat), exec_setS rfl h⟩
  · intro g d a b c ty pos len1 imm imm64 s x out field
    refine ⟨fun h => ?_, fun h => ?_, fun h => exec_setS rfl h, fun h => ⟨exec_setS rfl h, exec_setS rfl h⟩⟩
    · obtain ⟨hcl, hcz, hco⟩ := clzN_spec 64 x.toNat
      obtain ⟨htl, htz, hto⟩ := ctzN_spec 64 x.toNat
      refine ⟨⟨clzN 64 x.toNat, hcl, exec_setS rfl h, fun i hi => ?_, fun hn => ?_⟩,
        ⟨ctzN 64 x.toNat, htl, exec_setS rfl h, htz, hto⟩, exec_setS rfl h (by exact congrArg word (popN_eq_countP 64 x.toNat)),
        exec_setS rfl h (by exact toReg_toNat ty x), exec_setS rfl h,
        exec_setS rfl h (by exact congrArg (BitVec.ofInt 64) (signedOf_eq_toInt _ field)), exec_setS rfl h, exec_setS rfl h,
        exec_setS rfl h, exec_setS rfl h⟩
      · simp [BitVec.getMsbD, BitVec.getLsbD, hcz i hi]
      · simp [BitVec.getMsbD, BitVec.getLsbD, hn, hco hn]
    · exact ⟨_, exec_setS rfl h, fun i hi => getLsbD_insertField x _ pos.toNat (len1.toNat + 1) i hi⟩
  · intro g d p q a b imm s x y is iz out cmp cmpi pop
    refine ⟨fun h => ?_, fun h => ?_, fun h => ?_⟩
    · obtain ⟨h0, h1, h2, h3, h4, h5, h6, h7, h8, h9⟩ := condHolds_eq x y
      exact ⟨exec_setP rfl h h0, exec_setP rfl h h1, exec_setP rfl h h2, exec_setP rfl h h3, exec_setP rfl h h4,
        exec_setP rfl h h5, exec_setP rfl h h6, exec_setP rfl h h7, exec_setP rfl h h8, exec_setP rfl h h9⟩
    · obtain ⟨h0, h1, h2, h3, h4, h5, -⟩ := condHolds_eq x is
      obtain ⟨-, -, -, -, -, -, h6, h7, h8, h9⟩ := condHolds_eq x iz
      exact ⟨exec_setP rfl h h0, exec_setP rfl h h1, exec_setP rfl h h2, exec_setP rfl h h3, exec_setP rfl h h4,
        exec_setP rfl h h5, exec_setP rfl h h6, exec_setP rfl h h7, exec_setP rfl h h8, exec_setP rfl h h9⟩
    · exact ⟨exec_setP rfl h, exec_setP rfl h, exec_setP rfl h, exec_setP rfl h, exec_setP rfl h⟩

-- ## Division (R64)

/-- The one quotient that 64 bits do not hold. -/
def Overflows (x y : Word) : Prop := x = BitVec.intMin 64 ∧ y = BitVec.allOnes 64


/-- The signed quotient: the overflowing one wraps to the least value. -/
theorem sdivrem_quotient (x y : Word) : (sdivrem x y).1 =
    if y = 0 then 0xFFFFFFFFFFFFFFFF else if x = BitVec.intMin 64 ∧ y = BitVec.allOnes 64 then BitVec.intMin 64
      else BitVec.ofInt 64 (x.toInt.tdiv y.toInt) := by
  unfold sdivrem
  split
  · rfl
  · split
    next h => obtain ⟨rfl, rfl⟩ := h; decide
    next => rfl

/-- The natural quotient. -/
theorem udivrem_quotient (x y : Word) :
    (udivrem x y).1 = if y = 0 then 0xFFFFFFFFFFFFFFFF else BitVec.ofNat 64 (x.toNat / y.toNat) := by
  unfold udivrem
  split <;> rfl

/-- The wrapped signed quotient and the remainder make up the dividend. -/
theorem sdivrem_sum {x y : Word} (hy : y ≠ 0) : (sdivrem x y).2 + (sdivrem x y).1 * y = x := by
  simp only [sdivrem, hy, if_false]
  calc BitVec.ofInt 64 (x.toInt.tmod y.toInt) + BitVec.ofInt 64 (x.toInt.tdiv y.toInt) * y
      = BitVec.ofInt 64 (x.toInt.tmod y.toInt + y.toInt * x.toInt.tdiv y.toInt) := by
        rw [BitVec.ofInt_add, BitVec.ofInt_mul, BitVec.ofInt_toInt, BitVec.mul_comm]
    _ = x := by rw [Int.tmod_add_mul_tdiv, BitVec.ofInt_toInt]

/-- The natural quotient and the remainder make up the dividend. -/
theorem udivrem_sum {x y : Word} (hy : y ≠ 0) : (udivrem x y).2 + (udivrem x y).1 * y = x := by
  simp only [udivrem, hy, if_false]
  calc word (x.toNat % y.toNat) + word (x.toNat / y.toNat) * y
      = word (x.toNat % y.toNat + y.toNat * (x.toNat / y.toNat)) := by
        rw [word, word, word, BitVec.ofNat_add, BitVec.ofNat_mul, BitVec.ofNat_toNat, BitVec.setWidth_eq, BitVec.mul_comm]
    _ = x := by rw [Nat.mod_add_div, word, BitVec.ofNat_toNat, BitVec.setWidth_eq]

/-- The signed remainder; that of the overflowing quotient is 0. -/
theorem sdivrem_remainder (x y : Word) : (sdivrem x y).2 =
    if y = 0 then x else if x = BitVec.intMin 64 ∧ y = BitVec.allOnes 64 then 0 else x - (sdivrem x y).1 * y := by
  split
  next hy => simp [sdivrem, hy]
  next hy =>
    split
    next h => obtain ⟨rfl, rfl⟩ := h; decide
    next => exact eq_sub_of_add_eq (sdivrem_sum hy)

/-- The natural remainder. -/
theorem udivrem_remainder (x y : Word) : (udivrem x y).2 = if y = 0 then x else x - (udivrem x y).1 * y := by
  split
  next hy => simp [udivrem, hy]
  next hy => exact eq_sub_of_add_eq (udivrem_sum hy)

/-- Settles O2: the quotients of the rule, and the remainders that they leave. -/
theorem divisionResults : Obligations.DivisionResults := by
  unfold Obligations.DivisionResults
  intro g d a b s h x y out ovf q qn
  have hq : (sdivrem x y).1 = q := sdivrem_quotient x y
  have hqn : (udivrem x y).1 = qn := udivrem_quotient x y
  rw [← hq, ← hqn]
  exact ⟨exec_setS rfl h, exec_setS rfl h, exec_setS rfl h (by exact sdivrem_remainder x y),
    exec_setS rfl h (by exact udivrem_remainder x y)⟩

end Sys2Proof.ScalarInteger
end

section
/-! How a scalar trap is raised (R97, R101): taken at once behind an empty VQ, held behind older entries. -/

namespace Sys2Proof.ScalarTraps

open Sys2Proof.Machine Sys2Proof.Laws

/-- A strand that has entered the handler of a scalar trap, in the line `p` that `XVEC` leads to (R97, R101). -/
def inHandler (c : Cause) (v xpc : Word) (p : Pass) (t : Strand) : Strand :=
  { atHandler c v false { deliverPending t with xpc := xpc, xvcp := 0 } with pc := t.xvec, pass := some p }

/-- A strand without a held trap has no flags to deliver. -/
theorem deliverPending_none {t : Strand} (h : t.pendTrap = none) : deliverPending t = t := by
  have hf : t.fflags ||| (t.pendTrap.map fun p => p.flags).getD 0 = t.fflags := by simp [h]
  exact congrArg (fun x => { t with fflags := x }) hf

theorem inHandler_fflags {c : Cause} {v xpc : Word} {p : Pass} {t : Strand} (h : t.pendTrap = none) :
    (inHandler c v xpc p t).fflags = t.fflags :=
  (congrArg Strand.fflags (deliverPending_none h) :)

theorem inHandler_getS (c : Cause) (v xpc : Word) (p : Pass) (t : Strand) (r : BitVec 5) : getS (inHandler c v xpc p t) r = getS t r := rfl

/-- A read of a scalar register sees the register file alone. -/
theorem getS_congr {t u : Strand} (h : t.sregs = u.sregs) (r : BitVec 5) : getS t r = getS u r := by
  simp only [getS, h]

/-- A read of a predicate sees the predicates alone. -/
theorem getP_congr {t u : Strand} (h : t.pregs = u.pregs) (r : BitVec 3) : getP t r = getP u r := by
  simp only [getP, h]

/-- Two strands that make the same access to the same handler: what the check of `XVEC` sees of a strand. -/
structure SameMaker (t u : Strand) : Prop where
  id : t.id = u.id
  queue : t.queue = u.queue
  wb : t.wb = u.wb
  wn : t.wn = u.wn
  xvec : t.xvec = u.xvec

theorem SameMaker.refl (t : Strand) : SameMaker t t := ⟨rfl, rfl, rfl, rfl, rfl⟩

/-- The check of a handler's line sees nothing else of the strand. -/
theorem targetCheck_sameMaker {s : State} {t : Strand} (h : SameMaker t s.strand) :
    targetCheck true t.xvec { s with strand := t } = withStrand t (targetCheck true s.strand.xvec s) :=
  h.xvec ▸ targetCheck_strand true _ s t h.id h.queue h.wb h.wn

section
variable {old : BitVec 6} {c : Cause} {v xpc : Word} {s s1 : State} {p : Pass} {t : Strand}

/-- Behind older entries of the VQ a trap is held, with the flags that its instruction has added (R97). -/
theorem raiseWith_held (hq : s.strand.vq ≠ []) (hp : s.strand.pendTrap = none) :
    raiseWith old c v xpc s =
      mapStrand (fun t => { t with pendTrap := some ⟨c, v, xpc, t.fflags⟩, fflags := old, scalarWait := none }) s := by
  simp [raiseWith, hq, mapStrand, hp]

/-- While the host page of the handler's line is being translated, a trap stands (R30). -/
theorem raiseWith_stands {k : WaitKind} (hq : s.strand.vq = []) (hc : isPageFault c = false) (hp : s.strand.pendTrap = none)
    (ht : targetCheck true s.strand.xvec s = .error (.wait k) s1) :
    raiseWith old c v xpc s =
      waitScalar .ats (mapStrand (fun t => { t with pendTrap := some ⟨c, v, xpc, t.fflags⟩, fflags := old }) s) := by
  simp [raiseWith, hq, hc, handlerWait, ht, mapStrand, hp]

/-- Behind an empty VQ a trap is taken unless its handler's line is to be waited for. -/
theorem raiseWith_taken (hq : s.strand.vq = []) (hc : isPageFault c = false) (hw : handlerWait s = none) :
    raiseWith old c v xpc s = enterHandler c v false (mapStrand (fun t => { deliverPending t with xpc := xpc, xvcp := 0 }) s) := by
  simp [raiseWith, takeScalar, hq, hc, hw]

/-- A valid target at `XVEC` is entered. -/
theorem enterHandler_enters {q : Bool} (h : SameMaker t s.strand) (ht : targetCheck true s.strand.xvec s = .ok p s1) :
    enterHandler c v q { s with strand := t } =
      { abandonAll s1 with strand := { atHandler c v q t with pc := t.xvec, pass := some p } } := by
  have hid : t.id = s1.strand.id := by rw [targetCheck_keeps ht, h.id]
  have hk : targetCheck true t.xvec { s with strand := t } = .ok p { s1 with strand := t } := by
    rw [targetCheck_sameMaker h, ht]; rfl
  rw [enterHandler_eq, hk]
  dsimp only
  rw [abandonAll_other s1 t hid]

/-- Without a valid target at `XVEC` the context is lost (R30, R101). -/
theorem enterHandler_loses {q : Bool} {e : Stop} (h : SameMaker t s.strand) (ht : targetCheck true s.strand.xvec s = .error e s1) :
    (enterHandler c v q { s with strand := t }).strand = loseContext (atHandler c v q t) := by
  have hk : targetCheck true t.xvec { s with strand := t } = .error e { s1 with strand := t } := by
    rw [targetCheck_sameMaker h, ht]; rfl
  rw [enterHandler_eq, hk]

/-- A trap behind an empty VQ enters its handler. The check of the handler's line does not see what the instruction has done to
the rest of the strand. -/
theorem raiseWith_enters (h : SameMaker t s.strand) (ht : targetCheck true s.strand.xvec s = .ok p s1) (hq : t.vq = [])
    (hc : isPageFault c = false) :
    raiseWith old c v xpc { s with strand := t } = { abandonAll s1 with strand := inHandler c v xpc p t } := by
  have hw : handlerWait { s with strand := t } = none := by simp [handlerWait, targetCheck_sameMaker h, ht, withStrand]
  rw [raiseWith_taken hq hc hw]
  exact enterHandler_enters (s := s) (t := { deliverPending t with xpc := xpc, xvcp := 0 }) ⟨h.id, h.queue, h.wb, h.wn, h.xvec⟩ ht

/-- A trap behind an empty VQ without a valid target at `XVEC` loses the context. -/
theorem raiseWith_loses {c' : Cause} {v' : Word} (ht : targetCheck true s.strand.xvec s = .error (.trap c' v') s1) (hq : s.strand.vq = [])
    (hc : isPageFault c = false) :
    (raiseWith old c v xpc s).strand.stopped = true ∧ (raiseWith old c v xpc s).strand.lost = true := by
  have hw : handlerWait s = none := by simp [handlerWait, ht]
  have hl := enterHandler_loses (c := c) (v := v) (q := false) (t := { deliverPending s.strand with xpc := xpc, xvcp := 0 })
    ⟨rfl, rfl, rfl, rfl, rfl⟩ ht
  rw [raiseWith_taken hq hc hw]
  exact ⟨congrArg Strand.stopped hl, congrArg Strand.lost hl⟩

end

end Sys2Proof.ScalarTraps
end

section
/-! PROOFS. Scalar floating point: results, flags and the FP trap (O3). -/

namespace Sys2Proof.ScalarFp

open Sys2Proof.Machine Sys2Proof.Laws Sys2Proof.ScalarFlow Sys2Proof.ScalarTraps Sys2Proof.ScalarInteger

-- ## Instructions that raise flags (R77)

/-- The strand with the flags of an instruction ORed into `FFLAGS`. -/
def withFlags (fl : BitVec 6) (t : Strand) : Strand := { t with fflags := t.fflags ||| fl }

/-- What an instruction that raises the flags `fl` does, `f` being its effect on the strand: it delivers the flags and has its
effect, or raises *FP trap* where one of them is enabled. -/
structure RaisesFlags (i : Instr) (fl : BitVec 6) (f : Strand → Strand) (s : State) : Prop where
  writes : flagTraps s.strand fl = false → exec i s = .next (doneWith (fun t => f (withFlags fl t)) s)
  traps : flagTraps s.strand fl = true → exec i s =
    .next (raiseWith s.strand.fflags .fpTrap (fl.setWidth 64) s.strand.pc (mapStrand (withFlags fl) s))

section
variable {i : Instr} {g : Guard} {rs ws : List (BitVec 5)} {s : State} {fl : BitVec 6}

/-- Flags of which none is enabled are delivered. -/
theorem deliverScalar_ok (h : flagTraps s.strand fl = false) : deliverScalar fl s = .ok () (mapStrand (withFlags fl) s) := by
  simp only [deliverScalar, h, Bool.false_eq_true, if_false]; rfl

/-- An enabled flag traps, with the flags as its value. -/
theorem deliverScalar_traps (h : flagTraps s.strand fl = true) :
    deliverScalar fl s = .error (.trap .fpTrap (fl.setWidth 64)) (mapStrand (withFlags fl) s) := by
  simp only [deliverScalar, h, if_true]; rfl

/-- The work of an instruction that raises flags: they are delivered, and then it has its effect on the strand. -/
def deliverThen (fl : BitVec 6) (f : Strand → Strand) : M Unit := fun s =>
  match deliverScalar fl s with
  | .error e s1 => .error e s1
  | .ok _ s1 => onStrand f s1

theorem raisesFlags_of_work {f : Strand → Strand} {work : M Unit} (h : Ready g rs ws [] s) (hx : exec i s = plainOp g rs ws [] work s)
    (hw : work s = deliverThen fl f s) : RaisesFlags i fl f s where
  writes hf := hx.trans (plainOp_ready h (by rw [hw, deliverThen, deliverScalar_ok hf]; rfl))
  traps hf := hx.trans (scalarOp_traps h (by simp only [thenNext, hw, deliverThen, deliverScalar_traps hf]))

section
variable {d : BitVec 5} {f : FFmt} {rm r : Rm} {q : FpRes}

/-- A mode that RM or `FRM` selects. -/
theorem scalarRm_ok (hr : rmode rm s.strand.frm = some r) : scalarRm i rm s = .ok r s := by
  simp only [scalarRm, hr]

/-- A rounding instruction (R78). -/
theorem fpOp_raisesFlags {op : FpFmt → Rm → Strand → FpRes} (h : Ready g rs [d] [] s) (hr : rmode rm s.strand.frm = some r)
    (hx : exec i s = fpOp i g f rm d rs op s) (hq : op (fmtOf (ffmtTy f)) r s.strand = q := by rfl) :
    RaisesFlags i q.2 (fun t => setS t d (word q.1)) s := by
  subst hq
  refine raisesFlags_of_work h hx ?_
  simp only [scalarRm_ok hr]
  rfl

/-- An operation on the values of two registers. -/
def onTwo (op : FpFmt → Rm → Nat → Nat → FpRes) (a b : BitVec 5) (k : FpFmt) (r : Rm) (t : Strand) : FpRes :=
  op k r (fpArg k (getS t a)) (fpArg k (getS t b))

/-- The four operations on two registers (R78). -/
theorem arithmetic_raisesFlags {a b : BitVec 5} (h : Ready g [a, b] [d] [] s) (hr : rmode rm s.strand.frm = some r) :
    let k := fmtOf (ffmtTy f)
    let x := (getS s.strand a).toNat % 2 ^ k.w
    let y := (getS s.strand b).toNat % 2 ^ k.w
    ∀ p ∈ [(Instr.fadd g f rm d a b, fpAdd k r x y), (.fsub g f rm d a b, fpSub k r x y), (.fmul g f rm d a b, fpMul k r x y),
           (.fdiv g f rm d a b, fpDiv k r x y)], RaisesFlags p.1 p.2.2 (fun t => setS t d (word p.2.1)) s := by
  intro k x y
  simp only [List.forall_mem_cons, List.not_mem_nil, false_imp_iff, implies_true, and_true]
  exact ⟨fpOp_raisesFlags (op := onTwo fpAdd a b) h hr rfl, fpOp_raisesFlags (op := onTwo fpSub a b) h hr rfl,
    fpOp_raisesFlags (op := onTwo fpMul a b) h hr rfl, fpOp_raisesFlags (op := onTwo fpDiv a b) h hr rfl⟩

theorem fma_raisesFlags {a b c : BitVec 5} (h : Ready g [a, b, c] [d] [] s) (hr : rmode rm s.strand.frm = some r) :
    let k := fmtOf (ffmtTy f)
    let q := fpFma k r ((getS s.strand a).toNat % 2 ^ k.w) ((getS s.strand b).toNat % 2 ^ k.w) ((getS s.strand c).toNat % 2 ^ k.w)
    RaisesFlags (.fma g f rm d a b c) q.2 (fun t => setS t d (word q.1)) s :=
  fpOp_raisesFlags (op := fun k r t => fpFma k r (fpArg k (getS t a)) (fpArg k (getS t b)) (fpArg k (getS t c))) h hr rfl

theorem fsqrt_raisesFlags {a : BitVec 5} (h : Ready g [a] [d] [] s) (hr : rmode rm s.strand.frm = some r) :
    let k := fmtOf (ffmtTy f)
    let q := fpSqrt k r ((getS s.strand a).toNat % 2 ^ k.w)
    RaisesFlags (.fsqrt g f rm d a) q.2 (fun t => setS t d (word q.1)) s :=
  fpOp_raisesFlags (op := fun k r t => fpSqrt k r (fpArg k (getS t a))) h hr rfl

/-- A conversion (R82, R83). -/
theorem fcvt_raisesFlags {dty sty : Ty} {a : BitVec 5} (h : Ready g [a] [d] [] s) (hr : rmode rm s.strand.frm = some r) :
    let q := convert r dty sty ((getS s.strand a).toNat % 2 ^ sty.width)
    RaisesFlags (.fcvt g dty sty rm d a) q.2 (fun t => setS t d (toReg dty q.1)) s := by
  refine raisesFlags_of_work h rfl ?_
  simp only [scalarRm_ok hr]
  rfl

/-- Minimum and maximum (R79). -/
theorem fpPickOp_raisesFlags {a b : BitVec 5} {op : FpFmt → Nat → Nat → FpRes} (h : Ready g [a, b] [d] [] s)
    (hx : exec i s = fpPickOp g f d a b op s) :
    let k := fmtOf (ffmtTy f)
    let q := op k ((getS s.strand a).toNat % 2 ^ k.w) ((getS s.strand b).toNat % 2 ^ k.w)
    RaisesFlags i q.2 (fun t => setS t d (word q.1)) s :=
  raisesFlags_of_work h hx rfl

/-- Comparison (R80): `v` and `fl` are its predicate and its flags. -/
theorem fcmp_raisesFlags {cc : FCond} {p : BitVec 3} {a b : BitVec 5} {v : Bool} {fl : BitVec 6} (h : Ready g [a, b] [] [] s)
    (hq : fpCond (fmtOf (ffmtTy f)) cc (fpArg (fmtOf (ffmtTy f)) (getS s.strand a)) (fpArg (fmtOf (ffmtTy f)) (getS s.strand b)) = (v, fl)) :
    RaisesFlags (.fcmp g f cc p a b) fl (fun t => setP t p v) s := by
  obtain rfl : _ = v := congrArg Prod.fst hq
  obtain rfl : _ = fl := congrArg Prod.snd hq
  exact raisesFlags_of_work h rfl rfl

end

-- ## The FP trap (R77, R97, R101)

/-- An enabled flag, as the statement writes it. -/
theorem flagTraps_iff : flagTraps s.strand fl = true ↔ fl &&& s.strand.status.extractLsb' 0 6 ≠ 0 := by
  simp [flagTraps, fte]

/-- With an empty VQ and a valid handler an enabled flag's trap is taken, its flags delivered. -/
theorem RaisesFlags.taken {f : Strand → Strand} {p : Pass} {s1 : State} (h : RaisesFlags i fl f s)
    (hf : flagTraps s.strand fl = true) (hq : s.strand.vq = []) (ht : targetCheck true s.strand.xvec s = .ok p s1) :
    exec i s = .next { abandonAll s1 with
      strand := inHandler .fpTrap (fl.setWidth 64) s.strand.pc p (withFlags fl s.strand) } := by
  rw [h.traps hf]
  exact congrArg _ (raiseWith_enters (s := s) (t := withFlags fl s.strand) ⟨rfl, rfl, rfl, rfl, rfl⟩ ht hq rfl)

/-- Behind older entries it is held with its flags, and `FFLAGS` stays as it was. -/
theorem RaisesFlags.held {f : Strand → Strand} (h : RaisesFlags i fl f s) (hp : s.strand.pendTrap = none)
    (hf : flagTraps s.strand fl = true) (hq : s.strand.vq ≠ []) :
    exec i s = .next (mapStrand (fun t => { t with
      pendTrap := some ⟨.fpTrap, fl.setWidth 64, s.strand.pc, s.strand.fflags ||| fl⟩, scalarWait := none }) s) := by
  rw [h.traps hf]
  exact congrArg _ (raiseWith_held (s := mapStrand (withFlags fl) s) hq hp)

end

/-- The predicate and the flags of a comparison, condition by condition (R80). -/
theorem fpCond_eq (k : FpFmt) (cc : FCond) (a b : Nat) :
    let x := fpRead k a
    let y := fpRead k b
    let un := isNan x || isNan y
    let nv := if cc = .lt ∨ cc = .le then un else isSnan x || isSnan y
    fpCond k cc a b = (match cc with
      | .eq => !un && valCmp x y == .eq
      | .ne => un || valCmp x y != .eq
      | .lt => !un && valCmp x y == .lt
      | .le => !un && valCmp x y != .gt
      | .un => un
      | .ord => !un, if nv then 16 else 0) := by
  cases cc <;> rfl

/-- Settles O3: each instruction raises its flags and has its effect, or traps; the trap is taken or held. -/
theorem scalarFpResults : Obligations.ScalarFpResults := by
  unfold Obligations.ScalarFpResults
  refine ⟨?_, ?_, ?_⟩
  · intro g f rm r dty sty d a b c s k x y z writes
    refine ⟨fun h hr p hp => (arithmetic_raisesFlags h hr p hp).writes, fun h hr => (fma_raisesFlags h hr).writes,
      fun h hr => (fsqrt_raisesFlags h hr).writes, fun h hr => (fcvt_raisesFlags h hr).writes, fun h => ?_, fun h => exec_setS rfl h⟩
    simp only [List.forall_mem_cons, List.not_mem_nil, false_imp_iff, implies_true, and_true]
    exact ⟨(fpPickOp_raisesFlags (op := fpMin) h rfl).writes, (fpPickOp_raisesFlags (op := fpMaxN) h rfl).writes⟩
  · intro g f cc d a b s h k x y un nv fl v
    have hc : fpCond k cc ((getS s.strand a).toNat % 2 ^ k.w) ((getS s.strand b).toNat % 2 ^ k.w) = (v, fl) := fpCond_eq ..
    have hf : RaisesFlags (.fcmp g f cc d a b) fl (fun t => setP t d v) s := fcmp_raisesFlags h hc
    exact ⟨hf.writes, hf.traps⟩
  · intro g f rm r dty sty d a b c s hp k x y z traps
    have all {i : Instr} {fl : BitVec 6} {e : Strand → Strand} (h : RaisesFlags i fl e s) : traps i fl := fun hf =>
      have hf := flagTraps_iff.mpr hf
      ⟨fun q s1 hq ht => ⟨_, h.taken hf hq ht, inHandler_fflags hp, rfl, rfl, rfl, rfl, inHandler_getS _ _ _ _ _, rfl⟩, fun hq => h.held hp hf hq⟩
    refine ⟨fun hr => ⟨fun h p hp => all (arithmetic_raisesFlags h hr p hp), fun h => all (fma_raisesFlags h hr),
      fun h => ⟨all (fsqrt_raisesFlags h hr), all (fcvt_raisesFlags h hr)⟩⟩,
      fun h => ⟨all (fpPickOp_raisesFlags (op := fpMin) h rfl), all (fpPickOp_raisesFlags (op := fpMaxN) h rfl)⟩⟩

end Sys2Proof.ScalarFp
end

section
/-! PROOFS. `sys` and `trap` (O9), `eret` (O10). -/

namespace Sys2Proof.SoftTrapsReturn

open Sys2Proof.Machine Sys2Proof.Laws Sys2Proof.ScalarFlow Sys2Proof.ScalarTraps

-- ## The words of `sys` and `trap` (R92)

/-- The low fields of a T4-rri tail are its registers. -/
theorem packRri_registers (d a : BitVec 5) (imm : BitVec 22) : ((packRri d a imm).setWidth 96).extractLsb' 0 10 = a ++ d := by
  have ht : (packRri d a imm).setWidth 96 = (imm ++ (a ++ d)).setWidth 96 := by rw [packRri, BitVec.append_assoc]; rfl
  simp (disch := decide) only [-Nat.reduceAdd, ht, BitVec.extractLsb'_setWidth_of_le,
    BitVec.extractLsb'_append_eq_of_add_le, BitVec.extractLsb'_eq_self]

/-- A word of one of the two opcodes has zero registers, and its immediate above. -/
theorem decode_softTrap {h : BitVec 16} {tl : BitVec 96} {i : Instr} {op : Nat} {mk : Guard → BitVec 22 → Instr} (hop : headOp h = op)
    (hlt : op < 0xF0) (hparse : ∀ g, parse op g tl = some (mk g (fImm22 tl))) (henc : ∀ g imm, encode (mk g imm) = eRri op g 0 0 imm)
    (hd : decode h tl = .ok i) : tl.extractLsb' 0 10 = 0 ∧ i = mk (headGuard h) (tl.extractLsb' 10 22) := by
  obtain ⟨-, hp, he, -⟩ := (decode_ok_iff (hop ▸ hlt)).mp hd
  rw [hop, hparse] at hp
  obtain rfl := Option.some.inj hp
  have ht : (packRri 0 0 (fImm22 tl)).setWidth 96 = tl := by
    rw [henc] at he
    exact congrArg Prod.snd (Option.some.inj he)
  exact ⟨ht ▸ packRri_registers 0 0 _, rfl⟩

-- ## The trap (R92, R97, R101)

section
variable {g : Guard} {c : Cause} {imm : BitVec 22} {s s1 : State}

/-- Behind a true guard the trap is raised, with the successor for `XPC`. -/
theorem softTrap_raises (hu : upsetValue s.strand [] [g.p] = none) (hg : guardOn g s.strand = true) :
    softTrap g c imm s = .next (raiseScalar c (imm.setWidth 64) (successor s.strand) s) := by
  simp only [softTrap, hu, hg, if_true]

/-- A false guard raises nothing. -/
theorem softTrap_guardOff (hu : upsetValue s.strand [] [g.p] = none) (hg : guardOn g s.strand = false) :
    softTrap g c imm s = .next (advance s) := by
  simp only [softTrap, hu, hg, Bool.false_eq_true, if_false]

end

/-- Settles O9: the words by what the parser reads, the trap by whether it is held, taken or stands. -/
theorem softTraps : Obligations.SoftTraps := by
  unfold Obligations.SoftTraps
  constructor
  · intro h tl i hd
    exact ⟨fun hop => decode_softTrap (mk := .sys) hop (by decide) (fun _ => rfl) (fun _ _ => rfl) hd,
      fun hop => decode_softTrap (mk := .trap) hop (by decide) (fun _ => rfl) (fun _ _ => rfl) hd⟩
  · intro g imm s hu hp x hx
    obtain ⟨he, hn, hc⟩ : exec x.1 s = softTrap g x.2.2 imm s ∧ x.2.1 = word (causeCode x.2.2) ∧ isPageFault x.2.2 = false := by
      simp only [List.mem_cons, List.not_mem_nil, or_false] at hx
      rcases hx with rfl | rfl <;> exact ⟨rfl, rfl, rfl⟩
    rw [he]
    refine ⟨fun hg hq => ?_, fun hg hq => ?_, softTrap_guardOff hu⟩
    · rw [softTrap_raises hu hg]
      refine ⟨fun p s1 ht => ⟨_, congrArg _ (raiseWith_enters (s := s) (.refl s.strand) ht hq hc), ?_, withModes_priv _ _ _,
        withModes_ppriv _ _ _, withModes_low _ _ _, rfl⟩, fun c v s1 ht => ⟨_, rfl, raiseWith_loses ht hq hc⟩, fun k s1 ht =>
          congrArg _ (raiseWith_stands hq hc hp ht)⟩
      simp only [inHandler, deliverPending_none hp, hn]
      rfl
    · rw [softTrap_raises hu hg]
      exact congrArg _ (raiseWith_held hq hp)

-- ## The return (R93, R107)

section
variable {p : Pass} {t : Strand}

/-- With `XCAUSE` bit 8 set the saved queue follows what the VQ holds (R107). -/
theorem leaveHandler_movesQueue (h : t.xcause.getLsbD 8 = true) :
    (leaveHandler p t).vq = t.vq ++ t.saved ∧ (leaveHandler p t).saved = [] := by
  simp only [leaveHandler, h, if_true, and_self]

/-- With bit 8 clear both queues stay. -/
theorem leaveHandler_keepsQueues (h : t.xcause.getLsbD 8 = false) :
    (leaveHandler p t).vq = t.vq ∧ (leaveHandler p t).saved = t.saved := by
  simp only [leaveHandler, h, Bool.false_eq_true, if_false, and_self]

/-- What a strand `u` that has returned from its handler in line `p` keeps of the strand `x` before, and what it does not. -/
structure Returned (x : Strand) (p : Pass) (u : Strand) : Prop where
  pc : u.pc = x.xpc
  pass : u.pass = some p
  returning : u.returning = none
  moves : x.xcause.getLsbD 8 = true → u.vq = x.vq ++ x.saved ∧ u.saved = []
  stays : x.xcause.getLsbD 8 = false → u.vq = x.vq ∧ u.saved = x.saved
  scalar : ∀ r, getS u r = getS x r
  pred : ∀ r, getP u r = getP x r
  vregs : u.vregs = x.vregs
  masks : u.masks = x.masks
  vstart : u.vstart = x.vstart
  fflags : u.fflags = x.fflags
  xpc : u.xpc = x.xpc
  xcause : u.xcause = x.xcause
  status : ∀ i < 7, u.status.getLsbD i = x.status.getLsbD i

/-- Whatever becomes of the mode bits on the way. -/
theorem returned_leaveHandler {x : Strand} {st : Word} (hs : ∀ i < 7, st.getLsbD i = x.status.getLsbD i) :
    Returned x p (goTo x.xpc (leaveHandler p { x with status := st })) where
  pc := rfl
  pass := leaveHandler_pass ..
  returning := leaveHandler_returning ..
  moves h := leaveHandler_movesQueue (t := { x with status := st }) h
  stays h := leaveHandler_keepsQueues (t := { x with status := st }) h
  scalar := getS_congr (by simp)
  pred := getP_congr (by simp)
  vregs := by simp
  masks := by simp
  vstart := by simp
  fflags := by simp
  xpc := by simp
  xcause := by simp
  status i hi := by simpa using hs i hi

end

section
variable {g : Guard} {s s1 : State} {p : Pass}

/-- In supervisor mode an `eret` at its start is its work. -/
theorem eret_starts (hr : s.strand.returning = none) (hp : priv s.strand = true) :
    exec (.eret g) s = scalarOp g [] [] [] noCheck eretStarts s := by
  show execEret g s = _
  simp only [execEret, hr]
  exact scalarOp_checked (by simp [supervisorOnly, hp])

/-- One that has changed the mode already goes on, whatever its guard and its registers are now. -/
theorem eret_returning {st : Word} (hr : s.strand.returning = some (p, st)) : exec (.eret g) s = eretGoesOn p s := by
  show execEret g s = _
  simp only [execEret, hr]

/-- An `eret` that need not wait returns. -/
theorem eretStarts_returns (ht : targetCheck (ppriv s.strand) s.strand.xpc s = .ok p s1)
    (hq : s.strand.xcause.getLsbD 8 = true → s.strand.vq = []) :
    eretStarts s = .ok s.strand.xpc (mapStrand (fun t => leaveHandler p (restoreMode t)) s1) := by
  have hs := targetCheck_keeps ht
  have hc : (s.strand.xcause.getLsbD 8 && !s.strand.vq.isEmpty) = false := by
    cases hb : s.strand.xcause.getLsbD 8 with
    | false => rfl
    | true => simp [hq hb]
  simp only [eretStarts, ht, hs, hc, Bool.false_eq_true, if_false]

/-- An `eret` that moves the saved queue waits for the entries of the handler, in the mode to return to. -/
theorem eretStarts_waits (ht : targetCheck (ppriv s.strand) s.strand.xpc s = .ok p s1) (hb : s.strand.xcause.getLsbD 8 = true)
    (hq : s.strand.vq ≠ []) :
    eretStarts s = .error (.wait .drain) (mapStrand (fun t => { restoreMode t with returning := some (p, t.status) }) s1) := by
  have hs := targetCheck_keeps ht
  simp [eretStarts, ht, hs, hb, hq]

end

/-- A mode that is restored is the saved one, and none is saved. -/
theorem restoreMode_modes (t : Strand) : priv (restoreMode t) = ppriv t ∧ ppriv (restoreMode t) = false :=
  ⟨withModes_priv .., withModes_ppriv ..⟩

/-- The way back to the line that called leaves the modes as they are. -/
theorem leaveHandler_modes (pc : Word) (p : Pass) (t : Strand) :
    priv (goTo pc (leaveHandler p t)) = priv t ∧ ppriv (goTo pc (leaveHandler p t)) = ppriv t := by
  simp only [priv, ppriv, goTo_status, leaveHandler_status, and_self]

/-- Settles O10: an `eret` at its start returns or waits; one that waits goes on without another check. -/
theorem eretReturns : Obligations.EretReturns := by
  unfold Obligations.EretReturns
  intro g s h x returned
  have all {t s1 : State} {p : Pass} (hs : t = { s1 with strand := t.strand }) (hr : Returned x p t.strand) : returned t s1 p :=
    ⟨hs, hr.pc, hr.pass, hr.returning, hr.moves, hr.stays, hr.scalar, hr.pred, hr.vregs, hr.masks, hr.vstart, hr.fflags, hr.xpc,
      hr.xcause, hr.status⟩
  refine ⟨fun p s1 hn hp ht hq => ?_, fun p s1 hn hp ht hb hq => ?_, fun p st hn => ⟨fun hq => ?_, fun hq => ?_⟩⟩
  · have hx := (eret_starts hn hp).trans (scalarOp_goes h (eretStarts_returns ht hq))
    have hs : s1.strand = x := targetCheck_keeps ht
    have hm := leaveHandler_modes x.xpc p (restoreMode x)
    rw [(restoreMode_modes x).1, (restoreMode_modes x).2, ← hs] at hm
    refine ⟨_, hx, all rfl ?_, hs ▸ hm.1, hm.2⟩
    simp only [mapStrand_strand, hs]
    exact returned_leaveHandler (withModes_low _ _ _)
  · have hx : exec (.eret g) s = _ := (eret_starts hn hp).trans (by rw [scalarOp_ready h, eretStarts_waits ht hb hq])
    have hs : s1.strand = x := targetCheck_keeps ht
    have hm := restoreMode_modes x
    rw [← hs] at hm ⊢
    exact ⟨_, hx, hm.1, hm.2, rfl, rfl, rfl, rfl, rfl⟩
  · have hx : exec (.eret g) s = .next (mapStrand (fun t => goTo t.xpc (leaveHandler p t)) s) := by
      rw [eret_returning hn, eretGoesOn, show s.strand.vq = [] from hq]
      rfl
    exact ⟨_, hx, all rfl (returned_leaveHandler (st := x.status) fun _ _ => rfl),
      (goTo_status x.xpc (leaveHandler p x)).trans (leaveHandler_status p x)⟩
  · rw [eret_returning hn, eretGoesOn, List.isEmpty_eq_false_iff.mpr (show s.strand.vq ≠ [] from hq)]
    rfl

end Sys2Proof.SoftTrapsReturn
end

section
/-! PROOFS. Scalar loads and stores: their results and first checks (O4), and those in core scratch (O5). -/

namespace Sys2Proof.LoadStore

open Sys2Proof.Machine Sys2Proof.Laws Sys2Proof.ScalarFlow Sys2Proof.Privilege Sys2Proof.ScalarInteger

section
variable {g : Guard} {ty : Ty} {d a : BitVec 5} {off : BitVec 24} {s s1 : State}

/-- A ready load that is answered writes the value as a register of its type holds it. -/
theorem ld_loads {v : Nat} (hf : NoFence s) (h : Ready g [a] [d] [] s)
    (hl : Loads s (getS s.strand a + off.signExtend 64) ty.bytes v s1) :
    exec (.ld g ty d a off) s = .next (doneWith (fun t => setS t d (toReg ty v)) s1) :=
  plainOp_ready h ((bind_ok (fenceWait_passes hf)).trans (bind_ok hl))

/-- A ready load whose access traps raises that trap, in the state that the access leaves. -/
theorem ld_traps {c : Cause} {v : Word} (hf : NoFence s) (h : Ready g [a] [d] [] s)
    (hl : loadVa (me s) (whoAmI s) (getS s.strand a + off.signExtend 64) ty.bytes s = .error (.trap c v) s1) :
    exec (.ld g ty d a off) s = .next (raiseWith s.strand.fflags c v s.strand.pc s1) :=
  plainOp_traps h ((bind_ok (fenceWait_passes hf)).trans (bind_error (f := fun v => wrS d (toReg ty v)) hl))

/-- A ready store that is made goes on. -/
theorem st_stores {p : Place} (hf : NoFence s) (h : Ready g [a, d] [] [] s)
    (hs : Stores s (getS s.strand a + off.signExtend 64) ty.bytes (getS s.strand d).toNat p s1) :
    exec (.st g ty d a off) s = .next (advance s1) := by
  obtain ⟨b, hc, hw⟩ := hs
  exact plainOp_ready h ((bind_ok (fenceWait_passes hf)).trans ((bind_ok hc).trans hw))

/-- A ready store whose check traps raises that trap. -/
theorem st_traps {c : Cause} {v : Word} (hf : NoFence s) (h : Ready g [a, d] [] [] s)
    (hc : checkAccess (whoAmI s) (getS s.strand a + off.signExtend 64) ty.bytes .store s = .error (.trap c v) s1) :
    exec (.st g ty d a off) s = .next (raiseWith s.strand.fflags c v s.strand.pc s1) :=
  plainOp_traps h ((bind_ok (fenceWait_passes hf)).trans (bind_error (f := fun p => storeChecked (me s) (whoAmI s) p (me s) _ _) hc))

end

-- ## The first checks (R85)

section
variable {w : Who} {va : Word} {n : Nat} {acc : Acc} {s s1 : State}

/-- Bits 63:57 come first. -/
theorem checkAccess_high (h : va.toNat / 2 ^ 57 ≠ 0) : checkAccess w va n acc s = .error (.trap (faultCause acc) va) s := by
  rw [checkAccess, if_pos h]

/-- The alignment comes second, and before any translation. -/
theorem checkAccess_misaligned (h : va.toNat / 2 ^ 57 = 0) (hm : va.toNat % n ≠ 0) :
    checkAccess w va n acc s = .error (.trap .misaligned va) s := by
  rw [checkAccess, if_neg (not_not.mpr h), if_pos hm]

/-- A load that fails its check makes no access. -/
theorem loadVa_stops {b : Nat} {e : Stop} (h : checkAccess w va n .load s = .error e s1) : loadVa b w va n s = .error e s1 := by
  simp only [loadVa, h]

end

/-- Settles O4: the accesses by `plainOp_ready`, the traps by the order of the checks. -/
theorem loadStoreResults : Obligations.LoadStoreResults := by
  unfold Obligations.LoadStoreResults
  refine ⟨?_, ?_⟩
  · intro g ty d a off v p s s1 hf va
    exact ⟨fun h hl => toReg_eq ty v ▸ ld_loads hf h hl, st_stores hf⟩
  · intro g ty d a off s hf va
    exact ⟨fun h hv => ld_traps hf h (loadVa_stops (checkAccess_high hv)), fun h hv => st_traps hf h (checkAccess_high hv),
      fun h hv hm => ld_traps hf h (loadVa_stops (checkAccess_misaligned hv hm)),
      fun h hv hm => st_traps hf h (checkAccess_misaligned hv hm)⟩

-- ## Core scratch (R279)

/-- The state after the acting strand has stored bytes that only it sees as yet. -/
def pend (key : Nat) (bs : List Byte) (s : State) : State :=
  { s with stores := pendBytes (me s) (whoAmI s) s.stepNo key bs s.stores }

/-- A store whose check finds core scratch is made: the strand sees its bytes. -/
theorem storeChecked_scratch {o : Nat} {bs : List Byte} {va : Word} {s : State} (ho : o < 0x40000) :
    storeChecked (me s) (whoAmI s) ⟨coKey (myCore s) o, .coScratch⟩ (me s) bs va s = .ok () (pend (coKey (myCore s) o) bs s) := by
  simp only [storeChecked, reach_scratch, Bool.not_true, Bool.false_eq_true, if_false, atItsHome, checkWrite, storeAt, storeWith,
    storeSure, abandon_scratch ho, storeHere]
  rfl

/-- A store into core scratch succeeds. -/
theorem stores_scratch {va : Word} {n v o : Nat} {s : State} (hp : NoPairs s) (h : coreScratch s va n o) :
    Stores s va n v ⟨coKey (myCore s) o, .coScratch⟩ (pend (coKey (myCore s) o) (leBytes n v) s) :=
  ⟨s, check_scratch (acc := .store) hp h (by decide), storeChecked_scratch h.2.1⟩

/-- Settles O5: the load by `loads_scratch`; the store is the newest one of its bytes, and no store of another byte. -/
theorem scratchLoadStore : Obligations.ScratchLoadStore := by
  unfold Obligations.ScratchLoadStore
  intro g ty d a off o s hf hp hc key
  refine ⟨fun h hpo => ld_loads hf h (loads_scratch hp hc hpo), fun h => ⟨_, st_stores hf h (stores_scratch hp hc), ?_, ?_, rfl⟩⟩
  · intro k hk
    have hl : k < (leBytes ty.bytes (getS s.strand d).toNat).length := by simpa using hk
    exact (seen_pend_in s _ _ key _ k hl).trans (leBytes_getElem _ _ k hk)
  · intro j hj
    exact seen_pend_out s _ _ key _ j (by simpa using hj)

end Sys2Proof.LoadStore
end

section
/-! PROOFS. Wakes, polls, time-outs and yields of what waits (O40). -/

namespace Sys2Proof.Wakes

open Sys2Proof.Machine Sys2Proof.Laws

section
variable {i j : Instr} {f : Instr → State → Option Out} {o : Out} {s s1 : State}

/-- While the scalar stream waits, its next instruction is executed again. -/
theorem againScalar_fetched (hr : runs s.strand = true) (hw : s.strand.scalarWait ≠ none)
    (hf : fetchIssue s = .ok (.scalar i) s1) (hi : f i s1 = some o) : againScalar f s = o := by
  simp [againScalar, hr, hw, hf, hi]

/-- While the VQ waits, the instruction of its head entry is executed again. -/
theorem againVq_head (hr : runs s.strand = true) (hw : s.strand.vqWait ≠ none) (hv : vqNow s = some i) (hi : f i s = some o) :
    againVq f s = o := by
  simp [againVq, hr, hw, hv, hi]

/-- An instruction that always has a next state has it for whatever executes it again. -/
theorem same_next (h : exec i s = exec j s1) (hn : ∃ t, exec j s1 = .next t) : ∃ t, exec i s = .next t ∧ exec j s1 = .next t := by
  obtain ⟨t, ht⟩ := hn
  exact ⟨t, h.trans ht, ht⟩

/-- The poll timer polls the VQ while that waits. -/
theorem waitPollTimer_vq (hw : s.strand.vqWait ≠ none) : exec .waitPollTimer s = againVq (fun i s => match vwaitAgain i s with
    | some r => some r
    | none => setvlAgain i s) s :=
  if_pos (Option.isSome_iff_ne_none.mpr hw)

/-- Otherwise it polls the scalar stream. -/
theorem waitPollTimer_scalar (hw : s.strand.vqWait = none) : exec .waitPollTimer s = againScalar (fun i s => match parkAgain i s with
    | some r => some r
    | none => granuleAgain i s) s :=
  if_neg (by simp [hw])

end

-- ## The scalar stream (R94, R188)

section
variable {g : Guard} {ty : Ty} {d a b : BitVec 5} {off : BitVec 24} {i : Instr} {s s1 : State}

/-- A scalar instruction that goes on at its successor always has a next state. -/
theorem plainOp_next (rs ws : List (BitVec 5)) (ps : List (BitVec 3)) (work : M Unit) : ∃ t, plainOp g rs ws ps work s = .next t :=
  scalarOp_next ..

theorem park_next : ∃ t, exec (.park g d a b) s = .next t :=
  show ∃ t, execPark g d a b s = .next t from plainOp_next ..

theorem ldfe_next (clr : Bool) : ∃ t, ldfeOp g clr ty d a off s = .next t := plainOp_next ..
theorem stfe_next (wait : Bool) : ∃ t, stfeOp g wait ty d a off s = .next t := plainOp_next ..

/-- A full/empty access is one that its wake executes again, and `park` is none. -/
theorem granule_again (hi : i ∈ [Instr.ldfeKeep g ty d a off, .ldfeClr g ty d a off, .stfeFill g ty d a off, .stfeWait g ty d a off]) :
    granuleAgain i s = some (exec i s) ∧ parkAgain i s = none ∧ ∃ t, exec i s = .next t := by
  simp only [List.mem_cons, List.not_mem_nil, or_false] at hi
  rcases hi with rfl | rfl | rfl | rfl
  · exact ⟨rfl, rfl, ldfe_next false⟩
  · exact ⟨rfl, rfl, ldfe_next true⟩
  · exact ⟨rfl, rfl, stfe_next false⟩
  · exact ⟨rfl, rfl, stfe_next true⟩

end

-- ## The VQ (R114, R121, R173, R174)

section
variable {g : Guard} {d a b c : BitVec 5} {bo : BOp} {md m : BitVec 3} {e : VqEntry} {s : State}

theorem vcfg_next : ∃ t, exec (.vcfg g d a) s = .next t := show ∃ t, execVcfg g d a s = .next t from vqOp_next ..

theorem setvlW_next : ∃ t, exec (.setvlW g d a b) s = .next t := show ∃ t, execSetvlW g d a b s = .next t from vqOp_next ..

theorem vwait_next : ∃ t, exec (.vwait g md a bo c m) s = .next t :=
  show ∃ t, execVwait g md a bo c m s = .next t from vqOp_next ..

/-- A time-out has passed when the scale is not all ones and the time from arming is over. -/
theorem vwaitDue_iff {sc : Word} : vwaitDue s sc = true ↔ sc ≠ BitVec.allOnes 64 ∧ s.strand.armedAt + sc.toNat * 65536 ≤ s.ptime := by
  rw [vwaitDue, Bool.and_eq_true, bne_iff_ne, decide_eq_true_iff]

/-- The time-out looks at the scale of the entry at the head. -/
theorem vwaitTimeout_head (h : AtHead e s) :
    exec .vwaitTimeout s = if s.strand.watch != 0 && vwaitDue s e.c then againVq vwaitAgain s else .next s := by
  obtain ⟨r, hr⟩ := List.head?_eq_some_iff.mp h
  show execVwaitTimeout s = _
  simp only [execVwaitTimeout, hr]

/-- With watch entries and its time over, a `vwait` is executed again. -/
theorem vwaitTimeout_due (h : AtHead e s) (hc : e.c ≠ BitVec.allOnes 64) (ht : s.strand.armedAt + e.c.toNat * 65536 ≤ s.ptime)
    (hw : s.strand.watch ≠ 0) : exec .vwaitTimeout s = againVq vwaitAgain s := by
  rw [vwaitTimeout_head h, if_pos]
  rw [Bool.and_eq_true, bne_iff_ne]
  exact ⟨hw, vwaitDue_iff.mpr ⟨hc, ht⟩⟩

/-- Before, without a time-out or without watch entries, nothing happens. -/
theorem vwaitTimeout_early (h : AtHead e s)
    (hn : e.c = BitVec.allOnes 64 ∨ s.ptime < s.strand.armedAt + e.c.toNat * 65536 ∨ s.strand.watch = 0) :
    exec .vwaitTimeout s = .next s := by
  rw [vwaitTimeout_head h, if_neg]
  rw [Bool.and_eq_true, bne_iff_ne, vwaitDue_iff]
  rintro ⟨hw, hc, ht⟩
  rcases hn with hn | hn | hn
  · exact hc hn
  · exact Nat.not_lt.mpr ht hn
  · exact hw hn

end

/-- Settles O40: each wake by what it executes again, the time-out by its time. -/
theorem wakeEvents : Obligations.WakeEvents := by
  unfold Obligations.WakeEvents
  intro g ty d a b c bo md m off s s1 hr same
  refine ⟨fun hw => ⟨fun hf => ?_, fun i hi hf => ?_⟩, fun hw => ⟨fun hv => ?_, fun hv => ?_, fun hv => ?_⟩, fun hw => ?_⟩
  · exact ⟨same_next (againScalar_fetched hr hw hf rfl) park_next, fun hq =>
      same_next ((waitPollTimer_scalar hq).trans (againScalar_fetched hr hw hf rfl)) park_next⟩
  · obtain ⟨hg, hp, hn⟩ := granule_again (s := s1) hi
    exact ⟨same_next (againScalar_fetched hr hw hf hg) hn, fun hq =>
      same_next ((waitPollTimer_scalar hq).trans (againScalar_fetched hr hw hf (by simp only [hp, hg]))) hn⟩
  · exact same_next (againVq_head hr hw hv rfl) vcfg_next
  · exact ⟨same_next (againVq_head hr hw hv rfl) setvlW_next,
      same_next ((waitPollTimer_vq hw).trans (againVq_head hr hw hv rfl)) setvlW_next⟩
  · have again : againVq vwaitAgain s = exec (.vwait g md a bo c m) s := againVq_head hr hw hv rfl
    exact ⟨same_next again vwait_next, same_next ((waitPollTimer_vq hw).trans (againVq_head hr hw hv rfl)) vwait_next, fun e he =>
      ⟨fun hc ht hwt => same_next ((vwaitTimeout_due he hc ht hwt).trans again) vwait_next, vwaitTimeout_early he⟩⟩
  · refine if_pos ?_
    simpa [hr, waiting, Option.isSome_iff_ne_none] using hw

end Sys2Proof.Wakes
end

section
/-! PROOFS. Words that the spec works out (O56). -/

namespace Sys2Proof.WorkedWords

open Sys2Proof.Machine Sys2Proof.Encoding

/-- The instruction is well-formed and has these words. -/
def encodes (x : BitVec 16 × BitVec 96 × Instr) : Bool := wellFormed x.2.2 && encode x.2.2 == some (x.1, x.2.1)

/-- The words of a well-formed instruction decode to it (O55). -/
theorem decode_of_encodes {x : BitVec 16 × BitVec 96 × Instr} (h : encodes x = true) : decode x.1 x.2.1 = .ok x.2.2 := by
  obtain ⟨hw, he⟩ := Bool.and_eq_true_iff.mp h
  exact decodeReadsEncode _ _ _ hw (eq_of_beq he)

/-- Words to which every instruction of a list encodes decode to it. -/
theorem decode_of_all_encodes {l : List (BitVec 16 × BitVec 96 × Instr)} (h : l.all encodes = true) :
    ∀ x ∈ l, decode x.1 x.2.1 = .ok x.2.2 :=
  fun _ hx => decode_of_encodes (List.all_eq_true.mp h _ hx)

/-- Settles O56: each listed instruction encodes as its words, and every encoding is read back. -/
theorem decodedWords : Obligations.DecodedWords :=
  decode_of_all_encodes (by decide)

end Sys2Proof.WorkedWords
end

section
/-! PROOFS. Traps of both streams, their handlers and the page faults that go to Mooring (O39). -/

namespace Sys2Proof.TrapEntry

open Sys2Proof.Machine Sys2Proof.Laws Sys2Proof.ScalarTraps

-- ## What a strand's giving up leaves (R98)

/-- What no abandoned access changes: memory, the stores not yet at their home, and the page faults that are queued. -/
structure SameMemoryAndFaults (u s : State) : Prop where
  mem : u.mem = s.mem
  stores : u.stores = s.stores
  faultNo : u.faultNo = s.faultNo
  faultq : u.faultq = s.faultq

theorem dropUnc_sameMemoryAndFaults (w : Nat) (s : State) : SameMemoryAndFaults (dropUnc w s) s := by
  unfold dropUnc
  split <;> exact ⟨rfl, rfl, rfl, rfl⟩

theorem abandonAll_sameMemoryAndFaults (s : State) : SameMemoryAndFaults (abandonAll s) s := by
  have outer := dropUnc_sameMemoryAndFaults (me s) (dropUnc (me s + 2 ^ 18) (leaveLock s))
  have inner := dropUnc_sameMemoryAndFaults (me s + 2 ^ 18) (leaveLock s)
  exact ⟨outer.mem.trans inner.mem, outer.stores.trans inner.stores, outer.faultNo.trans inner.faultNo,
    outer.faultq.trans inner.faultq⟩

-- ## A page fault goes to Mooring (R103)

/-- The strand of `s` has stopped in `u` at a page fault that is queued for Mooring. -/
structure Faulted (s : State) (va : Word) (acc : Acc) (fromVq : Bool) (elem : Nat) (u : State) : Prop where
  fault : u.strand.fault = some { va := va, acc := acc, fromVq := fromVq, elem := elem, tag := s.faultNo % 2 ^ 16 }
  stops : runs u.strand = false
  counted : u.faultNo = s.faultNo + 1
  queued : u.faultq.length = s.faultq.length + 1
  pc : u.strand.pc = s.strand.pc
  fromScalar : fromVq = false → u.strand.vq = s.strand.vq ∧ u.strand.saved = s.strand.saved ∧ u.strand.vstart = s.strand.vstart
  vstart : fromVq = true → u.strand.vstart = elem
  moves : fromVq = true → s.strand.saved = [] → u.strand.vq = [] ∧ u.strand.saved = s.strand.vq
  stays : fromVq = true → s.strand.saved ≠ [] → u.strand.vq = s.strand.vq ∧ u.strand.saved = s.strand.saved
  scalar : ∀ r, getS u.strand r = getS s.strand r
  mem : u.mem = s.mem

section
variable {elem : Nat} {t : Strand}

/-- A faulting entry and the younger ones move to an empty saved queue. -/
theorem setAside_moves (h : t.saved = []) : (setAside elem t).vq = [] ∧ (setAside elem t).saved = t.vq := by simp [setAside, h]

/-- They stay in the VQ while the saved queue holds others. -/
theorem setAside_stays (h : t.saved ≠ []) : (setAside elem t).vq = t.vq ∧ (setAside elem t).saved = t.saved := by
  simp [setAside, h]

/-- Either way `VSTART` names the element, and the scalar stream is left. -/
theorem setAside_scalar (elem : Nat) (t : Strand) :
    (setAside elem t).vstart = elem ∧ (setAside elem t).pc = t.pc ∧ (setAside elem t).sregs = t.sregs := by
  unfold setAside
  split <;> exact ⟨rfl, rfl, rfl⟩

end

/-- The strand that an intercepted page fault leaves. -/
theorem intercept_strand (va : Word) (acc : Acc) (fromVq : Bool) (elem : Nat) (s : State) :
    (intercept va acc fromVq elem s).strand =
      { (if fromVq then setAside elem s.strand else s.strand) with
        fault := some { va := va, acc := acc, fromVq := fromVq, elem := elem, tag := s.faultNo % 2 ^ 16 }
        scalarWait := none, vqWait := none, watch := 0 } := by
  simp only [intercept, queueFault, mapStrand, abandonAll_strand, (abandonAll_sameMemoryAndFaults s).faultNo]

theorem intercept_faulted (va : Word) (acc : Acc) (fromVq : Bool) (elem : Nat) (s : State) :
    Faulted s va acc fromVq elem (intercept va acc fromVq elem s) := by
  have same := abandonAll_sameMemoryAndFaults s
  have counted : (intercept va acc fromVq elem s).faultNo = s.faultNo + 1 := congrArg (· + 1) same.faultNo
  have queued : (intercept va acc fromVq elem s).faultq.length = s.faultq.length + 1 := by
    simp only [intercept, queueFault, mapStrand_faultq, same.faultq, List.length_append, List.length_singleton]
  have hs := intercept_strand va acc fromVq elem s
  have stops : runs (intercept va acc fromVq elem s).strand = false := by simp [hs, runs]
  cases fromVq with
  | false =>
    exact { fault := by rw [hs], stops, counted, queued, pc := by rw [hs]; rfl,
            fromScalar := fun _ => by rw [hs]; exact ⟨rfl, rfl, rfl⟩,
            vstart := nofun, moves := nofun, stays := nofun, scalar := getS_congr (by rw [hs]; rfl), mem := same.mem }
  | true =>
    obtain ⟨hv, hp, hr⟩ := setAside_scalar elem s.strand
    exact { fault := by rw [hs], stops, counted, queued, pc := by rw [hs]; exact hp, fromScalar := nofun,
            vstart := fun _ => by rw [hs]; exact hv, moves := fun _ h => by rw [hs]; exact setAside_moves h,
            stays := fun _ h => by rw [hs]; exact setAside_stays h, scalar := getS_congr (by rw [hs]; exact hr), mem := same.mem }

-- ## The causes of a page fault (R102, R103)

section
variable {c : Cause}

theorem isPageFault_iff : isPageFault c = true ↔ c = .loadFault ∨ c = .storeFault := by cases c <;> simp [isPageFault]

theorem isPageFault_eq_false (hl : c ≠ .loadFault) (hs : c ≠ .storeFault) : isPageFault c = false := by
  simp [← Bool.not_eq_true, isPageFault_iff, hl, hs]

theorem causeAcc_eq : causeAcc c = if c = .storeFault then .store else .load := by cases c <;> rfl

end

-- ## A handler is entered (R101)

/-- The strand `t` has entered in `u` its handler, with its trap recorded; the check of the handler's line has left `s1`. -/
structure Entered (t : Strand) (s1 : State) (was : Bool) (code : Nat) (v pc vcp : Word) (u : State) : Prop where
  supervisor : priv u.strand = true
  mode : ppriv u.strand = was
  xcause : u.strand.xcause = word code
  xval : u.strand.xval = v
  xpc : u.strand.xpc = pc
  xvcp : u.strand.xvcp = vcp
  pc : u.strand.pc = t.xvec
  scalar : ∀ r, getS u.strand r = getS t r
  pred : ∀ r, getP u.strand r = getP t r
  vregs : u.strand.vregs = t.vregs
  masks : u.strand.masks = t.masks
  mem : u.mem = s1.mem
  stores : u.stores = s1.stores

/-- Two strands with the same registers and the same handler: what a trap leaves alone before it enters. -/
structure SameRegisters (x t : Strand) : Prop where
  xvec : x.xvec = t.xvec
  sregs : x.sregs = t.sregs
  pregs : x.pregs = t.pregs
  vregs : x.vregs = t.vregs
  masks : x.masks = t.masks

/-- What stands in a strand `x` at its handler's door is recorded, in whatever line the handler is. -/
theorem entered_atHandler {x t : Strand} (h : SameRegisters x t) (c : Cause) (v : Word) (q : Bool) (p : Pass) (s1 : State) :
    Entered t s1 (priv x) (causeCode c + if q then 256 else 0) v x.xpc x.xvcp
      { abandonAll s1 with strand := { atHandler c v q x with pc := x.xvec, pass := some p } } where
  supervisor := withModes_priv ..
  mode := withModes_ppriv ..
  xcause := rfl
  xval := rfl
  xpc := rfl
  xvcp := rfl
  pc := h.xvec
  scalar := getS_congr h.sregs
  pred := getP_congr h.pregs
  vregs := h.vregs
  masks := h.masks
  mem := (abandonAll_sameMemoryAndFaults s1).mem
  stores := (abandonAll_sameMemoryAndFaults s1).stores

-- ## The scalar trap (R97)

/-- A strand that holds a trap until it can be taken. -/
def holding (c : Cause) (v xpc : Word) (t : Strand) : Strand :=
  { t with pendTrap := some ⟨c, v, xpc, t.fflags ||| (t.pendTrap.map fun p => p.flags).getD 0⟩ }

section
variable {cause : BitVec 8} {c : Cause} {v xpc : Word} {s : State}

theorem exec_scalarTrap (hc : causeOf cause.toNat = some c) (hr : runs s.strand = true) :
    exec (.scalarTrap cause v xpc) s = .next (raiseScalar c v xpc s) := by
  show execScalarTrap cause v xpc s = _
  simp only [execScalarTrap, hc, hr, if_true]

/-- Behind older entries a trap without flags of its own is held, whatever is held already. -/
theorem raiseScalar_held (hq : s.strand.vq ≠ []) :
    raiseScalar c v xpc s = { s with strand := { holding c v xpc s.strand with scalarWait := none } } := by
  simp [raiseScalar, raiseWith, hq, mapStrand, holding]

/-- It is held also while the line of the handler is being translated (R30). -/
theorem raiseScalar_stands {k : WaitKind} (hq : s.strand.vq = []) (hc : isPageFault c = false) (hw : handlerWait s = some k) :
    raiseScalar c v xpc s = waitScalar .ats { s with strand := holding c v xpc s.strand } := by
  simp [raiseScalar, raiseWith, hq, hc, hw, mapStrand, holding]

/-- A page fault behind an empty VQ goes to Mooring (R103). -/
theorem raiseScalar_faults (hq : s.strand.vq = []) (hc : isPageFault c = true) :
    raiseScalar c v xpc s = intercept v (causeAcc c) false 0 { s with strand := { s.strand with vq := [], pendTrap := none } } := by
  simp [raiseScalar, raiseWith, takeScalar, mapStrand, hq, hc]

end

-- ## The VQ trap (R98, R104)

/-- The state in which the head entry of the VQ has stopped. -/
def stopHead (s : State) : State := mapStrand (fun t => { t with vq := stopEntry t.vq }) s

/-- The head of the VQ starts anew where it stopped; it is the same instruction. -/
theorem stopEntry_head_pc {e : VqEntry} {l : List VqEntry} (h : l.head? = some e) :
    ((stopEntry l).head?.map fun x => x.pc) = some e.pc := by
  obtain ⟨r, rfl⟩ := List.head?_eq_some_iff.mp h
  rfl

/-- An `eret` in progress is abandoned: the mode that it changed is that before it, and nothing else changes. -/
theorem undoReturn_eq (t : Strand) :
    undoReturn t = { t with status := (t.returning.map fun r => r.2).getD t.status, returning := none } := by
  unfold undoReturn
  cases h : t.returning with
  | some r => rfl
  | none => exact congrArg (fun x => { t with returning := x }) h

/-- A strand whose VQ trap, at an element of the entry at `vcp`, is about to enter its handler (R98). -/
def trappedVq (vcp : Word) (elem : Nat) (t : Strand) : Strand :=
  { t with
    status := (t.returning.map fun r => r.2).getD t.status, returning := none
    saved := t.vq, vq := [], vstart := elem, xpc := t.pc, xvcp := vcp }

section
variable {cause : BitVec 8} {c : Cause} {v : Word} {elem : Nat} {e : VqEntry} {p : Pass} {s s1 : State}

theorem exec_vqTrap (hc : causeOf cause.toNat = some c) (hr : runs s.strand = true) (he : AtHead e s) :
    exec (.vqTrap cause v elem) s = .next (raiseVq c v elem s) := by
  obtain ⟨r, hq⟩ := List.head?_eq_some_iff.mp he
  show execVqTrap cause v elem s = _
  simp [execVqTrap, hc, hr, hq]

/-- A page fault of the VQ goes to Mooring (R103). -/
theorem raiseVq_faults (hc : isPageFault c = true) :
    raiseVq c v elem s = intercept v (causeAcc c) true elem (stopHead s) := if_pos hc

/-- Any other trap is taken as a VQ trap, with the head entry stopped. -/
theorem raiseVq_taken (hc : isPageFault c = false) :
    raiseVq c v elem s = takeVq c v elem (stopHead s) :=
  if_neg (Bool.eq_false_iff.mp hc)

/-- Over an empty saved queue a trap whose handler's line is not to be waited for goes to the handler's door. -/
theorem takeVq_enters {vcp : Word} (hq : s.strand.saved = []) (hw : handlerWait s = none)
    (hv : (s.strand.vq.head?.map fun e => e.pc) = some vcp) :
    takeVq c v elem s = enterHandler c v true { s with strand := trappedVq vcp elem s.strand } := by
  simp [takeVq, hq, hw, hv, mapStrand, undoReturn_eq, trappedVq]

/-- Over an empty saved queue a VQ trap enters its handler. -/
theorem raiseVq_enters (he : AtHead e s) (hc : isPageFault c = false) (hq : s.strand.saved = [])
    (ht : targetCheck true s.strand.xvec s = .ok p s1) :
    raiseVq c v elem s = { abandonAll s1 with strand :=
      { atHandler c v true (trappedVq e.pc elem (stopHead s).strand) with pc := s.strand.xvec, pass := some p } } := by
  have same : SameMaker (stopHead s).strand s.strand := ⟨rfl, rfl, rfl, rfl, rfl⟩
  have hw : handlerWait (stopHead s) = none := by
    have hk : targetCheck true (stopHead s).strand.xvec (stopHead s) = .ok p { s1 with strand := (stopHead s).strand } :=
      (targetCheck_sameMaker same).trans (by rw [ht]; rfl)
    simp only [handlerWait, hk]
  rw [raiseVq_taken hc, takeVq_enters (s := stopHead s) hq hw (stopEntry_head_pc he)]
  exact enterHandler_enters (s := s) (t := trappedVq e.pc elem (stopHead s).strand) ⟨rfl, rfl, rfl, rfl, rfl⟩ ht

/-- Over a saved queue that holds entries the context is lost (R104). -/
theorem raiseVq_loses (hc : isPageFault c = false) (hq : s.strand.saved ≠ []) :
    (raiseVq c v elem s).strand.stopped = true ∧ (raiseVq c v elem s).strand.lost = true := by
  simp [raiseVq_taken hc, takeVq, stopHead, hq]

end

/-- Settles O39: each trap by whether it is held, stands, goes to Mooring, is taken or loses the context. -/
theorem trapEvents : Obligations.TrapEvents := by
  unfold Obligations.TrapEvents
  intro cause c v xpc va acc fromVq elem p k s s1 hc hr t flags held mode entered faulted
  have fault {u : State} {va : Word} {acc : Acc} {fromVq : Bool} {elem : Nat} {q : List VqEntry} {d : Option PendTrap}
      (hf : Faulted { s with strand := { t with vq := q, pendTrap := d } } va acc fromVq elem u) :
      faulted (.next u) va acc fromVq elem q :=
    ⟨u, rfl, hf.fault, hf.stops, hf.counted, hf.queued, hf.pc, hf.fromScalar,
      fun h => ⟨hf.vstart h, hf.moves h, hf.stays h⟩, hf.scalar, hf.mem⟩
  have enter {u : State} {was : Bool} {code : Nat} {pc vcp : Word} (he : Entered t s1 was code v pc vcp u) :
      entered u was code pc vcp :=
    ⟨he.supervisor, he.mode, he.xcause, he.xval, he.xpc, he.xvcp, he.pc, he.scalar, he.pred, he.vregs, he.masks, he.mem,
      he.stores⟩
  have scalar : exec (.scalarTrap cause v xpc) s = .next (raiseScalar c v xpc s) := exec_scalarTrap hc hr
  have vector {e : VqEntry} (he : AtHead e s) : exec (.vqTrap cause v elem) s = .next (raiseVq c v elem s) := exec_vqTrap hc hr he
  refine ⟨?_, fun hq => ?_, fun hq hf => ?_, fun hq hl hs hw => ?_, fun hq hl hs ht => ?_, fun e he hf => ?_,
    fun e he hl hs hq ht => ?_, fun e he hl hs hq => ?_⟩
  · exact fault (d := t.pendTrap) (intercept_faulted va acc fromVq elem s)
  · exact scalar.trans (congrArg _ (raiseScalar_held hq))
  · rw [scalar, raiseScalar_faults hq (isPageFault_iff.mpr hf), ← causeAcc_eq]
    exact fault (intercept_faulted ..)
  · exact scalar.trans (congrArg _ (raiseScalar_stands hq (isPageFault_eq_false hl hs) hw))
  · exact ⟨_, scalar.trans (congrArg _ (raiseWith_enters (.refl t) ht hq (isPageFault_eq_false hl hs))),
      enter (entered_atHandler (t := t) (x := { deliverPending t with xpc := xpc, xvcp := 0 }) ⟨rfl, rfl, rfl, rfl, rfl⟩
        c v false p s1), hq, rfl, rfl⟩
  · rw [vector he, raiseVq_faults (isPageFault_iff.mpr hf), ← causeAcc_eq]
    exact fault (d := t.pendTrap) (intercept_faulted _ _ _ _ (stopHead s))
  · exact ⟨_, (vector he).trans (congrArg _ (raiseVq_enters he (isPageFault_eq_false hl hs) hq ht)),
      enter (entered_atHandler (t := t) (x := trappedVq e.pc elem (stopHead s).strand) ⟨rfl, rfl, rfl, rfl, rfl⟩ c v true p s1),
        rfl, rfl, rfl, rfl⟩
  · exact ⟨_, vector he, raiseVq_loses (isPageFault_eq_false hl hs) hq⟩

end Sys2Proof.TrapEntry
end

section
/-! PROOFS. The checks of a vector instruction at VCP and the reads of its sources, where they pass; element-wise floating point,
conversions and block quantisation (O19). -/

namespace Sys2Proof.VectorFp

open Sys2Proof.Machine Sys2Proof.Laws Sys2Proof.ScalarFlow Sys2Proof.ScalarFp

-- ## Checks and sources (R12, R105, R118, R125, R135)

section
variable {s : State} {e : VqEntry} {vs : List (BitVec 5)} {ms : List (BitVec 3)}

theorem vecCheck_granted {w : Nat} (h : Granted s vs w) : vecCheck e vs w s = .ok () s := by
  obtain ⟨hr, hw⟩ := h
  have hn : (vs.any (fun r => decide (s.strand.nreg ≤ r.toNat)) || decide (s.strand.ew < w)) = false := by
    rw [Bool.or_eq_false_iff, List.any_eq_false]
    exact ⟨fun r hr' => by simpa using hr r hr', by simpa using hw⟩
  simp only [vecCheck, badEntry, trapIf, hn, Bool.false_eq_true, if_false]

theorem entryRm_ok {rm r : Rm} (h : rmode rm e.frm = some r) : entryRm e rm s = .ok r s := by
  simp only [entryRm, h]

theorem readElem_clean {r : BitVec 5} (w k : Nat) (h : Clean s vs ms) (hr : r ∈ vs) : readElem r w k s = .ok (velem s.strand r w k) s :=
  readElem_ok fun u hu hh => (h u hu).1 ⟨hh.1, r, hr, hh.2⟩

theorem readMask_clean {m : BitVec 3} (k : Nat) (h : Clean s vs ms) (hm : m ∈ ms) : readMask m k s = .ok (maskBit s.strand m k) s :=
  readMask_ok fun u hu hh => (h u hu).2 ⟨hh.1, m, hm, hh.2⟩

theorem readB_clean {b : BOp} (ty : Ty) (k : Nat) (h : Clean s vs ms) (hb : ∀ r ∈ bRegs b, r ∈ vs) :
    readB e b ty k s = .ok (bValue e b ty s.strand k) s := by
  cases b with
  | vec r => exact readElem_clean ty.width k h (hb r (List.mem_singleton_self r))
  | scal _ => rfl
  | imm _ => rfl

/-- The active ones of some elements. -/
theorem activeOf_clean {m : BitVec 3} (h : Clean s vs ms) (hm : m ∈ ms) (l : List Nat) :
    activeOf m l s = .ok (l.filter (maskBit s.strand m)) s := by
  induction l with
  | nil => rfl
  | cons k l ih =>
    show (match readMask m k s with
      | .error e s1 => .error e s1
      | .ok b s1 => match activeOf m l s1 with
        | .error e s2 => .error e s2
        | .ok l s2 => .ok (if b then k :: l else l) s2 : EStateM.Result Stop State (List Nat)) = _
    simp only [readMask_clean k h hm, ih, List.filter_cons]

theorem readAll_clean {r : BitVec 5} (w : Nat) (h : Clean s vs ms) (hr : r ∈ vs) (l : List Nat) :
    readAll r w l s = .ok (l.map (velem s.strand r w)) s := by
  induction l with
  | nil => rfl
  | cons k l ih => simp only [readAll, readElem_clean w k h hr, ih, List.map_cons]

end

-- ## Elements that raise flags (R127, R138)

section
variable {i : Instr} {g : Guard} {m : BitVec 3} {work : VqEntry → M Unit} {F : Nat → M Unit} {e : VqEntry} {s : State}
  {t' : Strand} {vs : List (BitVec 5)} {ms : List (BitVec 3)}

/-- The effect of an element whose flags do not trap. -/
theorem flagged_some {f : Nat → Strand → BitVec 6 × (Strand → Strand)} {k : Nat} {t u : Strand} (h : flagged f k t = some u) :
    flagTraps t (f k t).1 = false ∧ (f k t).2 (withFlags (f k t).1 t) = u := by
  unfold flagged at h
  split at h
  · cases h
  next hn => exact ⟨Bool.eq_false_iff.mpr hn, Option.some.inj h⟩

/-- Work that delivers flags and then has an effect on the strand. -/
theorem deliverVector_bind (fl : BitVec 6) (f : Strand → Strand) (s : State) :
    (deliverVector fl >>= fun _ => onStrand f) s = deliverThen fl f s := by
  show EStateM.bind (deliverScalar fl) (fun _ => onStrand f) s = _
  simp only [EStateM.bind, deliverThen]
  cases deliverScalar fl s <;> rfl

/-- An element-wise instruction at the head of the VQ, each of whose elements delivers its flags and then has its effect on the
strand, commits the run where no flag traps. -/
theorem vqOp_elementRun {f : Nat → Strand → BitVec 6 × (Strand → Strand)} (h : AtHead e s) (hr : elementRun m f s.strand = some t')
    (hw : work e s = elementWise m F s) (hq : Clean s vs ms) (hm : m ∈ ms)
    (hF : ∀ k s1, Clean s1 vs ms → F k s1 = deliverThen (f k s1.strand).1 (f k s1.strand).2 s1)
    (hv : ∀ k t v, f k (atV v t) = f k t) (hp : ∀ k t, KeepsVstart (f k t).2) (hu : ∀ k t u, FewerUpsets ((f k t).2 u) u) :
    vqOp i g false false work s = .next (commits (fun _ => t') s) := by
  refine vqOp_run F (f := flagged f) h hw hq (.inr hm) (fun k s1 t hc hf => ?_) (fun k t u hf => ?_) (fun k t v => ?_) hr
  · obtain ⟨hn, rfl⟩ := flagged_some hf
    rw [hF k s1 hc, deliverThen, deliverScalar_ok hn]
    rfl
  · obtain ⟨-, rfl⟩ := flagged_some hf
    exact hu k t _
  · have ht : flagTraps (atV v t) (f k t).1 = flagTraps t (f k t).1 := rfl
    simp only [flagged, hv, ht]
    split
    · rfl
    · exact congrArg some (hp k t (withFlags (f k t).1 t) v)

/-- At the head of the VQ the instruction runs its elements under mask `m` with effects `f`, and commits the run where no flag
traps. -/
def RunsElements (i : Instr) (m : BitVec 3) (f : Nat → Strand → BitVec 6 × (Strand → Strand)) (s : State) : Prop :=
  ∀ t', elementRun m f s.strand = some t' → exec i s = .next (commits (fun _ => t') s)

/-- Elements that compute `q` from the strand and write it to their places in a vector register. -/
def writesElems (d : BitVec 5) (w : Nat) (q : Nat → Strand → FpRes) (k : Nat) (t : Strand) : BitVec 6 × (Strand → Strand) :=
  ((q k t).2, fun u => putElem u d w k (q k t).1)

theorem runsElements_of_work {d : BitVec 5} {w : Nat} {q : Nat → Strand → FpRes} (h : AtHead e s)
    (hx : exec i s = vqOp i g false false work s) (hw : work e s = elementWise m F s) (hq : Clean s vs [m])
    (hF : ∀ k s1, Clean s1 vs [m] → F k s1 = fpElem d w k (q k s1.strand) s1) (hv : ∀ k t v, q k (atV v t) = q k t) :
    RunsElements i m (writesElems d w q) s := fun _ hr =>
  hx.trans <| vqOp_elementRun h hr hw hq (List.mem_singleton_self m) (fun k s1 hk => (hF k s1 hk).trans (deliverVector_bind ..))
    (fun k t v => by simp only [writesElems, hv]) (fun k t u v => putElem_keepsVstart u d w k _ v)
    (fun k t u => putElem_fewer u d w k _)

end

-- ## The instructions (R143 to R149)

section
variable {i : Instr} {g : Guard} {ty : Ty} {rm r : Rm} {d a c : BitVec 5} {b : BOp} {m : BitVec 3} {e : VqEntry} {s : State}

/-- The B operand's register is among the sources behind `a`. -/
theorem bRegs_sub (a : BitVec 5) (b : BOp) : ∀ r ∈ bRegs b, r ∈ a :: bRegs b := fun _ h => List.mem_cons_of_mem _ h

/-- A rounding binary instruction (R143). -/
theorem vfBin_runs {f : FpFmt → Rm → Nat → Nat → FpRes} (hx : exec i s = vfBin i g ty rm d a b m f s) (h : AtHead e s)
    (hg : Granted s (d :: a :: bRegs b) ty.width) (hc : Clean s (a :: bRegs b) [m]) (hr : rmode rm e.frm = some r) :
    RunsElements i m (writesElems d ty.width fun k t => f (fmtOf ty) r (velem t a ty.width k) (bValue e b ty t k)) s :=
  runsElements_of_work h hx ((bind_ok (vecCheck_granted hg)).trans (bind_ok (entryRm_ok hr))) hc
    (fun k _ hk => (bind_ok (readElem_clean _ k hk List.mem_cons_self)).trans (bind_ok (readB_clean ty k hk (bRegs_sub a b))))
    (fun _ _ _ => rfl)

/-- A rounding unary instruction (R143, R144). -/
theorem vfUn_runs {f : FpFmt → Rm → Nat → FpRes} (hx : exec i s = vfUn i g ty rm d a m f s) (h : AtHead e s)
    (hg : Granted s [d, a] ty.width) (hc : Clean s [a] [m]) (hr : rmode rm e.frm = some r) :
    RunsElements i m (writesElems d ty.width fun k t => f (fmtOf ty) r (velem t a ty.width k)) s :=
  runsElements_of_work h hx ((bind_ok (vecCheck_granted hg)).trans (bind_ok (entryRm_ok hr))) hc
    (fun k _ hk => bind_ok (readElem_clean _ k hk List.mem_cons_self)) (fun _ _ _ => rfl)

/-- Minimum and maximum (R145). -/
theorem vfPick_runs {f : FpFmt → Nat → Nat → FpRes} (hx : exec i s = vfPick i g ty d a b m f s) (h : AtHead e s)
    (hg : Granted s (d :: a :: bRegs b) ty.width) (hc : Clean s (a :: bRegs b) [m]) :
    RunsElements i m (writesElems d ty.width fun k t => f (fmtOf ty) (velem t a ty.width k) (bValue e b ty t k)) s :=
  runsElements_of_work h hx (bind_ok (vecCheck_granted hg)) hc
    (fun k _ hk => (bind_ok (readElem_clean _ k hk List.mem_cons_self)).trans (bind_ok (readB_clean ty k hk (bRegs_sub a b))))
    (fun _ _ _ => rfl)

theorem vfma_runs (h : AtHead e s) (hg : Granted s (d :: a :: c :: bRegs b) ty.width) (hc : Clean s (a :: c :: bRegs b) [m])
    (hr : rmode rm e.frm = some r) :
    RunsElements (.vfma g ty rm d a b c m) m (writesElems d ty.width fun k t =>
      fpFma (fmtOf ty) r (velem t a ty.width k) (bValue e b ty t k) (velem t c ty.width k)) s :=
  runsElements_of_work h rfl ((bind_ok (vecCheck_granted hg)).trans (bind_ok (entryRm_ok hr))) hc
    (fun k _ hk => (bind_ok (readElem_clean _ k hk List.mem_cons_self)).trans
      ((bind_ok (readB_clean ty k hk fun r hr => List.mem_cons_of_mem a (bRegs_sub c b r hr))).trans
        (bind_ok (readElem_clean _ k hk (List.mem_cons_of_mem a List.mem_cons_self)))))
    (fun _ _ _ => rfl)

/-- The bounds of `vfclamp` in vector registers (R145). -/
theorem vfclamp_registers_runs {lo hi : BitVec 5} (h : AtHead e s) (hg : Granted s [d, a, lo, hi] ty.width)
    (hc : Clean s [a, lo, hi] [m]) :
    RunsElements (.vfclamp g ty d a false lo hi m) m (writesElems d ty.width fun k t =>
      fpClamp (fmtOf ty) (velem t a ty.width k) (velem t lo ty.width k) (velem t hi ty.width k)) s :=
  runsElements_of_work h rfl (bind_ok (vecCheck_granted hg)) hc
    (fun k _ hk => (bind_ok (readElem_clean _ k hk (by simp))).trans
      ((bind_ok (readElem_clean _ k hk (by simp))).trans (bind_ok (readElem_clean _ k hk (by simp)))))
    (fun _ _ _ => rfl)

/-- The bounds of `vfclamp` in captured scalars (R145). -/
theorem vfclamp_scalars_runs {lo hi : BitVec 5} (h : AtHead e s) (hg : Granted s [d, a] ty.width) (hc : Clean s [a] [m]) :
    RunsElements (.vfclamp g ty d a true lo hi m) m (writesElems d ty.width fun k t =>
      fpClamp (fmtOf ty) (velem t a ty.width k) (e.b.toNat % 2 ^ ty.width) (e.c.toNat % 2 ^ ty.width)) s :=
  runsElements_of_work h rfl (bind_ok (vecCheck_granted hg)) hc
    (fun k _ hk => bind_ok (readElem_clean _ k hk List.mem_cons_self)) (fun _ _ _ => rfl)

/-- Comparison (R149). -/
theorem vfcmp_runs {cc : FCond} {md : BitVec 3} (h : AtHead e s) (hg : Granted s (a :: bRegs b) ty.width)
    (hc : Clean s (a :: bRegs b) [m]) :
    RunsElements (.vfcmp g cc ty md a b m) m (fun k t =>
      let z := fpCond (fmtOf ty) cc (velem t a ty.width k) (bValue e b ty t k)
      (z.2, fun u => putMask u md k z.1)) s := fun _ run =>
  show execVfcmp g cc ty md a b m s = _ from
    vqOp_elementRun h run (bind_ok (vecCheck_granted hg)) hc (List.mem_singleton_self m)
      (fun k _ hk => (bind_ok (readElem_clean _ k hk List.mem_cons_self)).trans
        ((bind_ok (readB_clean ty k hk (bRegs_sub a b))).trans (deliverVector_bind ..)))
      (fun _ _ _ => rfl) (fun k _ u v => putMask_keepsVstart u md k _ v) (fun k _ u => putMask_fewer u md k _)

/-- Conversion (R146). -/
theorem vfcvt_runs {dty sty : Ty} (h : AtHead e s) (hg : Granted s [d, a] (Nat.max dty.width sty.width)) (hc : Clean s [a] [m])
    (hr : rmode rm e.frm = some r) :
    RunsElements (.vfcvt g dty sty rm d a m) m (writesElems d dty.width fun k t => convert r dty sty (velem t a sty.width k)) s :=
  runsElements_of_work h rfl ((bind_ok (vecCheck_granted hg)).trans (bind_ok (entryRm_ok hr))) hc
    (fun k _ hk => bind_ok (readElem_clean _ k hk List.mem_cons_self)) (fun _ _ _ => rfl)

/-- The values of block-quantised elements (R148). -/
theorem vdequant_runs (h : AtHead e s) (hg : Granted s [d, a, c] ty.width) (hc : Clean s [a, c] [m]) :
    RunsElements (.vdequant g ty d a c m) m (writesElems d ty.width fun k t =>
      bx8Value (fmtOf ty) (signedOf 8 (velem t a 8 k)) (velem t c 8 (k / 32))) s :=
  runsElements_of_work h rfl (bind_ok (vecCheck_granted hg)) hc
    (fun k _ hk => (bind_ok (readElem_clean _ k hk (by simp))).trans (bind_ok (readElem_clean _ _ hk (by simp))))
    (fun _ _ _ => rfl)

end

-- ## Block quantisation (R129, R147)

/-- The elements below VL of a block of 32 are those between its bounds. -/
theorem span_block_filter (p : Nat → Bool) (b vl : Nat) :
    (span (32 * b) (Nat.min (32 * b + 32) vl)).filter p = (List.range vl).filter fun j => p j && j / 32 == b := by
  have hs (a n : Nat) : (span a n).Pairwise (· < ·) := by
    rw [span, List.pairwise_map]
    exact List.pairwise_lt_range.imp fun h => Nat.add_lt_add_left h a
  refine List.Pairwise.eq_of_mem_iff ((hs _ _).filter p) (List.pairwise_lt_range.filter _) fun j => ?_
  have hj : j ∈ span (32 * b) (Nat.min (32 * b + 32) vl) ↔ j < vl ∧ j / 32 = b := by
    have hm : Nat.min (32 * b + 32) vl = min (32 * b + 32) vl := rfl
    simp only [span, List.mem_map, List.mem_range, hm]
    constructor
    · rintro ⟨i, hi, rfl⟩
      omega
    · rintro ⟨hv, rfl⟩
      exact ⟨j - 32 * (j / 32), by omega⟩
  simp only [List.mem_filter, hj, List.mem_range, Bool.and_eq_true, beq_iff_eq]
  tauto

/-- What `vquant` does at element k, with VL and the first element executed given (R147). -/
def quantElem (ty : Ty) (d a ev : BitVec 5) (m : BitVec 3) (v0 vl k : Nat) (t : Strand) : BitVec 6 × (Strand → Strand) :=
  let blk := (List.range vl).filter fun j => maskBit t m j && j / 32 == k / 32
  let vs := blk.map fun j => fpRead (fmtOf ty) (velem t a ty.width j)
  let ex := bx8Exp vs
  let q := bx8Q ex (fpRead (fmtOf ty) (velem t a ty.width k))
  let bad := vs.any fun v => match v with | .inf _ => true | .nan sg => sg | _ => false
  let first := blk.find? fun j => decide (v0 ≤ j)
  ((if bad then flNV else flNone) ||| (if q.2 then flNX else flNone), fun t =>
    let u := putElem t d 8 k (wrapTo 8 q.1)
    if first = some k then putElem u ev 8 (k / 32) ex else u)

/-- Effects that agree on the strands of the run give one run. -/
theorem elementRun_congr {f f' : Nat → Strand → BitVec 6 × (Strand → Strand)} {keep : Strand → Prop} {m : BitVec 3} {t : Strand}
    (hf : ∀ k t, keep t → f k t = f' k t) (hk : ∀ k t u, keep t → flagged f k t = some u → keep u) (ht : keep t) :
    elementRun m f t = elementRun m f' t := by
  rw [elementRun_eq, elementRun_eq]
  induction span t.vstart t.vl generalizing t with
  | nil => rfl
  | cons k l ih =>
    rw [runOver_cons, runOver_cons]
    have he : flagged f k t = flagged f' k t := by simp only [flagged, hf k t ht]
    cases maskBit t m k with
    | false => exact ih ht
    | true =>
      simp only [if_true, ← he]
      cases hu : flagged f k t with
      | none => rfl
      | some u => exact ih (hk k t u ht hu)

section
variable {g : Guard} {ty : Ty} {d a ev : BitVec 5} {m : BitVec 3} {e : VqEntry} {s : State} {t' : Strand}

theorem quantElem_vl (v0 vl k : Nat) (t u : Strand) : ((quantElem ty d a ev m v0 vl k t).2 u).vl = u.vl := by
  unfold quantElem
  dsimp only
  split <;> rfl

/-- Two writes of elements, the second under a condition. -/
theorem wrV_thenIf {c : Prop} [Decidable c] (d d' : BitVec 5) (w w' k k' x x' : Nat) :
    (wrV d w k x >>= fun _ => if c then wrV d' w' k' x' else pure ()) =
      onStrand fun t => if c then putElem (putElem t d w k x) d' w' k' x' else putElem t d w k x := by
  split <;> rfl

theorem vquant_runs (h : AtHead e s) (hg : Granted s [d, a, ev] ty.width) (hc : Clean s [a] [m]) :
    RunsElements (.vquant g ty d a ev m) m (fun k t => quantElem ty d a ev m s.strand.vstart t.vl k t) s := fun t' run => by
  have run' : elementRun m (quantElem ty d a ev m s.strand.vstart s.strand.vl) s.strand = some t' := by
    rw [← run]
    refine (elementRun_congr (keep := fun t => t.vl = s.strand.vl) (fun k t ht => by rw [ht]) (fun k t u ht hu => ?_) rfl).symm
    obtain ⟨-, rfl⟩ := flagged_some hu
    exact (quantElem_vl ..).trans ht
  show execVquant g ty d a ev m s = _
  refine vqOp_elementRun h run' (bind_ok (vecCheck_granted hg)) hc (List.mem_singleton_self m) (fun k s1 hk => ?_)
    (fun _ _ _ => rfl) (fun k t u v => ?_) (fun k t u => ?_)
  · refine (bind_ok (activeOf_clean hk (List.mem_singleton_self m) _)).trans ?_
    rw [span_block_filter]
    refine (bind_ok (readAll_clean _ hk (List.mem_singleton_self a) _)).trans ?_
    refine (bind_ok (readElem_clean _ k hk (List.mem_singleton_self a))).trans ?_
    rw [List.map_map]
    refine Eq.trans ?_ (deliverVector_bind ..)
    exact congrFun (congrArg (deliverVector _ >>= ·) (funext fun _ => wrV_thenIf ..)) s1
  · simp only [quantElem]
    split <;> rfl
  · simp only [quantElem]
    split
    · exact (putElem_fewer (putElem u d 8 k _) ev 8 _ _).trans (putElem_fewer u d 8 k _)
    · exact putElem_fewer u d 8 k _

end

/-- Settles O19: each instruction passes its checks and runs its elements; `vquant` reads the elements of its block first. -/
theorem vectorFpResults : Obligations.VectorFpResults := by
  unfold Obligations.VectorFpResults
  constructor
  · intro g ty dty sty rm r cc d a c hi b md m e s t' h w k done run
    refine ⟨fun hg hc hr => ?_, fun hg hc hr => vfma_runs h hg hc hr t', fun hg hc hr => ?_, fun hg hc => ?_,
      fun hg hc => vfclamp_registers_runs h hg hc t', fun hg hc => vfclamp_scalars_runs h hg hc t',
      fun hg hc => vfcmp_runs h hg hc t', fun hg hc hr => vfcvt_runs h hg hc hr t', fun hg hc => vdequant_runs h hg hc t'⟩
    · simp only [List.forall_mem_cons, List.not_mem_nil, false_imp_iff, implies_true, and_true]
      exact ⟨vfBin_runs (f := fpAdd) rfl h hg hc hr t', vfBin_runs (f := fpSub) rfl h hg hc hr t',
        vfBin_runs (f := fpMul) rfl h hg hc hr t', vfBin_runs (f := fpDiv) rfl h hg hc hr t'⟩
    · simp only [List.forall_mem_cons, List.not_mem_nil, false_imp_iff, implies_true, and_true]
      exact ⟨vfUn_runs (f := fpSqrt) rfl h hg hc hr t', vfUn_runs (f := fpRcp) rfl h hg hc hr t',
        vfUn_runs (f := fpRsq) rfl h hg hc hr t', vfUn_runs (f := fpExp2) rfl h hg hc hr t',
        vfUn_runs (f := fpLog2) rfl h hg hc hr t'⟩
    · simp only [List.forall_mem_cons, List.not_mem_nil, false_imp_iff, implies_true, and_true]
      exact ⟨vfPick_runs (f := fpMin) rfl h hg hc t', vfPick_runs (f := fpMaxN) rfl h hg hc t'⟩
  · intro g ty d a ev m e s t' h hg hc run
    exact vquant_runs h hg hc t' run

end Sys2Proof.VectorFp
end

section
/-! PROOFS. Reductions, scans and the strip-softmax step (O20). -/

namespace Sys2Proof.Reductions

open Sys2Proof.Machine Sys2Proof.Laws Sys2Proof.ScalarFlow Sys2Proof.ScalarFp Sys2Proof.VectorFp

-- ## The active elements of a whole instruction

/-- The numbers of the active elements. -/
def active (m : BitVec 3) (t : Strand) : List Nat := (List.range t.vl).filter fun i => maskBit t m i

/-- The active elements of a register with their numbers. -/
def activeValues (m : BitVec 3) (a : BitVec 5) (w : Nat) (t : Strand) : List (Nat × Nat) := (active m t).map fun i => (i, velem t a w i)

theorem zip_map_self {α β : Type} (l : List α) (f : α → β) : l.zip (l.map f) = l.map fun x => (x, f x) := by
  simpa using List.zip_map' (f := id) (g := f) (l := l)

theorem activeValues_values (m : BitVec 3) (a : BitVec 5) (w : Nat) (t : Strand) :
    (activeValues m a w t).map (fun x => x.2) = (active m t).map (velem t a w) := by
  simp [activeValues]

/-- A value picked by its number. -/
theorem pickElem_map (l : List Nat) (f : Nat → Nat) (k : Nat) :
    pickElem (l.map fun i => (i, f i)) k = if k ∈ l then some (f k) else none := by
  induction l with
  | nil => rfl
  | cons i l ih =>
    by_cases h : i = k
    · subst h; simp [pickElem]
    · have hk : ¬ k = i := fun e => h e.symm
      simpa [pickElem, List.find?_cons, h, hk] using ih

section
variable {s : State} {vs : List (BitVec 5)} {ms : List (BitVec 3)} {m : BitVec 3}

theorem activeElems_clean (h : Clean s vs ms) (hm : m ∈ ms) : activeElems m s = .ok (active m s.strand) s := activeOf_clean h hm _

theorem readScales_clean {c : BitVec 5} (h : Clean s vs ms) (hc : c ∈ vs) (l : List Nat) :
    readScales c l s = .ok (l.map fun b => (b, velem s.strand c 8 b)) s := by
  induction l with
  | nil => rfl
  | cons b l ih =>
    exact (bind_ok (readElem_clean 8 b h hc)).trans (bind_ok ih)

end

-- ## Results with flags

section
variable {s : State} {fl : BitVec 6}

/-- Flags that do not trap are delivered before the effect. -/
theorem deliverThen_ok {f : Strand → Strand} (h : flagTraps s.strand fl = false) :
    deliverThen fl f s = .ok () (mapStrand (fun t => f (withFlags fl t)) s) := by
  rw [deliverThen, deliverScalar_ok h]
  rfl

/-- Nothing traps without a flag. -/
theorem flagTraps_zero (t : Strand) : flagTraps t 0 = false := by simp [flagTraps]

/-- Writes of elements one after another. -/
theorem wrElems_eq (d : BitVec 5) (w : Nat) (l : List (Nat × Nat)) :
    wrElems d w l = onStrand fun t => l.foldl (fun t p => putElem t d w p.1 p.2) t := by
  induction l with
  | nil => rfl
  | cons x l ih => rw [wrElems, ih]; rfl

end

section
variable {i : Instr} {g : Guard} {ty sty : Ty} {rm r : Rm} {d a : BitVec 5} {st : Option (BitVec 5)} {m : BitVec 3} {e : VqEntry}
  {s : State} {regs : List (BitVec 5)} {z : FpRes}

/-- The instruction at the head of the VQ, where the flags of its result `z` do not trap, delivers them, writes the result to
sd and commits. -/
def Reduces (i : Instr) (d : BitVec 5) (ty : Ty) (z : FpRes) (s : State) : Prop :=
  flagTraps s.strand z.2 = false → exec i s = .next (commits (fun t => setS (withFlags z.2 t) d (toReg ty z.1)) s)

/-- A reduction (R155): its checks pass, it reads the active elements, and `f` answers its result. -/
theorem vRed_reduces {f : VqEntry → Rm → Strand → List (Nat × Nat) → Option Nat → M FpRes}
    (hx : exec i s = vRed i g ty sty d a st m regs rm f s) (h : AtHead e s) (hv : s.strand.vstart = 0)
    (hg : Granted s (a :: regs) ty.width) (hc : Clean s (a :: regs) [m]) (hr : rmode rm e.frm = some r)
    (hf : f e r s.strand (activeValues m a ty.width s.strand) (startVal e st sty) s = .ok z s) : Reduces i d sty z s := fun ht =>
  hx.trans <| vqOp_commits h (fun _ => hv) <|
    (bind_ok (vecCheck_granted hg)).trans <| (bind_ok (entryRm_ok hr)).trans <|
    (bind_ok (activeElems_clean hc (List.mem_singleton_self m))).trans <|
    (bind_ok (readAll_clean ty.width hc List.mem_cons_self _)).trans <|
    (bind_ok (m := ask State.strand) (x := s.strand) rfl).trans <|
    (bind_ok (by rw [zip_map_self]; exact hf)).trans <| (deliverVector_bind ..).trans (deliverThen_ok ht)

end

theorem clean_sub {s : State} {vs us : List (BitVec 5)} {ms : List (BitVec 3)} (h : Clean s vs ms) (hs : us ⊆ vs) : Clean s us ms :=
  fun u hu => ⟨fun ⟨hf, r, hr, he⟩ => (h u hu).1 ⟨hf, r, hs hr, he⟩, (h u hu).2⟩

theorem granted_sub {s : State} {rs us : List (BitVec 5)} {w : Nat} (h : Granted s rs w) (hs : us ⊆ rs) : Granted s us w :=
  ⟨fun r hr => h.1 r (hs hr), h.2⟩

theorem granted_cons {s : State} {r : BitVec 5} {rs : List (BitVec 5)} {w : Nat} (hr : r.toNat < s.strand.nreg) (h : Granted s rs w) :
    Granted s (r :: rs) w :=
  ⟨List.forall_mem_cons.mpr ⟨hr, h.1⟩, h.2⟩

-- ## The operands of sums

/-- The widened element with a number (R156), as the statement picks it. -/
theorem pickElem_widened (ty : Ty) (xs : List (Nat × Nat)) (i : Nat) : pickElem (widened ty xs) i =
    (xs.find? fun x => x.1 == i).map fun x => widen (fmtOf (accTy ty)) (fmtOf ty) x.2 := by
  simp only [pickElem, widened, List.find?_map, Option.map_map]
  rfl

/-- The widened elements in their order (R156). -/
theorem widened_values (ty : Ty) (xs : List (Nat × Nat)) :
    (widened ty xs).map (fun x => x.2) = xs.map fun x => widen (fmtOf (accTy ty)) (fmtOf ty) x.2 := by
  rw [widened, List.map_map]
  rfl

/-- The scale of a block: only the blocks with an active element have theirs read, and each of these is below VL. -/
theorem pickElem_scales (t : Strand) (m : BitVec 3) (a c : BitVec 5) (w b : Nat) :
    signedOf 8 ((pickElem (((List.range (ceilDiv t.vl 32)).filter fun b =>
      (activeValues m a w t).any fun x => x.1 / 32 == b).map fun b => (b, velem t c 8 b)) b).getD 0) =
    if (activeValues m a w t).any (fun x => x.1 / 32 == b) then signedOf 8 (velem t c 8 b) else 0 := by
  rw [pickElem_map]
  by_cases ha : (activeValues m a w t).any (fun x => x.1 / 32 == b) = true
  · have hb : b < ceilDiv t.vl 32 := by
      simp only [activeValues, active, List.any_map, List.any_eq_true, List.mem_filter, List.mem_range, Function.comp_apply, beq_iff_eq] at ha
      obtain ⟨j, ⟨hj, -⟩, rfl⟩ := ha
      simp only [ceilDiv]
      omega
    simp only [List.mem_filter, List.mem_range, hb, ha, and_self, if_true, Option.getD_some]
  · have hm : b ∉ (List.range (ceilDiv t.vl 32)).filter fun b => (activeValues m a w t).any fun x => x.1 / 32 == b :=
      fun hm => ha (List.mem_filter.mp hm).2
    rw [if_neg ha, if_neg hm]
    rfl

section
variable {g : Guard} {ty : Ty} {rm r : Rm} {d a c : BitVec 5} {st : Option (BitVec 5)} {m : BitVec 3} {e : VqEntry} {s : State}

/-- Minimum and maximum, conjunction and disjunction (R157). -/
theorem picks_reduce (h : AtHead e s) (hv : s.strand.vstart = 0) (hg : Granted s [a] ty.width) (hc : Clean s [a] [m]) :
    let ops := (startVal e st ty).toList ++ (activeValues m a ty.width s.strand).map fun x => x.2
    ∀ p ∈ [(Instr.vredmax g ty d a st m, redPick ty true ops), (.vredmin g ty d a st m, redPick ty false ops),
           (.vredand g ty d a st m, (ops.foldl (· &&& ·) (2 ^ ty.width - 1), 0)), (.vredor g ty d a st m, (ops.foldl (· ||| ·) 0, 0))],
      Reduces p.1 d ty p.2 s := by
  intro ops
  simp only [List.forall_mem_cons, List.not_mem_nil, false_imp_iff, implies_true, and_true]
  exact ⟨vRed_reduces (rfl : _ = execVredmax g ty d a st m s) h hv hg hc rfl rfl,
    vRed_reduces (rfl : _ = execVredmin g ty d a st m s) h hv hg hc rfl rfl,
    vRed_reduces (rfl : _ = execVredand g ty d a st m s) h hv hg hc rfl rfl,
    vRed_reduces (rfl : _ = execVredor g ty d a st m s) h hv hg hc rfl rfl⟩

/-- The wrapping sum of integers (R156). -/
theorem intSums_reduce (h : AtHead e s) (hv : s.strand.vstart = 0) (hg : Granted s [a] ty.width) (hc : Clean s [a] [m])
    (hr : rmode rm e.frm = some r) (hi : ty.isInt = true) :
    let z := intSum ty (activeValues m a ty.width s.strand) (startVal e st (accTy ty))
    Reduces (.vredsumF g ty rm d a st m) d (accTy ty) z s ∧ Reduces (.vredsumC g ty rm d a st m) d (accTy ty) z s :=
  ⟨vRed_reduces (rfl : _ = execVredsumF g ty rm d a st m s) h hv hg hc hr (by simp only [hi, if_true]; rfl),
    vRed_reduces (rfl : _ = execVredsumC g ty rm d a st m s) h hv hg hc hr (by simp only [hi, if_true]; rfl)⟩

/-- The canonical sum (R133, R156). -/
theorem vredsumC_reduces (h : AtHead e s) (hv : s.strand.vstart = 0) (hg : Granted s [a] ty.width) (hc : Clean s [a] [m])
    (hr : rmode rm e.frm = some r) (hi : ty.isInt = false) :
    Reduces (.vredsumC g ty rm d a st m) d (accTy ty) (canonSum (fmtOf (accTy ty)) r s.strand.vl
      (pickElem (widened ty (activeValues m a ty.width s.strand))) (startVal e st (accTy ty)) fun _ => 0) s :=
  vRed_reduces (rfl : _ = execVredsumC g ty rm d a st m s) h hv hg hc hr (by simp only [hi, Bool.false_eq_true, if_false]; rfl)

/-- The sum along the implementation's tree (R156). -/
theorem vredsumF_reduces (h : AtHead e s) (hv : s.strand.vstart = 0) (hg : Granted s [a] ty.width) (hc : Clean s [a] [m])
    (hr : rmode rm e.frm = some r) (hi : ty.isInt = false) :
    let k := fmtOf (accTy ty)
    let l := (startVal e st (accTy ty)).toList ++ (widened ty (activeValues m a ty.width s.strand)).map fun x => x.2
    let y := fastSum k r (Config.fastTree s.strand.vl s.strand.vlmax (vcfgValue s.strand) (getM s.strand m).toNat) l.length (l.map (quiet k))
    Reduces (.vredsumF g ty rm d a st m) d (accTy ty) (y.1, y.2 ||| snanFlag k l) s :=
  vRed_reduces (rfl : _ = execVredsumF g ty rm d a st m s) h hv hg hc hr (by simp only [hi, Bool.false_eq_true, if_false]; rfl)

/-- The canonical sum with a scale for each block (R156). -/
theorem vredsumCs_reduces (h : AtHead e s) (hv : s.strand.vstart = 0) (hg : Granted s [a, c] ty.width) (hc : Clean s [a, c] [m])
    (hr : rmode rm e.frm = some r) :
    let xs := activeValues m a ty.width s.strand
    Reduces (.vredsumCs g ty rm d a st c m) d (accTy ty) (canonSum (fmtOf (accTy ty)) r s.strand.vl (pickElem (widened ty xs))
      (startVal e st (accTy ty)) fun b => if xs.any (fun x => x.1 / 32 == b) then signedOf 8 (velem s.strand c 8 b) else 0) s :=
  vRed_reduces (rfl : _ = execVredsumCs g ty rm d a st c m s) h hv hg hc hr ((bind_ok (readScales_clean hc (by simp) _)).trans (by
    simp only [pickElem_scales]
    rfl))

/-- A scan (R158): the running results are written over the active elements. -/
theorem vscan_commits {op : ScanOp} (h : AtHead e s) (hv : s.strand.vstart = 0) (hg : Granted s [d, a] ty.width) (hc : Clean s [a] [m])
    (hr : rmode rm e.frm = some r) :
    let xs := activeValues m a ty.width s.strand
    let z := scanList op ty r (startVal e st ty) xs
    let fl := z.2 ||| (if ty.isInt then flNone else snanFlag (fmtOf ty) ((startVal e st ty).toList ++ xs.map fun x => x.2))
    flagTraps s.strand fl = false → exec (.vscan g op ty rm d a st m) s = .next (commits (fun t =>
      z.1.foldl (fun t p => putElem t d ty.width p.1 p.2) (withFlags fl t)) s) := by
  intro xs z fl ht
  show execVscan g op ty rm d a st m s = _
  refine vqOp_commits h (fun _ => hv) <| (bind_ok (vecCheck_granted hg)).trans <| (bind_ok (entryRm_ok hr)).trans <|
    (bind_ok (activeElems_clean hc (List.mem_singleton_self m))).trans <|
    (bind_ok (readAll_clean ty.width hc List.mem_cons_self _)).trans ?_
  rw [zip_map_self, ← activeValues_values]
  simp only [wrElems_eq]
  exact (deliverVector_bind ..).trans (deliverThen_ok ht)

end

-- ## The strip-softmax step (R159)

/-- The scale of the old sum: one where the maximum is unchanged, e^(old maximum − maximum) elsewhere. -/
def softScale (act : List Nat) (mo mn : Nat) : FpRes :=
  if act.isEmpty || (!isNan (fpRead (fmtOf .f32) mn) && !isNan (fpRead (fmtOf .f32) mo) &&
    valCmp (fpRead (fmtOf .f32) mn) (fpRead (fmtOf .f32) mo) == .eq) then (fpOne (fmtOf .f32), flNone) else expDiff mo mn

theorem softScale_eq (act : List Nat) (mo mn : Nat) : softScale act mo mn =
    if act = [] ∨ (isNan (fpRead (fmtOf .f32) mn) = false ∧ isNan (fpRead (fmtOf .f32) mo) = false ∧
      valCmp (fpRead (fmtOf .f32) mn) (fpRead (fmtOf .f32) mo) = .eq) then (fpOne (fmtOf .f32), 0) else expDiff mo mn := by
  simp only [softScale, Bool.or_eq_true, Bool.and_eq_true, List.isEmpty_iff, Bool.not_eq_true', beq_iff_eq, and_assoc]
  rfl

/-- An element of the strip: e^(x − maximum), 0 where the maximum is minus infinity. -/
def softElem (mn x : Nat) : FpRes := if fpRead (fmtOf .f32) mn == .inf true then (0, flNone) else expDiff x mn

theorem softElem_eq (mn x : Nat) : softElem mn x = if fpRead (fmtOf .f32) mn = .inf true then (0, 0) else expDiff x mn := by
  simp only [softElem, beq_iff_eq]
  rfl

/-- What `vsmax` writes: the elements, the running maximum, the new sum and the scale. -/
def writesSoftmax (d sm sl sk : BitVec 5) (outs : List (Nat × Nat)) (mx sum scale : Nat) (t : Strand) : Strand :=
  setS (setS (setS (outs.foldl (fun t p => putElem t d 32 p.1 p.2) t) sm (word mx)) sl (word sum)) sk (word scale)

theorem writesSoftmax_map (d sm sl sk : BitVec 5) (es : List (Nat × FpRes)) (mx sum scale : Nat) (t : Strand) :
    writesSoftmax d sm sl sk (es.map fun z => (z.1, z.2.1)) mx sum scale t =
      setS (setS (setS (es.foldl (fun t z => putElem t d 32 z.1 z.2.1) t) sm (word mx)) sl (word sum)) sk (word scale) := by
  rw [writesSoftmax, List.foldl_map]

theorem softmax_work (d sm sl sk : BitVec 5) (outs : List (Nat × Nat)) (mx sum scale : Nat) (fl : BitVec 6) (s : State) :
    (do
      deliverVector fl
      wrElems d 32 outs
      wrS sm (word mx)
      wrS sl (word sum)
      wrS sk (word scale) : M Unit) s = deliverThen fl (writesSoftmax d sm sl sk outs mx sum scale) s := by
  rw [wrElems_eq]
  exact deliverVector_bind fl (writesSoftmax d sm sl sk outs mx sum scale) s

section
variable {g : Guard} {d a sm sl sk : BitVec 5} {m : BitVec 3} {e : VqEntry} {s : State}

/-- The strip-softmax step (R159), operation by operation: `scale`, `outs`, `flags` and `pick` are the scale, the elements written,
their flags and the operands of the sum. -/
theorem vsmax_commits (h : AtHead e s) (hv : s.strand.vstart = 0) (hg : Granted s [d, a] 32) (hc : Clean s [a] [m])
    {scale : FpRes} {outs : List (Nat × Nat)} {flags : List (BitVec 6)} {pick : Nat → Option Nat} :
    let k := fmtOf .f32
    let act := active m s.strand
    let xs := act.map (velem s.strand a 32)
    let mo := e.b.toNat % 2 ^ 32
    let mx := xs.foldl (fun (z : FpRes) x => ((fpMaxN k z.1 x).1, z.2 ||| (fpMaxN k z.1 x).2)) (mo, flNone)
    let es := xs.map (softElem mx.1)
    let old := fpMul k .rne (e.c.toNat % 2 ^ 32) scale.1
    let sum := canonSum k .rne s.strand.vl pick (some old.1) fun _ => 0
    let fl := mx.2 ||| scale.2 ||| flags.foldl (· ||| ·) flNone ||| old.2 ||| sum.2
    softScale act mo mx.1 = scale → act.zip (es.map fun z => z.1) = outs → (es.map fun z => z.2) = flags → pickElem outs = pick →
    flagTraps s.strand fl = false → exec (.vsmax g d a sm sl sk m) s = .next (commits (fun t =>
      writesSoftmax d sm sl sk outs mx.1 sum.1 scale.1 (withFlags fl t)) s) := by
  intro k act xs mo mx es old sum fl hs ho hf hp ht
  subst hs ho hf hp
  show execVsmax g d a sm sl sk m s = _
  exact vqOp_commits h (fun _ => hv) <| (bind_ok (vecCheck_granted hg)).trans <|
    (bind_ok (activeElems_clean hc (List.mem_singleton_self m))).trans <|
    (bind_ok (readAll_clean 32 hc List.mem_cons_self _)).trans <| (softmax_work ..).trans (deliverThen_ok ht)

end

/-- Settles O20: the reads of the active elements, then the result of each rule. -/
theorem reductionResults : Obligations.ReductionResults := by
  unfold Obligations.ReductionResults
  constructor
  · intro g op ty rm r d a c st m e s h hv hg hc hr w acc k act xs start ops wide sum scale out
    have hg1 : Granted s [a] ty.width := granted_sub hg (by simp)
    have hc1 : Clean s [a] [m] := clean_sub hc (by simp)
    have hw : wide = pickElem (widened ty xs) := funext fun i => (pickElem_widened ty xs i).symm
    refine ⟨picks_reduce h hv hg1 hc1, fun hi => ?_, fun hi => ⟨?_, ?_⟩, ?_, ?_⟩
    · obtain ⟨hf, hs⟩ := intSums_reduce (g := g) (d := d) (st := st) h hv hg1 hc1 hr hi
      exact ⟨hf (flagTraps_zero _), hs (flagTraps_zero _)⟩
    · rw [hw]
      exact vredsumC_reduces h hv hg1 hc1 hr hi
    · have hl : xs.map (fun x => widen k (fmtOf ty) x.2) = (widened ty xs).map fun x => x.2 := (widened_values ty xs).symm
      rw [hl]
      exact vredsumF_reduces h hv hg1 hc1 hr hi
    · rw [hw]
      exact vredsumCs_reduces h hv hg hc hr
    · intro z fl hd ht
      exact vscan_commits h hv (granted_cons hd hg1) hc1 hr ht
  · intro g d a sm sl sk m e s h hv hg hc k act xs mo mx same scale es old sum fl ht
    have hx (i : Nat) : softElem mx.1 (velem s.strand a 32 i) =
        if fpRead k mx.1 = .inf true then ((0, 0) : FpRes) else expDiff (velem s.strand a 32 i) mx.1 := softElem_eq ..
    have hs : softScale act mo mx.1 = scale := softScale_eq ..
    have ho : act.zip ((xs.map (softElem mx.1)).map fun z => z.1) = es.map fun z => (z.1, z.2.1) := by
      simp only [xs, es, List.map_map, zip_map_self, Function.comp_def, hx]
    have hf : (xs.map (softElem mx.1)).map (fun z => z.2) = es.map fun z => z.2.2 := by
      simp only [xs, es, List.map_map, Function.comp_def, hx]
    have hp : pickElem (es.map fun z => (z.1, z.2.1)) = fun i => (es.find? fun z => z.1 == i).map fun z => z.2.1 := by
      funext i
      simp only [pickElem, List.find?_map, Option.map_map]
      rfl
    rw [vsmax_commits h hv hg hc hs ho hf hp ht]
    simp only [writesSoftmax_map]
    rfl

end Sys2Proof.Reductions
end

section
/-! PROOFS. A permitted `bankrole` takes its place in the job sequencer, waits, and changes its bank or answers why not (O33). -/

namespace Sys2Proof.Bankrole

open Sys2Proof.Machine Sys2Proof.Laws Sys2Proof.ScalarFlow Sys2Proof.StrandFrame Sys2Proof.Privilege

-- ## Replacing copies leaves the memory (R262)

section
variable (slot cl line : Nat)

theorem postAll_mem (l : List Msg) (s : State) : (l.foldl (fun s x => post x s) s).mem = s.mem := by
  induction l generalizing s with
  | nil => rfl
  | cons x l ih => exact ih (post x s)

theorem raiseOnce_mem (h : HeldEv) (s : State) : (raiseOnce slot cl line h s).mem = s.mem := by
  unfold raiseOnce
  dsimp only
  split
  · rfl
  · split
    · split <;> rfl
    · exact postAll_mem _ _

theorem reraise_mem (n : Nat) (s : State) : (reraise slot cl line n s).mem = s.mem := by
  induction n generalizing s with
  | zero => rfl
  | succ n ih =>
    unfold reraise
    dsimp only
    split
    · rfl
    · exact (ih _).trans (raiseOnce_mem ..)

theorem clusterRaise_mem (ev : Nat) (bs : List (Nat × Byte)) (f w : Nat) (s : State) :
    (clusterRaise slot cl line ev bs f w s).mem = s.mem := by
  unfold clusterRaise afterChange
  split
  · exact raiseOnce_mem ..
  · exact (reraise_mem ..).trans (raiseOnce_mem ..)

theorem evictAll_mem (l : List Nat) (s : State) : (l.foldl (fun s x => evictCopy cl x s) s).mem = s.mem := by
  induction l generalizing s with
  | nil => rfl
  | cons x l ih => exact (ih _).trans (clusterRaise_mem ..)

theorem evictAll_sameStrands (l : List Nat) (s : State) : SameStrands (l.foldl (fun s x => evictCopy cl x s) s) s :=
  foldl_sameStrands (fun _ _ => clusterRaise_sameStrands ..) l s

end

-- ## The change of a bank's role (R111, R185)

/-- Cells dropped between two keys read 0, the others as before. -/
theorem memByte_drop (m : Memory) (lo hi k : Nat) : memByte (m.filter fun x => !(decide (lo ≤ x.1) && decide (x.1 < hi))) k =
    if lo ≤ k ∧ k < hi then 0 else memByte m k := by
  rw [memByte_filter fun k => !(decide (lo ≤ k) && decide (k < hi))]
  by_cases h : lo ≤ k ∧ k < hi <;> simp [h]

/-- The strands stay, and so does every byte but those from `lo` to `hi` − 1, which become zero. -/
structure Clears (lo hi : Nat) (s t : State) : Prop where
  strand : t.strand = s.strand
  zero : ∀ k, lo ≤ k → k < hi → memByte t.mem k = 0
  kept : ∀ k, k < lo ∨ hi ≤ k → memByte t.mem k = memByte s.mem k

theorem clears_of_drop {lo hi : Nat} {s t : State} (hs : t.strand = s.strand)
    (hm : t.mem = s.mem.filter fun x => !(decide (lo ≤ x.1) && decide (x.1 < hi))) : Clears lo hi s t where
  strand := hs
  zero k hl hh := by rw [hm, memByte_drop, if_pos ⟨hl, hh⟩]
  kept k h := by rw [hm, memByte_drop, if_neg (by omega)]

/-- A state with the same strand and the same bytes. -/
theorem clears_nothing {s t : State} (hs : t.strand = s.strand) (hm : t.mem = s.mem) : Clears 0 0 s t where
  strand := hs
  zero k _ h := absurd h (Nat.not_lt_zero k)
  kept k _ := by rw [hm]

section
variable {cl bank : Nat} {r old : ClBank} {s : State}

/-- The copies that lie in a bank which leaves role C go. -/
def evictBank (cl bank : Nat) (old : ClBank) (s : State) : State :=
  if old = .c then (linesOfBank s cl bank).foldl (fun s l => evictCopy cl l s) s else s

theorem evictBank_mem : (evictBank cl bank old s).mem = s.mem := by
  unfold evictBank
  split
  · exact evictAll_mem ..
  · rfl

theorem evictBank_strand : (evictBank cl bank old s).strand = s.strand := by
  unfold evictBank
  split
  · exact (evictAll_sameStrands cl _ s).1
  · rfl

/-- A bank takes the role. -/
def giveRole (cl bank : Nat) (r : ClBank) (s : State) : State :=
  mapCluster cl (fun c => { c with banks := c.banks.setIfInBounds bank r }) s

theorem setClRole_changes (ho : (clusterAt s cl).banks[bank]? = some old) (hr : old ≠ r) : setClRole cl bank r s =
    if old = .c ∨ r = .c then clearBank cl bank (giveRole cl bank r (evictBank cl bank old s))
    else giveRole cl bank r (evictBank cl bank old s) := by
  simp only [setClRole, ho, if_neg hr] <;> rfl

theorem setClRole_same (ho : (clusterAt s cl).banks[bank]? = some r) : setClRole cl bank r s = s := by
  simp only [setClRole, ho, if_true]

/-- A change to or from role C clears the bank (R185). -/
theorem setClRole_clears (ho : (clusterAt s cl).banks[bank]? = some old) (hr : old ≠ r) (hc : old = .c ∨ r = .c) :
    Clears (clKey cl (bank * 0x80000)) (clKey cl (bank * 0x80000) + 0x80000) s (setClRole cl bank r s) := by
  rw [setClRole_changes ho hr, if_pos hc]
  refine clears_of_drop evictBank_strand ?_
  show (evictBank cl bank old s).mem.filter _ = _
  rw [evictBank_mem]

/-- A change between roles S and F keeps every byte (R185). -/
theorem setClRole_keeps (ho : (clusterAt s cl).banks[bank]? = some old) (hr : old ≠ r) (hc : ¬ (old = .c ∨ r = .c)) :
    Clears 0 0 s (setClRole cl bank r s) := by
  rw [setClRole_changes ho hr, if_neg hc]
  exact clears_nothing evictBank_strand evictBank_mem

theorem giveRole_role (hb : bank < 48) : (clusterAt (giveRole cl bank r s) cl).banks[bank]? = some r := by
  simp [giveRole, mapCluster, hb]

theorem clearBank_banks : (clusterAt (clearBank cl bank s) cl).banks = (clusterAt s cl).banks := by
  simp only [clearBank, mapCluster, clusterAt_putCluster]
  rfl

theorem clearBank_empty {k : Nat} (hl : bank * 0x8000 ≤ k) (hh : k < (bank + 1) * 0x8000) :
    granuleFull (clearBank cl bank s) cl k = false := by
  simp [granuleFull, clearBank, mapCluster, hl, hh]

theorem setClRole_role (ho : (clusterAt s cl).banks[bank]? = some old) (hr : old ≠ r) :
    (clusterAt (setClRole cl bank r s) cl).banks[bank]? = some r := by
  have hb : bank < 48 := by
    by_contra h
    simp [h] at ho
  rw [setClRole_changes ho hr]
  split
  · rw [clearBank_banks, giveRole_role hb]
  · exact giveRole_role hb

theorem setClRole_empty (ho : (clusterAt s cl).banks[bank]? = some old) (hr : old ≠ r) (hc : old = .c ∨ r = .c) {k : Nat}
    (hl : bank * 0x8000 ≤ k) (hh : k < (bank + 1) * 0x8000) : granuleFull (setClRole cl bank r s) cl k = false := by
  rw [setClRole_changes ho hr, if_pos hc]
  exact clearBank_empty hl hh

end

section
variable {co bank : Nat} {r : CoreBank} {s : State}

/-- A core-store bank is cleared when it changes its role (R111, R185). -/
theorem setCoRole_clears :
    Clears (coKey co (bank * 0x4000)) (coKey co (bank * 0x4000) + 0x4000) s (setCoRole co bank r s) :=
  clears_of_drop rfl rfl

theorem setCoRole_role (hb : bank < 16) : (coreAt (setCoRole co bank r s) co).banks[bank]? = some r := by
  show (coreAt (putCore s co _) co).banks[bank]? = _
  simp [hb]

end

-- ## The statuses (R189)

section
variable {cl co bank role : Nat} {s : State}

/-- Role C is named by 0. -/
theorem clRole_eq_c (hr : role < 3) : clRole role = .c ↔ role = 0 := by
  rcases (by omega : role = 0 ∨ role = 1 ∨ role = 2) with rfl | rfl | rfl <;> simp [clRole]

/-- Too few banks would be left in role C. -/
theorem bankroleCl_refuses (hc : (clusterAt s cl).banks[bank]? = some .c) (hr : role ≠ 0) (hn : clCount (clusterAt s cl) ≤ 8) :
    bankroleCl cl bank role s = (1, s) := by
  simp [bankroleCl, hc, hr, hn]

theorem bankroleCl_sets (h : ¬ ((clusterAt s cl).banks[bank]? = some .c ∧ role ≠ 0 ∧ clCount (clusterAt s cl) ≤ 8)) :
    bankroleCl cl bank role s = (0, setClRole cl bank (clRole role) s) := by
  simp only [bankroleCl, if_neg h]

/-- A core-store bank cannot take role F. -/
theorem bankroleCo_roleF {old : CoreBank} (ho : (coreAt s co).banks[bank]? = some old) : bankroleCo co bank 2 s = (3, s) := by
  simp [bankroleCo, ho]

/-- A V bank keeps its role. -/
theorem bankroleCo_bankV {k : Nat} (ho : (coreAt s co).banks[bank]? = some (.v k)) (hr : role ≠ 2) :
    bankroleCo co bank role s = (2, s) := by
  simp [bankroleCo, ho, hr]

/-- A bank in role C or S of which role C or S is asked. -/
theorem bankroleCo_sets {old : CoreBank} (ho : (coreAt s co).banks[bank]? = some old) (hv : ∀ k, old ≠ .v k) (hr : role ≠ 2) :
    bankroleCo co bank role s =
      if old = (if role = 0 then .c else .s) then (0, s)
      else if old = .c ∧ (cBanks (coreAt s co)).length ≤ 4 then (1, s)
      else (0, setCoRole co bank (if role = 0 then .c else .s) s) := by
  cases old with
  | v k => exact absurd rfl (hv k)
  | c => simp [bankroleCo, ho, hr]
  | s => simp [bankroleCo, ho, hr]

end

-- ## The instruction

section
variable {g : Guard} {d a b : BitVec 5} {q : SeqInfo} {s s0 s1 : State}

/-- The place in the job sequencer is taken once (R189, R200). -/
theorem takePlace_places {store : Bool} {bank : Nat}
    (h : s0.strand.place = some q ∧ s1 = s0 ∨ s0.strand.place = none ∧
      q = { order := (clusterAt s0 (myCluster s0)).order, asid := anyAsid, reads := [],
            writes := [if store then bankFoot bank else coreBankFoot bank], disp := false } ∧
      s1 = mapStrand (fun t => { t with place := some q }) (putCluster s0 (myCluster s0)
        { clusterAt s0 (myCluster s0) with order := (clusterAt s0 (myCluster s0)).order + 1 })) :
    takePlace store bank s0 = .ok q s1 := by
  rcases h with ⟨hp, rfl⟩ | ⟨hp, rfl, rfl⟩
  · simp only [takePlace, hp]
  · simp only [takePlace, hp]
    rfl

/-- What a `bankrole` does after its checks, behind its release: from the place in the sequencer on. -/
def bankroleWork (d : BitVec 5) (store : Bool) (bank role co cl : Nat) : M Unit := do
  let q ← takePlace store bank
  let clear ← ask fun s => clearToStart s cl q
  waitIf (!clear) .engine
  let r ← ask fun s => if store then bankroleCl cl bank role s else bankroleCo co bank role s
  change fun _ => r.2
  onStrand fun t => { t with place := none }
  wrS d (word r.1)

/-- Of its work an instruction needs only the answer at the state where it executes. -/
theorem plainOp_congr {rs ws : List (BitVec 5)} {ps : List (BitVec 3)} {work work' : M Unit} (h : work s = work' s) :
    plainOp g rs ws ps work s = plainOp g rs ws ps work' s := by
  simp only [plainOp, scalarOp, noCheck, thenNext, h]

/-- A permitted `bankrole` with an empty VQ, its release done, comes to this work. -/
theorem bankrole_works (hp : priv s.strand = true) (hq : s.strand.vq = []) (hl : releaseFor (me s) .cl s = .ok () s0)
    (hx : NamesBank (getS s.strand a).toNat) (hy : (getS s.strand b).toNat < 3) :
    exec (.bankrole g d a b) s = plainOp g [a, b] [d] [] (fun _ =>
      bankroleWork d (bit (getS s.strand a).toNat 8) (bits (getS s.strand a).toNat 5 0) (getS s.strand b).toNat (myCore s)
        (myCluster s) s0) s := by
  refine plainOp_congr ?_
  refine (bind_ok (m := illegalIf _ _) (bankrole_passes hx hy)).trans ?_
  refine (bind_ok (m := trapIf _ _ _) (if_neg (by simp [hp]))).trans ?_
  refine (bind_ok (m := waitIf _ _) (if_neg (by simp [hq]))).trans ?_
  exact bind_ok (m := releaseAt .cl) hl

/-- It waits in its place for the jobs received before it on its bank (R200). -/
theorem bankroleWork_waits {store : Bool} {bank role co cl : Nat} (ht : takePlace store bank s0 = .ok q s1)
    (hc : clearToStart s1 cl q = false) : bankroleWork d store bank role co cl s0 = .error (.wait .engine) s1 :=
  (bind_ok ht).trans (bind_error (m := waitIf _ _) (if_pos (by simp [hc])))

/-- Then it gives up its place and answers. -/
theorem bankroleWork_answers {store : Bool} {bank role co cl : Nat} {r : Nat × State} (ht : takePlace store bank s0 = .ok q s1)
    (hc : clearToStart s1 cl q = true) (hr : (if store then bankroleCl cl bank role s1 else bankroleCo co bank role s1) = r) :
    bankroleWork d store bank role co cl s0 = .ok () (mapStrand (fun t => setS { t with place := none } d (word r.1)) r.2) := by
  subst hr
  exact (bind_ok ht).trans (bind_ok (m := waitIf _ _) (if_neg (by simp [hc])))

end

/-- The end of a `bankrole` in the state that its effect leaves: the stream goes on with the status in sd, the place given up. -/
def answered (d : BitVec 5) (v : Nat) (t : Strand) : Strand := goTo (successor t) (setS { t with place := none } d (word v))

theorem advance_answered (d : BitVec 5) (v : Nat) (t : State) :
    advance (mapStrand (fun t => setS { t with place := none } d (word v)) t) = { t with strand := answered d v t.strand } := by
  simp [advance, mapStrand, answered, successor]

/-- The place is no part of the end. -/
theorem answered_place (d : BitVec 5) (v : Nat) (p : Option SeqInfo) (t : Strand) : answered d v { t with place := p } = answered d v t := rfl

section
variable {g : Guard} {d a b : BitVec 5} {q : SeqInfo} {s s0 s1 : State}

variable (h : Ready g [a, b] [d] [] s) (hp : priv s.strand = true) (hq : s.strand.vq = []) (hl : releaseFor (me s) .cl s = .ok () s0)
  (hx : NamesBank (getS s.strand a).toNat) (hy : (getS s.strand b).toNat < 3)
  (ht : takePlace (bit (getS s.strand a).toNat 8) (bits (getS s.strand a).toNat 5 0) s0 = .ok q s1)

include h hp hq hl hx hy ht

/-- A permitted `bankrole` in its place whose turn has not come waits there. -/
theorem bankrole_waitsTurn (hc : clearToStart s1 (myCluster s) q = false) :
    exec (.bankrole g d a b) s = .next (waitScalar .engine s1) :=
  (bankrole_works hp hq hl hx hy).trans (plainOp_waits h (bankroleWork_waits ht hc))

/-- One whose turn has come answers, with the effect `r` on the cluster store or the core store. -/
theorem bankrole_ends (hc : clearToStart s1 (myCluster s) q = true) {r : Nat × State}
    (hr : (if bit (getS s.strand a).toNat 8 then bankroleCl (myCluster s) (bits (getS s.strand a).toNat 5 0) (getS s.strand b).toNat s1
      else bankroleCo (myCore s) (bits (getS s.strand a).toNat 5 0) (getS s.strand b).toNat s1) = r) :
    exec (.bankrole g d a b) s = .next { r.2 with strand := answered d r.1 r.2.strand } := by
  refine (bankrole_works hp hq hl hx hy).trans ((plainOp_ready h ?_).trans (congrArg _ (advance_answered d r.1 r.2)))
  exact bankroleWork_answers ht hc hr

end

/-- The footprint of the bank that operand A names (R189, R200). -/
theorem foot_eq {x : Nat} (hx : NamesBank x) :
    [if bit x 8 then bankFoot (bits x 5 0) else coreBankFoot (bits x 5 0)] =
      if x = x % 64 then [flatFoot (word (0x00FFFFFF40000000 + x % 64 * 0x4000)) 0x4000]
      else [flatFoot (word (0x00FFFFFF00000000 + x % 64 * 0x80000)) 0x80000] := by
  have hb : bits x 5 0 = x % 64 := by simp [bits]
  by_cases h8 : bit x 8 = true
  · have hn : ¬ x = x % 64 := by have := (bit8_iff hx).mp h8; omega
    rw [if_pos h8, if_neg hn, hb]
    rfl
  · have hn : x = x % 64 := hx.elim (·.1) fun h => absurd ((bit8_iff hx).mpr h.1) h8
    rw [if_neg h8, if_pos hn, hb]
    rfl

/-- Settles O33: the place in the sequencer, then each status and what becomes of the bank. -/
theorem bankroleResults : Obligations.BankroleResults := by
  unfold Obligations.BankroleResults
  intro g d a b q s s0 s1 h hp hq hl hs x y bank cl co c foot placed left answer moved hy hxb hpl
  have hbits : bits x 5 0 = bank := by simp [bits, bank]
  have hcl : myCluster s0 = cl := congrArg (fun t : Strand => clusterOf t.id) hs
  have place (hx : NamesBank x) : takePlace (bit x 8) (bits x 5 0) s0 = .ok q s1 := by
    refine takePlace_places ?_
    rw [foot_eq hx, hcl, hs]
    exact hpl
  have strand (v : Nat) : answered d v s1.strand = answered d v s.strand := by
    rcases hpl with ⟨-, rfl⟩ | ⟨-, -, rfl⟩
    · rw [hs]
    · show answered d v { s0.strand with place := some q } = _
      rw [answered_place, hs]
  have move {lo hi : Nat} {t : State} (hm : Clears lo hi s1 t)
      (he : exec (.bankrole g d a b) s = .next { t with strand := answered d 0 t.strand }) :
      moved lo hi { t with strand := answered d 0 t.strand } :=
    ⟨he, (congrArg (answered d 0) hm.strand).trans (strand 0), hm.zero, hm.kept⟩
  refine ⟨fun hb hc => ?_, ?_, ?_⟩
  · exact bankrole_waitsTurn h hp hq hl hb hy (place hb) hc
  · intro hx hb hc old
    have hn : NamesBank x := .inr ⟨hx, hb⟩
    have ends {r : Nat × State} (hr : bankroleCl cl bank y s1 = r) :
        exec (.bankrole g d a b) s = .next { r.2 with strand := answered d r.1 r.2.strand } :=
      bankrole_ends h hp hq hl hn hy (place hn) hc (by rw [if_pos ((bit8_iff hn).mpr hx), hbits]; exact hr)
    have stays {v : Nat} (hr : bankroleCl cl bank y s1 = (v, s1)) : answer v := (ends hr).trans (by rw [strand]; rfl)
    have sets (hk : ¬ (old = some .c ∧ y ≠ 0 ∧ clCount (clusterAt s1 cl) ≤ 8)) :
        bankroleCl cl bank y s1 = (0, setClRole cl bank (clRole y) s1) := bankroleCl_sets hk
    refine ⟨fun ho hy0 hcount => ?_, fun ho hk => ?_, fun hne hk => ?_⟩
    · exact stays (bankroleCl_refuses ho hy0 hcount)
    · exact stays ((sets fun hh => hk ⟨hh.1, hh.2.1⟩).trans (by rw [setClRole_same ho]))
    · obtain ⟨o, ho⟩ : ∃ o, old = some o := ⟨_, Vector.getElem?_eq_getElem hb⟩
      have hr : o ≠ clRole y := fun hr => hne (by rw [ho, hr])
      have hclears : (o = .c ∨ clRole y = .c) ↔ (old = some .c ∨ y = 0) := by rw [ho, Option.some_inj, clRole_eq_c hy]
      have done := ends (sets fun hh => hk ⟨hh.1, hh.2.2⟩)
      refine ⟨fun hch => ?_, fun hch => ?_⟩
      · have hc' := hclears.mpr hch
        exact ⟨_, move (setClRole_clears ho hr hc') done, setClRole_role ho hr, fun _ hl hh => setClRole_empty ho hr hc' hl hh⟩
      · have hc' : ¬ (o = .c ∨ clRole y = .c) := fun hh => (hclears.mp hh).elim hch.1 hch.2
        exact ⟨_, move (setClRole_keeps ho hr hc') done, setClRole_role ho hr⟩
  · intro hx hb hc old
    have hn : NamesBank x := .inl ⟨hx, hb⟩
    have h8 : ¬ bit x 8 = true := fun h8 => by have := (bit8_iff hn).mp h8; omega
    have ends {r : Nat × State} (hr : bankroleCo co bank y s1 = r) :
        exec (.bankrole g d a b) s = .next { r.2 with strand := answered d r.1 r.2.strand } :=
      bankrole_ends h hp hq hl hn hy (place hn) hc (by rw [if_neg h8, hbits]; exact hr)
    have stays {v : Nat} (hr : bankroleCo co bank y s1 = (v, s1)) : answer v := (ends hr).trans (by rw [strand]; rfl)
    obtain ⟨o, ho⟩ : ∃ o, old = some o := ⟨_, Vector.getElem?_eq_getElem hb⟩
    refine ⟨fun hy2 => ?_, fun hy2 ⟨k, hk⟩ => ?_, fun hy0 hk => ?_, fun hy1 hk => ?_, fun hy1 hk hcount => ?_, fun hch => ?_⟩
    · exact stays (by rw [hy2]; exact bankroleCo_roleF ho)
    · exact stays (bankroleCo_bankV hk hy2)
    · exact stays ((bankroleCo_sets hk (by simp) (by omega)).trans (by simp [hy0]))
    · exact stays ((bankroleCo_sets hk (by simp) (by omega)).trans (by simp [hy1]))
    · exact stays ((bankroleCo_sets hk (by simp) (by omega)).trans (by simp [hy1, hcount]))
    · have sets : bankroleCo co bank y s1 = (0, setCoRole co bank (if y = 0 then .c else .s) s1) := by
        rcases hch with ⟨hy1, hk, hcount⟩ | ⟨hy0, hk⟩
        · exact (bankroleCo_sets hk (by simp) (by omega)).trans (by simp [hy1, hcount])
        · exact (bankroleCo_sets hk (by simp) (by omega)).trans (by simp [hy0])
      exact ⟨_, move setCoRole_clears (ends sets), setCoRole_role hb⟩

end Sys2Proof.Bankrole
end

section
/-! PROOFS. `vcfg`, `setvl` and `setvl.w` (O15). -/

namespace Sys2Proof.VectorConfig

open Sys2Proof.Machine Sys2Proof.Laws Sys2Proof.ScalarFlow

/-- An entry whose work waits stays at the head. -/
theorem vqOp_waits {i : Instr} {g : Guard} {whole fence : Bool} {work : VqEntry → M Unit} {s s1 : State} {e : VqEntry} {k : WaitKind}
    (h : AtHead e s) (hv : whole = true → s.strand.vstart = 0) (hw : work e s = .error (.wait k) s1) :
    vqOp i g whole fence work s = .next (waitVq k s1) := by
  have hs : ¬ (whole && s.strand.vstart != 0) = true := by
    cases whole
    · simp
    · simp [hv rfl]
  rw [vqOp_head h, vqRun, if_neg hs, hw]

-- ## The order of the core's heads (R109)

section
variable {s : State} {e x : VqEntry} {u : Strand} {r : VcfgReq}

/-- A strand whose head is a `vcfg` runs, and its head is that entry. -/
theorem headVcfg_head (h : headVcfg u = some (x, r)) : u.vq.head? = some x ∧ runs u = true := by
  unfold headVcfg at h
  split at h
  next y l hq =>
    split at h
    next hc =>
      simp only [Bool.and_eq_true] at hc
      obtain ⟨q, -, he⟩ := Option.map_eq_some_iff.mp h
      cases he
      exact ⟨by rw [hq]; rfl, hc.2⟩
    · cases h
  · cases h

/-- An older `vcfg` at the head of another VQ of the core that can be granted goes first. -/
theorem olderVcfg_of_head (hu : u ∈ s.others) (hc : coreOf u.id = coreOf s.strand.id) (hx : headVcfg u = some (x, r))
    (hg : couldGrant s u r = true) (ha : x.age < e.age) : olderVcfg s e = true := by
  obtain ⟨hh, hr⟩ := headVcfg_head hx
  have ho : olderHead s e u = true := by simp [olderHead, hh, ha]
  have hd : headReady s u = true := by simp [headReady, hr, hx, hg]
  exact List.any_eq_true.mpr ⟨u, hu, by simp [hc, ho, hd]⟩

end

-- ## The banks of a grant (R111, R114)

/-- Banks put into a role one after another. -/
theorem getElem_foldl_setIfInBounds {n : Nat} (l : List Nat) (r : CoreBank) (b : Vector CoreBank n) (k : Nat) (hk : k < n) :
    (l.foldl (fun b i => b.setIfInBounds i r) b)[k] = if k ∈ l then r else b[k] := by
  induction l generalizing b with
  | nil => simp
  | cons i l ih =>
    rw [List.foldl_cons, ih, Vector.getElem_setIfInBounds hk]
    by_cases hl : k ∈ l
    · simp [hl]
    · by_cases hi : i = k
      · simp [hi]
      · simp [hl, hi, Ne.symm hi]

theorem takeBanks_banks (n slot : Nat) (c : CoreState) (k : Nat) (hk : k < 16) :
    (takeBanks n slot c).banks[k] = if k ∈ (cBanks c).take n then .v slot else c.banks[k] :=
  getElem_foldl_setIfInBounds _ _ _ k hk

/-- The core of a strand whose grant is given back. -/
theorem coreAt_releaseGrant (s : State) : coreAt (releaseGrant s) (myCore s) = { coreAt s (myCore s) with
    banks := (coreAt s (myCore s)).banks.map fun b => if b = .v (slotOf s.strand.id) then .c else b } :=
  coreAt_putCore s (myCore s) _

theorem coreAt_releaseGrant_ne (s : State) {k : Nat} (hk : k ≠ myCore s) : coreAt (releaseGrant s) k = coreAt s k :=
  coreAt_putCore_ne s _ hk

-- ## The grant (R114)

/-- The extension banks offered to a request. -/
def offered (q : VcfgReq) (s : State) : Nat := Nat.min q.ext (canLeave (coreAt (releaseGrant s) (myCore s)))

/-- VLMAX of a grant. -/
def grantedLen (q : VcfgReq) (s : State) : Nat := grantLen s.strand.base (offered q s) q

/-- The extension banks that a grant takes. -/
def grantedExt (q : VcfgReq) (s : State) : Nat := grantExt s.strand.base (grantedLen q s) q

/-- The accumulators that no other strand of the core has claimed. -/
def freeAccs (s : State) : Nat := 4 - accsClaimed (releaseGrant s) (myCore s)

/-- The module with the banks of a grant in role V. -/
def takesBanks (q : VcfgReq) (s : State) : State :=
  let c := coreAt (releaseGrant s) (myCore s)
  leaveC (grantedExt q s) (myCore s) (putCore (releaseGrant s) (myCore s) (takeBanks (grantedExt q s) (slotOf s.strand.id) c))

section
variable {g : Guard} {d a : BitVec 5} {e : VqEntry} {q : VcfgReq} {s : State}

theorem grantVcfg_grants (h : q.wait = false ∨ q.ext ≤ canLeave (coreAt (releaseGrant s) (myCore s)) ∧ q.nacc ≤ freeAccs s) :
    grantVcfg q s = .ok () (mapStrand (granted q (grantedLen q s) (grantedExt q s) (Nat.min q.nacc (freeAccs s))) (takesBanks q s)) := by
  have hn : (q.wait && (decide (canLeave (coreAt (releaseGrant s) (myCore s)) < q.ext) || decide (freeAccs s < q.nacc))) = false := by
    rcases h with h | ⟨hb, ha⟩
    · rw [h, Bool.false_and]
    · simp [hb, ha]
  exact if_neg (Bool.eq_false_iff.mp hn)

/-- The `vcfg` at the head of the VQ, with no older head of the core before it, is granted. -/
theorem vcfg_commits (h : AtHead e s) (hv : s.strand.vstart = 0) (hq : readVcfg e.a = some q) (ho : olderVcfg s e = false)
    (hw : q.wait = false ∨ q.ext ≤ canLeave (coreAt (releaseGrant s) (myCore s)) ∧ q.nacc ≤ freeAccs s) :
    exec (.vcfg g d a) s = .next (commits (fun t => setS
      (granted q (grantedLen q s) (grantedExt q s) (Nat.min q.nacc (freeAccs s)) t) d (word (grantedLen q s))) (takesBanks q s)) := by
  show execVcfg g d a s = _
  refine vqOp_commits h (fun _ => hv) ?_
  simp only [hq]
  refine (bind_ok (m := waitIf _ _) (if_neg (by simp [ho]))).trans ?_
  exact bind_ok (grantVcfg_grants hw)

/-- It waits behind an older head of the core. -/
theorem vcfg_waits (h : AtHead e s) (hv : s.strand.vstart = 0) (hq : readVcfg e.a = some q) (ho : olderVcfg s e = true) :
    exec (.vcfg g d a) s = .next (waitVq .grant s) := by
  show execVcfg g d a s = _
  refine vqOp_waits h (fun _ => hv) ?_
  simp only [hq]
  exact bind_error (m := waitIf _ _) (if_pos ho)

/-- What a grant changes besides its strand: the banks of its core, and with them the copies noted for the core. -/
theorem takesBanks_frame : takesBanks q s =
    { s with strand := { s.strand with ext := 0, accs := [] }, cores := (takesBanks q s).cores, clines := (takesBanks q s).clines } := by
  unfold takesBanks leaveC
  dsimp only
  split <;> rfl

theorem takesBanks_cores : (takesBanks q s).cores = (putCore (releaseGrant s) (myCore s)
    (takeBanks (grantedExt q s) (slotOf s.strand.id) (coreAt (releaseGrant s) (myCore s)))).cores := by
  unfold takesBanks leaveC
  dsimp only
  split <;> rfl

theorem takesBanks_clines (h : grantedExt q s = 0) : (takesBanks q s).clines = s.clines := by
  simp only [takesBanks, leaveC, h, if_true]
  rfl

theorem takesBanks_coreAt : coreAt (takesBanks q s) (myCore s) =
    takeBanks (grantedExt q s) (slotOf s.strand.id) (coreAt (releaseGrant s) (myCore s)) := by
  rw [coreAt, takesBanks_cores]
  exact coreAt_putCore ..

theorem takesBanks_coreAt_ne {k : Nat} (hk : k ≠ myCore s) : coreAt (takesBanks q s) k = coreAt s k := by
  rw [coreAt, takesBanks_cores]
  exact (coreAt_putCore_ne _ _ hk).trans (coreAt_releaseGrant_ne s hk)

end

-- ## Vector length (R119, R121)

section
variable {g : Guard} {d a b : BitVec 5} {e : VqEntry} {s : State}

theorem setvl_commits (h : AtHead e s) (hv : s.strand.vstart = 0) : exec (.setvl g d a) s = .next (commits (fun t =>
    setS { t with vl := Nat.min e.a.toNat t.vlmax } d (word (Nat.min e.a.toNat t.vlmax))) s) :=
  show execSetvl g d a s = _ from vqOp_commits h (fun _ => hv) rfl

theorem setvlW_commits {w n : Nat} {s1 : State} (h : AtHead e s) (hv : s.strand.vstart = 0) (ha : e.tether.toNat % 8 = 0)
    (hr : atomicRead (me s) (vecWho s) e.tether 8 s = .ok w s1) (hs : s1.strand = s.strand)
    (hn : tetherLen w e.a.toNat e.b.toNat s.strand.vlmax = some n) :
    exec (.setvlW g d a b) s = .next (commitVq (acquireFor (me s) (myCluster s) (myCore s) .dm
      (mapStrand (fun t => setS { t with vl := n } d (word n)) s1))) := by
  show execSetvlW g d a b s = _
  refine vqOp_commits h (fun _ => hv) ?_
  refine (bind_ok (m := trapIf _ _ _) (if_neg (by simp [ha]))).trans ?_
  refine (bind_ok (m := atomicRead _ _ _ _) hr).trans ?_
  refine (bind_ok (m := ask _) (x := s.strand.vlmax) (by rw [← hs]; rfl)).trans ?_
  simp only [hn]
  have hid : (mapStrand (fun t => setS { t with vl := n } d (word n)) s1).strand.id = s.strand.id := by simp [hs]
  show EStateM.Result.ok () (acquireFor (me _) (myCluster _) (myCore _) .dm (mapStrand (fun t => setS { t with vl := n } d (word n)) s1)) = _
  simp only [me, myCluster, myCore, hid]

end

/-- Settles O15: the grant and its banks, the order of the core's heads, and the two forms of `setvl`. -/
theorem vectorConfiguration : Obligations.VectorConfiguration := by
  unfold Obligations.VectorConfiguration
  refine ⟨fun g d a e q s h hv hq => ?_, fun g d a b e s h hv => ⟨setvl_commits h hv, fun w n s1 => setvlW_commits h hv⟩⟩
  intro s0 co slot c free ext vlmax used
  refine ⟨fun ho hw => ⟨_, vcfg_commits h hv hq ho hw, ?_, takesBanks_clines, fun k => takesBanks_coreAt_ne, ?_, fun k hk => ⟨?_, ?_⟩⟩,
    fun u hu x r hc hx hg ha => vcfg_waits h hv hq (olderVcfg_of_head hu hc hx hg ha)⟩
  · exact (congrArg (commits _) takesBanks_frame).trans rfl
  · show coreAt (takesBanks q s) (myCore s) = { coreAt s (myCore s) with banks := (coreAt (takesBanks q s) (myCore s)).banks }
    rw [takesBanks_coreAt, takeBanks, coreAt_releaseGrant]
  · show (coreAt (releaseGrant s) (myCore s)).banks[k] = _
    simp only [coreAt_releaseGrant, Vector.getElem_map]
    rfl
  · show (coreAt (takesBanks q s) (myCore s)).banks[k] = _
    simp only [takesBanks_coreAt]
    exact takeBanks_banks _ _ _ k hk

end Sys2Proof.VectorConfig
end

section
/-! PROOFS. Element-wise integer instructions (O16). -/

namespace Sys2Proof.VectorInteger

open Sys2Proof.Machine Sys2Proof.Laws Sys2Proof.ScalarFlow Sys2Proof.VectorFp

-- ## Elements that write their results (R138)

/-- At the head of the VQ the instruction runs its active elements under mask `m` with effects `f`, and commits. -/
def CommitsElements (i : Instr) (m : BitVec 3) (f : Nat → Strand → Strand) (s : State) : Prop :=
  exec i s = .next (commits (elementFold m f) s)

section
variable {i : Instr} {g : Guard} {m : BitVec 3} {work : VqEntry → M Unit} {F : Nat → M Unit} {e : VqEntry} {s : State}
  {vs : List (BitVec 5)} {ms : List (BitVec 3)}

/-- Each active element computes `q` from the strand and has the effect `u` of it, where neither looks at VSTART. -/
theorem commitsElements_of_work {α : Type} {q : Nat → Strand → α} (u : Nat → α → Strand → Strand) (h : AtHead e s)
    (hx : exec i s = vqOp i g false false work s) (hw : work e s = elementWise m F s) (hq : Clean s vs ms) (hm : m = 0 ∨ m ∈ ms)
    (hF : ∀ k s1, Clean s1 vs ms → F k s1 = onStrand (u k (q k s1.strand)) s1) (hv : ∀ k t v, q k (atV v t) = q k t)
    (hu : ∀ k x t, FewerUpsets (u k x t) t) (hk : ∀ k x, KeepsVstart (u k x)) :
    CommitsElements i m (fun k t => u k (q k t) t) s :=
  hx.trans <| vqOp_fold F h hw hq hm hF (fun k t => hu k _ t) fun k t v =>
    (congrArg (u k · (atV v t)) (hv k t v)).trans (hk k _ t v)

/-- Each active element writes `q` to its place in a vector register. -/
theorem commitsElements_putElem {d : BitVec 5} {w : Nat} {q : Nat → Strand → Nat} (h : AtHead e s)
    (hx : exec i s = vqOp i g false false work s) (hw : work e s = elementWise m F s) (hq : Clean s vs [m])
    (hF : ∀ k s1, Clean s1 vs [m] → F k s1 = wrV d w k (q k s1.strand) s1) (hv : ∀ k t v, q k (atV v t) = q k t) :
    CommitsElements i m (fun k t => putElem t d w k (q k t)) s :=
  commitsElements_of_work (fun k x t => putElem t d w k x) h hx hw hq (.inr (List.mem_singleton_self m)) hF hv
    (fun k x t => putElem_fewer t d w k x) (fun k x t v => putElem_keepsVstart t d w k x v)

/-- Each active element writes `q` to its bit of a mask. -/
theorem commitsElements_putMask {md : BitVec 3} {q : Nat → Strand → Bool} (h : AtHead e s)
    (hx : exec i s = vqOp i g false false work s) (hw : work e s = elementWise m F s) (hq : Clean s vs ms) (hm : m = 0 ∨ m ∈ ms)
    (hF : ∀ k s1, Clean s1 vs ms → F k s1 = wrM md k (q k s1.strand) s1) (hv : ∀ k t v, q k (atV v t) = q k t) :
    CommitsElements i m (fun k t => putMask t md k (q k t)) s :=
  commitsElements_of_work (fun k x t => putMask t md k x) h hx hw hq hm hF hv
    (fun k x t => putMask_fewer t md k x) (fun k x t v => putMask_keepsVstart t md k x v)

end

-- ## Binary and unary instructions (R141)

/-- An integer binary instruction without its operands. -/
abbrev BinaryForm := Guard → Ty → BitVec 5 → BitVec 5 → BOp → BitVec 3 → Instr

section
variable {i : Instr} {g : Guard} {ty : Ty} {d a : BitVec 5} {b : BOp} {m : BitVec 3} {e : VqEntry} {s : State}

/-- A form of binary instructions with its rule for two elements: at the head of the VQ the instruction writes what the rule
gives of each active element and its B operand, and commits. -/
def FollowsRule (g : Guard) (ty : Ty) (d a : BitVec 5) (b : BOp) (m : BitVec 3) (e : VqEntry) (s : State)
    (p : BinaryForm × (Nat → Nat → Nat)) : Prop :=
  CommitsElements (p.1 g ty d a b m) m (fun k t => putElem t d ty.width k (p.2 (velem t a ty.width k) (bValue e b ty t k))) s

/-- A binary instruction (R138, R141). -/
theorem vBin_followsRule {p : BinaryForm × (Nat → Nat → Nat)}
    (hx : exec (p.1 g ty d a b m) s = vBin (p.1 g ty d a b m) g ty d a b m p.2 s) (h : AtHead e s)
    (hg : Granted s (d :: a :: bRegs b) ty.width) (hc : Clean s (a :: bRegs b) [m]) : FollowsRule g ty d a b m e s p :=
  commitsElements_putElem h hx (bind_ok (vecCheck_granted hg)) hc
    (fun k _ hk => (bind_ok (readElem_clean _ k hk List.mem_cons_self)).trans (bind_ok (readB_clean ty k hk (bRegs_sub a b))))
    (fun _ _ _ => rfl)

/-- A unary instruction (R138, R141). -/
theorem vUn_commits {f : Nat → Nat} (hx : exec i s = vUn i g ty d a m f s) (h : AtHead e s) (hg : Granted s [d, a] ty.width)
    (hc : Clean s [a] [m]) : CommitsElements i m (fun k t => putElem t d ty.width k (f (velem t a ty.width k))) s :=
  commitsElements_putElem h hx (bind_ok (vecCheck_granted hg)) hc
    (fun k _ hk => bind_ok (readElem_clean _ k hk List.mem_cons_self)) (fun _ _ _ => rfl)

end

-- ## Minimum and maximum (R141)

theorem velem_lt (t : Strand) (r : BitVec 5) (w k : Nat) : velem t r w k < 2 ^ w := Nat.mod_lt _ (Nat.two_pow_pos w)

theorem eight_le_width (ty : Ty) : 8 ≤ ty.width := by cases ty <;> decide

/-- A B operand gives an element of its type. -/
theorem bValue_lt (e : VqEntry) (b : BOp) (ty : Ty) (t : Strand) (k : Nat) : bValue e b ty t k < 2 ^ ty.width := by
  cases b with
  | vec r => exact velem_lt ..
  | scal _ => exact Nat.mod_lt _ (Nat.two_pow_pos _)
  | imm i =>
    simp only [bValue]
    split
    · exact Nat.mod_lt _ (Nat.two_pow_pos _)
    · exact lt_of_lt_of_le i.isLt (Nat.pow_le_pow_right two_pos (eight_le_width ty))

theorem signedOf_inj {w x y : Nat} (hx : x < 2 ^ w) (hy : y < 2 ^ w) (h : signedOf w x = signedOf w y) : x = y := by
  simp only [signedOf, Nat.mod_eq_of_lt hx, Nat.mod_eq_of_lt hy] at h
  generalize 2 ^ w = n at *
  split at h <;> split at h <;> omega

/-- An element is its value as its type reads it. -/
theorem intOf_inj {ty : Ty} {x y : Nat} (hx : x < 2 ^ ty.width) (hy : y < 2 ^ ty.width) (h : intOf ty x = intOf ty y) : x = y := by
  unfold intOf at h
  split at h
  · exact signedOf_inj hx hy h
  · rw [Nat.mod_eq_of_lt hx, Nat.mod_eq_of_lt hy] at h
    exact Int.ofNat.inj h

/-- The smaller or the larger element: equal values are equal elements. -/
theorem intPick_eq {ty : Ty} {x y : Nat} (wantMax : Bool) (hx : x < 2 ^ ty.width) (hy : y < 2 ^ ty.width) :
    intPick ty wantMax x y = if intOf ty x ≤ intOf ty y then bif wantMax then y else x else bif wantMax then x else y := by
  rcases lt_trichotomy (intOf ty x) (intOf ty y) with hl | he | hl
  · cases wantMax <;> simp [intPick, hl, hl.le]
  · cases wantMax <;> simp [intPick, intOf_inj hx hy he]
  · cases wantMax <;> simp [intPick, hl.not_ge, hl.not_gt]

section
variable {g : Guard} {ty : Ty} {d a : BitVec 5} {b : BOp} {m : BitVec 3} {e : VqEntry} {s : State}

/-- The rule may be any function that agrees with the model's on elements of the type. -/
theorem FollowsRule.congr {c : BinaryForm} {f f' : Nat → Nat → Nat}
    (h : FollowsRule g ty d a b m e s (c, f)) (hf : ∀ x < 2 ^ ty.width, ∀ y < 2 ^ ty.width, f x y = f' x y) :
    FollowsRule g ty d a b m e s (c, f') := by
  have he : (fun k t => putElem t d ty.width k (f' (velem t a ty.width k) (bValue e b ty t k))) =
      fun k t => putElem t d ty.width k (f (velem t a ty.width k) (bValue e b ty t k)) := by
    funext k t
    rw [hf _ (velem_lt ..) _ (bValue_lt ..)]
  exact (congrArg (CommitsElements (c g ty d a b m) m · s) he).mpr h

theorem vmin_followsRule (h : AtHead e s) (hg : Granted s (d :: a :: bRegs b) ty.width) (hc : Clean s (a :: bRegs b) [m]) :
    FollowsRule g ty d a b m e s (.vmin, fun x y => if intOf ty x ≤ intOf ty y then x else y) :=
  (vBin_followsRule (p := (.vmin, intPick ty false)) rfl h hg hc).congr fun _ hx _ hy => intPick_eq false hx hy

theorem vmax_followsRule (h : AtHead e s) (hg : Granted s (d :: a :: bRegs b) ty.width) (hc : Clean s (a :: bRegs b) [m]) :
    FollowsRule g ty d a b m e s (.vmax, fun x y => if intOf ty x ≤ intOf ty y then y else x) :=
  (vBin_followsRule (p := (.vmax, intPick ty true)) rfl h hg hc).congr fun _ hx _ hy => intPick_eq true hx hy

end

/-- Settles O16: each instruction is the binary or the unary frame around its rule; the ties of `vmin` and `vmax` are equal elements. -/
theorem vectorIntegerResults : Obligations.VectorIntegerResults := by
  unfold Obligations.VectorIntegerResults
  intro g ty d a b m e s h w
  refine ⟨fun hg hc => ?_, fun hg hc => ⟨vUn_commits (f := fun x => (intOf ty x).natAbs % 2 ^ w) rfl h hg hc,
    vUn_commits (f := fun x => wrapTo w (-(x : Int))) rfl h hg hc⟩⟩
  have bin {p} (hx : exec (p.1 g ty d a b m) s = vBin (p.1 g ty d a b m) g ty d a b m p.2 s) : FollowsRule g ty d a b m e s p :=
    vBin_followsRule hx h hg hc
  show ∀ p ∈ _, FollowsRule g ty d a b m e s p
  exact List.forall_iff_forall_mem.mp ⟨bin rfl, bin rfl, bin rfl, bin rfl, vmin_followsRule h hg hc, vmax_followsRule h hg hc,
    bin rfl, bin rfl, bin rfl, bin rfl, bin rfl, bin rfl, bin rfl, bin rfl⟩

end Sys2Proof.VectorInteger
end

section
/-! PROOFS. Carries, comparisons, masks, broadcasts and single-element moves (O17). -/

namespace Sys2Proof.VectorMasks

open Sys2Proof.Machine Sys2Proof.Laws Sys2Proof.ScalarFlow Sys2Proof.VectorFp Sys2Proof.Reductions Sys2Proof.VectorInteger

-- ## Elements that write masks (R142, R149, R150)

section
variable {i : Instr} {g : Guard} {cc : Cond} {op : PredOp} {ty : Ty} {d a : BitVec 5} {b : BOp} {md ma mb m : BitVec 3} {e : VqEntry}
  {s : State}

/-- A carry instruction (R142): `f` answers an element and its carry-out. -/
theorem vCarry_commits {f : Nat → Nat → Nat → Nat × Bool} (hx : exec i s = vCarry i g ty d a b md ma f s) (h : AtHead e s)
    (hg : Granted s (d :: a :: bRegs b) ty.width) (hc : Clean s (a :: bRegs b) [ma]) :
    CommitsElements i 0 (fun k t =>
      let z := f (velem t a ty.width k) (bValue e b ty t k) (b2n (maskBit t ma k))
      putMask (putElem t d ty.width k z.1) md k z.2) s :=
  commitsElements_of_work (fun k (z : Nat × Bool) t => putMask (putElem t d ty.width k z.1) md k z.2) h hx
    (bind_ok (vecCheck_granted hg)) hc (.inl rfl)
    (fun k _ hk => (bind_ok (readMask_clean k hk (List.mem_singleton_self ma))).trans
      ((bind_ok (readElem_clean _ k hk List.mem_cons_self)).trans (bind_ok (readB_clean ty k hk (bRegs_sub a b)))))
    (fun _ _ _ => rfl) (fun k z t => FewerUpsets.trans (putMask_fewer _ md k z.2) (putElem_fewer t d _ k z.1))
    (fun k z t v => putMask_keepsVstart (putElem t d _ k z.1) md k z.2 v)

/-- A borrow taken before the difference. -/
theorem vsbc_commits (h : AtHead e s) (hg : Granted s (d :: a :: bRegs b) ty.width) (hc : Clean s (a :: bRegs b) [ma]) :
    CommitsElements (.vsbc g ty d a b md ma) 0 (fun k t =>
      let x := velem t a ty.width k
      let y := bValue e b ty t k + b2n (maskBit t ma k)
      putMask (putElem t d ty.width k (wrapTo ty.width ((x : Int) - y))) md k (decide (x < y))) s := by
  have hw := vCarry_commits (i := .vsbc g ty d a b md ma)
    (f := fun x y c => (wrapTo ty.width ((x : Int) - y - c), decide (x < y + c))) rfl h hg hc
  simpa only [Nat.cast_add, Int.sub_sub] using hw

/-- The B operand of a comparison: an immediate is extended as the condition says (R149). -/
def cmpValue (e : VqEntry) (cc : Cond) (b : BOp) (ty : Ty) (t : Strand) (k : Nat) : Nat :=
  match b with
  | .imm i => (match cc with
    | .ltn | .gen | .len | .gtn => i.toNat
    | _ => (i.signExtend 64).toNat % 2 ^ ty.width)
  | _ => bValue e b ty t k

theorem readCmpB_clean {vs : List (BitVec 5)} {ms : List (BitVec 3)} (k : Nat) (h : Clean s vs ms) (hb : ∀ r ∈ bRegs b, r ∈ vs) :
    readCmpB e cc b ty k s = .ok (cmpValue e cc b ty s.strand k) s := by
  cases b with
  | vec r => exact readB_clean (e := e) ty k h hb
  | scal _ => rfl
  | imm j => cases cc <;> rfl

theorem vcmp_commits (h : AtHead e s) (hg : Granted s (a :: bRegs b) ty.width) (hc : Clean s (a :: bRegs b) [m]) :
    CommitsElements (.vcmp g cc ty md a b m) m (fun k t =>
      putMask t md k (elemCond cc ty.width (velem t a ty.width k) (cmpValue e cc b ty t k))) s :=
  commitsElements_putMask h (rfl : _ = execVcmp g cc ty md a b m s) (bind_ok (vecCheck_granted hg)) hc
    (.inr (List.mem_singleton_self m))
    (fun k _ hk => (bind_ok (readElem_clean _ k hk List.mem_cons_self)).trans (bind_ok (readCmpB_clean k hk (bRegs_sub a b))))
    (fun k t v => by cases b <;> rfl)

/-- `not` does not look at its second mask (R150). -/
theorem mop_commits (h : AtHead e s) (hc : Clean s [] [ma, mb]) :
    CommitsElements (.mop g op md ma mb) 0 (fun k t => putMask t md k (predOp op (maskBit t ma k) (maskBit t mb k))) s :=
  commitsElements_putMask h (rfl : _ = execMop g op md ma mb s) rfl hc (.inl rfl)
    (fun k _ hk => by
      refine (bind_ok (readMask_clean k hk List.mem_cons_self)).trans ?_
      by_cases ho : op = .not
      · subst ho
        rfl
      · rw [if_neg ho]
        exact bind_ok (readMask_clean k hk (List.mem_cons_of_mem ma List.mem_cons_self)))
    (fun _ _ _ => rfl)

theorem vbcast_commits (h : AtHead e s) (hg : Granted s (d :: bRegs b) ty.width) (hc : Clean s (bRegs b) [m]) :
    CommitsElements (.vbcast g ty d b m) m (fun k t => putElem t d ty.width k (bValue e b ty t k)) s :=
  commitsElements_putElem h (rfl : _ = execVbcast g ty d b m s) (bind_ok (vecCheck_granted (granted_sub hg (by simp)))) hc
    (fun k _ hk => bind_ok (readB_clean ty k hk fun _ hr => hr)) (fun _ _ _ => rfl)

theorem vid_commits (h : AtHead e s) (hg : Granted s [d] ty.width) (hc : Clean s [] [m]) :
    CommitsElements (.vid g ty d m) m (fun k t => putElem t d ty.width k (k % 2 ^ ty.width)) s :=
  commitsElements_putElem h (rfl : _ = execVid g ty d m s) (bind_ok (vecCheck_granted hg)) hc (fun _ _ _ => rfl) (fun _ _ _ => rfl)

end

-- ## Single elements (R154)

section
variable {g : Guard} {ty : Ty} {d a : BitVec 5} {b : BOp} {e : VqEntry} {s : State}

/-- The element of `vmvs`; one beyond VLMAX reads as 0. -/
theorem vmvs_commits (h : AtHead e s) (hg : Granted s [a] ty.width) (hc : Clean s [a] []) (hv : s.strand.vstart = 0) :
    exec (.vmvs g ty d a b) s = .next (commits (fun t =>
      setS t d (if indexOf e b < t.vlmax then toReg ty (velem t a ty.width (indexOf e b)) else 0)) s) := by
  show execVmvs g ty d a b s = _
  refine vqOp_commits h (by simp) <| (bind_ok (vecCheck_granted hg)).trans <|
    (bind_ok (m := ask State.strand) (x := s.strand) rfl).trans ?_
  rw [if_neg (not_not.mpr hv)]
  by_cases hi : indexOf e b < s.strand.vlmax
  · rw [if_neg hi.not_ge]
    refine (bind_ok (readElem_clean _ _ hc List.mem_cons_self)).trans ?_
    simp only [wrS, onStrand, change, mapStrand, hi, if_true]
  · rw [if_pos (not_lt.mp hi)]
    simp only [wrS, onStrand, change, mapStrand, hi, if_false]

/-- `vsv` writes no element beyond VLMAX. -/
theorem vsv_commits (h : AtHead e s) (hg : Granted s [d] ty.width) (hv : s.strand.vstart = 0) :
    exec (.vsv g ty d a b) s = .next (commits (fun t =>
      if indexOf e b < t.vlmax then putElem t d ty.width (indexOf e b) (e.a.toNat % 2 ^ ty.width) else t) s) := by
  show execVsv g ty d a b s = _
  refine vqOp_commits h (by simp) <| (bind_ok (vecCheck_granted hg)).trans <|
    (bind_ok (m := ask State.strand) (x := s.strand) rfl).trans ?_
  rw [if_neg (not_not.mpr hv)]
  by_cases hi : indexOf e b < s.strand.vlmax
  · rw [if_neg hi.not_ge]
    simp only [wrV, onStrand, change, mapStrand, hi, if_true]
  · rw [if_pos (not_lt.mp hi)]
    simp only [mapStrand, hi, if_false]
    rfl

end

-- ## Whole masks (R150, R151)

section
variable {i : Instr} {g : Guard} {d b c : BitVec 5} {md ma : BitVec 3} {e : VqEntry} {s : State}

/-- A whole mask is read bit by bit. -/
theorem readMasks_clean {vs : List (BitVec 5)} {ms : List (BitVec 3)} (h : Clean s vs ms) (hm : ma ∈ ms) (l : List Nat) :
    readMasks ma l s = .ok (l.map (maskBit s.strand ma)) s := by
  induction l with
  | nil => rfl
  | cons k l ih => exact (bind_ok (readMask_clean k h hm)).trans (bind_ok ih)

/-- Writes of mask bits one after another. -/
theorem wrMasks_map (new : Nat → Bool) (n : Nat) : ∀ k, wrMasks md k ((List.range' k n).map new) =
    onStrand fun t => (List.range' k n).foldl (fun t j => putMask t md j (new j)) t := by
  induction n with
  | zero => exact fun _ => rfl
  | succ n ih =>
    intro k
    simp only [List.range'_succ, List.map_cons, wrMasks, ih]
    rfl

theorem mpop_commits (h : AtHead e s) (hv : s.strand.vstart = 0) (hc : Clean s [] [ma]) :
    exec (.mpop g d ma) s = .next (commits (fun t =>
      setS t d (word ((List.range s.strand.vl).countP (maskBit s.strand ma)))) s) := by
  rw [List.countP_eq_length_filter]
  exact (rfl : _ = execMpop g d ma s).trans <| vqOp_commits h (fun _ => hv) (bind_ok (activeElems_clean hc (List.mem_singleton_self ma)))

theorem mfirst_commits (h : AtHead e s) (hv : s.strand.vstart = 0) (hc : Clean s [] [ma]) :
    exec (.mfirst g d ma) s = .next (commits (fun t => setS t d
      (match (List.range s.strand.vl).find? (maskBit s.strand ma) with | some k => word k | none => 0xFFFFFFFFFFFFFFFF)) s) := by
  show execMfirst g d ma s = _
  refine (vqOp_commits h (fun _ => hv) (bind_ok (activeElems_clean hc (List.mem_singleton_self ma)))).trans ?_
  rw [← List.head?_filter]
  show _ = Host.Outcome.next (commits (fun t => setS t d (match (active ma s.strand).head? with
    | some k => word k
    | none => 0xFFFFFFFFFFFFFFFF)) s)
  cases active ma s.strand <;> rfl

/-- A shift of a mask (R151) that has elements: `f` answers the new bits, each by its number, and the bit shifted out. -/
theorem maskShift_commits {f : Bool → List Bool → List Bool × Bool} {new : Nat → Bool} {last : Bool}
    (hx : exec i s = maskShift i g md ma c f s) (h : AtHead e s) (hv : s.strand.vstart = 0) (hc : Clean s [] [ma])
    (hl : 0 < s.strand.vl)
    (hf : f (e.b.getLsbD 0) ((List.range s.strand.vl).map (maskBit s.strand ma)) = ((List.range s.strand.vl).map new, last)) :
    exec i s = .next (commits (fun t =>
      setS ((List.range s.strand.vl).foldl (fun t j => putMask t md j (new j)) t) c (word (b2n last))) s) := by
  refine hx.trans <| vqOp_commits h (fun _ => hv) <| (bind_ok (m := ask _) (x := s.strand.vl) rfl).trans ?_
  rw [if_neg hl.ne']
  refine (bind_ok (readMasks_clean hc (List.mem_singleton_self ma) _)).trans ?_
  show (wrMasks md 0 (f _ _).1 >>= fun _ => wrS c (word (b2n (f _ _).2))) s = _
  rw [hf, List.range_eq_range', wrMasks_map]
  rfl

/-- A shift of a mask with no elements passes the bit on. -/
theorem maskShift_empty {f : Bool → List Bool → List Bool × Bool} (hx : exec i s = maskShift i g md ma c f s) (h : AtHead e s)
    (hv : s.strand.vstart = 0) (hl : s.strand.vl = 0) : exec i s = .next (commits (fun t => setS t c (e.b &&& 1)) s) := by
  refine hx.trans <| vqOp_commits h (fun _ => hv) <| (bind_ok (m := ask _) (x := s.strand.vl) rfl).trans ?_
  rw [if_pos hl]
  rfl

/-- A list of bits moved one place up behind a bit, and the bit that leaves it (R151). -/
def shiftUp (bit : Bool) (bs : List Bool) : List Bool × Bool := (bit :: bs.dropLast, bs.getLastD false)

/-- A list of bits moved one place down before a bit, and the bit that leaves it (R151). -/
def shiftDown (bit : Bool) (bs : List Bool) : List Bool × Bool := (bs.tail ++ [bit], bs.headD false)

theorem shiftUp_range (x : Nat → Bool) (bit : Bool) {n : Nat} (hn : 0 < n) : shiftUp bit ((List.range n).map x) =
    ((List.range n).map fun j => if j = 0 then bit else x (j - 1), x (n - 1)) := by
  obtain ⟨n, rfl⟩ := Nat.exists_eq_succ_of_ne_zero hn.ne'
  refine Prod.ext ?_ (by simp [shiftUp, List.range_succ])
  show bit :: ((List.range (n + 1)).map x).dropLast = _
  rw [List.range_succ, List.map_append, List.map_singleton, List.dropLast_concat, ← List.range_succ, List.range_succ_eq_map]
  simp

theorem shiftDown_range (x : Nat → Bool) (bit : Bool) {n : Nat} (hn : 0 < n) : shiftDown bit ((List.range n).map x) =
    ((List.range n).map fun j => if j = n - 1 then bit else x (j + 1), x 0) := by
  obtain ⟨n, rfl⟩ := Nat.exists_eq_succ_of_ne_zero hn.ne'
  refine Prod.ext ?_ (by simp [shiftDown, List.range_succ_eq_map])
  have ht : ((List.range (n + 1)).map x).tail = (List.range n).map fun j => x (j + 1) := by simp [List.range_succ_eq_map]
  have hm : (List.range n).map (fun j => x (j + 1)) = (List.range n).map fun j => if j = n then bit else x (j + 1) :=
    List.map_congr_left fun j hj => (if_neg (List.mem_range.mp hj).ne).symm
  show ((List.range (n + 1)).map x).tail ++ [bit] = _
  rw [ht, hm]
  simp [List.range_succ]

end

/-- Settles O17: the element-wise forms as folds, the single elements by VLMAX, the whole masks by what is read before the writes. -/
theorem vectorMaskAndMoveResults : Obligations.VectorMaskAndMoveResults := by
  unfold Obligations.VectorMaskAndMoveResults
  constructor
  · intro g cc op ty d a b md ma mb m e s h w
    exact ⟨fun hg hc => ⟨vCarry_commits (i := .vadc g ty d a b md ma)
        (f := fun x y c => ((x + y + c) % 2 ^ w, decide (2 ^ w ≤ x + y + c))) rfl h hg hc, vsbc_commits h hg hc⟩,
      fun hg hc => vcmp_commits h hg hc, mop_commits h, vbcast_commits h, vid_commits h, vmvs_commits h, vsv_commits h⟩
  · intro g d b c md ma e s h hv hc vl bitIn x
    refine ⟨mpop_commits h hv hc, mfirst_commits h hv hc, fun hl => ⟨?_, ?_⟩, fun hl => ⟨?_, ?_⟩⟩
    · exact maskShift_commits (f := shiftUp) rfl h hv hc hl (shiftUp_range x bitIn hl)
    · exact maskShift_commits (f := shiftDown) rfl h hv hc hl (shiftDown_range x bitIn hl)
    · exact maskShift_empty (f := shiftUp) (md := md) (ma := ma) rfl h hv hl
    · exact maskShift_empty (f := shiftDown) (md := md) (ma := ma) rfl h hv hl

end Sys2Proof.VectorMasks
end

section
/-! PROOFS. Permutations (O18). -/

namespace Sys2Proof.Permutations

open Sys2Proof.Machine Sys2Proof.Laws Sys2Proof.ScalarFlow Sys2Proof.VectorFp Sys2Proof.Reductions

/-- Reads of a list that each answer and change nothing. -/
theorem mapM_ok {α β : Type} {f : α → M β} {F : α → β} {s : State} (h : ∀ x, f x s = .ok (F x) s) (l : List α) :
    l.mapM f s = .ok (l.map F) s := by
  induction l with
  | nil => rfl
  | cons x l ih =>
    rw [List.mapM_cons]
    exact (bind_ok (h x)).trans (bind_ok ih)

section
variable {i : Instr} {g : Guard} {ty : Ty} {d a b : BitVec 5} {k : BOp} {m : BitVec 3} {e : VqEntry} {s : State}
  {regs : List (BitVec 5)}

/-- The element that a move takes from `a` in the strand, 0 where it has no source. -/
def moved (t : Strand) (a : BitVec 5) (w : Nat) : Option Nat → Nat
  | some j => velem t a w j
  | none => 0

theorem moved_ite (t : Strand) (a : BitVec 5) (w j : Nat) (c : Prop) [Decidable c] :
    moved t a w (if c then some j else none) = if c then velem t a w j else 0 := by split <;> rfl

/-- At the head of the VQ the instruction writes values to elements of `d`, one after another, and commits. -/
def Writes (i : Instr) (d : BitVec 5) (w : Nat) (l : List (Nat × Nat)) (s : State) : Prop :=
  exec i s = .next (commits (fun t => l.foldl (fun t p => putElem t d w p.1 p.2) t) s)

/-- A permutation (R152): its checks pass, `src` answers the places and their sources, and every source is read in the state
before the writes. -/
theorem vMove_writes {src : VqEntry → Nat → List Nat → M (List (Nat × Option Nat))} {mv : List (Nat × Option Nat)}
    (hx : exec i s = vMove i g ty d a regs m src s) (h : AtHead e s) (hv : s.strand.vstart = 0)
    (hg : Granted s (d :: a :: regs) ty.width) (hc : Clean s (a :: regs) [m])
    (hs : src e s.strand.vl (active m s.strand) s = .ok mv s) :
    Writes i d ty.width (mv.map fun x => (x.1, moved s.strand a ty.width x.2)) s := by
  refine hx.trans <| vqOp_commits h (fun _ => hv) <| (bind_ok (vecCheck_granted hg)).trans <|
    (bind_ok (activeElems_clean hc (List.mem_singleton_self m))).trans <|
    (bind_ok (m := ask _) (x := s.strand.vl) rfl).trans <| (bind_ok hs).trans <|
    (bind_ok (mapM_ok (F := fun x => (x.1, moved s.strand a ty.width x.2)) ?_ mv)).trans ?_
  · rintro ⟨p, _ | j⟩
    · rfl
    · exact bind_ok (readElem_clean ty.width j hc List.mem_cons_self)
  · rw [wrElems_eq]
    rfl

theorem vslideUp_writes (h : AtHead e s) (hv : s.strand.vstart = 0) (hg : Granted s [d, a] ty.width) (hc : Clean s [a] [m]) :
    Writes (.vslideUp g ty d a k m) d ty.width (((active m s.strand).filter fun i => decide (indexOf e k ≤ i)).map fun i =>
      (i, velem s.strand a ty.width (i - indexOf e k))) s := by
  have hw := vMove_writes (i := .vslideUp g ty d a k m) rfl h hv hg hc rfl
  rwa [List.map_map] at hw

theorem vslideDown_writes (h : AtHead e s) (hv : s.strand.vstart = 0) (hg : Granted s [d, a] ty.width) (hc : Clean s [a] [m]) :
    Writes (.vslideDown g ty d a k m) d ty.width ((active m s.strand).map fun i =>
      (i, if i + indexOf e k < s.strand.vl then velem s.strand a ty.width (i + indexOf e k) else 0)) s := by
  have hw := vMove_writes (i := .vslideDown g ty d a k m) rfl h hv hg hc rfl
  simpa only [List.map_map, Function.comp_def, moved_ite] using hw

theorem vcompress_writes (h : AtHead e s) (hv : s.strand.vstart = 0) (hg : Granted s [d, a] ty.width) (hc : Clean s [a] [m]) :
    Writes (.vcompress g ty d a m) d ty.width ((active m s.strand).zipIdx.map fun p => (p.2, velem s.strand a ty.width p.1)) s := by
  have hw := vMove_writes (i := .vcompress g ty d a m) rfl h hv hg hc rfl
  rwa [List.map_map] at hw

theorem vexpand_writes (h : AtHead e s) (hv : s.strand.vstart = 0) (hg : Granted s [d, a] ty.width) (hc : Clean s [a] [m]) :
    Writes (.vexpand g ty d a m) d ty.width ((active m s.strand).zipIdx.map fun p => (p.1, velem s.strand a ty.width p.2)) s := by
  have hw := vMove_writes (i := .vexpand g ty d a m) rfl h hv hg hc rfl
  rwa [List.map_map] at hw

theorem vperm_writes (h : AtHead e s) (hv : s.strand.vstart = 0) (hg : Granted s [d, a, b] ty.width) (hc : Clean s [a, b] [m]) :
    Writes (.vperm g ty d a b m) d ty.width ((active m s.strand).map fun i =>
      (i, if velem s.strand b ty.width i < s.strand.vl then velem s.strand a ty.width (velem s.strand b ty.width i) else 0)) s := by
  have hr (x : Nat) : (do
      let j ← readElem b ty.width x
      pure (x, if j < s.strand.vl then some j else none) : M (Nat × Option Nat)) s =
        .ok (x, if velem s.strand b ty.width x < s.strand.vl then some (velem s.strand b ty.width x) else none) s :=
    bind_ok (readElem_clean ty.width x hc (by simp))
  have hw := vMove_writes (i := .vperm g ty d a b m) rfl h hv hg hc (mapM_ok hr _)
  simpa only [List.map_map, Function.comp_def, moved_ite] using hw

end

/-- Settles O18: each permutation is the frame around the sources that it asks for. -/
theorem permutationResults : Obligations.PermutationResults := by
  unfold Obligations.PermutationResults
  intro g ty d a b k m e s h hv hc w vl act x n out
  have hc1 : Clean s [a] [m] := clean_sub hc (by simp)
  exact ⟨fun hg => ⟨vslideUp_writes h hv hg hc1, vslideDown_writes h hv hg hc1, vcompress_writes h hv hg hc1,
    vexpand_writes h hv hg hc1⟩, fun hg => vperm_writes h hv hg hc⟩

end Sys2Proof.Permutations
end

section
/-! PROOFS. The outer-product accumulators (O23). -/

namespace Sys2Proof.Accumulators

open Sys2Proof.Machine Sys2Proof.Laws Sys2Proof.ScalarFlow Sys2Proof.ScalarFp Sys2Proof.VectorFp Sys2Proof.Reductions

-- ## Entries of a tile

theorem testBit_setField (x p w v i : Nat) :
    (setField x p w v).testBit i = if p ≤ i ∧ i < p + w then v.testBit (i - p) else x.testBit i := by
  by_cases hp : p ≤ i
  · have hi : i < p + w ↔ i - p < w := by omega
    have he : p + (i - p) = i := by omega
    by_cases hw : i - p < w <;> simp [setField, hp, hi, hw, he, Nat.testBit_mod_two_pow, Nat.testBit_shiftRight]
  · simp [setField, hp]

theorem testBit_accGet (x : Accum) (i j b : Nat) :
    (accGet x i j).testBit b = (decide (b < 32) && x.data.toNat.testBit (32 * (32 * i + j) + b)) := by
  simp only [accGet, Nat.testBit_mod_two_pow, Nat.testBit_shiftRight]

/-- Writing an entry of a tile replaces it and leaves the others. -/
theorem accGet_accSet (x : Accum) {i j k l : Nat} (v : Nat) (hi : i < 32) (hj : j < 32) (hk : k < 32) (hl : l < 32) :
    accGet (accSet x i j v) k l = if k = i ∧ l = j then v % 2 ^ 32 else accGet x k l := by
  refine Nat.eq_of_testBit_eq fun b => ?_
  have hd : (accSet x i j v).data.toNat.testBit (32 * (32 * k + l) + b) =
      (decide (32 * (32 * k + l) + b < 32768) && (setField x.data.toNat (32 * (32 * i + j)) 32 v).testBit (32 * (32 * k + l) + b)) := by
    simp only [accSet, BitVec.toNat_ofNat, Nat.testBit_mod_two_pow]
  rw [testBit_accGet, hd, testBit_setField]
  by_cases hb : b < 32
  · have hin : 32 * (32 * k + l) + b < 32768 := by omega
    by_cases he : k = i ∧ l = j
    · obtain ⟨rfl, rfl⟩ := he
      rw [if_pos (by omega), if_pos ⟨rfl, rfl⟩, Nat.testBit_mod_two_pow, Nat.add_sub_cancel_left]
      simp only [hb, hin, decide_true, Bool.true_and]
    · have hout : ¬ (32 * (32 * i + j) ≤ 32 * (32 * k + l) + b ∧ 32 * (32 * k + l) + b < 32 * (32 * i + j) + 32) := by omega
      rw [if_neg he, if_neg hout, testBit_accGet]
      simp only [hb, hin, decide_true, Bool.true_and]
  · have hz (n : Nat) (hn : n < 2 ^ 32) : n.testBit b = false :=
      Nat.testBit_lt_two_pow (Nat.lt_of_lt_of_le hn (Nat.pow_le_pow_right (by decide) (by omega)))
    simp only [hb, decide_false, Bool.false_and]
    split
    · exact (hz _ (Nat.mod_lt _ (by decide))).symm
    · exact (hz _ (Nat.mod_lt _ (by decide))).symm

-- ## Tiles

/-- An entry of a tile that `ok` selects becomes what `f` makes of it, and its flags are gathered. -/
def tileStep (ok : Nat → Nat → Bool) (f : Nat → Nat → Nat → FpRes) (z : Accum × BitVec 6) (p : Nat × Nat) : Accum × BitVec 6 :=
  if ok p.1 p.2 then
    (accSet z.1 p.1 p.2 (f p.1 p.2 (accGet z.1 p.1 p.2)).1, z.2 ||| (f p.1 p.2 (accGet z.1 p.1 p.2)).2)
  else z

/-- The flags that an entry of a tile raises. -/
def tileFlags (ok : Nat → Nat → Bool) (f : Nat → Nat → Nat → FpRes) (x : Accum) (p : Nat × Nat) : BitVec 6 :=
  if ok p.1 p.2 then (f p.1 p.2 (accGet x p.1 p.2)).2 else 0

section
variable {ok : Nat → Nat → Bool} {f g : Nat → Nat → Nat → FpRes} {l : List (Nat × Nat)}

theorem tileStep_fst (z : Accum × BitVec 6) (p : Nat × Nat) : (tileStep ok f z p).1 = { z.1 with data := (tileStep ok f z p).1.data } := by
  unfold tileStep
  split <;> rfl

theorem tileStep_snd (z : Accum × BitVec 6) (p : Nat × Nat) : (tileStep ok f z p).2 = z.2 ||| tileFlags ok f z.1 p := by
  unfold tileStep tileFlags
  split
  · rfl
  · exact (BitVec.or_zero).symm

theorem accGet_tileStep (z : Accum × BitVec 6) {p : Nat × Nat} {i j : Nat} (h1 : p.1 < 32) (h2 : p.2 < 32) (hi : i < 32) (hj : j < 32) :
    accGet (tileStep ok f z p).1 i j =
      if (i, j) = p ∧ ok i j = true then (f i j (accGet z.1 i j)).1 % 2 ^ 32 else accGet z.1 i j := by
  obtain ⟨k, l⟩ := p
  by_cases ho : ok k l = true
  · rw [tileStep, if_pos ho, accGet_accSet _ _ h1 h2 hi hj]
    by_cases he : i = k ∧ j = l
    · obtain ⟨rfl, rfl⟩ := he
      simp [ho]
    · simp [he]
  · rw [tileStep, if_neg ho, if_neg]
    rintro ⟨he, hk⟩
    cases he
    exact ho hk

/-- The steps over a tile change its data alone. -/
theorem tileFold_frame (z : Accum × BitVec 6) :
    (l.foldl (tileStep ok f) z).1 = { z.1 with data := (l.foldl (tileStep ok f) z).1.data } := by
  induction l generalizing z with
  | nil => rfl
  | cons p l ih =>
    rw [List.foldl_cons, ih, tileStep_fst z p]

/-- The steps over a tile make of each of its selected entries what `f` makes of the old one, and leave the others. -/
theorem accGet_tileFold (hl : l.Nodup) (hb : ∀ p ∈ l, p.1 < 32 ∧ p.2 < 32) (z : Accum × BitVec 6) {i j : Nat} (hi : i < 32)
    (hj : j < 32) :
    accGet (l.foldl (tileStep ok f) z).1 i j =
      if (i, j) ∈ l ∧ ok i j = true then (f i j (accGet z.1 i j)).1 % 2 ^ 32 else accGet z.1 i j := by
  induction l generalizing z with
  | nil => simp
  | cons p l ih =>
    obtain ⟨hp, hl⟩ := List.nodup_cons.mp hl
    obtain ⟨⟨h1, h2⟩, hb⟩ := List.forall_mem_cons.mp hb
    rw [List.foldl_cons, ih hl hb, accGet_tileStep z h1 h2 hi hj]
    by_cases he : (i, j) = p
    · subst he
      simp [hp]
    · simp [he]

/-- The steps over a tile gather the flags of its selected entries as they were. -/
theorem tileFold_flags (hl : l.Nodup) (hb : ∀ p ∈ l, p.1 < 32 ∧ p.2 < 32) (z : Accum × BitVec 6) :
    (l.foldl (tileStep ok f) z).2 = (l.map (tileFlags ok f z.1)).foldl (· ||| ·) z.2 := by
  induction l generalizing z with
  | nil => rfl
  | cons p l ih =>
    obtain ⟨hp, hl⟩ := List.nodup_cons.mp hl
    obtain ⟨⟨h1, h2⟩, hb⟩ := List.forall_mem_cons.mp hb
    have hs : l.map (tileFlags ok f (tileStep ok f z p).1) = l.map (tileFlags ok f z.1) :=
      List.map_congr_left fun q hq => by
        have hn : ¬ (q.1, q.2) = p := fun h => hp (h ▸ hq)
        simp only [tileFlags, accGet_tileStep z h1 h2 (hb q hq).1 (hb q hq).2, hn, false_and, if_false]
    rw [List.foldl_cons, ih hl hb, hs, tileStep_snd, List.map_cons, List.foldl_cons]

theorem tileFold_congr (h : ∀ p ∈ l, ok p.1 p.2 = true → f p.1 p.2 = g p.1 p.2) (z : Accum × BitVec 6) :
    l.foldl (tileStep ok f) z = l.foldl (tileStep ok g) z :=
  List.foldl_ext _ _ z fun z p hp => by
    by_cases ho : ok p.1 p.2 = true
    · simp only [tileStep, h p hp ho]
    · simp only [tileStep, if_neg ho]

end

/-- The positions of a tile of n columns. -/
def tile (n : Nat) : List (Nat × Nat) := List.range 32 ×ˢ List.range n

theorem tile_nodup (n : Nat) : (tile n).Nodup := List.nodup_range.product List.nodup_range

theorem mem_tile {n : Nat} {p : Nat × Nat} : p ∈ tile n ↔ p.1 < 32 ∧ p.2 < n := by
  obtain ⟨i, j⟩ := p
  simp [tile]

theorem outerProduct_eq (k : FpFmt) (r n : Nat) (va vb : List Nat) (ok : Nat → Nat → Bool) (x : Accum) :
    outerProduct k r n va vb ok x =
      (tile n).foldl (tileStep ok fun i j c => (List.range r).foldl (fun acc t => accStep k va vb acc t i j) (c, flNone)) (x, flNone) := by
  show _ = ((List.range 32).flatMap fun i => (List.range n).map (Prod.mk i)).foldl _ _
  rw [List.foldl_flatMap]
  simp only [List.foldl_map]
  rfl

-- ## Results in binary32 (R76)

section
variable {rm : Rm} {s : Bool}

theorem b2n_le_one (s : Bool) : b2n s ≤ 1 := by cases s <;> decide

/-- The significand of a number in a field of f bits and a leading one. -/
theorem significand_lt (r f : Nat) : (r <<< f) >>> Nat.log2 r < 2 ^ (f + 1) := by
  rw [Nat.shiftLeft_eq, Nat.shiftRight_eq_div_pow, Nat.div_lt_iff_lt_mul (Nat.two_pow_pos _)]
  have hr : r < 2 ^ (Nat.log2 r + 1) := Nat.lt_log2_self
  calc r * 2 ^ f < 2 ^ (Nat.log2 r + 1) * 2 ^ f := Nat.mul_lt_mul_of_pos_right hr (Nat.two_pow_pos _)
    _ = 2 ^ (f + 1) * 2 ^ Nat.log2 r := by ring

theorem fpZero_f32_lt : fpZero (fmtOf .f32) s < 2 ^ 32 := by cases s <;> decide
theorem fpInf_f32_lt : fpInf (fmtOf .f32) s < 2 ^ 32 := by cases s <;> decide
theorem fpMax_f32_lt : fpMax (fmtOf .f32) s < 2 ^ 32 := by cases s <;> decide

theorem fpRound_f32_lt (m : Nat) (e : Int) (y : Bool) : (fpRound (fmtOf .f32) rm s m e y).1 < 2 ^ 32 := by
  unfold fpRound
  dsimp only
  have ht : topExp (fmtOf .f32) = 255 := rfl
  have hk : (fmtOf .f32).w = 32 ∧ (fmtOf .f32).f = 23 ∧ (fmtOf .f32).bias = 127 ∧ (fmtOf .f32).e4 = false := ⟨rfl, rfl, rfl, rfl⟩
  simp only [ht, hk, Bool.false_eq_true, if_false, Nat.cast_ofNat]
  generalize hq : (if (Nat.log2 m : Int) + e < 1 - 127 then (1 : Int) - 127 else Nat.log2 m + e) - 23 = q
  have hq : (-149 : Int) ≤ q := by rw [← hq]; split <;> omega
  generalize roundAt rm s m e q y = z
  have hs := b2n_le_one s
  split
  · exact fpZero_f32_lt
  · split
    · exact iteInduction (motive := (· < 2 ^ 32)) (fun _ => fpInf_f32_lt) fun _ => fpMax_f32_lt
    next hn =>
      simp only [Bool.and_eq_true, decide_eq_true_eq, not_and, Int.not_lt] at hn
      split
      · exact fpZero_f32_lt
      next h0 =>
        split
        next hsub =>
          have hz : z.1 < 2 ^ 23 := (Nat.log2_lt h0).mp (by omega)
          dsimp only
          omega
        next =>
          have hz := significand_lt z.1 23
          have hn := hn h0
          dsimp only
          omega

theorem fpBad_f32_lt (b : Bool) : (fpBad (fmtOf .f32) b).1 < 2 ^ 32 := by decide +revert

theorem valAdd_f32_lt (x y : FpVal) : (valAdd (fmtOf .f32) rm x y).1 < 2 ^ 32 := by
  unfold valAdd
  split
  · exact fpBad_f32_lt _
  · exact fpBad_f32_lt _
  · split
    · exact fpInf_f32_lt
    · exact fpBad_f32_lt _
  · exact fpInf_f32_lt
  · exact fpInf_f32_lt
  · exact iteInduction (motive := fun z : FpRes => z.1 < 2 ^ 32) (fun _ => fpZero_f32_lt) fun _ => fpRound_f32_lt ..

theorem valFma_f32_lt (x y z : FpVal) : (valFma (fmtOf .f32) rm x y z).1 < 2 ^ 32 := by
  unfold valFma
  dsimp only
  split
  · exact fpBad_f32_lt _
  · exact valAdd_f32_lt ..

end

-- ## Sums of products (R177)

/-- The products that an outer product adds to entry [i][j], one after another, each rounded once, and the flags raised. -/
def addProducts (ty : Ty) (t : Strand) (a b : BitVec 5) (r i j c : Nat) : FpRes :=
  (List.range r).foldl (fun z k =>
    let y := valFma (fmtOf .f32) .rne (fpRead (fmtOf ty) (velem t a ty.width (32 * k + i)))
      (fpRead (fmtOf ty) (velem t b ty.width (32 * k + j))) (fpRead (fmtOf .f32) z.1)
    (y.1, z.2 ||| y.2)) (c, 0)

theorem addProducts_lt (ty : Ty) (t : Strand) (a b : BitVec 5) (r i j c : Nat) : (addProducts ty t a b (r + 1) i j c).1 < 2 ^ 32 := by
  rw [addProducts, List.range_succ, List.foldl_append]
  exact valFma_f32_lt ..

/-- The elements that the rows or columns `used` of an outer product read of a register, in their places. -/
def sourceOf (used : List Nat) (t : Strand) (a : BitVec 5) (w r : Nat) : List Nat :=
  (List.range (32 * r)).map fun k => if used.contains (k % 32) then velem t a w k else 0

theorem nthD_sourceOf {used : List Nat} {i k r : Nat} (t : Strand) (a : BitVec 5) (w : Nat) (hi : i < 32) (hk : k < r) (hu : i ∈ used) :
    nthD (sourceOf used t a w r) (32 * k + i) 0 = velem t a w (32 * k + i) := by
  have hm : (32 * k + i) % 32 = i := by omega
  have hl : 32 * k + i < 32 * r := by omega
  simp [nthD, sourceOf, hl, hm, hu]

theorem foldl_accStep {ty : Ty} {t : Strand} {a b : BitVec 5} {rows cols : List Nat} {r i j : Nat} (c : Nat) (hi : i < 32) (hj : j < 32)
    (hr : i ∈ rows) (hc : j ∈ cols) :
    (List.range r).foldl (fun acc k => accStep (fmtOf ty) (sourceOf rows t a ty.width r) (sourceOf cols t b ty.width r) acc k i j)
      (c, flNone) = addProducts ty t a b r i j c :=
  List.foldl_ext _ _ _ fun z k hk => by
    have hk := List.mem_range.mp hk
    simp only [accStep, nthD_sourceOf t _ _ hi hk hr, nthD_sourceOf t _ _ hj hk hc]

-- ## The tile of an outer product (R177, R178)

/-- The rows of a tile of n columns with an entry that `ok` selects. -/
def usedRows (n : Nat) (ok : Nat → Nat → Bool) : List Nat := (List.range 32).filter fun i => (List.range n).any fun j => ok i j

/-- The columns with such an entry. -/
def usedCols (n : Nat) (ok : Nat → Nat → Bool) : List Nat := (List.range n).filter fun j => (List.range 32).any fun i => ok i j

/-- The accumulator with r products added into each selected entry of a tile of n columns, and the flags raised. -/
def tileProduct (ty : Ty) (t : Strand) (a b : BitVec 5) (r n : Nat) (ok : Nat → Nat → Bool) (x : Accum) : Accum × BitVec 6 :=
  (tile n).foldl (tileStep ok (addProducts ty t a b r)) (x, flNone)

section
variable {ty : Ty} {t : Strand} {a b : BitVec 5} {r n : Nat} {ok : Nat → Nat → Bool} {x : Accum}

theorem mem_used {i j : Nat} (hi : i < 32) (hj : j < n) (h : ok i j = true) : i ∈ usedRows n ok ∧ j ∈ usedCols n ok := by
  simp only [usedRows, usedCols, List.mem_filter, List.mem_range, List.any_eq_true]
  exact ⟨⟨hi, j, hj, h⟩, hj, i, hi, h⟩

theorem outerProduct_sources (hn : n ≤ 32) :
    outerProduct (fmtOf ty) r n (sourceOf (usedRows n ok) t a ty.width r) (sourceOf (usedCols n ok) t b ty.width r) ok x =
      tileProduct ty t a b r n ok x :=
  (outerProduct_eq ..).trans <| tileFold_congr (fun p hp ho => funext fun c => by
    obtain ⟨h1, h2⟩ := mem_tile.mp hp
    obtain ⟨hr, hc⟩ := mem_used h1 h2 ho
    exact foldl_accStep c h1 (by omega) hr hc) _

theorem tile_bounds (hn : n ≤ 32) : ∀ p ∈ tile n, p.1 < 32 ∧ p.2 < 32 := fun _ hp =>
  ⟨(mem_tile.mp hp).1, Nat.lt_of_lt_of_le (mem_tile.mp hp).2 hn⟩

theorem tileProduct_frame : (tileProduct ty t a b r n ok x).1 = { x with data := (tileProduct ty t a b r n ok x).1.data } :=
  tileFold_frame _

theorem accGet_tileProduct (hn : n ≤ 32) {i j : Nat} (hi : i < 32) (hj : j < 32) :
    accGet (tileProduct ty t a b (r + 1) n ok x).1 i j =
      if j < n ∧ ok i j = true then (addProducts ty t a b (r + 1) i j (accGet x i j)).1 else accGet x i j := by
  rw [tileProduct, accGet_tileFold (tile_nodup n) (tile_bounds hn) _ hi hj, Nat.mod_eq_of_lt (addProducts_lt ..)]
  simp only [mem_tile, hi, true_and]

theorem tileProduct_flags (hn : n ≤ 32) :
    (tileProduct ty t a b r n ok x).2 = ((List.range 32).flatMap fun i => (List.range n).map fun j =>
      if ok i j then (addProducts ty t a b r i j (accGet x i j)).2 else 0).foldl (· ||| ·) 0 := by
  rw [tileProduct, tileFold_flags (tile_nodup n) (tile_bounds hn)]
  show (((List.range 32).flatMap fun i => (List.range n).map (Prod.mk i)).map _).foldl _ _ = _
  rw [List.map_flatMap]
  simp only [List.map_map]
  rfl

end

-- ## The work of the instructions

section
variable {α : Type} {s : State}

/-- Steps that each answer and change nothing. -/
theorem mapEach_ok {f : Nat → M α} {F : Nat → α} (l : List Nat) (h : ∀ k ∈ l, f k s = .ok (F k) s) :
    mapEach l f s = .ok (l.map F) s := by
  induction l with
  | nil => rfl
  | cons k l ih =>
    obtain ⟨hk, hl⟩ := List.forall_mem_cons.mp h
    simp only [mapEach, hk, ih hl, List.map_cons]

/-- Steps that each change the strand. -/
theorem forEach_onStrand {f : Nat → M Unit} {F : Nat → Strand → Strand} (l : List Nat)
    (h : ∀ k ∈ l, ∀ s, f k s = onStrand (F k) s) : ∀ s, forEach l f s = onStrand (fun t => l.foldl (fun t k => F k t) t) s := by
  induction l with
  | nil => exact fun _ => rfl
  | cons k l ih =>
    obtain ⟨hk, hl⟩ := List.forall_mem_cons.mp h
    intro s
    simp only [forEach, hk]
    exact ih hl _

/-- No register-file error lies in an accumulator (R105). -/
def CleanAccs (s : State) : Prop := ∀ u ∈ s.strand.upsets, u.file ≠ .accum

theorem accCheck_ok {e : VqEntry} {a : BitVec 2} (h : a.toNat < s.strand.accs.length) : accCheck e a s = .ok () s := by
  simp only [accCheck, badEntry, trapIf, decide_eq_false (Nat.not_le.mpr h), Bool.false_eq_true, if_false]

theorem badEntry_false {e : VqEntry} {b : Bool} (h : b = false) : badEntry b e s = .ok () s := by
  simp only [badEntry, trapIf, h, Bool.false_eq_true, if_false]

theorem readAccCheck_clean {a : BitVec 2} {es : List Nat} (h : CleanAccs s) : readAccCheck a es s = .ok () s := by
  have hn : s.strand.upsets.find? (fun u => u.file == .accum && u.reg == a.toNat && es.contains u.elem) = none :=
    List.find?_eq_none.mpr fun u hu => by simp [h u hu]
  simp only [readAccCheck, hn]

theorem mendAcc_clean {a : BitVec 2} {es : List Nat} (h : CleanAccs s) : mendAcc a es s = .ok () s := by
  have hf : s.strand.upsets.filter (fun u => !(u.file == .accum && u.reg == a.toNat && es.contains u.elem)) = s.strand.upsets :=
    List.filter_eq_self.mpr fun u hu => by simp [h u hu]
  simp only [mendAcc, onStrand, change, mapStrand, hf]

end

/-- The entries that change: all, or those whose keys the intervals allow from a key base up. -/
def selects (base : Option Word) (x : Accum) : Nat → Nat → Bool :=
  match base with
  | none => fun _ _ => true
  | some sk => fun i j => allowed x i (sk.toNat + j)

/-- The mode that an outer product leaves. -/
def inMode (base : Option Word) (x : Accum) : Accum :=
  match base with
  | none => { x with masked := false }
  | some sk => { x with masked := true, base := sk }

/-- The type of an outer product's elements. -/
def opTy (f8 : Bool) : Ty := if f8 then .e4m3 else .bf16

section
variable {e : VqEntry} {s : State} {f8 : Bool} {d : BitVec 2} {a b : BitVec 5} {r1 : BitVec 8} {base : Option Word}

/-- The entries that an outer product changes. -/
def opSelects (d : BitVec 2) (base : Option Word) (t : Strand) : Nat → Nat → Bool := selects base (getAcc t d)

/-- The columns of its tile. -/
def opWidth (t : Strand) : Nat := Nat.min t.vl 32

/-- What an outer product makes of its accumulator, and the flags it raises. -/
def opResult (f8 : Bool) (d : BitVec 2) (a b : BitVec 5) (r1 : BitVec 8) (base : Option Word) (t : Strand) : Accum × BitVec 6 :=
  tileProduct (opTy f8) t a b (r1.toNat + 1) (opWidth t) (opSelects d base t) (getAcc t d)

theorem opSource_ok {used : List Nat} {w r : Nat} {vs : List (BitVec 5)} {ms : List (BitVec 3)} (h : Clean s vs ms) (ha : a ∈ vs) :
    mapEach (List.range (32 * r)) (fun k => if used.contains (k % 32) then readElem a w k else pure 0) s =
      .ok (sourceOf used s.strand a w r) s :=
  mapEach_ok _ fun k _ => by
    split
    · exact readElem_clean w k h ha
    · rfl

/-- An outer product's checks and reads pass (R12, R105, R118, R175, R177). -/
structure OuterReady (f8 : Bool) (d : BitVec 2) (a b : BitVec 5) (r1 : BitVec 8) (s : State) : Prop where
  claimed : d.toNat < s.strand.accs.length
  granted : Granted s [a, b] (opTy f8).width
  count : r1.toNat + 1 ≤ 128
  fits : 32 * (r1.toNat + 1) ≤ s.strand.vlmax
  clean : Clean s [a, b] []
  cleanAccs : CleanAccs s

theorem OuterReady.counted (h : OuterReady f8 d a b r1 s) :
    (decide (128 < r1.toNat + 1) || decide (s.strand.vlmax < 32 * (r1.toNat + 1))) = false := by
  have hr := h.count
  have hm := h.fits
  simp only [Bool.or_eq_false_iff, decide_eq_false_iff_not]
  omega

theorem opWork_ok (h : OuterReady f8 d a b r1 s) (hf : flagTraps s.strand (opResult f8 d a b r1 base s.strand).2 = false) :
    opWork e f8 d a b r1 base s = .ok () (mapStrand (fun t => putAcc d (inMode base (opResult f8 d a b r1 base s.strand).1)
      (withFlags (opResult f8 d a b r1 base s.strand).2 t)) s) := by
  have hy := outerProduct_sources (ty := opTy f8) (t := s.strand) (a := a) (b := b) (r := r1.toNat + 1) (n := opWidth s.strand)
    (ok := opSelects d base s.strand) (x := getAcc s.strand d) (Nat.min_le_right ..)
  have hd : deliverVector (opResult f8 d a b r1 base s.strand).2 s =
      .ok () (mapStrand (withFlags (opResult f8 d a b r1 base s.strand).2) s) := deliverScalar_ok hf
  rw [opResult, ← hy] at hd ⊢
  refine (bind_ok (vecCheck_granted h.granted)).trans <| (bind_ok (accCheck_ok h.claimed)).trans <|
    (bind_ok (m := ask _) rfl).trans <| (bind_ok (badEntry_false h.counted)).trans <|
    (bind_ok (m := ask fun s => getAcc s.strand d) rfl).trans <| (bind_ok (m := ask fun s => opWidth s.strand) rfl).trans <|
    (bind_ok (opSource_ok (used := usedRows (opWidth s.strand) (opSelects d base s.strand)) h.clean (by simp))).trans <|
    (bind_ok (opSource_ok (used := usedCols (opWidth s.strand) (opSelects d base s.strand)) h.clean (by simp))).trans <|
    (bind_ok (readAccCheck_clean h.cleanAccs)).trans <| (bind_ok hd).trans <|
    (bind_ok (mendAcc_clean (s := mapStrand (withFlags _) s) h.cleanAccs)).trans ?_
  cases base with
  | none => rfl
  | some sk => rfl

/-- A whole instruction at the head of the VQ whose work succeeds commits. -/
theorem commits_of_work {i : Instr} {g : Guard} {fence : Bool} {work : VqEntry → M Unit} {s1 : State}
    (hx : exec i s = vqOp i g true fence work s)
    (h : AtHead e s) (hv : s.strand.vstart = 0) (hw : work e s = .ok () s1) : exec i s = .next (commitVq s1) :=
  hx.trans (vqOp_commits h (fun _ => hv) hw)

/-- An outer product at the head of the VQ commits its result, where none of its flags traps. -/
theorem outer_commits {i : Instr} {g : Guard} {work : VqEntry → M Unit} (hx : exec i s = vqOp i g true false work s)
    (hw : work e = opWork e f8 d a b r1 base) (h : AtHead e s) (hv : s.strand.vstart = 0) (ho : OuterReady f8 d a b r1 s)
    (hf : flagTraps s.strand (opResult f8 d a b r1 base s.strand).2 = false) :
    exec i s = .next (commits (fun t => putAcc d (inMode base (opResult f8 d a b r1 base s.strand).1)
      (withFlags (opResult f8 d a b r1 base s.strand).2 t)) s) :=
  commits_of_work hx h hv (hw ▸ opWork_ok ho hf)

end

-- ## Claimed accumulators

section
variable {t : Strand} {a k : BitVec 2} {x : Accum}

theorem getAcc_putAcc (h : a.toNat < t.accs.length) : getAcc (putAcc a x t) a = x := by
  simp [getAcc, putAcc, nthD, h]

theorem getAcc_putAcc_ne (h : k ≠ a) : getAcc (putAcc a x t) k = getAcc t k := by
  have hn : a.toNat ≠ k.toNat := fun e => h (BitVec.eq_of_toNat_eq e.symm)
  simp [getAcc, putAcc, nthD, List.getElem?_set_ne hn]

theorem accGet_inMode (base : Option Word) (i j : Nat) : accGet (inMode base x) i j = accGet x i j := by
  cases base <;> rfl

end

-- ## Moves between accumulators and registers (R176, R179, R180)

section
variable {g : Guard} {e : VqEntry} {s : State} {a : BitVec 2}

theorem vopz_commits (h : AtHead e s) (hv : s.strand.vstart = 0) (ha : a.toNat < s.strand.accs.length) (hu : CleanAccs s) :
    exec (.vopz g a) s = .next (commits (putAcc a { getAcc s.strand a with data := 0, masked := false }) s) :=
  commits_of_work rfl h hv <| (bind_ok (accCheck_ok ha)).trans (bind_ok (mendAcc_clean hu))

/-- What `vopr` writes at column j: the entry where the column is active, and whether it counts. -/
def rowWrite (d : BitVec 5) (mo m : BitVec 3) (x : Accum) (i : Nat) (s : State) (j : Nat) (t : Strand) : Strand :=
  putMask (if maskBit s.strand m j then putElem t d 32 j (accGet x i j) else t) mo j (!x.masked || allowed x i (x.base.toNat + j))

theorem vopr_commits {d : BitVec 5} {row : BOp} {mo m : BitVec 3} (h : AtHead e s) (hv : s.strand.vstart = 0)
    (ha : a.toNat < s.strand.accs.length) (hu : CleanAccs s) (hg : Granted s [d] 32) (hc : Clean s [] [m]) (hi : indexOf e row < 32) :
    exec (.vopr g d a row mo m) s = .next (commits (fun t => (List.range (opWidth s.strand)).foldl
      (fun t j => rowWrite d mo m (getAcc s.strand a) (indexOf e row) s j t) t) s) := by
  refine commits_of_work rfl h hv <| (bind_ok (vecCheck_granted hg)).trans <| (bind_ok (accCheck_ok ha)).trans <|
    (bind_ok (badEntry_false (decide_eq_false (Nat.not_le.mpr hi)))).trans <|
    (bind_ok (m := ask fun s => getAcc s.strand a) rfl).trans <| (bind_ok (m := ask fun s => opWidth s.strand) rfl).trans <|
    (bind_ok (mapEach_ok _ fun k _ => readMask_clean k hc (List.mem_singleton_self m))).trans <|
    (bind_ok (readAccCheck_clean hu)).trans <| forEach_onStrand _ (fun j hj s1 => ?_) s
  have hn : nthD ((List.range (opWidth s.strand)).map (maskBit s.strand m)) j false = maskBit s.strand m j := by
    simp [nthD, List.mem_range.mp hj]
  show (do
    if nthD ((List.range (opWidth s.strand)).map (maskBit s.strand m)) j false then
      wrV d 32 j (accGet (getAcc s.strand a) (indexOf e row) j)
    wrM mo j _ : M Unit) s1 = _
  rw [hn]
  unfold rowWrite
  cases maskBit s.strand m j <;> rfl

/-- A load that answers has passed its checks. -/
theorem loadVa_ok {n a v : Nat} {w : Who} {va : Word} {s1 : State} (h : loadVa a w va n s = .ok v s1) :
    ∃ p s2, checkAccess w va n .load s = .ok p s2 ∧ loadAt a w p n va s2 = .ok v s1 := by
  unfold loadVa at h
  split at h
  · cases h
  next p s2 hk => exact ⟨p, s2, hk, h⟩

theorem mkiv_commits {sa : BitVec 5} {v : Nat} {s1 : State} (h : AtHead e s) (hv : s.strand.vstart = 0)
    (ha : a.toNat < s.strand.accs.length) (hl : loadVa (me s) (vecWho s) e.a 32 s = .ok v s1) (hs : s1.strand = s.strand)
    (hz : ∀ y ∈ (Vector.ofFn fun k : Fin 4 => word (v / 2 ^ (64 * k.val))).toList, intervalOk y = true) :
    exec (.mkiv g a sa) s = .next (commits (putAcc a { getAcc s.strand a with
      intervals := Vector.ofFn fun k : Fin 4 => word (v / 2 ^ (64 * k.val)) }) s1) := by
  have hb : (!(Vector.ofFn fun k : Fin 4 => word (v / 2 ^ (64 * k.val))).toList.all intervalOk) = false := by
    rw [Bool.not_eq_false', List.all_eq_true]
    exact hz
  obtain ⟨p, s2, hk, hr⟩ := loadVa_ok hl
  refine commits_of_work rfl h hv <| (bind_ok (accCheck_ok ha)).trans <| (bind_ok (m := ask vecWho) rfl).trans <|
    (bind_ok (m := ask me) rfl).trans <| (bind_ok hk).trans <| (bind_ok hr).trans <| (bind_ok (badEntry_false hb)).trans ?_
  rw [← hs]
  rfl

theorem intervalOk_iff (y : Word) : intervalOk y = true ↔ y.toNat / 2 ^ 29 % 8 = 0 ∧ y.toNat / 2 ^ 62 % 4 = 0 := by
  simp [intervalOk, bits]

end

/-- What an outer product at the head of the VQ leaves of the accumulators (R177, R178). -/
theorem outer_results {i : Instr} {g : Guard} {e : VqEntry} {s : State} {f8 : Bool} {d : BitVec 2} {a b : BitVec 5} {r1 : BitVec 8}
    {base : Option Word} {work : VqEntry → M Unit} {fl : BitVec 6} (hx : exec i s = vqOp i g true false work s)
    (hw : work e = opWork e f8 d a b r1 base) (h : AtHead e s) (hv : s.strand.vstart = 0) (ho : OuterReady f8 d a b r1 s)
    (hfl : (opResult f8 d a b r1 base s.strand).2 = fl) (hf : flagTraps s.strand fl = false) :
    let x := getAcc s.strand d
    ∃ t, exec i s = .next t ∧
      (∀ i < 32, ∀ j < 32, accGet (getAcc t.strand d) i j = if j < opWidth s.strand ∧ selects base x i j = true then
        (addProducts (opTy f8) s.strand a b (r1.toNat + 1) i j (accGet x i j)).1 else accGet x i j) ∧
      getAcc t.strand d = inMode base { x with data := (getAcc t.strand d).data } ∧
      t = commits (fun u => { u with accs := t.strand.accs, fflags := u.fflags ||| fl }) s ∧
      ∀ k, k ≠ d → getAcc t.strand k = getAcc s.strand k := by
  intro x
  subst hfl
  have ha : getAcc (commits (fun t => putAcc d (inMode base (opResult f8 d a b r1 base s.strand).1)
      (withFlags (opResult f8 d a b r1 base s.strand).2 t)) s).strand d = inMode base (opResult f8 d a b r1 base s.strand).1 :=
    getAcc_putAcc (t := withFlags _ s.strand) ho.claimed
  have hfr : (opResult f8 d a b r1 base s.strand).1 = { x with data := (opResult f8 d a b r1 base s.strand).1.data } :=
    tileProduct_frame
  refine ⟨_, outer_commits hx hw h hv ho hf, fun i hi j hj => ?_, ?_, rfl, fun k hk =>
    getAcc_putAcc_ne (t := withFlags _ s.strand) hk⟩
  · rw [ha, accGet_inMode]
    exact accGet_tileProduct (Nat.min_le_right ..) hi hj
  · rw [ha]
    cases base <;> exact congrArg _ hfr

/-- Settles O23: an outer product is the steps over its tile; the moves are the frame around their reads. -/
theorem accumulatorResults : Obligations.AccumulatorResults := by
  unfold Obligations.AccumulatorResults
  constructor
  · intro g f8 d a b c r1 e s h hv hd ty r hg hr hm hc hu x n entry masked ok i fl hf
    have ho : OuterReady f8 d a b r1 s := ⟨hd, hg, hr, hm, hc, hu⟩
    have hn : n ≤ 32 := Nat.min_le_right ..
    cases masked with
    | false =>
      obtain ⟨t, ht, hacc, hmode, hs, hk⟩ :=
        outer_results (i := .vop g f8 d a b r1) (base := none) rfl rfl h hv ho (tileProduct_flags hn) hf
      exact ⟨t, ht, hacc, (congrArg Accum.intervals hmode :), (congrArg Accum.masked hmode :), nofun, hs, hk⟩
    | true =>
      obtain ⟨t, ht, hacc, hmode, hs, hk⟩ :=
        outer_results (i := .vopm g f8 d a b c r1) (base := some e.c) rfl rfl h hv ho (tileProduct_flags hn) hf
      exact ⟨t, ht, hacc, (congrArg Accum.intervals hmode :), (congrArg Accum.masked hmode :),
        fun _ => (congrArg Accum.base hmode :), hs, hk⟩
  · intro g d a sa row mo m e s s1 v h hv ha hu x i
    refine ⟨vopz_commits h hv ha hu, vopr_commits h hv ha hu, ?_⟩
    intro hl hs iv hz
    exact mkiv_commits h hv ha hl hs fun y hy => (intervalOk_iff y).mpr (hz y hy)

end Sys2Proof.Accumulators
end

section
/-! PROOFS. Waiting on flag words and the typed fences (O22). -/

namespace Sys2Proof.WaitAndFence

open Sys2Proof.Machine Sys2Proof.Laws Sys2Proof.ScalarFlow Sys2Proof.VectorFp Sys2Proof.Reductions Sys2Proof.Accumulators

-- ## Accesses made in turn

section
variable {s s1 : State}

theorem okOf_some {α : Type} {r : EStateM.Result Stop State α} {x : α} (h : okOf r = some (x, s1)) : r = .ok x s1 := by
  cases r with
  | ok a s => cases h; rfl
  | error e s => cases h

/-- The checks of an access leave the acting strand. -/
theorem checkAccess_strand {w : Who} {va : Word} {n : Nat} {acc : Acc} {p : Place} (h : checkAccess w va n acc s = .ok p s1) :
    s1.strand = s.strand := by
  unfold checkAccess at h
  split at h
  · cases h
  · split at h
    · cases h
    · have k := translate_strand w va.toNat acc va s s.strand
      change Sys2Proof.Machine.translate w va.toNat acc va s = _ at k
      rw [h] at k
      injection k with _ hs
      rw [hs]

/-- Checks of addresses in a register that all pass. -/
theorem forEach_checks {w : Who} {t : Strand} {a : BitVec 5} {n : Nat} {acc : Acc} {l : List Nat} {ps : List Place} (ht : s.strand = t)
    (h : inTurn (fun k s => okOf (checkAccess w (word (velem s.strand a 64 k)) n acc s)) l s = some (ps, s1)) :
    forEach (l.map (velem t a 64)) (fun va => do let _ ← checkAccess w (word va) n acc) s = .ok () s1 := by
  induction l generalizing s ps with
  | nil => cases h; rfl
  | cons k l ih =>
    subst ht
    simp only [inTurn, Option.bind_eq_bind, Option.bind_eq_some_iff] at h
    obtain ⟨⟨p, s2⟩, hk, ⟨qs, s3⟩, hl, he⟩ := h
    cases he
    have hk := okOf_some hk
    have hw : (do let _ ← checkAccess w (word (velem s.strand a 64 k)) n acc : M Unit) s = .ok () s2 := bind_ok hk
    simp only [List.map_cons, forEach, hw]
    exact ih (checkAccess_strand hk) hl

/-- A look that answers has the answers of all its accesses. -/
theorem eachFrom_length {writer : Nat} {f : List Nat → Nat → M Nat} {l done xs : List Nat} (h : eachFrom writer f done l s = .ok xs s1) :
    xs.length = done.length + l.length := by
  induction l generalizing done s with
  | nil => cases h; rfl
  | cons k l ih =>
    unfold eachFrom at h
    split at h
    · rw [ih h]
      simp only [List.length_append, List.length_cons, List.length_nil]
      omega
    · cases h
    · cases h

theorem eachOnce_length {writer n : Nat} {f : Nat → M Nat} {xs : List Nat} (h : eachOnce writer n f s = .ok xs s1) : n ≤ xs.length := by
  have := eachFrom_length h
  simp only [span, List.length_map, List.length_range] at this
  omega

end

theorem nthD_eq_getElem {α : Type} {l : List α} {i : Nat} (d : α) (h : i < l.length) : nthD l i d = l[i] := by
  simp [nthD, h]

/-- The members of a list, by their places. -/
theorem map_nthD {α : Type} (l : List α) (d : α) : (List.range l.length).map (fun j => nthD l j d) = l :=
  List.ext_getElem (by simp) fun i h _ => by simp at h; simp [nthD_eq_getElem d h]

-- ## `vwait` (R172, R173)

section
variable {g : Guard} {md m : BitVec 3} {a c : BitVec 5} {b : BOp} {e : VqEntry} {s s1 s2 : State}

theorem vwait_inactive (h : AtHead e s) (hv : s.strand.vstart = 0) (hg : Granted s (a :: bRegs b) 64) (hc : Clean s (a :: bRegs b) [m])
    (ha : active m s.strand = []) :
    exec (.vwait g md a b c m) s = .next (commitVq (acquireFor (me s) (myCluster s) (myCore s) .dm s)) :=
  commits_of_work rfl h hv <| (bind_ok (vecCheck_granted hg)).trans <|
    (bind_ok (activeElems_clean hc (List.mem_singleton_self m))).trans <| by rw [ha]; rfl

/-- The strand with its watch armed. -/
def armed (n ptime : Nat) (t : Strand) : Strand := { t with watch := n, armedAt := ptime }

theorem arm_free {n : Nat} (hw : s.strand.watch = 0) (hu : watchUsed s (myCluster s) = 0) (hn : n ≤ 256) :
    arm n s = .ok n (mapStrand (armed n s.ptime) s) := by
  have hm : Nat.min 256 n = n := Nat.min_eq_right hn
  show arm n s = .ok n (mapStrand (fun t => { t with watch := n, armedAt := s.ptime }) s)
  simp [arm, hw, hu, hm]

/-- The strand with its elements marked as met and its watch given back. -/
def metAll (md : BitVec 3) (l : List Nat) (t : Strand) : Strand := { l.foldl (fun t k => putMask t md k false) t with watch := 0 }

theorem metAll_id (md : BitVec 3) (l : List Nat) (t : Strand) : (metAll md l t).id = t.id := by
  show (l.foldl (fun t k => putMask t md k false) t).id = t.id
  induction l generalizing t with
  | nil => rfl
  | cons k l ih => rw [List.foldl_cons, ih, putMask_id]

theorem acquireAt_ok {sc : Scope} (h : s1.strand.id = s.strand.id) :
    acquireAt sc s1 = .ok () (acquireFor (me s) (myCluster s) (myCore s) sc s1) := by
  simp only [acquireAt, change, me, myCluster, myCore, h]

theorem foldl_nthD {α : Type} (f : α → Nat → α) (l : List Nat) (x : α) :
    (List.range l.length).foldl (fun x j => f x (nthD l j 0)) x = l.foldl f x := by
  conv_rhs => rw [← map_nthD l 0, List.foldl_map]

/-- The words that the active elements `act` of a `vwait` wait for are all there (R173): the watch is free, the checks of their
addresses leave `s1`, and their reads answer `xs` and leave `s2`. -/
structure WordsThere (a : BitVec 5) (b : BOp) (e : VqEntry) (act : List Nat) (ps : List Place) (xs : List Nat) (s s1 s2 : State) : Prop where
  active : act ≠ []
  few : act.length ≤ 256
  idle : s.strand.watch = 0
  unused : watchUsed s (myCluster s) = 0
  checks : inTurn (fun k s1 => okOf (checkAccess (vecWho s) (word (velem s1.strand a 64 k)) 8 .load s1)) act s = some (ps, s1)
  reads : eachOnce (uncWriter (me s) (vecWho s)) act.length
    (fun j => atomicRead (me s) (vecWho s) (word (nthD (act.map (velem s.strand a 64)) j 0)) 8)
    (mapStrand (armed act.length s1.ptime) s1) = .ok xs s2
  strand2 : s2.strand = armed act.length s1.ptime s.strand
  others1 : s1.others = s.others
  strand1 : s1.strand = s.strand
  met : ∀ i (h : i < act.length) (h' : i < xs.length), bValue e b .n64 s.strand act[i] ≤ xs[i]

/-- A `vwait` whose words are all there. -/
theorem vwait_met {act : List Nat} {ps : List Place} {xs : List Nat} (h : AtHead e s) (hv : s.strand.vstart = 0)
    (hg : Granted s (a :: bRegs b) 64) (hc : Clean s (a :: bRegs b) [m]) (hact : active m s.strand = act)
    (hw : WordsThere a b e act ps xs s s1 s2) :
    exec (.vwait g md a b c m) s = .next (commitVq (acquireFor (me s) (myCluster s) (myCore s) .dm (mapStrand (metAll md act) s2))) := by
  obtain ⟨hne, hn, hw, hu, hk, hr, hs2, ho, hs1, hm⟩ := hw
  have hl : act.length ≤ xs.length := eachOnce_length hr
  have hc1 : Clean (mapStrand (armed act.length s1.ptime) s1) (a :: bRegs b) [m] := fun u hx => hc u (by rw [← hs1]; exact hx)
  have hu1 : watchUsed s1 (myCluster s1) = 0 := by
    unfold watchUsed myCluster at hu ⊢
    rw [ho, hs1, hu]
  have hb (k : Nat) : bValue e b .n64 (mapStrand (armed act.length s1.ptime) s1).strand k = bValue e b .n64 s.strand k := by
    rw [mapStrand_strand, hs1]
    cases b <;> rfl
  have hmet : ((List.range act.length).map fun j => decide (nthD ((List.range act.length).map fun j =>
      bValue e b .n64 (mapStrand (armed act.length s1.ptime) s1).strand (nthD act j 0)) j 0 ≤ nthD xs j 0)) =
      (List.range act.length).map fun _ => true := List.map_congr_left fun j hj => by
    have hj := List.mem_range.mp hj
    rw [decide_eq_true_iff, nthD_eq_getElem 0 (by simpa using hj), nthD_eq_getElem 0 (Nat.lt_of_lt_of_le hj hl), List.getElem_map, List.getElem_range, hb,
      nthD_eq_getElem 0 hj]
    exact hm j hj _
  refine commits_of_work rfl h hv <| (bind_ok (vecCheck_granted hg)).trans <|
    (bind_ok ((activeElems_clean hc (List.mem_singleton_self m)).trans (by rw [hact]))).trans ?_
  rw [if_neg (by simpa using hne)]
  refine (bind_ok (m := ask vecWho) rfl).trans <| (bind_ok (m := ask me) rfl).trans <|
    (bind_ok (readAll_clean 64 hc List.mem_cons_self act)).trans <| (bind_ok (forEach_checks rfl hk)).trans <|
    (bind_ok (arm_free (by rw [hs1]; exact hw) hu1 hn)).trans <| (bind_ok (m := ask _) rfl).trans <|
    (bind_ok (mapEach_ok _ fun j _ => readB_clean .n64 (nthD act j 0) hc1 (bRegs_sub a b))).trans <| (bind_ok hr).trans <|
    (bind_ok (m := ask fun s => vwaitDue s e.c) rfl).trans ?_
  have hall : ((List.range act.length).map fun _ => true).all id = true := by simp
  have hvl : (mapStrand (armed act.length s1.ptime) s1).strand.vl = s2.strand.vl := by rw [mapStrand_strand, hs1, hs2]
  have hid : (mapStrand (metAll md act) s2).strand.id = s.strand.id := by rw [mapStrand_strand, metAll_id, hs2]; rfl
  simp only [hmet, hall, hvl, Bool.true_or, if_true, Nat.lt_irrefl, if_false]
  refine (bind_ok (m := ask _) (x := false) rfl).trans <| (bind_ok (m := onStrand _) (s1 := s2) rfl).trans <|
    (bind_ok (forEach_onStrand (F := fun j t => putMask t md (nthD act j 0) false) _ (fun j hj s => ?_) s2)).trans ?_
  · rw [nthD_eq_getElem false (by simpa using hj), List.getElem_map]
    rfl
  · simp only [foldl_nthD (fun t k => putMask t md k false)]
    exact (bind_ok (m := disarm) (s1 := mapStrand (metAll md act) s2) rfl).trans (acquireAt_ok hid)

end

-- ## Fences (R171)

/-- The store as one that the strand's vector accesses do not pass (R22). -/
def impassable (p : PStore) : PStore := { p with scal := false }

section
variable {i : Instr} {g : Guard} {sv : Bool} {e : VqEntry} {s : State} {a n : Nat} {p : PStore}

theorem orderStores_frame : orderStores a n s = { s with stores := (orderStores a n s).stores } := by
  unfold orderStores
  split <;> rfl

/-- A scalar store of an agent, made up to a step, that its vector accesses may pass. -/
def passable (a n : Nat) (p : PStore) : Bool := p.scal && p.owner == a && decide (p.made ≤ n)

theorem orderStores_stores : (orderStores a n s).stores = s.stores.map fun p => if passable a n p then impassable p else p := by
  by_cases h : s.stores.any (passable a n) = true
  · exact congrArg State.stores (if_pos h)
  · have hp : ∀ p ∈ s.stores, ¬ passable a n p = true := by simpa using h
    have hm : (s.stores.map fun p => if passable a n p then impassable p else p) = s.stores.map id :=
      List.map_congr_left fun p hq => if_neg (hp p hq)
    rw [hm, List.map_id]
    exact congrArg State.stores (if_neg h)

/-- The stores of an agent up to a step are in order. -/
theorem scal_of_mem_orderStores (h : p ∈ (orderStores a n s).stores) (ho : p.owner = a) (hn : p.made ≤ n) : p.scal = false := by
  rw [orderStores_stores] at h
  obtain ⟨q, -, rfl⟩ := List.mem_map.mp h
  by_cases hq : passable a n q = true
  · rw [if_pos hq]
    rfl
  · rw [if_neg hq] at ho hn ⊢
    simpa [passable, ho, hn] using hq

theorem orderStores_map_impassable : (orderStores a n s).stores.map impassable = s.stores.map impassable := by
  rw [orderStores_stores, List.map_map]
  refine List.map_congr_left fun p _ => ?_
  show impassable (if _ then _ else _) = _
  split <;> rfl

theorem fence_commits (hx : exec i s = fenceOp sv i g s) (h : AtHead e s) (hv : s.strand.vstart = 0) :
    exec i s = .next (commitVq (if sv then orderStores (me s) e.age s else s)) :=
  commits_of_work hx h hv (by cases sv <;> rfl)

/-- With an empty VQ a fence executes as the only entry, whatever its guard (R34, log 69). -/
theorem fence_enters (hx : ∀ s, exec i s = fenceOp sv i g s) (he : (encode i).isSome = true) (hq : s.strand.vq = []) :
    ∃ e, e.age = s.stepNo ∧ AtHead e (pushVq e s) ∧ exec i s = exec i (pushVq e s) := by
  obtain ⟨x, he⟩ := Option.isSome_iff_exists.mp he
  have hr : AtHead { capture s.strand x.1 x.2 (!guardOn g s.strand) with age := s.stepNo }
      (pushVq { capture s.strand x.1 x.2 (!guardOn g s.strand) with age := s.stepNo } s) := by
    simp [AtHead, pushVq, hq]
  refine ⟨_, rfl, hr, ?_⟩
  rw [hx, hx, fenceOp, fenceOp, vqOp_head hr]
  simp only [vqOp, hq, he, Bool.or_true, if_true]

theorem commitVq_pushVq (hq : s.strand.vq = []) : commitVq (pushVq e s) = commitVq (advance s) := by
  simp [commitVq, pushVq, advance, mapStrand, goTo, hq]

end

/-- The fences that order scalar stores before vector accesses. -/
theorem svFence_isFence {g : Guard} {i : Instr} (hi : i ∈ [Instr.vfenceSv g, .vfenceAll g]) :
    (∀ s, exec i s = fenceOp true i g s) ∧ (encode i).isSome = true := by
  simp only [List.mem_cons, List.not_mem_nil, or_false] at hi
  rcases hi with rfl | rfl <;> exact ⟨fun _ => rfl, rfl⟩

/-- Settles O22: `vwait` by its steps, the fences by their frame. -/
theorem vwaitAndFenceResults : Obligations.VwaitAndFenceResults := by
  unfold Obligations.VwaitAndFenceResults
  constructor
  · intro g md m a b c e xs ps s s1 s2 h hv hg hc act w
    exact ⟨vwait_inactive h hv hg hc, fun hne hn hw hu hk hr hs2 ho hs1 hm =>
      vwait_met h hv hg hc rfl ⟨hne, hn, hw, hu, hk, hr, hs2, ho, hs1, hm⟩⟩
  · intro g e s hv
    refine ⟨fun h => ⟨fence_commits (sv := false) rfl h hv, fun i hi => ?_⟩, fun hq => ⟨?_, fun i hi => ?_⟩⟩
    · exact ⟨_, fence_commits (sv := true) ((svFence_isFence hi).1 s) h hv, congrArg commitVq orderStores_frame,
        fun p => scal_of_mem_orderStores, orderStores_map_impassable⟩
    · obtain ⟨e, -, h, hx⟩ := fence_enters (i := .vfenceVs g) (sv := false) (fun _ => rfl) rfl hq
      rw [hx, fence_commits (sv := false) rfl h hv, if_neg Bool.false_ne_true, commitVq_pushVq hq]
    · obtain ⟨hf, he⟩ := svFence_isFence hi
      obtain ⟨e, ha, h, hx⟩ := fence_enters hf he hq
      refine ⟨_, hx.trans (fence_commits (hf _) h hv), ?_, fun p hp ho hn => scal_of_mem_orderStores hp ho (ha ▸ hn)⟩
      rw [← commitVq_pushVq (e := e) hq]
      exact congrArg commitVq orderStores_frame

end Sys2Proof.WaitAndFence
end

section
/-! PROOFS. Vector loads against the answers that an earlier look has gathered (O21). -/

namespace Sys2Proof.VectorMemory

open Sys2Proof.Machine

/-- An entry that loads from bank 12 of the core scratch window, which is in role S at reset (R279). -/
def scratchEntry : VqEntry :=
  { pc := 0, head := 0, tail := 0, a := 0x00FFFFFF40030000, b := 0, c := 0, d := 0, frm := 0, tether := 0, guardOff := false,
    lines := [], arrived := none }

/-- A strand with that entry at the head of its VQ and one element to load, whose VQ has two answers of an earlier look: one more
than the element has fields. -/
def twoGathered : State :=
  { State.reset with
    strand := { Strand.unbound with vq := [scratchEntry], nreg := 32, ew := 64, vl := 1 }
    parts := [(2 ^ 18, [1, 2])] }

/-- Where element k of a unit-stride load of words lies (R162). -/
def wordAt (k : Nat) : List Word :=
  (List.range 1).map fun f => scratchEntry.a + (0 : BitVec 24).signExtend 64 + word ((k * 1 + f) * Ty.i32.bytes)

/-- Element 0 of v5 in the state that an instruction goes on to. -/
def besideOf : Out → Option Nat
  | .next t => some (velem t.strand 5 32 0)
  | _ => none

/-- The statement's load of the element into v4 writes both answers, the second one to v5. -/
theorem loadsElem_writesBeside :
    (elementSteps 0 1 (fun k => loadsElem .i32 .i32 .rne 4 k (wordAt k)) twoGathered).map (fun t => velem t.strand 5 32 0) = some 2 := by
  decide +kernel

/-- The instruction writes the element's one field, to v4, and leaves v5. -/
theorem vld_leavesBeside : besideOf (exec (.vld ⟨0, false, false⟩ .i32 .i32 4 1 0 0) twoGathered) = some 0 := by
  decide +kernel

/-- Refutes O21: the statement speaks of every state, and in its step for one element (`loadsElem`) each answer of the look is
written to a register of its own, as many as there are. The model writes the fields that the instruction has. The two differ where
the VQ has gathered more answers than an element has fields. -/
theorem not_vectorMemoryResults : ¬ Obligations.VectorMemoryResults := by
  unfold Obligations.VectorMemoryResults
  rintro ⟨loads, -⟩
  obtain ⟨t, ht, h2⟩ := Option.map_eq_some_iff.mp loadsElem_writesBeside
  obtain ⟨hd, -⟩ :=
    loads ⟨0, false, false⟩ .i32 .i32 4 1 0 1 0 0 .rne scratchEntry twoGathered rfl (fun h => absurd rfl h) fun _ => rfl
  obtain ⟨hld, -⟩ := hd ⟨by decide, by decide⟩ t
  obtain ⟨hx, -⟩ := hld ht
  have h0 : besideOf (.next (commitVq t)) = some 0 := hx ▸ vld_leavesBeside
  have he : besideOf (.next (commitVq t)) = some 2 := congrArg some h2
  rw [he] at h0
  cases h0

end Sys2Proof.VectorMemory
end

section
/-! PROOFS. Atomics (O31) and full/empty accesses (O32). -/

namespace Sys2Proof.AtomicsFullEmpty

open Sys2Proof.Machine Sys2Proof.Laws Sys2Proof.ScalarFlow Sys2Proof.Privilege

-- ## A scratch bank with nothing pending

section
variable {l : List Nat} {a key n : Nat} {s : State}

/-- Nothing changes where Windsock has replaced none of the bytes (R355). -/
theorem unstale_clean (h : ∀ x ∈ s.stale, x.key ∉ l) : unstale l s = s := by
  have hf : s.stale.filter (fun x => !l.contains x.key) = s.stale := List.filter_eq_self.mpr fun x hx => by simp [h x hx]
  unfold unstale
  rw [hf]
  exact ite_self s

/-- A write to bytes of banks that hold no error heals nothing (R311 to R313). -/
theorem healPoison_clean (hst : ∀ x ∈ s.stale, x.key ∉ l) (h : ∀ k ∈ l, 2 ^ 52 ≤ k ∧ k ∉ s.poison) : healPoison l s = s := by
  have hp : s.poison.filter (fun u => !(decide (2 ^ 52 ≤ u) && l.contains u)) = s.poison :=
    List.filter_eq_self.mpr fun u hu => by
      have hl : u ∉ l := fun hl => (h u hl).2 hu
      simp [hl]
  have hk : l.filter (fun k => decide (k < 2 ^ 52)) = [] :=
    List.filter_eq_nil_iff.mpr fun k hk => by simpa using (h k hk).1
  unfold healPoison
  rw [unstale_clean hst]
  dsimp only
  rw [hp, hk]
  exact ite_self s

/-- Banks have no units of device memory (R312). -/
theorem readUnits_bank (hk : 2 ^ 52 ≤ key) : readUnits key n s = s := by
  unfold readUnits unitsOf
  rw [if_pos hk]
  exact ite_self s

theorem behindChains_none (hc : s.chains = []) : behindChains key n s = s := by simp [behindChains, hc]

/-- An agent without stored bytes writes none out (R379). -/
theorem flushOwn_none (hs : s.stores = []) : flushOwn a key n s = s := by
  have hp : s.poison.filter (fun u => !(decide (2 ^ 52 ≤ u) && false)) = s.poison := by simp
  unfold flushOwn
  simp only [hs, List.filter_nil, List.map_nil, List.foldr_nil, dropOlder, List.any_nil]
  rw [hp, ← hs]
  exact unstale_clean fun _ _ => List.not_mem_nil

/-- An uncached read of a bank finds the bank's bytes. -/
theorem readThrough_bank (hk : 2 ^ 52 ≤ key) (hs : s.stores = []) (hc : s.chains = []) :
    readThrough a key n s = (memNat s.mem key n, s) := by
  unfold readThrough
  rw [behindChains_none hc, flushOwn_none hs, readUnits_bank hk]

/-- Bytes of a bank without an uncorrectable error are none of the poisoned ones. -/
theorem not_poisoned_bank (hk : 2 ^ 52 ≤ key) (hp : poisoned s key n = false) : ∀ k ∈ span key (key + n), 2 ^ 52 ≤ k ∧ k ∉ s.poison := by
  intro k hm
  have hle : key ≤ k := by
    obtain ⟨i, -, rfl⟩ := List.mem_map.mp hm
    exact Nat.le_add_right key i
  refine ⟨le_trans hk hle, fun hin => ?_⟩
  have hb : badUnit s key n = true := by
    have hne : s.poison.isEmpty = false := by cases h : s.poison with
      | nil => simp [h] at hin
      | cons => rfl
    have hany : (span key (key + n)).any (fun u => s.poison.contains u) = true :=
      List.any_eq_true.mpr ⟨k, hm, List.contains_iff_mem.mpr hin⟩
    rw [badUnit, hne, poisonMarks, if_pos hk, hany]
    rfl
  rw [poisoned, if_pos hk, hb] at hp
  cases hp

end

-- ## Releases with nothing to publish (R191)

section
variable {a : Nat} {sel : PStore → Bool} {sc : Scope} {s : State}

theorem publishDirect_none (hs : s.stores = []) : publishDirect sel s = s := by
  unfold publishDirect
  simp only [hs, raised, raiseStores, dropOlder, List.filter_nil, List.map_nil, List.foldr_nil, List.append_nil]
  rw [← hs]
  exact healPoison_clean (fun _ _ => List.not_mem_nil) fun k hk => absurd hk List.not_mem_nil

theorem publishTo_none {n : Nat} (hs : s.stores = []) : publishTo n sel s = s := by
  unfold publishTo
  simp only [hs, raised, raiseStores, List.append_nil]
  rw [← hs]

/-- A release by an agent of a module in which no stored byte is pending is done, and changes nothing. -/
theorem releaseFor_none (hs : s.stores = []) : releaseFor a sc s = .ok () s := by
  have ho : orderStores a (2 ^ 64) s = s := by simp [orderStores, hs]
  unfold releaseFor
  simp only [ho, publishDirect_none hs, publishTo_none hs, publishHome, unansweredLine, hs, pendingLines, List.filter_nil,
    List.foldl_nil, List.find?_nil, Option.map_none, List.any_nil, Bool.false_eq_true, if_false, ite_self]

end

-- ## Atomics (R196 to R198)

section
variable {g : Guard} {ty : Ty} {sc : Scope} {acq rel pcie readsD : Bool} {d a b : BitVec 5} {off : BitVec 24}
  {f : Strand → Nat → Nat → Option Nat} {flags : Nat → Nat → BitVec 6} {s s1 s2 s3 : State}

/-- A place in device memory. -/
def onDevice (p : Place) : Bool :=
  match p.space with
  | .dev _ => true
  | _ => false

/-- What an atomic leaves of its old value: the value in sd with the flags in `FFLAGS`; without an sd, the flags of an addition
that a slice performs with the slice (R197, R198). -/
def delivers (d : BitVec 5) (ty : Ty) (p : Place) (isNear : Bool) (old : Nat) (fl : BitVec 6) (s : State) : State :=
  if d ≠ 0 then mapStrand (fun t => setS { t with fflags := t.fflags ||| fl } d (toReg ty old)) s
  else if onDevice p && !isNear then addSliceFlags p.key fl s
  else s

theorem delivers_slice (d : BitVec 5) (ty : Ty) (p : Place) (isNear : Bool) (old : Nat) (fl : BitVec 6) (s : State) (hd : d = 0) :
    delivers d ty p isNear old fl s = match p.space with
      | .dev _ => if isNear then s else addSliceFlags p.key fl s
      | _ => s := by
  rw [delivers, if_neg (not_not.mpr hd), onDevice]
  cases p.space with
  | dev => cases isNear <;> rfl
  | _ => rfl

/-- No slice performs an addition in core scratch. -/
theorem delivers_coScratch {key : Nat} {isNear : Bool} {old : Nat} {fl : BitVec 6} : delivers d ty ⟨key, .coScratch⟩ isNear old fl s =
    mapStrand (fun t => if d = 0 then t else setS { t with fflags := t.fflags ||| fl } d (toReg ty old)) s := by
  by_cases hd : d = 0
  · rw [delivers_slice d ty _ _ _ _ _ hd]
    simp only [if_pos hd]
    rfl
  · rw [delivers, if_pos hd]
    simp only [if_neg hd]

/-- The acquire of an atomic with `.aq` (R197). -/
def acquires (acq : Bool) (sc : Scope) (s : State) : State :=
  if acq then acquireFor (me s) (myCluster s) (myCore s) sc s else s

/-- The end of an atomic behind its access. -/
def atomicEnd (acq : Bool) (sc : Scope) (d : BitVec 5) (ty : Ty) (p : Place) (isNear : Bool) (old : Nat) (fl : BitVec 6) : M Unit := do
  if d = 0 then
    change fun s => match p.space with
      | .dev _ => if isNear then s else addSliceFlags p.key fl s
      | _ => s
  else
    addFlags fl
    wrS d (toReg ty old)
  if acq then acquireAt sc

theorem atomicEnd_ok {p : Place} {isNear : Bool} {old : Nat} {fl : BitVec 6} :
    atomicEnd acq sc d ty p isNear old fl s = .ok () (acquires acq sc (delivers d ty p isNear old fl s)) := by
  unfold atomicEnd
  by_cases hd : d = 0
  · rw [delivers_slice d ty p isNear old fl s hd, if_pos hd]
    cases acq <;> rfl
  · rw [delivers, if_pos hd, if_neg hd]
    cases acq <;> rfl

/-- Two ways to an answer, with one continuation. -/
theorem ite_bind_ok {α β : Type} {c : Prop} [Decidable c] {m m' : M α} {f : α → M β} {x : α}
    (h : (if c then m s else m' s) = .ok x s1) : (if c then m >>= f else m' >>= f) s = f x s1 := by
  by_cases hc : c
  · rw [if_pos hc] at h ⊢
    exact bind_ok h
  · rw [if_neg hc] at h ⊢
    exact bind_ok h

/-- An atomic whose checks pass, whose release completes and whose access answers goes on with its old value delivered. -/
theorem atomicOp_answers {q : Place} {old : Nat} (hf : NoFence s) (h : Ready g (if readsD then [a, b, d] else [a, b]) [d] [] s)
    (hc : atomicCheck (whoAmI s) (getS s.strand a + off.signExtend 64) ty.bytes pcie s = .ok q s1)
    (hr : (if rel then releaseAll sc else pure () : M Unit) s1 = .ok () s2)
    (ha : (if near s2 (myCluster s) q sc
        then atomicNear (me s) (whoAmI s) q ty.bytes (scopeNum sc) (getS s.strand a + off.signExtend 64)
          (fun o => f s2.strand o ((getS s2.strand b).toNat % 2 ^ ty.width)) s2
        else atomicAt (me s) (whoAmI s) q ty.bytes (getS s.strand a + off.signExtend 64)
          (fun o => f s2.strand o ((getS s2.strand b).toNat % 2 ^ ty.width)) s2) = .ok old s3) :
    atomicOp g ty sc acq rel pcie readsD d a b off f flags s =
      .next (advance (acquires acq sc (delivers d ty q (near s2 (myCluster s) q sc) old
        (flags old ((getS s2.strand b).toNat % 2 ^ ty.width)) s3))) := by
  refine plainOp_ready h ?_
  refine (bind_ok (fenceWait_passes hf)).trans ?_
  refine (bind_ok (m := atomicCheck _ _ _ _) hc).trans ?_
  cases rel with
  | true => exact (bind_ok hr).trans ((ite_bind_ok (f := fun old => atomicEnd acq sc d ty q _ old (flags old _)) ha).trans atomicEnd_ok)
  | false =>
    cases hr
    exact (ite_bind_ok (f := fun old => atomicEnd acq sc d ty q _ old (flags old _)) ha).trans atomicEnd_ok

end

-- ## Atomics in core scratch (R197, R279)

section
variable {o n : Nat} {va : Word} {pcie : Bool} {s : State}

/-- The checks of an atomic in core scratch pass. -/
theorem atomicCheck_scratch (hp : NoPairs s) (h : coreScratch s va n o) :
    atomicCheck (whoAmI s) va n pcie s = .ok ⟨coKey (myCore s) o, .coScratch⟩ s := by
  refine (bind_ok (check_scratch (acc := .store) hp h (by decide))).trans ?_
  exact (bind_ok (check_scratch (acc := .load) hp h (by decide))).trans rfl

/-- A read-modify-write in core scratch with nothing pending reads the bank's bytes and writes the new ones, if any. -/
theorem atomicAt_scratch {a : Nat} {w : Who} {f : Nat → Option Nat} (ho : o < 0x40000) (hs : s.stores = []) (hc : s.chains = [])
    (hst : s.stale = []) (hpo : poisoned s (coKey (myCore s) o) n = false) :
    atomicAt a w ⟨coKey (myCore s) o, .coScratch⟩ n va f s = .ok (memNat s.mem (coKey (myCore s) o) n)
      { s with mem := (f (memNat s.mem (coKey (myCore s) o) n)).elim s.mem fun v => memWrite s.mem (coKey (myCore s) o) (leBytes n v) } := by
  have hk : 2 ^ 52 ≤ coKey (myCore s) o := le_trans (by norm_num) (key_big (myCore s) o)
  have heal (m : Memory) : healPoison (span (coKey (myCore s) o) (coKey (myCore s) o + n)) { s with mem := m } = { s with mem := m } :=
    healPoison_clean (by simp [hst]) (not_poisoned_bank hk hpo)
  simp only [atomicAt, phaseFreeAt, reach_scratch, abandon_scratch ho, hpo, readThrough_bank hk hs hc, heal]
  cases f (memNat s.mem (coKey (myCore s) o) n) <;> rfl

end

/-- Settles O31: every atomic is `atomicOp` with its own rule; in core scratch its checks, its release and its access are those of
a bank with nothing pending. -/
theorem atomicResults : Obligations.AtomicResults := by
  unfold Obligations.AtomicResults
  intro g ty sc acq rel d a b off s hf h h3 hvq va n low fin p hp
  obtain ⟨readsD, hx⟩ : ∃ readsD, exec p.1 s = atomicOp g ty sc acq rel p.2.2.2 readsD d a b off p.2.1 p.2.2.1 s := by
    simp only [List.mem_cons, List.not_mem_nil, or_false] at hp
    rcases hp with rfl | rfl | rfl | rfl | rfl | rfl | rfl | rfl | rfl
    iterate 8 exact ⟨false, rfl⟩
    exact ⟨true, rfl⟩
  have hr : Ready g (if readsD then [a, b, d] else [a, b]) [d] [] s := by
    cases readsD
    · exact h
    · exact h3
  constructor
  · intro o hco hpairs hs hc hst hpo key old x m
    have hrel : (if rel then releaseAll sc else pure () : M Unit) s = .ok () s := by
      cases rel
      · rfl
      · exact releaseAll_drained (hvq rfl) (releaseFor_none hs)
    have hacc := atomicAt_scratch (va := va) (a := me s) (w := whoAmI s) (f := fun o => p.2.1 s.strand o x) hco.2.1 hs hc hst hpo
    have hn : near s (myCluster s) ⟨key, .coScratch⟩ sc = false := Bool.and_false _
    rw [hx, atomicOp_answers hf hr (atomicCheck_scratch hpairs hco) hrel (by rw [hn]; exact hacc)]
    have hm : m = (p.2.1 s.strand old x).elim s.mem fun v => memWrite s.mem key (leBytes n v) := by
      simp only [m]
      cases p.2.1 s.strand old x <;> rfl
    rw [← hm, delivers_coScratch]
    rfl
  · intro q old s1 s2 s3 hchk hq hrel x f hacc dev
    have hrel' : (if rel then releaseAll sc else pure () : M Unit) s1 = .ok () s2 := by
      cases rel with
      | false => exact hrel
      | true => exact releaseAll_drained (by rw [hq]; exact hvq rfl) hrel
    exact hx.trans (atomicOp_answers (f := p.2.1) hf hr hchk hrel' hacc)

-- ## The places of full/empty accesses (R187, R279)

section
variable {va : Word} {n o : Nat} {acc : Acc} {w : Who} {p : Place} {s t : State}

/-- An aligned address of an S or F slot of the strand's window passes the checks of an access. -/
theorem check_window (hp : NoPairs s) (hva : va.toNat = 0x00FFFFFF00000000 + o) (ho : o < 0x1800000) (hal : va.toNat % n = 0)
    (hok : clSlotOk s (whoAmI s) (o / 0x80000) = true) (hacc : acc ≠ .fetch) :
    checkAccess (whoAmI s) va n acc s = .ok ⟨clKey (myCluster s) o, .clScratch (o / 0x80000)⟩ s := by
  have h1 : ¬ (va.toNat / 2 ^ 57 ≠ 0) := by omega
  have h2 : ¬ (va.toNat % n ≠ 0) := not_not.mpr hal
  have h3 : inLocal va.toNat = true := by simp [inLocal, hva]; omega
  have h4 : va.toNat - 0x00FFFFFF00000000 = o := by omega
  simp only [checkAccess, if_neg h1, if_neg h2, Sys2Proof.Machine.translate, redirect_none hp, h3, if_true, localPlace, if_neg hacc, h4,
    if_pos ho, hok]
  rfl

/-- Core scratch lies behind the window of the cluster store. -/
theorem cRoleSlot_coreScratch (h : coreScratch s va n o) : cRoleSlot s w va.toNat = false := by
  have ho : ¬ (va.toNat - 0x00FFFFFF00000000 < 0x1800000) := by rw [h.1]; omega
  simp [cRoleSlot, ho]

theorem cRoleSlot_open (hva : va.toNat = 0x00FFFFFF00000000 + o) (hok : clSlotOk s w (o / 0x80000) = true) :
    cRoleSlot s w va.toNat = false := by
  have h4 : va.toNat - 0x00FFFFFF00000000 = o := by omega
  unfold clSlotOk at hok
  by_cases hb : o / 0x80000 < 48
  · have hr : ((clusterAt s w.cl).banks[o / 0x80000] != .c) = true := by
      rw [dif_pos hb] at hok
      exact (Bool.and_eq_true_iff.mp hok).2
    simp [cRoleSlot, h4, Vector.getElem?_eq_getElem hb, bne_iff_ne.mp hr]
  · simp [hb] at hok

theorem cRoleSlot_roleC (hva : va.toNat = 0x00FFFFFF00000000 + o) (ho : o < 0x1800000)
    (hb : (clusterAt s w.cl).banks[o / 0x80000]? = some .c) : cRoleSlot s w va.toNat = true := by
  have h3 : inLocal va.toNat = true := by simp [inLocal, hva]; omega
  have h4 : va.toNat - 0x00FFFFFF00000000 = o := by omega
  simp [cRoleSlot, h3, h4, ho, hb]

/-- A C slot comes before every other check but those of the address itself (R85, R187). -/
theorem granuleCheck_roleC (h57 : va.toNat / 2 ^ 57 = 0) (hal : va.toNat % n = 0) (hc : cRoleSlot s w va.toNat = true) :
    granuleCheck w va n acc s = .error (.trap .noFullEmpty va) s := if_pos ⟨h57, hal, hc⟩

/-- A place that no slot of the cluster store holds. -/
theorem granuleCheck_elsewhere (hc : cRoleSlot s w va.toNat = false) (h : checkAccess w va n acc s = .ok p t)
    (hp : ∀ b, p.space ≠ .clScratch b) : granuleCheck w va n acc s =
      .error (.trap (if acc = .store then (probeWrite w p t).getD .noFullEmpty else .noFullEmpty) va) t := by
  simp only [granuleCheck, hc, Bool.false_eq_true, and_false, if_false, h]

theorem granuleCheck_slot {b : Nat} (hc : cRoleSlot s w va.toNat = false) (h : checkAccess w va n acc s = .ok p t)
    (hp : p.space = .clScratch b) : granuleCheck w va n acc s = .ok p t := by
  simp only [granuleCheck, hc, Bool.false_eq_true, and_false, if_false, h, hp]

end

/-- A granule of the cluster scratch window by its offset (R186). -/
theorem granuleOf_clKey (cl o : Nat) : granuleOf cl (clKey cl o) = o / 16 := by
  unfold granuleOf clKey
  congr 1
  omega

/-- With nothing pending an agent sees the bytes of memory (R192). -/
theorem rawView_none {a key n : Nat} {w : Who} {s : State} (hs : s.stores = []) : leNat (rawView s a w key n) = memNat s.mem key n := by
  simp [rawView, viewByte, hs, memNat, memBytes]

-- ## The instructions (R187, R188)

section
variable {g : Guard} {clr wait : Bool} {ty : Ty} {d a : BitVec 5} {off : BitVec 24} {p : Place} {k : Nat} {c : Cause} {v : Word} {s t : State}

theorem ldfe_traps (hf : NoFence s) (h : Ready g [a] [d] [] s)
    (hc : granuleCheck (whoAmI s) (getS s.strand a + off.signExtend 64) ty.bytes .load s = .error (.trap c v) t) :
    ∀ i ∈ [Instr.ldfeKeep g ty d a off, .ldfeClr g ty d a off], exec i s = .next (raiseWith s.strand.fflags c v s.strand.pc t) := by
  have all (clr : Bool) : ldfeOp g clr ty d a off s = .next (raiseWith s.strand.fflags c v s.strand.pc t) :=
    plainOp_traps h ((bind_ok (fenceWait_passes hf)).trans (bind_error (m := granuleCheck _ _ _ _) hc))
  exact List.forall_mem_cons.mpr ⟨all false, List.forall_mem_singleton.mpr (all true)⟩

theorem stfe_traps (hf : NoFence s) (h : Ready g [a, d] [] [] s)
    (hc : granuleCheck (whoAmI s) (getS s.strand a + off.signExtend 64) ty.bytes .store s = .error (.trap c v) t) :
    ∀ i ∈ [Instr.stfeFill g ty d a off, .stfeWait g ty d a off], exec i s = .next (raiseWith s.strand.fflags c v s.strand.pc t) := by
  have all (wait : Bool) : stfeOp g wait ty d a off s = .next (raiseWith s.strand.fflags c v s.strand.pc t) :=
    plainOp_traps h ((bind_ok (fenceWait_passes hf)).trans (bind_error (m := granuleCheck _ _ _ _) hc))
  exact List.forall_mem_cons.mpr ⟨all false, List.forall_mem_singleton.mpr (all true)⟩

/-- A load waits for a full granule. -/
theorem ldfeOp_waits (hf : NoFence s) (h : Ready g [a] [d] [] s)
    (hc : granuleCheck (whoAmI s) (getS s.strand a + off.signExtend 64) ty.bytes .load s = .ok p s) (hk : granuleOf (myCluster s) p.key = k)
    (he : granuleFull s (myCluster s) k = false) :
    ldfeOp g clr ty d a off s = .next (waitScalar .granule s) := by
  have hw : waitIf (!granuleFull s (myCluster s) k) .granule s = .error (.wait .granule) s :=
    if_pos (by simp [he])
  subst hk
  exact plainOp_waits h ((bind_ok (fenceWait_passes hf)).trans ((bind_ok (m := granuleCheck _ _ _ _) hc).trans (bind_error (m := waitIf _ _) hw)))

/-- A load of a full granule reads the bank, empties the granule under `.clr`, and acquires. -/
theorem ldfeOp_reads (hf : NoFence s) (h : Ready g [a] [d] [] s)
    (hc : granuleCheck (whoAmI s) (getS s.strand a + off.signExtend 64) ty.bytes .load s = .ok p s) (hk : granuleOf (myCluster s) p.key = k)
    (hfull : granuleFull s (myCluster s) k = true) (hpo : poisoned s p.key ty.bytes = false)
    (hs : s.stores = []) :
    ldfeOp g clr ty d a off s = .next (advance (acquires true .cl
      (mapStrand (fun t => setS t d (toReg ty (memNat s.mem p.key ty.bytes)))
        (if clr then setGranule (myCluster s) k false s else s)))) := by
  have hw : waitIf (!granuleFull s (myCluster s) k) .granule s = .ok () s := if_neg (by simp [hfull])
  have ht : trapIf (poisoned s p.key ty.bytes) .dataError (getS s.strand a + off.signExtend 64) s = .ok () s := if_neg (by simp [hpo])
  subst hk
  refine plainOp_ready h ((bind_ok (fenceWait_passes hf)).trans ((bind_ok (m := granuleCheck _ _ _ _) hc).trans
    ((bind_ok hw).trans ((bind_ok ht).trans ?_))))
  rw [← rawView_none hs (a := me s) (w := whoAmI s)]
  cases clr <;> rfl

section
variable (hf : NoFence s) (h : Ready g [a, d] [] [] s)
  (hc : granuleCheck (whoAmI s) (getS s.strand a + off.signExtend 64) ty.bytes .store s = .ok p s) (hk : granuleOf (myCluster s) p.key = k)
  (ho : s.strand.vq.any entryStores = false) (hs : s.stores = [])

include hf h hc hk ho hs

/-- `stfe.wait` waits for an empty granule. -/
theorem stfeOp_waits (hfull : granuleFull s (myCluster s) k = true) :
    stfeOp g true ty d a off s = .next (waitScalar .granule s) := by
  have hw : waitIf (true && granuleFull s (myCluster s) k) .granule s = .error (.wait .granule) s :=
    if_pos (by simp [hfull])
  subst hk
  exact plainOp_waits h ((bind_ok (fenceWait_passes hf)).trans ((bind_ok (m := granuleCheck _ _ _ _) hc).trans
    ((bind_ok (releaseAll_drained ho (releaseFor_none hs))).trans (bind_error (m := waitIf _ _) hw))))

/-- A store that need not wait writes its bytes at the bank and fills the granule. -/
theorem stfeOp_fills (hw : (wait && granuleFull s (myCluster s) k) = false) :
    stfeOp g wait ty d a off s = .next (advance (setGranule (myCluster s) k true
      (healPoison (span p.key (p.key + ty.bytes))
        { s with mem := memWrite s.mem p.key (leBytes ty.bytes (getS s.strand d).toNat) }))) := by
  have hw : waitIf (wait && granuleFull s (myCluster s) k) .granule s = .ok () s := if_neg (by simp [hw])
  subst hk
  refine plainOp_ready h ((bind_ok (fenceWait_passes hf)).trans ((bind_ok (m := granuleCheck _ _ _ _) hc).trans
    ((bind_ok (releaseAll_drained ho (releaseFor_none hs))).trans ((bind_ok hw).trans ?_))))
  have hfl := flushOwn_none (a := me s) (key := p.key) (n := ty.bytes) hs
  exact congrArg (fun u => EStateM.Result.ok () (setGranule (myCluster s) (granuleOf (myCluster s) p.key) true
    (healPoison (span p.key (p.key + ty.bytes)) { u with mem := memWrite u.mem p.key (leBytes ty.bytes (getS s.strand d).toNat) }))) hfl

end

end

/-- Settles O32: the place decides between the trap and the granule; the granule decides between the wait and the access. -/
theorem fullEmptyResults : Obligations.FullEmptyResults := by
  unfold Obligations.FullEmptyResults
  intro g ty d a off o s hf hp va cl key k loads stores
  have elsewhere (hc : cRoleSlot s (whoAmI s) va.toNat = false) (p : Place) (t : State) (hsp : ∀ b, p.space ≠ .clScratch b) :
      (checkAccess (whoAmI s) va ty.bytes .load s = .ok p t → loads .noFullEmpty t) ∧
      (checkAccess (whoAmI s) va ty.bytes .store s = .ok p t → probeWrite (whoAmI s) p t = none → stores .noFullEmpty t) ∧
      (∀ c, checkAccess (whoAmI s) va ty.bytes .store s = .ok p t → probeWrite (whoAmI s) p t = some c → stores c t) := by
    refine ⟨fun h hr => ldfe_traps hf hr (granuleCheck_elsewhere hc h hsp), fun h hn hr => stfe_traps hf hr ?_,
      fun c h hs hr => stfe_traps hf hr ?_⟩
    · rw [granuleCheck_elsewhere hc h hsp, if_pos rfl, hn, Option.getD_none]
    · rw [granuleCheck_elsewhere hc h hsp, if_pos rfl, hs, Option.getD_some]
  refine ⟨fun hco => ?_, elsewhere, fun hva ho hal => ⟨fun hok hs => ?_, fun hb => ?_⟩⟩
  · obtain ⟨hl, hst, -⟩ := elsewhere (cRoleSlot_coreScratch hco) ⟨coKey (myCore s) o, .coScratch⟩ s (by simp)
    exact ⟨hl (check_scratch hp hco (by decide)), hst (check_scratch hp hco (by decide)) rfl⟩
  · have slot {acc : Acc} (hacc : acc ≠ .fetch) : granuleCheck (whoAmI s) va ty.bytes acc s = .ok ⟨key, .clScratch (o / 0x80000)⟩ s :=
      granuleCheck_slot (cRoleSlot_open hva hok) (check_window hp hva ho hal hok hacc) rfl
    have hk : granuleOf cl key = k := granuleOf_clKey cl o
    constructor
    · intro h hpo got fin
      refine ⟨fun he => ?_, fun hfull => ?_⟩
      · have hw (clr : Bool) : ldfeOp g clr ty d a off s = .next (waitScalar .granule s) :=
          ldfeOp_waits hf h (slot (by decide)) hk he
        exact ⟨hw false, hw true⟩
      · have hr (clr : Bool) := ldfeOp_reads (clr := clr) hf h (slot (by decide)) hk hfull hpo hs
        exact ⟨hr false, hr true⟩
    · intro h hvq done
      have hfill {wait : Bool} (hw : (wait && granuleFull s cl k) = false) := stfeOp_fills hf h (slot (by decide)) hk hvq hs hw
      exact ⟨hfill rfl, fun he => hfill he, fun hfull => stfeOp_waits hf h (slot (by decide)) hk hvq hs hfull⟩
  · have hcheck {acc : Acc} : granuleCheck (whoAmI s) va ty.bytes acc s = .error (.trap .noFullEmpty va) s :=
      granuleCheck_roleC (by omega) hal (cRoleSlot_roleC hva ho hb)
    refine ⟨fun h => ?_, fun h => ?_⟩
    · have ht := ldfe_traps hf h hcheck
      exact ⟨ht _ (by simp), ht _ (by simp)⟩
    · have ht := stfe_traps hf h hcheck
      exact ⟨ht _ (by simp), ht _ (by simp)⟩

end Sys2Proof.AtomicsFullEmpty
end

section
/-! PROOFS. The job sequencer, and the steps and ends of transfers and slab moves (O41). -/

namespace Sys2Proof.ReelEvents

open Sys2Proof.Machine Sys2Proof.Laws Sys2Proof.ScalarFlow Sys2Proof.TrapEntry

-- ## The job sequencer (R189, R200)

/-- The sequencer's view of a cluster's jobs. -/
def jobSeqs (c : ClusterState) : List SeqInfo :=
  (c.reel.toList.flatMap fun ch => ch.jobs.map fun j => j.seq) ++ (c.lk.map fun j => j.seq) ++ c.ops.map fun o => o.seq

section
variable {cl : Nat} {q : SeqInfo} {s : State}

theorem dispatch_eq : (if q.disp || clearToStart s cl q then { q with disp := true } else q) =
    { q with disp := q.disp || clearToStart s cl q } := by
  split
  next h => rw [h]
  next h =>
    have hf := Bool.eq_false_iff.mpr h
    rw [hf, ← (Bool.or_eq_false_iff.mp hf).1]

/-- The sequencer dispatches the jobs that may start, and keeps those dispatched before. -/
theorem jobSeqs_dispatchJobs (c : ClusterState) : jobSeqs (dispatchJobs s cl c) =
    (jobSeqs c).map fun q => { q with disp := q.disp || clearToStart s cl q } := by
  simp only [jobSeqs, dispatchJobs, dispatch_eq, Vector.toList_map, List.map_append, List.map_flatMap, List.flatMap_map,
    List.map_map, Function.comp_def]

/-- What holds a job back: an earlier open one of its address space, or a `bankrole`, with a common line that one of the two
writes. -/
theorem clearToStart_iff : clearToStart s cl q = true ↔ ¬ ∃ e ∈ openJobs s cl, e.order < q.order ∧
    (e.asid = q.asid ∨ e.asid = anyAsid ∨ q.asid = anyAsid) ∧
    (feetMeet (clusterAt s cl).pairs.toList e.writes q.reads = true ∨ feetMeet (clusterAt s cl).pairs.toList e.reads q.writes = true ∨
      feetMeet (clusterAt s cl).pairs.toList e.writes q.writes = true) := by
  simp only [clearToStart, conflicts, List.all_eq_true, Bool.not_eq_true', not_exists, not_and, ← Bool.not_eq_true, Bool.and_eq_true,
    Bool.or_eq_true, decide_eq_true_eq, beq_iff_eq, or_assoc]

end

-- ## Channels

section
variable {cl ch k : Nat} {f : ReelJob → ReelJob} {s : State}

/-- A change of the transfer at work changes the clusters alone. -/
theorem mapHead_frame : mapHead cl ch f s = { s with clusters := (mapHead cl ch f s).clusters } := by
  unfold mapHead
  dsimp only
  split <;> rfl

@[simp] theorem mapHead_mem : (mapHead cl ch f s).mem = s.mem := by rw [mapHead_frame]
@[simp] theorem mapHead_stores : (mapHead cl ch f s).stores = s.stores := by rw [mapHead_frame]
@[simp] theorem mapHead_faultNo : (mapHead cl ch f s).faultNo = s.faultNo := by rw [mapHead_frame]

@[simp] theorem channelAt_putChannel (hch : ch < 4) (c : Channel) : channelAt (putChannel cl ch c s) cl ch = c := by
  simp [channelAt, putChannel, mapCluster, hch]

/-- The transfer at work after a change of it. -/
theorem reelHead_mapHead (hch : ch < 4) : reelHead (mapHead cl ch f s) cl ch = (reelHead s cl ch).map f := by
  unfold mapHead reelHead
  dsimp only
  split
  next h => simp [h]
  next j r h => simp [hch, h]

theorem pairAt_mapHead : pairAt (mapHead cl ch f s) cl k = pairAt s cl k := by
  unfold mapHead
  dsimp only
  split
  · rfl
  · simp [pairAt, putChannel, mapCluster]

/-- A change of a pair leaves the channels. -/
theorem channelAt_mapPair (g : Pair → Pair) : channelAt (mapPair cl k g s) cl ch = channelAt s cl ch := by
  simp [channelAt, mapPair, mapCluster]

theorem pairAt_mapPair (hk : k < 16) (g : Pair → Pair) : pairAt (mapPair cl k g s) cl k = g (pairAt s cl k) := by
  simp [pairAt, mapPair, mapCluster, hk]

theorem dropUnc_clusters (w : Nat) : (dropUnc w s).clusters = s.clusters := by
  unfold dropUnc
  split <;> rfl

end

/-- Channels and pairs are those of the clusters. -/
theorem channelAt_congr {s t : State} (h : t.clusters = s.clusters) (cl ch : Nat) : channelAt t cl ch = channelAt s cl ch := by
  unfold channelAt clusterAt
  rw [h]

theorem reelHead_congr {s t : State} (h : t.clusters = s.clusters) (cl ch : Nat) : reelHead t cl ch = reelHead s cl ch := by
  unfold reelHead
  rw [channelAt_congr h]

theorem pairAt_congr {s t : State} (h : t.clusters = s.clusters) (cl k : Nat) : pairAt t cl k = pairAt s cl k := by
  unfold pairAt clusterAt
  rw [h]

-- ## A step that traps (R239)

/-- What a step that meets trap `c` in state `x` comes to: at a page fault it waits for Mooring; otherwise the transfer ends with
the cause, if it is its first. -/
def Trapped (cl ch : Nat) (c : Cause) (v : Word) (x : State) (o : Out) : Prop :=
  (c = .loadFault ∨ c = .storeFault → ∃ t, o = .next t ∧ t.mem = x.mem ∧ t.stores = x.stores ∧ t.faultNo = x.faultNo + 1 ∧
    ∀ h, reelHead x cl ch = some h → reelHead t cl ch = some { h with wait := some (x.faultNo % 2 ^ 16) }) ∧
  (c ≠ .loadFault → c ≠ .storeFault → ∃ t, o = .next t ∧ t.mem = x.mem ∧ t.stores = x.stores ∧
    ∀ h, reelHead x cl ch = some h → ∃ k, reelHead t cl ch = some k ∧ k.stop = true ∧ k.step = h.step ∧ k.todo = [] ∧
      (h.ecause = 0 → k.ecause = reelCause c ∧ k.eaddr = v) ∧ (h.ecause ≠ 0 → k.ecause = h.ecause))

theorem isPageFault_iff (c : Cause) : isPageFault c = true ↔ c = .loadFault ∨ c = .storeFault := by
  cases c <;> simp [isPageFault]

theorem afterStep_trapped {cl ch : Nat} (hch : ch < 4) (j : ReelJob) (c : Cause) (v : Word) (x : State) :
    Trapped cl ch c v x (.next (afterStep cl ch j (.error (.trap c v) x))) := by
  have same := dropUnc_sameMemoryAndFaults (reelAgent cl ch) x
  refine ⟨fun hc => ⟨_, rfl, ?_⟩, fun h1 h2 => ⟨_, rfl, ?_⟩⟩
  · simp only [afterStep, (isPageFault_iff c).mpr hc, if_true, queueFault]
    refine ⟨mapHead_mem.trans same.mem, mapHead_stores.trans same.stores,
      congrArg (· + 1) (mapHead_faultNo.trans same.faultNo), fun h hh => ?_⟩
    refine (reelHead_mapHead (s := dropUnc (reelAgent cl ch) x) hch).trans ?_
    rw [reelHead_congr (dropUnc_clusters _), hh]
    rfl
  · have hc : ¬ isPageFault c = true := fun hc => ((isPageFault_iff c).mp hc).elim h1 h2
    simp only [afterStep, if_neg hc, noteReel]
    refine ⟨mapHead_mem.trans mapHead_mem, mapHead_stores.trans mapHead_stores, fun h hh => ?_⟩
    rw [reelHead_mapHead hch, reelHead_mapHead hch, hh]
    exact ⟨_, rfl, by simp, rfl, rfl, fun h0 => by simp [h0], fun h0 => by simp [h0]⟩

-- ## Steps of copies (R234)

section
variable {cl ch : Nat} {j : ReelJob} {s s1 s2 : State} {e : Stop} {l : List ReelWrite}

/-- The elements of the step in progress are read, unless all of them have been. -/
def stepReads (cl ch : Nat) (j : ReelJob) (s : State) : EStateM.Result Stop State (List ReelWrite) :=
  if j.full then .ok j.todo s else readAllOf cl ch j j.todo (span ((stepSpan j).1 + j.todo.length) (stepSpan j).2) s

theorem copyStep_readStops (h : stepReads cl ch j (startReel cl ch j s) = .error e s1) :
    copyStep cl ch j s = afterStep cl ch j (.error e s1) := by
  unfold stepReads at h
  simp only [copyStep, h]

theorem copyStep_writeStops (h : stepReads cl ch j (startReel cl ch j s) = .ok l s1) (hw : writeAll cl ch j l s1 = .error e s2) :
    copyStep cl ch j s = afterStep cl ch j (.error e s2) := by
  unfold stepReads at h
  simp only [copyStep, h, hw]

theorem copyStep_done (h : stepReads cl ch j (startReel cl ch j s) = .ok l s1) (hw : writeAll cl ch j l s1 = .ok () s2) :
    copyStep cl ch j s = mapHead cl ch (fun j => { j with step := j.step + 1 })
      (fillGranules cl j (stepSpan j).1 (stepSpan j).2 (totalElems j) s2) := by
  unfold stepReads at h
  simp only [copyStep, h, hw]; rfl

theorem reelStep_copies (hh : reelHead s cl ch = some j) (hc : canStep j = true) (hs : j.step < stepsOf s cl j) (hp : j.pair = none) :
    exec (.reelStep cl ch) s = .next (copyStep cl ch j s) := by
  show execReelStep cl ch s = _
  simp [execReelStep, hh, hc, hs, hp]

theorem reelStep_moves {k : Nat} (hh : reelHead s cl ch = some j) (hc : canStep j = true) (hs : j.step < stepsOf s cl j)
    (hp : j.pair = some k) : exec (.reelStep cl ch) s = .next (moveStep cl ch k j s) := by
  show execReelStep cl ch s = _
  simp [execReelStep, hh, hc, hs, hp]

theorem slabMoveStep_moves {k : Nat} (hh : reelHead s cl ch = some j) (hc : canStep j = true) (hs : j.step < stepsOf s cl j)
    (hp : j.pair = some k) (hk : (pairAt s cl k).ch = ch) : exec (.slabMoveStep cl k) s = .next (moveStep cl ch k j s) := by
  show execSlabMoveStep cl k s = _
  simp [execSlabMoveStep, hk, hh, hc, hs, hp]

end

-- ## Copies that go leave memory, clusters and chains (R262)

/-- Two states have the same memory, the same clusters and the same open chains. -/
structure SamePlaces (t s : State) : Prop where
  mem : t.mem = s.mem
  clusters : t.clusters = s.clusters
  chains : t.chains = s.chains

theorem SamePlaces.trans {u t s : State} (h : SamePlaces u t) (k : SamePlaces t s) : SamePlaces u s :=
  ⟨h.mem.trans k.mem, h.clusters.trans k.clusters, h.chains.trans k.chains⟩

theorem SamePlaces.refl (s : State) : SamePlaces s s := ⟨rfl, rfl, rfl⟩

theorem foldl_samePlaces {α : Type} {f : State → α → State} (hf : ∀ s x, SamePlaces (f s x) s) (l : List α)
    (s : State) : SamePlaces (l.foldl f s) s := by
  induction l generalizing s with
  | nil => exact .refl s
  | cons x l ih => exact (ih (f s x)).trans (hf s x)

section
variable (slot cl line : Nat)

theorem putCline_samePlaces (s : State) (c : CLine) : SamePlaces (putCline s c) s := ⟨rfl, rfl, rfl⟩

theorem raiseOnce_samePlaces (h : HeldEv) (s : State) : SamePlaces (raiseOnce slot cl line h s) s := by
  unfold raiseOnce
  dsimp only
  split
  · exact ⟨rfl, rfl, rfl⟩
  · split
    · split <;> exact ⟨rfl, rfl, rfl⟩
    · exact (putCline_samePlaces ..).trans <|
        (foldl_samePlaces (f := fun s m => post m s) (fun _ _ => ⟨rfl, rfl, rfl⟩) _ _).trans ⟨rfl, rfl, rfl⟩

theorem reraise_samePlaces (n : Nat) (s : State) : SamePlaces (reraise slot cl line n s) s := by
  induction n generalizing s with
  | zero => exact .refl s
  | succ n ih =>
    unfold reraise
    dsimp only
    split
    · exact .refl s
    · exact (ih _).trans ((raiseOnce_samePlaces ..).trans ⟨rfl, rfl, rfl⟩)

theorem dropCopy_samePlaces (s : State) : SamePlaces (dropCopy slot cl line s) s := by
  unfold dropCopy afterChange
  dsimp only
  split
  · split
    · exact ⟨rfl, rfl, rfl⟩
    · exact (reraise_samePlaces ..).trans ⟨rfl, rfl, rfl⟩
  · exact .refl s

theorem dropCopies_samePlaces (s : State) : SamePlaces (dropCopies line s) s :=
  foldl_samePlaces (fun _ _ => dropCopy_samePlaces ..) _ s

theorem dropAll_samePlaces (l : List Nat) (s : State) :
    SamePlaces (l.foldl (fun s l => dropCopies l s) s) s :=
  foldl_samePlaces (fun _ _ => dropCopies_samePlaces ..) l s

end

theorem healPoison_samePlaces (l : List Nat) (s : State) : SamePlaces (healPoison l s) s := by
  have hu : SamePlaces (unstale l s) s := by
    unfold unstale
    split <;> exact ⟨rfl, rfl, rfl⟩
  refine SamePlaces.trans ?_ hu
  unfold healPoison
  dsimp only
  split
  · exact .refl _
  · exact (foldl_samePlaces (fun s u => by split_ifs <;> exact ⟨rfl, rfl, rfl⟩) _ _).trans ⟨rfl, rfl, rfl⟩

/-- A write at the home with no chain open is the write of its bytes. -/
theorem homePoke_writes {key : Nat} {bs : List Byte} {s : State} (hc : s.chains = []) :
    SamePlaces (homePoke key bs s) { s with mem := memWrite s.mem key bs } := by
  have hb : behindChains key bs.length s = s := by simp [behindChains, hc]
  unfold homePoke
  rw [hb]
  dsimp only
  split
  · exact healPoison_samePlaces ..
  · exact (dropAll_samePlaces ..).trans (healPoison_samePlaces ..)

-- ## The bytes of a move (R249)

/-- Bytes written one by one change none that is not among them. -/
theorem memByte_writeEach {key a : Nat} (l : List (Byte × Nat)) (m : Memory) (h : ∀ x ∈ l, a ≠ key + x.2) :
    memByte (l.foldl (fun m (x : Byte × Nat) => memWrite m (key + x.2) [x.1]) m) a = memByte m a := by
  induction l generalizing m with
  | nil => rfl
  | cons x l ih =>
    have hx : a < key + x.2 ∨ key + x.2 + [x.1].length ≤ a := by
      have := h x List.mem_cons_self
      simp only [List.length_singleton]
      omega
    exact (ih _ fun y hy => h y (List.mem_cons_of_mem x hy)).trans (memByte_memWrite_out _ _ _ _ hx)

/-- Lines of one length, one behind the other. -/
theorem getD_lines {n : Nat} (ls : List (List Byte)) (hl : ∀ l ∈ ls, l.length = n) (i c : Nat) (hc : c < n) :
    (ls.flatMap fun l => l).getD (n * i + c) 0 = (ls[i]?.bind fun l => l[c]?).getD 0 := by
  induction ls generalizing i with
  | nil => simp
  | cons l ls ih =>
    have hn := hl l List.mem_cons_self
    rw [List.flatMap_cons, List.getD_eq_getElem?_getD]
    cases i with
    | zero =>
      rw [List.getElem?_append_left (by omega)]
      simp
    | succ i =>
      have hle : n * (i + 1) = n * i + n := Nat.mul_succ n i
      rw [List.getElem?_append_right (by omega), show n * (i + 1) + c - l.length = n * i + c by omega,
        ← List.getD_eq_getElem?_getD, ih (fun l h => hl l (List.mem_cons_of_mem _ h)) i]
      rfl

theorem length_lines {n : Nat} (ls : List (List Byte)) (hl : ∀ l ∈ ls, l.length = n) : (ls.flatMap fun l => l).length = ls.length * n := by
  rw [List.length_flatMap, List.map_congr_left hl, List.map_const', List.sum_replicate, smul_eq_mul]

/-- Answers collected one by one are as many as asked for, each with what every answer has. -/
theorem mapEach_answers {α : Type} {P : α → Prop} {f : Nat → M α} (hf : ∀ k s x s', f k s = .ok x s' → P x) {l : List Nat} {s s1 : State}
    {ys : List α} (h : mapEach l f s = .ok ys s1) : ys.length = l.length ∧ ∀ y ∈ ys, P y := by
  induction l generalizing s ys with
  | nil => cases h; simp
  | cons k l ih =>
    simp only [mapEach] at h
    split at h
    · cases h
    next x s2 hx =>
      split at h
      · cases h
      next xs s3 hxs =>
        cases h
        obtain ⟨hlen, hall⟩ := ih hxs
        exact ⟨congrArg (· + 1) hlen, List.forall_mem_cons.mpr ⟨hf _ _ _ _ hx, hall⟩⟩

/-- The move reads lines of 64 bytes. -/
theorem readMove_length {cl ch : Nat} {w : Who} {sp : Place} {sv : Word} (k : Nat) (s : State) (x : List Byte) (s' : State)
    (h : readMove cl ch w sp sv k s = .ok x s') : x.length = 64 := by
  unfold readMove at h
  split at h
  · cases h
  · cases h
    simp [clusterBytes]

section
variable {cl ch k : Nat} {sp dp : Place} {bs : List Byte} {s : State}

/-- The memory in which the old range holds what the cluster has published there. -/
def heldMem (cl : Nat) (sp : Place) (bs : List Byte) (s : State) : Memory :=
  (bs.zipIdx.filter fun x => s.stores.any fun p => p.cl == cl && p.lvl == 2 && p.key == sp.key + x.2).foldl
    (fun m (x : Byte × Nat) => memWrite m (sp.key + x.2) [x.1]) s.mem

theorem heldMem_out {a : Nat} (h : a < sp.key ∨ sp.key + bs.length ≤ a) : memByte (heldMem cl sp bs s) a = memByte s.mem a := by
  refine memByte_writeEach _ _ fun x hx => ?_
  have := List.snd_lt_of_mem_zipIdx (List.mem_filter.mp hx).1
  omega

/-- The old range holds what the cluster has published there, and no copy of it is left that lacks those bytes. -/
def publishedBack (cl : Nat) (sp : Place) (bs : List Byte) (s : State) : State :=
  let s0 := { s with mem := heldMem cl sp bs s }
  if (bs.zipIdx.filter fun x => s.stores.any fun p => p.cl == cl && p.lvl == 2 && p.key == sp.key + x.2).isEmpty then s0
  else (span (sp.key / 64) (sp.key / 64 + 64)).foldl (fun s l => dropCopies l s) s0

theorem publishedBack_places : SamePlaces (publishedBack cl sp bs s) { s with mem := heldMem cl sp bs s } := by
  unfold publishedBack
  dsimp only
  split
  · exact .refl _
  · exact dropAll_samePlaces ..

/-- The state in which the new range has received the bytes. -/
def received (cl ch : Nat) (sp dp : Place) (bs : List Byte) (s : State) : State :=
  let s1 := publishedBack cl sp bs s
  homePoke dp.key bs { s1 with stores := dropHeld (reelAgent cl ch) cl dp.key 4096 s1.stores }

theorem received_places (hc : s.chains = []) :
    SamePlaces (received cl ch sp dp bs s) { s with mem := memWrite (heldMem cl sp bs s) dp.key bs } := by
  have hb : SamePlaces (publishedBack cl sp bs s) _ := publishedBack_places
  have hw : SamePlaces (received cl ch sp dp bs s) _ := homePoke_writes (hb.chains.trans hc)
  exact ⟨hw.mem.trans (congrArg (memWrite · dp.key bs) hb.mem), hw.clusters.trans hb.clusters, hw.chains.trans hb.chains⟩

/-- The move of a step's bytes: behind them the pair and the transfer move on. -/
theorem moveBytes_eq : moveBytes cl ch k sp dp bs s =
    mapHead cl ch (fun j => { j with step := j.step + 1 }) (mapPair cl k (fun q => { q with wm := q.wm + 1 })
      { received cl ch sp dp bs s with stores := rekey cl sp.key dp.key 4096 (received cl ch sp dp bs s).stores }) := rfl

theorem moveBytes_mem (hc : s.chains = []) : (moveBytes cl ch k sp dp bs s).mem = memWrite (heldMem cl sp bs s) dp.key bs := by
  rw [moveBytes_eq, mapHead_mem]
  exact (received_places hc).mem

theorem moveBytes_wm (hc : s.chains = []) (hk : k < 16) :
    (pairAt (moveBytes cl ch k sp dp bs s) cl k).wm = (pairAt s cl k).wm + 1 := by
  rw [moveBytes_eq, pairAt_mapHead, pairAt_mapPair hk]
  exact congrArg (fun q : Pair => q.wm + 1) (pairAt_congr (received_places hc).clusters cl k)

theorem moveBytes_head (hc : s.chains = []) (hch : ch < 4) :
    reelHead (moveBytes cl ch k sp dp bs s) cl ch = (reelHead s cl ch).map fun j => { j with step := j.step + 1 } := by
  rw [moveBytes_eq, reelHead_mapHead hch, reelHead, channelAt_mapPair]
  exact congrArg (fun c : Channel => c.jobs.head?.map _) (channelAt_congr (received_places hc).clusters cl ch)

end

section
variable {cl ch k : Nat} {j : ReelJob} {s s1 s2 s3 : State} {sp dp : Place} {us : List Nat} {ls : List (List Byte)}

/-- A step of a move whose places do not answer. -/
theorem moveStep_stops {e : Stop} (h : moveEnds cl k j (startReel cl ch j s) = .error e s1) :
    moveStep cl ch k j s = afterStep cl ch j (.error e s1) := by
  unfold moveStep
  exact congrArg (afterStep cl ch j) (bind_error h)

/-- A step of a move whose places answer, with nothing on its way to them, moves what it reads. -/
theorem moveStep_moves (h : moveEnds cl k j (startReel cl ch j s) = .ok (sp, dp) s1) (hs : onTheWay s1 cl sp.key 4096 = false)
    (hd : onTheWay s1 cl dp.key 4096 = false)
    (ho : eachOnce (reelAgent cl ch) 64 (openMove cl ch (engineWho cl j.by_ false) sp dp
      ((pairAt (startReel cl ch j s) cl k).old + word (4096 * j.step)) ((pairAt (startReel cl ch j s) cl k).new + word (4096 * j.step))) s1 =
        .ok us s2)
    (hr : mapEach (List.range 64) (readMove cl ch (engineWho cl j.by_ false) sp
      ((pairAt (startReel cl ch j s) cl k).old + word (4096 * j.step))) s2 = .ok ls s3) :
    moveStep cl ch k j s = moveBytes cl ch k sp dp (ls.flatMap fun l => l) s3 := by
  have hw : waitIf (onTheWay s1 cl sp.key 4096 || onTheWay s1 cl dp.key 4096) .line s1 = .ok () s1 := if_neg (by simp [hs, hd])
  unfold moveStep
  refine congrArg (afterStep cl ch j) (a₂ := .ok () (moveBytes cl ch k sp dp (ls.flatMap fun l => l) s3)) ?_
  exact (bind_ok h).trans ((bind_ok hw).trans ((bind_ok ho).trans (bind_ok hr)))

/-- The lines that a move has read are 4 KiB. -/
theorem lines_length {w : Who} {sv : Word} (hr : mapEach (List.range 64) (readMove cl ch w sp sv) s2 = .ok ls s3) :
    (∀ l ∈ ls, l.length = 64) ∧ (ls.flatMap fun l => l).length = 4096 := by
  obtain ⟨hn, hl⟩ := mapEach_answers (P := fun l : List Byte => l.length = 64) readMove_length hr
  exact ⟨hl, by rw [length_lines ls hl, hn]; rfl⟩

end

-- ## Completion and cancellation (R236, R237, R239, R241)

section
variable {cl ch : Nat} {j : ReelJob} {s s1 : State}

theorem recordReel_frame : recordReel ch j s =
    { s with strand := (recordReel ch j s).strand, others := (recordReel ch j s).others, parked := (recordReel ch j s).parked } := by
  unfold recordReel
  split <;> rfl

/-- The first error of a transfer goes to its issuer (R239). -/
theorem recordReel_cperr (hb : s.strand.bound = true) (hc : s.strand.crew = j.by_.crew) (hi : s.strand.idx.toNat = j.by_.idx)
    (he : s.strand.cperr.getLsbD 6 = false) (hj : j.ecause ≠ 0) :
    (recordReel ch j s).strand.cperr = word (j.ecause + ch * 2 ^ 4 + 2 ^ 6 + j.id.toNat * 2 ^ 32) := by
  simp only [recordReel, if_neg hj, atStrand, hb, hc, hi, he, beq_self_eq_true, Bool.and_self, if_true, Bool.false_eq_true, if_false]

theorem endMove_frame : endMove cl j s = { s with clusters := (endMove cl j s).clusters } := by
  unfold endMove
  split <;> rfl

theorem channelAt_endMove : channelAt (endMove cl j s) cl ch = channelAt s cl ch := by
  unfold endMove
  split
  · exact channelAt_mapPair _
  · rfl

/-- What the completion of a transfer leaves, its writes published (R236, R237). -/
def completed (cl ch : Nat) (j : ReelJob) (s : State) : State :=
  recordReel ch j (endMove cl j (putChannel cl ch { channelAt s cl ch with jobs := (channelAt s cl ch).jobs.tail }
    { s with stores := handOver (reelAgent cl ch) (flightAgent j.by_.flight) s.stores }))

theorem reelComplete_completes (hh : reelHead s cl ch = some j) (hd : reelDone s cl j = true) (hw : j.wait = none)
    (hr : releaseFor (reelAgent cl ch) (if j.pair.isSome then .dm else Machine.scopeOf j.set.cscp) (dropUnc (reelAgent cl ch) s) = .ok () s1) :
    exec (.reelComplete cl ch) s = .next (completed cl ch j s1) := by
  show execReelComplete cl ch s = _
  simp only [execReelComplete, hh, hd, hw, Option.isNone_none, Bool.and_self, if_true, hr]
  rfl

theorem channelAt_completed (hch : ch < 4) :
    channelAt (completed cl ch j s) cl ch = { channelAt s cl ch with jobs := (channelAt s cl ch).jobs.tail } := by
  unfold completed
  rw [recordReel_frame]
  exact channelAt_endMove.trans (channelAt_putChannel hch _)

theorem completed_mem : (completed cl ch j s).mem = s.mem := by
  unfold completed
  rw [recordReel_frame, endMove_frame]
  rfl

theorem completed_cperr (hb : s.strand.bound = true) (hc : s.strand.crew = j.by_.crew) (hi : s.strand.idx.toNat = j.by_.idx)
    (he : s.strand.cperr.getLsbD 6 = false) (hj : j.ecause ≠ 0) :
    (completed cl ch j s).strand.cperr = word (j.ecause + ch * 2 ^ 4 + 2 ^ 6 + j.id.toNat * 2 ^ 32) := by
  unfold completed
  rw [endMove_frame]
  exact recordReel_cperr hb hc hi he hj

theorem stopCancelled_eq (j : ReelJob) : stopCancelled j = if j.cancel = true ∧ j.stop = false ∧ j.todo = [] then
    { j with stop := true, wait := none, ecause := if j.ecause = 0 then 7 else j.ecause } else j := by
  simp [stopCancelled, and_assoc]

end

/-- Settles O41: the sequencer by `jobSeqs_dispatchJobs`; a step by what its reads and its writes answer; a move by the bytes that
`moveBytes` writes; the ends by what the release leaves. -/
theorem sequencerAndReelEvents : Obligations.SequencerAndReelEvents := by
  unfold Obligations.SequencerAndReelEvents
  refine ⟨fun cl s => ⟨_, rfl, rfl, fun c hc => clusterAt_putCluster_ne s _ hc, ?_, fun q => clearToStart_iff⟩, ?_⟩
  · refine Eq.trans ?_ (jobSeqs_dispatchJobs (s := s) (clusterAt s cl))
    exact congrArg jobSeqs (clusterAt_putCluster s cl _)
  intro cl ch j s hch hh s0 trapped
  have traps {c : Cause} {v : Word} {x : State} {i : Instr} (h : exec i s = .next (afterStep cl ch j (.error (.trap c v) x))) :
      trapped c v x i := by
    show Trapped cl ch c v x (exec i s)
    exact h ▸ afterStep_trapped hch j c v x
  refine ⟨fun hs => if_pos hs, fun hs => if_neg (by simp [hs]), ?_, ?_, ?_, ?_⟩
  · intro hc hs hp f n r
    have hx := reelStep_copies hh hc hs hp
    refine ⟨fun c v s1 hr => traps ?_, fun k s1 hr => ?_, fun l s1 hr => ⟨fun s2 hw => ?_, fun k s2 hw => ?_, fun c v s2 hw => traps ?_⟩⟩
    · rw [hx, copyStep_readStops hr]
    · rw [hx, copyStep_readStops hr]; rfl
    · rw [hx, copyStep_done hr hw]; rfl
    · rw [hx, copyStep_writeStops hr hw]; rfl
    · rw [hx, copyStep_writeStops hr hw]
  · intro k hc hs hp hk
    have hx := slabMoveStep_moves hh hc hs hp hk
    refine ⟨⟨_, hx, reelStep_moves hh hc hs hp⟩, fun c v s1 he => traps (by rw [hx, moveStep_stops he]), ?_⟩
    intro sp dp s1 us s2 ls s3 h he hws hwd ho hr hchain hk16 hhead
    obtain ⟨hl, hlen⟩ := lines_length hr
    refine ⟨_, hx.trans (congrArg _ (moveStep_moves he hws hwd ho hr)), moveBytes_wm hchain hk16,
      (moveBytes_head hchain hch).trans (by rw [hhead]; rfl), fun i hi c hc => ?_, fun a hd hs => ?_⟩
    · rw [moveBytes_mem hchain, Nat.add_assoc, memByte_memWrite_in _ _ _ _ (by omega)]
      exact getD_lines ls hl i c hc
    · rw [moveBytes_mem hchain, memByte_memWrite_out _ _ _ _ (by omega)]
      exact heldMem_out (by omega)
  · intro s1 hd hw hr hj
    refine ⟨_, reelComplete_completes hh hd hw hr, ?_, ?_, completed_mem, completed_cperr⟩
    · rw [channelAt_completed hch, hj]
    · rw [channelAt_completed hch]
  · refine ⟨_, rfl, ?_, rfl⟩
    rw [channelAt_putChannel hch]
    exact congrArg (List.map · (channelAt s cl ch).jobs) (funext stopCancelled_eq)

end Sys2Proof.ReelEvents
end

section
/-! PROOFS. The life of a lookup job (O42). -/

namespace Sys2Proof.LookupJobs

open Sys2Proof.Machine Sys2Proof.Laws

-- ## Memory and stores left as they are

/-- Two states have the same memory and the same pending stores. -/
structure SameBytes (t s : State) : Prop where
  mem : t.mem = s.mem
  stores : t.stores = s.stores

theorem SameBytes.refl (s : State) : SameBytes s s := ⟨rfl, rfl⟩

theorem SameBytes.trans {u t s : State} (h : SameBytes u t) (k : SameBytes t s) : SameBytes u s :=
  ⟨h.mem.trans k.mem, h.stores.trans k.stores⟩

theorem foldl_sameBytes {α : Type} {f : State → α → State} (hf : ∀ s x, SameBytes (f s x) s) (l : List α) (s : State) :
    SameBytes (l.foldl f s) s := by
  induction l generalizing s with
  | nil => exact .refl s
  | cons x l ih => exact (ih (f s x)).trans (hf s x)

-- ## One segment (R218)

section
variable (cl : Nat) (j : LkJob) (s : State)

theorem buildTables_sameBytes (k : Nat) : SameBytes (buildTables cl j k s) s := by
  refine foldl_sameBytes (fun s h => ?_) _ s
  dsimp only
  split <;> exact ⟨rfl, rfl⟩

theorem runBlocks_sameBytes (cells : List (Nat × Nat)) (ks : List Nat) (y : List LkVal × List LkErr × State) :
    SameBytes (ks.foldl (runBlock cl j cells) y).2.2 y.2.2 := by
  induction ks generalizing y with
  | nil => exact .refl _
  | cons k ks ih =>
    have hb : SameBytes (runBlock cl j cells y k).2.2 (buildTables cl j k y.2.2) := ⟨rfl, rfl⟩
    exact (ih _).trans (hb.trans (buildTables_sameBytes cl j y.2.2 k))

theorem countCorrected_sameBytes (us : List Nat) : SameBytes (countCorrected us s) s := by
  refine foldl_sameBytes (fun s u => ?_) _ s
  split <;> exact ⟨rfl, rfl⟩

theorem noteErrs_sameBytes (new : List LkErr) : SameBytes (noteErrs new j s).2 s := by
  unfold noteErrs
  split <;> exact ⟨rfl, rfl⟩

/-- Of a job, the errors met in a pass change its records of errors alone. -/
theorem noteErrs_job (new : List LkErr) : (noteErrs new j s).1 = { j with
    errs := (noteErrs new j s).1.errs, noted := (noteErrs new j s).1.noted
    err := (noteErrs new j s).1.err, errPass := (noteErrs new j s).1.errPass } := by
  unfold noteErrs
  split <;> rfl

theorem runSegment_sameBytes : SameBytes (runSegment s cl j).2 s := by
  refine (noteErrs_sameBytes ..).trans ?_
  split
  · exact runBlocks_sameBytes ..
  · exact (countCorrected_sameBytes ..).trans (runBlocks_sameBytes ..)

/-- Of a job, a segment changes its place in the pass, its partial sums, the words that it keeps and its records of errors. -/
theorem runSegment_job : (runSegment s cl j).1 = { j with
    acc := (runSegment s cl j).1.acc, seg := j.seg + 1, words := (runSegment s cl j).1.words
    errs := (runSegment s cl j).1.errs, noted := (runSegment s cl j).1.noted
    err := (runSegment s cl j).1.err, errPass := (runSegment s cl j).1.errPass } := by
  unfold runSegment
  dsimp only
  rw [noteErrs_job]

/-- The job as its next segment finds it: at the start of a pass its partial sums are set (R218). -/
def begun (s : State) (cl : Nat) (j : LkJob) : LkJob := if j.seg = 0 then startPass s cl j else j

/-- The job and the state after the next segment. -/
def afterSegment (s : State) (cl : Nat) (j : LkJob) : LkJob × State := runSegment s cl (begun s cl j)

theorem afterSegment_job : (afterSegment s cl j).1 = { j with
    acc := (afterSegment s cl j).1.acc, seg := j.seg + 1, words := (afterSegment s cl j).1.words
    errs := (afterSegment s cl j).1.errs, noted := (afterSegment s cl j).1.noted
    err := (afterSegment s cl j).1.err, errPass := (afterSegment s cl j).1.errPass } := by
  refine (runSegment_job cl (begun s cl j) s).trans ?_
  unfold afterSegment begun
  split <;> rfl

/-- The outputs of a pass, row by row. -/
def outputsOf (j : LkJob) : List (Nat × Nat) := (passRows j).flatMap fun m => (List.range (tileN j.tsh.toNat)).map fun c => (m, c)

/-- A partial sum at the start of a pass (R218): zero, or the value in the C tile, poison where it cannot be read. -/
def startVal (x : Nat × Nat) : LkVal :=
  if j.mode ≠ 1 then { val := 0, flags := 0, poison := false }
  else if badUnit s (scratchKey cl (cAddr j x.1 x.2)) 4 then { val := 0x7FF000FF, flags := 0, poison := true }
  else { val := memNat s.mem (scratchKey cl (cAddr j x.1 x.2)) 4, flags := 0, poison := false }

/-- The partial sums that the next segment adds to. -/
def startSums : List LkVal := if j.seg ≠ 0 then j.acc else (outputsOf j).map (startVal cl j s)

/-- The errors that the sums of a pass start with. -/
def startFaults : List LkErr := if j.seg = 0 ∧ (startSums cl j s).any (fun v => v.poison) = true then [⟨0, 0, 0, 9⟩] else []

theorem startPass_acc : (startPass s cl j).acc = (outputsOf j).map (startVal cl j s) := by
  refine List.map_congr_left fun x _ => ?_
  rw [startVal, ite_not]
  rfl

theorem begun_eq : begun s cl j =
    if j.seg = 0 then { j with acc := startSums cl j s, errs := [], noted := [], words := [] } else j := by
  unfold begun
  split
  next h =>
    rw [startSums, if_neg (not_not.mpr h), ← startPass_acc]
    rfl
  · rfl

theorem begun_errs : (if (begun s cl j).seg = 0 then startErrs (begun s cl j) else []) = startFaults cl j s := by
  rw [begun_eq, startFaults]
  by_cases h : j.seg = 0
  · simp only [h, if_true, true_and]
    rfl
  · simp only [h, if_false, false_and]

/-- The sums after a segment: its blocks added in ascending order (R218). -/
theorem afterSegment_acc : (afterSegment s cl j).1.acc =
    ((span (32 * j.seg) (Nat.min (32 * j.seg + 32) (tileKb j.tsh.toNat))).foldl
      (runBlock cl (if j.seg = 0 then { j with acc := startSums cl j s, errs := [], noted := [], words := [] } else j) (outputsOf j))
      (startSums cl j s, startFaults cl j s, s)).1 := by
  have h : (afterSegment s cl j).1.acc = ((segBlocks (begun s cl j)).foldl (runBlock cl (begun s cl j) (outputsOf (begun s cl j)))
      ((begun s cl j).acc, if (begun s cl j).seg = 0 then startErrs (begun s cl j) else [], s)).1 := rfl
  have hacc : (begun s cl j).acc = startSums cl j s := by
    rw [begun_eq, startSums]
    split <;> simp_all
  have hblocks : segBlocks (begun s cl j) = segBlocks j ∧ outputsOf (begun s cl j) = outputsOf j := by
    rw [begun_eq]
    split <;> exact ⟨rfl, rfl⟩
  rw [h, begun_errs, hacc, hblocks.1, hblocks.2, begun_eq]
  rfl

end

section
variable {cl : Nat} {j : LkJob} {s : State}

/-- Before the segment that ends a pass with a delivery, no consumer still holds a row (R219). -/
theorem rows_of_canRun (hg : canRun s cl j = true) (hl : ¬ j.seg + 1 < segsOf j) (hm : j.mode = 2) : j.rows = [] := by
  simpa [canRun, hl, hm] using (Bool.and_eq_true_iff.mp hg).2

/-- A running job that can go on runs its next segment, and after the last of a pass delivers the pass (R218, R219). -/
theorem lkSegment_runs (hr : runningJob s cl = some j) (hc : j.cancel = false) (hg : canRun s cl j = true) (hs : j.seg < segsOf j) :
    exec (.lkSegment cl) s = .next (
      if j.seg + 1 < segsOf j then putLk cl (afterSegment s cl j).1 (afterSegment s cl j).2
      else putLk cl (deliverPass cl (afterSegment s cl j).1 (afterSegment s cl j).2).1
        (deliverPass cl (afterSegment s cl j).1 (afterSegment s cl j).2).2) := by
  have hj := afterSegment_job cl j s
  have hseg : (afterSegment s cl j).1.seg = j.seg + 1 := by rw [hj]
  have hmode : (afterSegment s cl j).1.mode = j.mode := by rw [hj]
  have hrows : (afterSegment s cl j).1.rows = j.rows := by rw [hj]
  show execLkSegment cl s = _
  unfold execLkSegment
  simp only [hr, hc, hg, hs, Bool.not_true, Bool.or_false, if_true, Bool.false_eq_true, if_false]
  change (if (decide ((afterSegment s cl j).1.seg < segsOf j) || _) = true then _ else _) = _
  by_cases hl : j.seg + 1 < segsOf j
  · rw [if_pos (by simp [hseg, hl]), if_pos hl]
    rfl
  · have hfree : (j.mode == 2 && !j.rows.isEmpty) = false := by simpa using rows_of_canRun hg hl
    rw [if_neg, if_neg hl]
    · rfl
    · change ¬ (decide ((afterSegment s cl j).1.seg < segsOf j) ||
        ((afterSegment s cl j).1.mode == 2 && !(afterSegment s cl j).1.rows.isEmpty)) = true
      rw [hseg, hmode, hrows, hfree]
      simpa using hl

end

-- ## Delivery (R219)

theorem mem_insertN {l : List Nat} {k n : Nat} : n ∈ insertN l k ↔ n = k ∨ n ∈ l := by
  induction l with
  | nil => simp [insertN]
  | cons x l ih =>
    unfold insertN
    split
    next h => simp [h]
    next h =>
      split
      · simp
      · rw [List.mem_cons, ih, List.mem_cons, or_left_comm]

section
variable {cl : Nat} {j : LkJob} {s : State}

theorem granuleFull_setGranule (k g : Nat) : granuleFull (setGranule cl k true s) cl g = true ↔ g = k ∨ granuleFull s cl g = true := by
  simp only [granuleFull, setGranule, mapCluster, clusterAt_putCluster, if_true, List.contains_iff_mem, mem_insertN]

theorem granuleFull_fill (l : List Nat) (g : Nat) :
    granuleFull (l.foldl (fun s k => setGranule cl k true s) s) cl g = true ↔ g ∈ l ∨ granuleFull s cl g = true := by
  induction l generalizing s with
  | nil => simp
  | cons k l ih =>
    rw [List.foldl_cons, ih, granuleFull_setGranule, List.mem_cons, or_left_comm, or_assoc]

theorem fill_sameBytes (l : List Nat) : SameBytes (l.foldl (fun s k => setGranule cl k true s) s) s :=
  foldl_sameBytes (f := fun s k => setGranule cl k true s) (fun _ _ => ⟨rfl, rfl⟩) l s

/-- The key at which row m of the C tile starts. -/
def rowKey (cl : Nat) (j : LkJob) (m : Nat) : Nat := scratchKey cl (cAddr j m 0)

/-- The bytes of a row of results. -/
def rowBytes (vs : List LkVal) : List Byte := vs.flatMap fun v => leBytes 4 v.val

/-- The granules that a row of the C tile lies in. -/
def rowGranules (cl : Nat) (j : LkJob) (m : Nat) (vs : List LkVal) : List Nat :=
  span (granuleOf cl (rowKey cl j m)) (granuleOf cl (rowKey cl j m + 4 * vs.length - 1) + 1)

theorem rowBytes_length (vs : List LkVal) : (rowBytes vs).length = 4 * vs.length := by
  simp [rowBytes, List.length_flatMap, Nat.mul_comm]

theorem writeRow_mem (m : Nat) (vs : List LkVal) : (writeRow cl j m vs s).mem = memWrite s.mem (rowKey cl j m) (rowBytes vs) :=
  (fill_sameBytes _).mem

theorem writeRow_stores (m : Nat) (vs : List LkVal) : (writeRow cl j m vs s).stores = s.stores := (fill_sameBytes _).stores

theorem granuleFull_writeRow (m : Nat) (vs : List LkVal) (g : Nat) :
    granuleFull (writeRow cl j m vs s) cl g = true ↔ g ∈ rowGranules cl j m vs ∨ granuleFull s cl g = true := by
  unfold rowGranules
  rw [← rowBytes_length]
  exact granuleFull_fill _ g

theorem writeRows_mem (rows : List (Nat × List LkVal)) : (rows.foldl (fun s x => writeRow cl j x.1 x.2 s) s).mem =
    rows.foldl (fun m x => memWrite m (rowKey cl j x.1) (rowBytes x.2)) s.mem := by
  induction rows generalizing s with
  | nil => rfl
  | cons x rows ih => rw [List.foldl_cons, ih, writeRow_mem]; rfl

theorem writeRows_stores (rows : List (Nat × List LkVal)) : (rows.foldl (fun s x => writeRow cl j x.1 x.2 s) s).stores = s.stores := by
  induction rows generalizing s with
  | nil => rfl
  | cons x rows ih => rw [List.foldl_cons, ih, writeRow_stores]

theorem granuleFull_writeRows (rows : List (Nat × List LkVal)) (g : Nat) :
    granuleFull (rows.foldl (fun s x => writeRow cl j x.1 x.2 s) s) cl g = true ↔
      (∃ x ∈ rows, g ∈ rowGranules cl j x.1 x.2) ∨ granuleFull s cl g = true := by
  induction rows generalizing s with
  | nil => simp
  | cons x rows ih =>
    rw [List.foldl_cons, ih, granuleFull_writeRow, List.exists_mem_cons_iff, or_left_comm, or_assoc]

/-- The rows of a pass with their results. -/
def results (j : LkJob) (sums : List LkVal) : List (Nat × List LkVal) :=
  (passRows j).zipIdx.map fun x => (x.1, (sums.drop (x.2 * tileN j.tsh.toNat)).take (tileN j.tsh.toNat))

/-- A pass that is not drained is written to the C tile. -/
theorem deliverPass_writes (hm : j.mode ≠ 2) :
    (deliverPass cl j s).2 = (results j j.acc).foldl (fun s x => writeRow cl j x.1 x.2 s) s := if_neg hm

/-- A pass that is drained changes nothing but its job. -/
theorem deliverPass_drains (hm : j.mode = 2) : (deliverPass cl j s).2 = s := if_pos hm

theorem deliverPass_stores : (deliverPass cl j s).2.stores = s.stores := by
  by_cases hm : j.mode = 2
  · rw [deliverPass_drains hm]
  · rw [deliverPass_writes hm, writeRows_stores]

/-- The job goes on to its next pass. -/
theorem deliverPass_next : (deliverPass cl j s).1.pass = j.pass + 1 ∧ (deliverPass cl j s).1.seg = 0 ∧ (deliverPass cl j s).1.acc = [] ∧
    ((deliverPass cl j s).1.swept = true ↔ tileM j.tsh.toNat ≤ (j.pass + 1) * tileR j.tsh.toNat) :=
  ⟨rfl, rfl, rfl, decide_eq_true_iff⟩

theorem deliverPass_drained (hm : j.mode = 2) : (deliverPass cl j s).1.flags = j.flags ∧
    (deliverPass cl j s).1.rows = j.rows ++ (results j j.acc).map fun x =>
      { row := x.1, cons := j.fc + x.1 % j.ncon, col := 0, vals := x.2 } :=
  ⟨(congrArg LkJob.flags (if_pos hm) :), (congrArg LkJob.rows (if_pos hm) :)⟩

theorem deliverPass_written (hm : j.mode ≠ 2) : (deliverPass cl j s).1.rows = j.rows ∧
    (deliverPass cl j s).1.flags = j.acc.foldl (fun f v => f ||| v.flags) j.flags :=
  ⟨(congrArg LkJob.rows (if_neg hm) :), (congrArg LkJob.flags (if_neg hm) :)⟩

end

-- ## Start, suspension and cancellation (R217, R220, R226, R227)

section
variable {cl : Nat} {j : LkJob} {s : State}

/-- The cluster as a starting job finds it: the bank registers are those of the job's queue (R305). -/
def withBanks (cl : Nat) (j : LkJob) (s : State) : State :=
  mapCluster cl (fun c => { c with
    bbase := (queueAt s j.by_.queue).bank.setWidth 16, blim := (queueAt s j.by_.queue).bank.extractLsb' 16 16, tblErr := [] }) s

theorem lkJobStart_eq (hr : runningJob s cl = none) (hn : nextJob s cl = some j) : exec (.lkJobStart cl) s =
    match refuseCause (withBanks cl j s) cl j with
    | some c => .next (putLk cl (refuseJob c j (withBanks cl j s)).1 (refuseJob c j (withBanks cl j s)).2)
    | none => .next (putLk cl { j with state := .running } (withBanks cl j s)) := by
  show execLkJobStart cl s = _
  simp only [execLkJobStart, hr, hn]
  rfl

/-- A job that passes its checks runs (R217). -/
theorem lkJobStart_runs (hr : runningJob s cl = none) (hn : nextJob s cl = some j) (hf : refuseCause (withBanks cl j s) cl j = none) :
    exec (.lkJobStart cl) s = .next (putLk cl { j with state := .running } (withBanks cl j s)) := by
  rw [lkJobStart_eq hr hn, hf]

/-- A job that fails a check writes nothing and has its cause (R220). -/
theorem lkJobStart_refuses {c : Nat} (hr : runningJob s cl = none) (hn : nextJob s cl = some j)
    (hf : refuseCause (withBanks cl j s) cl j = some c) : ∃ k t, exec (.lkJobStart cl) s = .next (putLk cl k t) ∧ t.mem = s.mem ∧
      k.swept = true ∧ (j.err = 0 → k.err = errRecord 0 0 0 0 c) ∧ (j.mode ≠ 2 → k.rows = []) :=
  ⟨(refuseJob c j (withBanks cl j s)).1, (refuseJob c j (withBanks cl j s)).2, by rw [lkJobStart_eq hr hn, hf], rfl, rfl,
    fun he => if_pos he, fun hm => if_neg hm⟩

theorem putLk_lk (k : LkJob) : (clusterAt (putLk cl k s) cl).lk = (clusterAt s cl).lk.map fun x =>
    if x.id = k.id ∧ x.by_.crew = k.by_.crew ∧ x.by_.idx = k.by_.idx then k else x := by
  simp [putLk, mapCluster]

/-- A job that is cancelled alone in its queue is complete with cause 8 and no rows (R227). -/
theorem lkJobCancel_completes (hl : (clusterAt s cl).lk = [j]) (hc : j.cancel = true) (hs : j.state ≠ .complete) :
    ∃ t k, exec (.lkJobCancel cl) s = .next t ∧ (clusterAt t cl).lk = [k] ∧ k.state = .complete ∧ k.rows = [] ∧
      k.err = errRecord 0 0 0 0 8 ∧ k.id = j.id ∧ t.mem = s.mem := by
  have hx : exec (.lkJobCancel cl) s = .next (cancelJob cl j s) := by
    show execLkJobCancel cl s = _
    simp [execLkJobCancel, hl, hc, hs]
  have hlk : (clusterAt (recordLk (errRecord 0 0 0 0 8) j s).2 cl).lk = [j] := hl
  refine ⟨_, { (recordLk (errRecord 0 0 0 0 8) j s).1 with
    err := errRecord 0 0 0 0 8, state := .complete, rows := [], acc := [], words := [], swept := true }, hx, ?_, rfl, rfl, rfl, rfl, rfl⟩
  rw [cancelJob, putLk_lk, hlk]
  exact congrArg (· :: []) (if_pos ⟨rfl, rfl, rfl⟩)

end

-- ## The end of a pass

section
variable {cl : Nat} {j : LkJob} {s : State}

/-- Two states of a job that agree in the pass, its tile, and what has been handed over so far. -/
structure SameTask (k j : LkJob) : Prop where
  pass : k.pass = j.pass
  mode : k.mode = j.mode
  tsh : k.tsh = j.tsh
  flags : k.flags = j.flags
  rows : k.rows = j.rows
  fc : k.fc = j.fc
  ncon : k.ncon = j.ncon
  cb : k.cb = j.cb
  cs : k.cs = j.cs

theorem afterSegment_sameTask : SameTask (afterSegment s cl j).1 j := by
  rw [afterSegment_job]
  exact ⟨rfl, rfl, rfl, rfl, rfl, rfl, rfl, rfl, rfl⟩

theorem SameTask.results {k : LkJob} (h : SameTask k j) (sums : List LkVal) : results k sums = results j sums := by
  simp only [LookupJobs.results, passRows, h.tsh, h.pass]

theorem SameTask.rowKey {k : LkJob} (h : SameTask k j) (m : Nat) : rowKey cl k m = rowKey cl j m := by
  simp only [LookupJobs.rowKey, cAddr, h.cb, h.cs]

/-- The job and the state after the last segment of a pass and its delivery. -/
def afterPass (s : State) (cl : Nat) (j : LkJob) : LkJob × State :=
  deliverPass cl (afterSegment s cl j).1 (afterSegment s cl j).2

theorem afterSegment_sameBytes : SameBytes (afterSegment s cl j).2 s := runSegment_sameBytes ..

theorem afterPass_next : (afterPass s cl j).1.pass = j.pass + 1 ∧ (afterPass s cl j).1.seg = 0 ∧ (afterPass s cl j).1.acc = [] ∧
    ((afterPass s cl j).1.swept = true ↔ tileM j.tsh.toNat ≤ (j.pass + 1) * tileR j.tsh.toNat) := by
  have h := deliverPass_next (cl := cl) (j := (afterSegment s cl j).1) (s := (afterSegment s cl j).2)
  rwa [afterSegment_sameTask.pass, afterSegment_sameTask.tsh] at h

theorem afterPass_stores : (afterPass s cl j).2.stores = s.stores := deliverPass_stores.trans afterSegment_sameBytes.stores

variable {sums : List LkVal} (hs : (afterSegment s cl j).1.acc = sums)
include hs

/-- A drained pass hands its rows to the consumers in turn (R219). -/
theorem afterPass_drains (hr : j.rows = []) (hm : j.mode = 2) :
    (afterPass s cl j).2.mem = s.mem ∧ (afterPass s cl j).1.flags = j.flags ∧ (afterPass s cl j).1.rows =
      (results j sums).map fun x => { row := x.1, cons := j.fc + x.1 % j.ncon, col := 0, vals := x.2 } := by
  have hk : SameTask (afterSegment s cl j).1 j := afterSegment_sameTask
  have hkm := hk.mode.trans hm
  obtain ⟨hflags, hrows⟩ := deliverPass_drained (cl := cl) (s := (afterSegment s cl j).2) hkm
  rw [hs, hk.results, hk.rows, hr, hk.fc, hk.ncon] at hrows
  exact ⟨(congrArg State.mem (deliverPass_drains hkm)).trans afterSegment_sameBytes.mem, hflags.trans hk.flags, hrows⟩

/-- Another pass writes its rows to the C tile and fills their granules, and its flags join the job's (R219, R220). -/
theorem afterPass_writes (hm : j.mode ≠ 2) :
    (afterPass s cl j).1.rows = j.rows ∧ (afterPass s cl j).1.flags = sums.foldl (fun f v => f ||| v.flags) j.flags ∧
      (afterPass s cl j).2.mem = (results j sums).foldl (fun m x => memWrite m (rowKey cl j x.1) (rowBytes x.2)) s.mem ∧
      ∀ x ∈ results j sums, ∀ g ∈ rowGranules cl j x.1 x.2, granuleFull (afterPass s cl j).2 cl g = true := by
  have hk : SameTask (afterSegment s cl j).1 j := afterSegment_sameTask
  have hkm : (afterSegment s cl j).1.mode ≠ 2 := hk.mode.symm ▸ hm
  obtain ⟨hrows, hflags⟩ := deliverPass_written (cl := cl) (s := (afterSegment s cl j).2) hkm
  have hstate : (afterPass s cl j).2 = (results j sums).foldl (fun t x => writeRow cl (afterSegment s cl j).1 x.1 x.2 t)
      (afterSegment s cl j).2 := by
    rw [afterPass, deliverPass_writes hkm, hs, hk.results]
  refine ⟨hrows.trans hk.rows, by rw [afterPass, hflags, hs, hk.flags], ?_, fun x hx g hg => ?_⟩
  · rw [hstate, writeRows_mem, afterSegment_sameBytes.mem]
    simp only [hk.rowKey]
  · rw [hstate, granuleFull_writeRows]
    refine .inl ⟨x, hx, ?_⟩
    simpa only [rowGranules, hk.rowKey] using hg

end

/-- Settles O42: a segment by the frames of `runSegment`, a delivery by what each row writes and fills. -/
theorem lookupJobEvents : Obligations.LookupJobEvents := by
  unfold Obligations.LookupJobEvents
  intro cl j s
  refine ⟨fun hr hn => ?_, fun hr hc hg hs => ?_, fun hd => ?_, fun hr hs => ?_, fun hl hc hst => ?_⟩
  · exact ⟨lkJobStart_runs hr hn, fun c => lkJobStart_refuses hr hn⟩
  · intro n cells start j0 errs sums
    have hx := lkSegment_runs hr hc hg hs
    have hj := afterSegment_job cl j s
    have hb : SameBytes (afterSegment s cl j).2 s := runSegment_sameBytes ..
    have hsums : (afterSegment s cl j).1.acc = sums := afterSegment_acc cl j s
    refine ⟨fun hl => ⟨_, _, by rw [hx, if_pos hl], by rw [hj], by rw [hj], by rw [hj], hb.mem, hb.stores, hsums⟩, fun hl => ?_⟩
    obtain ⟨hpass, hseg, hacc, hswept⟩ := afterPass_next (s := s) (cl := cl) (j := j)
    exact ⟨_, _, by rw [hx, if_neg (by omega)]; rfl, hpass, hseg, hacc, hswept, afterPass_stores,
      fun hm => afterPass_drains hsums (rows_of_canRun hg (by omega) hm) hm, fun hm => afterPass_writes hsums hm⟩
  · show execLkJobComplete cl s = _
    simp only [execLkJobComplete, hd]
  · show Host.Outcome.next (suspendRunning cl s) = _
    simp only [suspendRunning, hr, if_pos hs]
    rfl
  · exact lkJobCancel_completes hl hc hst

end Sys2Proof.LookupJobs
end

section
/-! PROOFS. The lookup tables: what a half holds, and the sum of the entries that a block's codes select (R212, R213, R218). -/

namespace Sys2Proof.TableSums

open Sys2Proof.Machine Sys2Proof.Laws Sys2Proof.Accumulators

-- ## Entries of a half (R213)

theorem packEntries_entry {l : List Int} {n : Nat} (h : n < l.length) :
    packEntries l / 2 ^ (24 * n) % 2 ^ 24 = (l[n] % 2 ^ 24).toNat := by
  induction l generalizing n with
  | nil => cases h
  | cons v l ih =>
    have hp : packEntries (v :: l) = (v % 2 ^ 24).toNat + 2 ^ 24 * packEntries l := rfl
    have hv : (v % 2 ^ 24).toNat < 2 ^ 24 := by omega
    cases n with
    | zero => rw [hp, List.getElem_cons_zero]; omega
    | succ n =>
      rw [hp, List.getElem_cons_succ, ← ih (Nat.lt_of_succ_lt_succ h), Nat.mul_succ, Nat.add_comm (24 * n), Nat.pow_add,
        ← Nat.div_div_eq_div_mul, Nat.add_mul_div_left _ _ (Nat.two_pow_pos 24), Nat.div_eq_of_lt hv, Nat.zero_add]

/-- A number written into the low bits of a register is read back there. -/
theorem field_ofNat_setField {w m x p lo k : Nat} (hm : m ≤ w) (hk : lo + k ≤ m) :
    (BitVec.ofNat w (setField x 0 m p)).toNat / 2 ^ lo % 2 ^ k = p / 2 ^ lo % 2 ^ k := by
  refine Nat.eq_of_testBit_eq fun b => ?_
  rw [BitVec.toNat_ofNat]
  simp only [Nat.testBit_mod_two_pow, Nat.testBit_div_two_pow, testBit_setField]
  by_cases hb : b < k
  · have h1 : b + lo < w := by omega
    have h2 : 0 ≤ b + lo ∧ b + lo < 0 + m := by omega
    simp only [hb, h1, if_pos h2, decide_true, Bool.true_and, Nat.sub_zero]
  · simp only [hb, decide_false, Bool.false_and]

theorem signedOf_wrap {v : Int} (hl : -2 ^ 23 ≤ v) (hh : v < 2 ^ 23) : signedOf 24 (v % 2 ^ 24).toNat = v := by
  unfold signedOf
  dsimp only
  split <;> omega

/-- An entry within 24 bits is read as it was written. -/
theorem entryAt_writeHalf {l : List Int} {h : BitVec 131072} {n : Nat} (hn : n < l.length) (hw : 24 * l.length ≤ 131072)
    (hl : -2 ^ 23 ≤ l[n]) (hh : l[n] < 2 ^ 23) : entryAt (writeHalf l h) n = l[n] := by
  rw [entryAt, writeHalf, field_ofNat_setField hw (by omega), packEntries_entry hn, signedOf_wrap hl hh]

-- ## The order of a table's entries (R213)

/-- An element of blocks of one length laid end to end. -/
theorem getElem?_flatMap_const {α β : Type} {m : Nat} {f : α → List β} (hf : ∀ a, (f a).length = m) (l : List α) (i : Nat) {j : Nat}
    (hj : j < m) : (l.flatMap f)[i * m + j]? = l[i]?.bind fun a => (f a)[j]? := by
  induction l generalizing i with
  | nil => simp
  | cons a l ih =>
    rw [List.flatMap_cons]
    cases i with
    | zero => rw [Nat.zero_mul, Nat.zero_add, List.getElem?_append_left (by rw [hf]; exact hj)]; rfl
    | succ i =>
      have hi : (i + 1) * m + j = m + (i * m + j) := by rw [Nat.succ_mul]; omega
      rw [hi, List.getElem?_append_right (by rw [hf]; omega), hf, Nat.add_sub_cancel_left, ih]
      rfl

theorem length_flatMap_const {α β : Type} {m : Nat} {f : α → List β} (hf : ∀ a, (f a).length = m) (l : List α) :
    (l.flatMap f).length = l.length * m := by
  simp [List.length_flatMap, hf]

theorem kindList_length : ∀ km < 16, (kindList km).length = kindsOf km := by decide

/-- Entry (r, s, t, x) of a block's table (R212, R213). -/
theorem tableEntries_entry {book : Vector (BitVec 16) 16} {q : Shape} {rows : List (List Int)} {r s t x kind : Nat} {row : List Int}
    (hkm : q.km < 16) (hr : rows[r]? = some row) (hs : (kindList q.km)[s]? = some kind) (ht : t < 32 / groupSize q)
    (hx : x < 2 ^ (q.b * groupSize q)) :
    (tableEntries book q rows)[entryNo q r s t x]? = some (tableEntry row book kind q.b (groupSize q) t x) := by
  have hsk : s < kindsOf q.km := kindList_length q.km hkm ▸ (List.getElem?_eq_some_iff.mp hs).1
  generalize hX : 2 ^ (q.b * groupSize q) = X at hx
  generalize hT : 32 / groupSize q = T at ht
  have htx : t * X + x < T * X := Nat.lt_of_lt_of_le (Nat.add_lt_add_left hx _) (by rw [← Nat.succ_mul]; exact Nat.mul_le_mul_right X ht)
  have hstx : s * (T * X) + (t * X + x) < kindsOf q.km * (T * X) :=
    Nat.lt_of_lt_of_le (Nat.add_lt_add_left htx _) (by rw [← Nat.succ_mul]; exact Nat.mul_le_mul_right _ hsk)
  have hno : entryNo q r s t x = r * (kindsOf q.km * (T * X)) + (s * (T * X) + (t * X + x)) := by
    rw [entryNo, hX, hT]
    ring
  have hgroup (qs : List Int) (kd : Nat) : ((List.range T).flatMap fun t => (List.range X).map fun x =>
      tableEntry qs book kd q.b (groupSize q) t x).length = T * X := by
    rw [length_flatMap_const (m := X) (fun _ => by simp), List.length_range]
  have hkind (qs : List Int) : ((kindList q.km).flatMap fun kd => (List.range T).flatMap fun t => (List.range X).map fun x =>
      tableEntry qs book kd q.b (groupSize q) t x).length = kindsOf q.km * (T * X) := by
    rw [length_flatMap_const (hgroup qs), kindList_length _ hkm]
  rw [tableEntries, hX, hT, hno, getElem?_flatMap_const hkind rows r hstx, hr, Option.bind_some,
    getElem?_flatMap_const (hgroup row) _ s htx, hs, Option.bind_some,
    getElem?_flatMap_const (fun _ => by simp) _ t hx, List.getElem?_range ht, Option.bind_some, List.getElem?_map,
    List.getElem?_range hx, Option.map_some]

-- ## Bounds (R131, R212)

theorem natAbs_sum_le {c : Nat} (l : List Int) (h : ∀ v ∈ l, v.natAbs ≤ c) : l.sum.natAbs ≤ l.length * c := by
  induction l with
  | nil => simp
  | cons v l ih =>
    have hv := h v (by simp)
    have hl := ih fun w hw => h w (by simp [hw])
    rw [List.sum_cons, List.length_cons, Nat.succ_mul]
    omega

theorem bookValue_zero : (bookValue 0).natAbs ≤ 2 ^ 11 := by decide

/-- The doubled value of a code of at most 4 bits is at most 2^11. -/
theorem codeValue_bound {book : Vector (BitVec 16) 16} (hb : ∀ e ∈ book.toList, (bookValue e.toNat).natAbs ≤ 2 ^ 11) (kind : Nat)
    {b i : Nat} (h4 : b ≤ 4) (hi : i < 2 ^ b) : (codeValue book kind b i).natAbs ≤ 2 ^ 11 := by
  have small : ∀ kd < 3, ∀ b ≤ 4, ∀ i < 2 ^ b, (codeValue resetBook kd b i).natAbs ≤ 2 ^ 11 := by decide
  match kind with
  | 0 => exact small 0 (by omega) b h4 i hi
  | 1 => exact small 1 (by omega) b h4 i hi
  | 2 => exact small 2 (by omega) b h4 i hi
  | kd + 3 =>
    show (bookValue ((book[i]?).getD 0).toNat).natAbs ≤ 2 ^ 11
    cases he : book[i]? with
    | none => exact bookValue_zero
    | some e =>
      obtain ⟨hlt, rfl⟩ := Vector.getElem?_eq_some_iff.mp he
      exact hb _ (by simp)

/-- The activations of a row fit 8 bits. -/
def Acts8 (qs : List Int) : Prop := ∀ v ∈ qs, -128 ≤ v ∧ v ≤ 127

theorem nthD_natAbs_le {qs : List Int} (h : Acts8 qs) (k : Nat) : (nthD qs k 0).natAbs ≤ 2 ^ 7 := by
  unfold nthD
  cases hk : qs[k]? with
  | none => decide
  | some v =>
    have := h v (List.mem_of_getElem? hk)
    simp only [Option.getD_some]
    omega

/-- With activations of 8 bits an entry of a group of at most 16 inputs lies within 24 bits. -/
theorem tableEntry_bound {book : Vector (BitVec 16) 16} (hb : ∀ e ∈ book.toList, (bookValue e.toNat).natAbs ≤ 2 ^ 11) {qs : List Int}
    (hq : Acts8 qs) (kind : Nat) {b g : Nat} (t x : Nat) (h4 : b ≤ 4) (hg : g ≤ 16) :
    (tableEntry qs book kind b g t x).natAbs ≤ 2 ^ 22 := by
  have hsum : (tableEntry qs book kind b g t x).natAbs ≤ g * 2 ^ 18 := by
    refine (natAbs_sum_le (c := 2 ^ 18) _ fun v hv => ?_).trans_eq (by simp)
    obtain ⟨i, -, rfl⟩ := List.mem_map.mp hv
    rw [Int.natAbs_mul]
    exact (Nat.mul_le_mul (nthD_natAbs_le hq _) (codeValue_bound hb kind h4 (Nat.mod_lt _ (Nat.two_pow_pos b)))).trans_eq (by norm_num)
  omega

-- ## The block sum by groups (R212, R218)

/-- A sum over groups of equal size is the sum over all. -/
theorem sum_groups (F : Nat → Int) (g T : Nat) :
    ((List.range T).map fun t => ((List.range g).map fun i => F (g * t + i)).sum).sum = ((List.range (g * T)).map F).sum := by
  induction T with
  | zero => rfl
  | succ T ih =>
    rw [List.range_succ, List.map_append, List.sum_append, ih, Nat.mul_succ, List.range_add, List.map_append, List.sum_append,
      List.map_map]
    simp [Function.comp_def]

theorem map_zipIdx_eq {α : Type} (l : List Int) (f : Int × Nat → α) :
    l.zipIdx.map f = (List.range l.length).map fun k => f (nthD l k 0, k) := by
  refine List.ext_getElem (by simp) fun k h1 h2 => ?_
  have hk : k < l.length := by simpa using h1
  simp [nthD, hk]

/-- The code of input i of a group is that of the input in its block. -/
theorem code_of_group (code b g t : Nat) {i : Nat} (hi : i < g) :
    code / 2 ^ (b * g * t) % 2 ^ (b * g) / 2 ^ (b * i) % 2 ^ b = code / 2 ^ (b * (g * t + i)) % 2 ^ b := by
  refine Nat.eq_of_testBit_eq fun k => ?_
  simp only [Nat.testBit_mod_two_pow, Nat.testBit_div_two_pow]
  by_cases hk : k < b
  · have h1 : k + b * i < b * g := by
      have : b * i + b ≤ b * g := by rw [← Nat.mul_succ]; exact Nat.mul_le_mul_left b hi
      omega
    have h2 : k + b * i + b * g * t = k + b * (g * t + i) := by ring
    simp only [hk, h1, h2, decide_true, Bool.true_and]
  · simp only [hk, decide_false, Bool.false_and]

/-- Group t's entry for the codes of a block is the group's part of the block sum. -/
theorem tableEntry_code (qs : List Int) (book : Vector (BitVec 16) 16) (kind b g t code : Nat) :
    tableEntry qs book kind b g t (code / 2 ^ (b * g * t) % 2 ^ (b * g)) =
      ((List.range g).map fun i => nthD qs (g * t + i) 0 * codeValue book kind b (code / 2 ^ (b * (g * t + i)) % 2 ^ b)).sum := by
  refine congrArg List.sum (List.map_congr_left fun i hi => ?_)
  rw [code_of_group code b g t (List.mem_range.mp hi)]

theorem blockDot_groups (qs : List Int) (book : Vector (BitVec 16) 16) (kind b g T code : Nat) (h : qs.length = g * T) :
    ((List.range T).map fun t => tableEntry qs book kind b g t (code / 2 ^ (b * g * t) % 2 ^ (b * g))).sum =
      blockDot qs code book kind b := by
  simp only [tableEntry_code]
  rw [sum_groups (fun k => nthD qs k 0 * codeValue book kind b (code / 2 ^ (b * k) % 2 ^ b)), blockDot, map_zipIdx_eq, h]

theorem groupSize_blocks : ∀ gc ≤ 4, 2 ^ gc ≤ 16 ∧ 2 ^ gc * (32 / 2 ^ gc) = 32 := by decide

/-- The entries that a block's codes select in the half just built sum to the exact block sum (R218, R308). -/
theorem tableSum_build {book : Vector (BitVec 16) 16} {q : Shape} {rows : List (List Int)} {r s kind : Nat} {row : List Int}
    (ts : TableStore) (code : Nat) (h4 : q.b ≤ 4) (hgc : q.gc ≤ 4) (hkm : q.km < 16)
    (hb : ∀ e ∈ book.toList, (bookValue e.toNat).natAbs ≤ 2 ^ 11) (ha : ∀ l ∈ rows, l.length = 32 ∧ Acts8 l)
    (hr : rows[r]? = some row) (hs : (kindList q.km)[s]? = some kind)
    (hw : 24 * (tableEntries book q rows).length ≤ 131072) :
    tableSum (ts.build (tableEntries book q rows)).active q r s code = blockDot row code book kind q.b := by
  obtain ⟨hlen, hacts⟩ := ha row (List.mem_of_getElem? hr)
  obtain ⟨hg16, hg32⟩ := groupSize_blocks q.gc hgc
  rw [← blockDot_groups row book kind q.b (groupSize q) (32 / groupSize q) code (hlen.trans hg32.symm)]
  refine congrArg List.sum (List.map_congr_left fun t ht => ?_)
  obtain ⟨hn, he⟩ := List.getElem?_eq_some_iff.mp <| tableEntries_entry (book := book) (x := code / 2 ^ (q.b * groupSize q * t) %
    2 ^ (q.b * groupSize q)) hkm hr hs (List.mem_range.mp ht) (Nat.mod_lt _ (Nat.two_pow_pos _))
  have hbound := tableEntry_bound (g := groupSize q) hb hacts kind t (code / 2 ^ (q.b * groupSize q * t) % 2 ^ (q.b * groupSize q)) h4 hg16
  exact (entryAt_writeHalf (h := ts.loading) hn hw (by rw [he]; omega) (by rw [he]; omega)).trans he

end Sys2Proof.TableSums
end

section
/-! PROOFS. The grant of a tile shape, the codebook register and the table source (O24). -/

namespace Sys2Proof.TileShapes

open Sys2Proof.Machine Sys2Proof.Laws Sys2Proof.ScalarFlow Sys2Proof.Accumulators

-- ## Fields of a number

theorem testBit_bits (x h l k : Nat) : (bits x h l).testBit k = (decide (k < h - l + 1) && x.testBit (l + k)) := by
  rw [bits, Nat.testBit_mod_two_pow, Nat.testBit_div_two_pow, Nat.add_comm l k]

theorem bit_eq_testBit (x i : Nat) : bit x i = x.testBit i := by
  rw [bit, Nat.testBit_eq_decide_div_mod_eq]
  rfl

/-- A field apart from the one replaced stays. -/
theorem bits_setField_apart {x p w v h l : Nat} (hlh : l ≤ h) (ha : h < p ∨ p + w ≤ l) : bits (setField x p w v) h l = bits x h l := by
  refine Nat.eq_of_testBit_eq fun k => ?_
  rw [testBit_bits, testBit_bits, testBit_setField]
  by_cases hk : k < h - l + 1
  · rw [if_neg (by omega)]
  · simp only [hk, decide_false, Bool.false_and]

theorem bit_setField_apart {x p w v i : Nat} (ha : i < p ∨ p + w ≤ i) : bit (setField x p w v) i = bit x i := by
  rw [bit_eq_testBit, bit_eq_testBit, testBit_setField, if_neg (by omega)]

/-- The field replaced reads as the new value. -/
theorem bits_setField_same {x p w v h : Nat} (hh : h + 1 = p + w) (hw : 0 < w) : bits (setField x p w v) h p = v % 2 ^ w := by
  refine Nat.eq_of_testBit_eq fun k => ?_
  rw [testBit_bits, testBit_setField, Nat.testBit_mod_two_pow, show h - p + 1 = w by omega]
  by_cases hk : k < w
  · rw [if_pos (by omega), Nat.add_sub_cancel_left]
  · simp only [hk, decide_false, Bool.false_and]

theorem setField_lt {x p w v n : Nat} (hx : x < 2 ^ n) (hn : p + w ≤ n) : setField x p w v < 2 ^ n := by
  refine Nat.lt_pow_two_of_testBit _ fun i hi => ?_
  rw [testBit_setField, if_neg (by omega)]
  exact Nat.testBit_lt_two_pow (Nat.lt_of_lt_of_le hx (Nat.pow_le_pow_right (by decide) hi))

-- ## The grant (R207)

/-- The tables of every valid shape of a request fit a half at height r, ungrouped. -/
def RowsFit (x r : Nat) : Prop := ∀ k < 2, (shapeAt x k).v = true → tableNeed (shapeAt x k) 0 r ≤ 16384

theorem forall_lt_two {P : Nat → Prop} : (∀ k < 2, P k) ↔ P 0 ∧ P 1 :=
  ⟨fun h => ⟨h 0 (by decide), h 1 (by decide)⟩, fun h k hk => by
    match k with
    | 0 => exact h.1
    | 1 => exact h.2⟩

theorem grantRows_of_fit {x r : Nat} (h : RowsFit x (r + 1)) : grantRows x (r + 1) = r + 1 := by
  obtain ⟨h0, h1⟩ := forall_lt_two.mp h
  rw [grantRows, if_neg]
  simpa using ⟨h0, h1⟩

theorem grantRows_of_not_fit {x r : Nat} (h : ¬ RowsFit x (r + 1)) : grantRows x (r + 1) = grantRows x r := by
  rw [grantRows, if_pos]
  simp only [RowsFit, forall_lt_two, not_and_or, Classical.not_imp, Nat.not_le] at h
  simpa using h

/-- The height granted is the greatest that fits, or 1. -/
theorem grantRows_spec (x : Nat) {n : Nat} (hn : 1 ≤ n) : 1 ≤ grantRows x n ∧ grantRows x n ≤ n ∧
    (grantRows x n = 1 ∨ RowsFit x (grantRows x n)) ∧ ∀ q, grantRows x n < q → q ≤ n → ¬ RowsFit x q := by
  induction n with
  | zero => omega
  | succ n ih =>
    by_cases h : RowsFit x (n + 1)
    · rw [grantRows_of_fit h]
      exact ⟨by omega, le_refl _, .inr h, fun q h1 h2 => by omega⟩
    · rw [grantRows_of_not_fit h]
      rcases Nat.eq_zero_or_pos n with rfl | hn
      · refine ⟨le_refl 1, le_refl 1, .inl rfl, fun q h1 h2 => ?_⟩
        rw [show q = 0 + 1 by simp [grantRows] at h1; omega]
        exact h
      · obtain ⟨h1, h2, h3, h4⟩ := ih hn
        refine ⟨h1, by omega, h3, fun q hq hq2 => ?_⟩
        rcases Nat.lt_or_ge n q with hl | hl
        · rw [show q = n + 1 by omega]
          exact h
        · exact h4 q hq hl

/-- The group size granted is the greatest that fits, or 0. -/
theorem grantGroup_spec (q : Shape) (r n : Nat) : grantGroup q r n ≤ n ∧
    (grantGroup q r n = 0 ∨ tableNeed q (grantGroup q r n) r ≤ 16384) ∧
    ∀ c, grantGroup q r n < c → c ≤ n → ¬ tableNeed q c r ≤ 16384 := by
  induction n with
  | zero => exact ⟨le_refl 0, .inl rfl, fun c h1 h2 => by omega⟩
  | succ n ih =>
    rw [grantGroup]
    split
    next h => exact ⟨le_refl _, .inr h, fun c h1 h2 => by omega⟩
    next h =>
      obtain ⟨h1, h2, h3⟩ := ih
      refine ⟨by omega, h2, fun c hc hc2 => ?_⟩
      rcases Nat.lt_or_ge n c with hl | hl
      · rw [show c = n + 1 by omega]
        exact h
      · exact h3 c hc hl

/-- The height that a request is granted. -/
def rowsGranted (x : Nat) : Nat := grantRows x (Nat.min (tileR x) (tileM x))

theorem rowsGranted_bounds (x : Nat) : 1 ≤ rowsGranted x ∧ rowsGranted x ≤ 8 := by
  obtain ⟨h1, h2, -⟩ := grantRows_spec x (n := Nat.min (tileR x) (tileM x)) (Nat.le_min.mpr ⟨Nat.le_add_left .., Nat.le_add_left ..⟩)
  have h3 : tileR x ≤ 8 := Nat.mod_lt _ (by decide : 0 < 2 ^ (34 - 32 + 1))
  exact ⟨h1, h2.trans ((Nat.min_le_left ..).trans h3)⟩

theorem grantShape_lt {x : Nat} (h : x < 2 ^ 53) : grantShape x < 2 ^ 53 := by
  unfold grantShape
  dsimp only
  split
  · exact setField_lt (setField_lt (setField_lt h (by decide)) (by decide)) (by decide)
  · exact setField_lt (setField_lt h (by decide)) (by decide)

/-- A field apart from the height and the group sizes stays. -/
theorem bits_grantShape (x : Nat) {h l : Nat} (hlh : l ≤ h) (h1 : h < 32 ∨ 35 ≤ l) (h2 : h < 38 ∨ 40 ≤ l) (h3 : h < 47 ∨ 49 ≤ l) :
    bits (grantShape x) h l = bits x h l := by
  unfold grantShape
  dsimp only
  split
  · rw [bits_setField_apart hlh h3, bits_setField_apart hlh h2, bits_setField_apart hlh h1]
  · rw [bits_setField_apart hlh h2, bits_setField_apart hlh h1]

theorem bit_grantShape (x : Nat) {i : Nat} (h1 : i < 32 ∨ 35 ≤ i) (h2 : i < 38 ∨ 40 ≤ i) (h3 : i < 47 ∨ 49 ≤ i) :
    bit (grantShape x) i = bit x i := by
  unfold grantShape
  dsimp only
  split
  · rw [bit_setField_apart h3, bit_setField_apart h2, bit_setField_apart h1]
  · rw [bit_setField_apart h2, bit_setField_apart h1]

theorem tileR_grantShape (x : Nat) : tileR (grantShape x) = rowsGranted x := by
  have hb := rowsGranted_bounds x
  have hsame : bits (setField x 32 3 (rowsGranted x - 1)) 34 32 = (rowsGranted x - 1) % 2 ^ 3 := bits_setField_same rfl (by decide)
  have h : bits (grantShape x) 34 32 = (rowsGranted x - 1) % 2 ^ 3 := by
    rw [← hsame]
    unfold grantShape
    dsimp only
    split
    · rw [bits_setField_apart (by decide) (by decide), bits_setField_apart (by decide) (by decide), rowsGranted]
    · rw [bits_setField_apart (by decide) (by decide), rowsGranted]
  rw [tileR, h]
  omega

theorem shapeAt_zero (x : Nat) : shapeAt x 0 = { v := bit x 35, b := bits x 37 36 + 1, gc := bits x 39 38, km := bits x 43 40 } :=
  rfl

theorem shapeAt_one (x : Nat) : shapeAt x 1 = { v := bit x 44, b := bits x 46 45 + 1, gc := bits x 48 47, km := bits x 52 49 } :=
  rfl

theorem shapeAt_gc_lt (x k : Nat) : (shapeAt x k).gc < 4 := by
  unfold shapeAt
  split <;> exact Nat.mod_lt _ (by decide)

theorem grantGroup_mod (q : Shape) (r : Nat) {n : Nat} (h : n < 4) : grantGroup q r n % 2 ^ 2 = grantGroup q r n :=
  Nat.mod_eq_of_lt ((grantGroup_spec q r n).1.trans_lt h)

theorem grantShape_group0 (x : Nat) :
    bits (grantShape x) 39 38 = grantGroup (shapeAt x 0) (rowsGranted x) (shapeAt x 0).gc := by
  refine Eq.trans ?_ (grantGroup_mod (shapeAt x 0) (rowsGranted x) (shapeAt_gc_lt x 0))
  unfold grantShape
  dsimp only
  split
  · rw [bits_setField_apart (by decide) (by decide)]
    exact bits_setField_same rfl (by decide)
  · exact bits_setField_same rfl (by decide)

theorem grantShape_group1 (x : Nat) : bits (grantShape x) 48 47 =
    if bit x 44 = true then grantGroup (shapeAt x 1) (rowsGranted x) (shapeAt x 1).gc else bits x 48 47 := by
  unfold grantShape
  dsimp only
  split
  · rw [bits_setField_same (p := 47) (w := 2) (h := 48) rfl (by decide)]
    exact grantGroup_mod (shapeAt x 1) (rowsGranted x) (shapeAt_gc_lt x 1)
  · rw [bits_setField_apart (by decide) (by decide), bits_setField_apart (by decide) (by decide)]

/-- A shape of a grant is that of the request but for the group size granted to a valid one. -/
theorem shapeAt_grantShape (x : Nat) {k : Nat} (hk : k < 2) : (shapeAt (grantShape x) k).v = (shapeAt x k).v ∧
    (shapeAt (grantShape x) k).b = (shapeAt x k).b ∧ (shapeAt (grantShape x) k).km = (shapeAt x k).km ∧
    ((shapeAt x k).v = true → (shapeAt (grantShape x) k).gc = grantGroup (shapeAt x k) (rowsGranted x) (shapeAt x k).gc) := by
  match k with
  | 0 =>
    exact ⟨bit_grantShape x (by decide) (by decide) (by decide),
      congrArg (· + 1) (bits_grantShape x (by decide) (by decide) (by decide) (by decide)),
      bits_grantShape x (by decide) (by decide) (by decide) (by decide), fun _ => grantShape_group0 x⟩
  | 1 =>
    exact ⟨bit_grantShape x (by decide) (by decide) (by decide),
      congrArg (· + 1) (bits_grantShape x (by decide) (by decide) (by decide) (by decide)),
      bits_grantShape x (by decide) (by decide) (by decide) (by decide), fun hv => (grantShape_group1 x).trans (if_pos hv)⟩

-- ## Instructions that set lookup up

/-- A whole instruction at the head of the VQ whose work traps raises the trap. -/
theorem raises_of_work {i : Instr} {g : Guard} {fence : Bool} {work : VqEntry → M Unit} {e : VqEntry} {s s1 : State} {c : Cause}
    {v : Word} (hx : exec i s = vqOp i g true fence work s) (h : AtHead e s) (hv : s.strand.vstart = 0)
    (hw : work e s = .error (.trap c v) s1) : exec i s = .next (raiseVq c v s1.strand.vstart s1) := by
  rw [hx, vqOp_head h, vqRun, if_neg (by simp [hv]), hw]

section
variable {g : Guard} {d a b c : BitVec 5} {e : VqEntry} {s s1 : State}

theorem tshape_traps (h : AtHead e s) (hv : s.strand.vstart = 0) (hb : badShapes e.a.toNat = true) :
    exec (.tshape g d a) s = .next (raiseVq .illegal (e.head.setWidth 64) 0 s) := by
  have hr := raises_of_work (i := .tshape g d a) rfl h hv (bind_error (m := badEntry _ e) (if_pos hb))
  rwa [hv] at hr

theorem tshape_commits (h : AtHead e s) (hv : s.strand.vstart = 0) (hb : badShapes e.a.toNat = false) :
    exec (.tshape g d a) s =
      .next (commits (fun t => setS { t with tsh := word (grantShape e.a.toNat) } d (word (grantShape e.a.toNat))) s) :=
  commits_of_work rfl h hv <| bind_ok (badEntry_false hb)

/-- The grant of a request that can be served (R207). -/
theorem tshape_grant {x : Nat} (hb : badShapes x = false) :
    let y := (word (grantShape x)).toNat
    let r := tileR y
    let most := Nat.min (tileR x) (tileM x)
    let fits := fun (k gc r : Nat) => tableNeed (shapeAt x k) gc r ≤ 16384
    tileM y = tileM x ∧ tileN y = tileN x ∧ tileKb y = tileKb x ∧ r ≤ most ∧
      (r = 1 ∨ ∀ k < 2, (shapeAt x k).v = true → fits k 0 r) ∧
      (∀ q, r < q → q ≤ most → ∃ k < 2, (shapeAt x k).v = true ∧ ¬ fits k 0 q) ∧
      ∀ k < 2, (shapeAt y k).v = (shapeAt x k).v ∧ (shapeAt y k).b = (shapeAt x k).b ∧ (shapeAt y k).km = (shapeAt x k).km ∧
        ((shapeAt x k).v = true → (shapeAt y k).gc ≤ (shapeAt x k).gc ∧ ((shapeAt y k).gc = 0 ∨ fits k (shapeAt y k).gc r) ∧
          ∀ c, (shapeAt y k).gc < c → c ≤ (shapeAt x k).gc → ¬ fits k c r) := by
  intro y r most fits
  have hx : x < 2 ^ 53 := by
    simp only [badShapes, Bool.or_eq_false_iff, bne_eq_false_iff_eq] at hb
    omega
  have hy : y = grantShape x := Nat.mod_eq_of_lt ((grantShape_lt hx).trans (by decide))
  have hr : r = rowsGranted x := (congrArg tileR hy).trans (tileR_grantShape x)
  obtain ⟨-, hmost, hfits, hbest⟩ := grantRows_spec x (n := most) (Nat.le_min.mpr ⟨Nat.le_add_left .., Nat.le_add_left ..⟩)
  rw [hr, hy]
  refine ⟨congrArg (· + 1) (bits_grantShape x (by decide) (by decide) (by decide) (by decide)),
    congrArg (· + 1) (bits_grantShape x (by decide) (by decide) (by decide) (by decide)),
    congrArg (· + 1) (bits_grantShape x (by decide) (by decide) (by decide) (by decide)), hmost, hfits, fun q h1 h2 => ?_,
    fun k hk => ?_⟩
  · simpa [RowsFit, fits] using hbest q h1 h2
  · obtain ⟨hv, hb, hkm, hgc⟩ := shapeAt_grantShape x hk
    refine ⟨hv, hb, hkm, fun hvalid => ?_⟩
    rw [hgc hvalid]
    exact grantGroup_spec (shapeAt x k) (rowsGranted x) (shapeAt x k).gc

-- ## The codebook register (R209, R210)

/-- Entry i of a codebook in memory. -/
def bookEntry (v i : Nat) : Nat := v / 2 ^ (16 * i) % 2 ^ 16

/-- The number of the first invalid entry, 16 where there is none. -/
def firstBad (v : Nat) : Nat := ((List.range 16).map (bookEntry v)).findIdx fun x => !bookOk x

/-- A cluster with a codebook loaded. -/
def withBook (v : Nat) (c : ClusterState) : ClusterState :=
  { c with book := Vector.ofFn fun i => BitVec.ofNat 16 (nthD ((List.range 16).map (bookEntry v)) i.val 0) }

theorem firstBad_none {v : Nat} (hb : ∀ i < 16, bookOk (bookEntry v i) = true) : firstBad v = 16 := by
  refine (List.findIdx_eq_length.mpr fun x hx => ?_).trans (by simp)
  obtain ⟨i, hi, rfl⟩ := List.mem_map.mp hx
  rw [hb i (List.mem_range.mp hi)]
  rfl

theorem firstBad_eq {v i : Nat} (hi : i < 16) (hb : bookOk (bookEntry v i) = false) (hf : ∀ j < i, bookOk (bookEntry v j) = true) :
    firstBad v = i := by
  refine (List.findIdx_eq (by simpa using hi)).mpr ⟨by simp [hb], fun j hj => by simp [hf j hj]⟩

theorem withBook_entry (v : Nat) (c : ClusterState) {i : Nat} (hi : i < 16) : ((withBook v c).book[i]).toNat = bookEntry v i := by
  have hlt : bookEntry v i < 2 ^ 16 := Nat.mod_lt _ (by decide)
  simpa [withBook, nthD, hi] using hlt

variable {v : Nat}

theorem cbload_commits (h : AtHead e s) (hv : s.strand.vstart = 0) (hl : loadVa (me s) (vecWho s) e.a 32 s = .ok v s1)
    (hb : firstBad v = 16) : exec (.cbload g a) s = .next (commitVq (mapCluster (myCluster s1) (withBook v) s1)) :=
  commits_of_work rfl h hv <| (bind_ok (m := ask vecWho) rfl).trans <| (bind_ok (m := ask me) rfl).trans <| (bind_ok hl).trans <|
    (bind_ok (m := trapIf (decide (firstBad v < 16)) _ _) (if_neg (by simp [hb]))).trans rfl

theorem cbload_traps (h : AtHead e s) (hv : s.strand.vstart = 0) (hl : loadVa (me s) (vecWho s) e.a 32 s = .ok v s1)
    (hb : firstBad v < 16) : exec (.cbload g a) s = .next (raiseVq .codebook (word (firstBad v)) s1.strand.vstart s1) :=
  raises_of_work rfl h hv <| (bind_ok (m := ask vecWho) rfl).trans <| (bind_ok (m := ask me) rfl).trans <| (bind_ok hl).trans <|
    bind_error (m := trapIf (decide (firstBad v < 16)) _ _) (if_pos (decide_eq_true hb))

-- ## The table source (R211)

/-- Work that goes on when every value of a list is a multiple of 16, and otherwise raises *misaligned* with the first that is
not. -/
def alignedThen (l : List Word) (m : M Unit) : M Unit :=
  l.foldr (fun v m => trapIf (v.toNat % 16 != 0) .misaligned v >>= fun _ => m) m

theorem alignedThen_goes {l : List Word} {m : M Unit} (h : ∀ v ∈ l, v.toNat % 16 = 0) : alignedThen l m s = m s := by
  induction l with
  | nil => rfl
  | cons v l ih =>
    have hv : ¬ (v.toNat % 16 != 0) = true := by simp [h v (by simp)]
    exact (bind_ok (m := trapIf _ _ v) (if_neg hv)).trans (ih fun w hw => h w (by simp [hw]))

theorem alignedThen_traps {l : List Word} {m : M Unit} {v : Word} (h : l.find? (fun v => v.toNat % 16 != 0) = some v) :
    alignedThen l m s = .error (.trap .misaligned v) s := by
  induction l with
  | nil => cases h
  | cons w l ih =>
    cases hw : w.toNat % 16 != 0 with
    | true =>
      rw [List.find?_cons, hw] at h
      obtain rfl := Option.some.inj h
      exact bind_error (m := trapIf _ _ w) (if_pos hw)
    | false =>
      rw [List.find?_cons, hw] at h
      exact (bind_ok (m := trapIf _ _ w) (if_neg (by simp [hw]))).trans (ih h)

theorem strideLow_word (v : Word) : (word (v.toNat % 2 ^ 32)).toNat = v.toNat % 2 ^ 32 :=
  Nat.mod_eq_of_lt ((Nat.mod_lt _ (by decide)).trans (by decide : 2 ^ 32 < 2 ^ 64))

theorem strideHigh_word (v : Word) : (word (v.toNat / 2 ^ 32)).toNat = v.toNat / 2 ^ 32 :=
  Nat.mod_eq_of_lt ((Nat.div_le_self ..).trans_lt v.isLt)

/-- The addresses and strides that `tbuild` checks, in order. -/
def sourceParts (e : VqEntry) : List Word := [e.a, e.b, word (e.c.toNat % 2 ^ 32), word (e.c.toNat / 2 ^ 32)]

/-- The table source that `tbuild` sets. -/
def sourceOf (e : VqEntry) (nogate : Bool) : TableSrc :=
  { qb := e.a, eb := e.b, qs := e.c.toNat % 2 ^ 32, es := e.c.toNat / 2 ^ 32, gate := !nogate }

variable {nogate : Bool}

theorem tbuild_work (s : State) : exec (.tbuild g nogate a b c) s = vqOp (.tbuild g nogate a b c) g true false (fun e =>
    alignedThen (sourceParts e) (onStrand fun t => { t with tsrc := some (sourceOf e nogate) })) s := by
  simp only [alignedThen, sourceParts, List.foldr_cons, List.foldr_nil, strideLow_word, strideHigh_word]
  rfl

theorem tbuild_commits (h : AtHead e s) (hv : s.strand.vstart = 0) (ha : ∀ v ∈ sourceParts e, v.toNat % 16 = 0) :
    exec (.tbuild g nogate a b c) s = .next (commits (fun t => { t with tsrc := some (sourceOf e nogate) }) s) :=
  commits_of_work (tbuild_work s) h hv (alignedThen_goes ha)

theorem tbuild_traps {v : Word} (h : AtHead e s) (hv : s.strand.vstart = 0)
    (hf : (sourceParts e).find? (fun v => v.toNat % 16 != 0) = some v) :
    exec (.tbuild g nogate a b c) s = .next (raiseVq .misaligned v 0 s) := by
  have hr := raises_of_work (tbuild_work (g := g) (a := a) (b := b) (c := c) (nogate := nogate) s) h hv (alignedThen_traps hf)
  rwa [hv] at hr

end

/-- Settles O24: the grant by the two searches down from the request, the loads and checks of `cbload` and `tbuild`, and the table
sum by groups. -/
theorem lookupSetup : Obligations.LookupSetup := by
  unfold Obligations.LookupSetup
  refine ⟨fun g d a e s h hv => ⟨tshape_traps h hv, fun hb => ⟨_, tshape_commits h hv hb, tshape_grant hb⟩⟩, ?_, ?_, ?_⟩
  · intro g a e v s s1 h hv hl hs entry
    refine ⟨fun hb => ?_, fun i hi hb hf => ?_⟩
    · have hcl : myCluster s1 = myCluster s := congrArg (fun t : Strand => clusterOf t.id) hs
      refine ⟨_, cbload_commits h hv hl (firstBad_none hb), fun i hi => ?_, fun c hc => ?_, rfl⟩
      · rw [← hcl]
        refine Eq.trans ?_ (withBook_entry v (clusterAt s1 (myCluster s1)) hi)
        exact congrArg (fun c : ClusterState => c.book[i].toNat) (clusterAt_putCluster s1 (myCluster s1) _)
      · exact clusterAt_putCluster_ne s1 _ (hcl ▸ hc)
    · have hfb := firstBad_eq hi hb hf
      rw [cbload_traps h hv hl (by omega), hfb]
  · intro g nogate a b c e s h hv qs es
    refine ⟨fun ha hb hq he => tbuild_commits h hv ?_, fun v => tbuild_traps h hv⟩
    simp only [sourceParts, List.forall_mem_cons, strideLow_word, strideHigh_word]
    exact ⟨ha, hb, hq, he, by simp⟩
  · intro book q rows ts r s kind code row h1 h4 hgc hkm hb ha hr hs l hw
    exact ⟨TableSums.tableSum_build ts code h4 hgc hkm hb ha hr hs hw, rfl⟩

end Sys2Proof.TileShapes
end

section
/-! PROOFS. Lookup jobs as instructions: issue, drain and wait (O25). -/

namespace Sys2Proof.LookupIssue

open Sys2Proof.Machine Sys2Proof.Laws Sys2Proof.ScalarFlow Sys2Proof.Accumulators Sys2Proof.VectorFp Sys2Proof.VectorConfig
open Sys2Proof.WaitAndFence

-- ## Issue (R214 to R217)

/-- The job that a strand issues, its place in the sequencer given (R216). -/
def issuedJob (mode : Nat) (cb : Word) (cs fc ncon desc : Nat) (src : TableSrc) (q : SeqInfo) (s : State) : LkJob :=
  { id := s.strand.lkNext, by_ := issuerNow s, seq := q, desc := BitVec.ofNat 256 desc, tsh := s.strand.tsh,
    book := (clusterAt s (myCluster s)).book, src := src, cb := cb, cs := cs, mode := mode, fc := fc, ncon := ncon,
    state := .queued, pass := 0, seg := 0, acc := [], rows := [], errs := [], err := 0, flags := 0, repc := 0, repi := false,
    cancel := false, swept := false }

/-- The C tile of a job as a footprint (R205). -/
def tileFoot (cb : Word) (cs x : Nat) : Foot := planeFoot cb (4 * tileN x) (tileM x) cs

/-- What a job reads in cluster scratch and memory: its planes, its descriptor, and the C tile it adds to (R200). -/
def readFeet (e : VqEntry) (mode : Nat) (cb : Word) (cs : Nat) (src : TableSrc) (x : Nat) : List Foot :=
  let reads := [planeFoot src.qb src.qs (tileM x) src.qs, planeFoot src.eb src.es (tileM x) src.es, flatFoot e.a 32]
  if mode = 1 then reads ++ [tileFoot cb cs x] else reads

/-- What a job writes in cluster scratch: the C tile, unless it is drained (R200). -/
def writeFeet (mode : Nat) (cb : Word) (cs x : Nat) : List Foot := if mode = 2 then [] else [tileFoot cb cs x]

/-- The state after a strand's job has joined its cluster's, its ID written to a register. -/
def joins (d : BitVec 5) (j : LkJob) (s : State) : State :=
  mapStrand (fun t => setS { t with lkNext := t.lkNext + 1 } d (t.lkNext.setWidth 64))
    (mapCluster (myCluster s) (fun c => { c with lk := c.lk ++ [j] }) s)

/-- Checks that pass before work that follows either way. -/
theorem ite_eq_else {α : Type} {c : Prop} [Decidable c] {m n : M α} {s : State} (h : c → m s = n s) :
    (if c then m else n) s = n s := by
  split
  next hc => exact h hc
  · rfl

section
variable {d : BitVec 5} {e : VqEntry} {mode : Nat} {cb : Word} {cs fc ncon desc : Nat} {src : TableSrc} {s s1 s2 : State}

/-- A job that passes its checks, with room for it, is received and joins its cluster's jobs. -/
theorem lkIssue_joins (hv : s.strand.tsh.getLsbD 35 = true) (ht : s.strand.tsrc = some src)
    (hn : mode = 2 → fc + ncon ≤ crewSize s) (ha : mode ≠ 2 → cb.toNat % 16 = 0 ∧ cs % 16 = 0)
    (hl : loadVa (me s) (vecWho s) e.a 32 s = .ok desc s1) (hs1 : s1.strand = s.strand)
    (h4 : notComplete (jobsOf s1 s.strand.crew s.strand.idx.toNat) < 4)
    (h32 : notComplete (clusterAt s1 (myCluster s)).lk < 32) (hr : releaseFor (me s) .cl s1 = .ok () s2)
    (hs2 : s2.strand = s.strand) : ∃ q : SeqInfo × State, q.1.disp = false ∧ q.2 = { s2 with clusters := q.2.clusters } ∧
      (clusterAt q.2 (myCluster s)).lk = (clusterAt s2 (myCluster s)).lk ∧
      lkIssue e d mode cb cs fc ncon s = .ok () (joins d (issuedJob mode cb cs fc ncon desc src q.1 s2) q.2) := by
  have hcl1 : myCluster s1 = myCluster s := congrArg (fun t : Strand => clusterOf t.id) hs1
  have hcl2 : myCluster s2 = myCluster s := congrArg (fun t : Strand => clusterOf t.id) hs2
  have hme : me s1 = me s := congrArg (fun t : Strand => t.id.toNat) hs1
  have hrel : releaseAt .cl s1 = .ok () s2 := by rw [releaseAt, hme, hr]
  have hroom : ¬ (decide (4 ≤ notComplete (jobsOf s1 s.strand.crew s.strand.idx.toNat)) ||
      decide (32 ≤ notComplete (clusterAt s1 (myCluster s1)).lk)) = true := by
    rw [hcl1]
    simp [h4, h32]
  have hbit : (!bit s.strand.tsh.toNat 35) = false := by
    rw [TileShapes.bit_eq_testBit]
    exact (congrArg not hv :)
  have hcons : (mode == 2 && decide (crewSize s < fc + ncon)) = false := by
    by_cases hm : mode = 2
    · simp [hm, Nat.not_lt.mpr (hn hm)]
    · simp [hm]
  refine ⟨receive (myCluster s) (asidOf (queueAt s2 s.strand.queue)) (readFeet e mode cb cs src s.strand.tsh.toNat)
    (writeFeet mode cb cs s.strand.tsh.toNat) s2, rfl, rfl, (congrArg ClusterState.lk (clusterAt_putCluster s2 (myCluster s) _) :), ?_⟩
  unfold lkIssue
  refine (bind_ok (m := ask _) rfl).trans <| (bind_ok (badEntry_false hbit)).trans <| (bind_ok (m := ask _) rfl).trans <|
    (bind_ok (badEntry_false hcons)).trans ?_
  simp only [ht]
  refine (ite_eq_else fun hm => (bind_ok (m := trapIf _ _ _) (if_neg (by simp [(ha hm).1]))).trans
    (bind_ok (m := trapIf _ _ _) (if_neg (by simp [(ha hm).2])))).trans ?_
  refine (bind_ok (m := ask _) rfl).trans <| (bind_ok (m := ask _) rfl).trans <| (bind_ok hl).trans <|
    (bind_ok (m := ask _) rfl).trans <| (bind_ok (m := ask _) rfl).trans <| (bind_ok (m := ask _) rfl).trans <|
    (bind_ok (m := waitIf _ _) (if_neg hroom)).trans <| (bind_ok hrel).trans ?_
  rw [hcl1, ← hcl2, ← hs2]
  rfl

end

/-- A job that passes its checks joins its cluster's jobs under the strand's next ID, which its destination gets (R216, R217). -/
theorem lkacc_issues {i : Instr} {g : Guard} {work : VqEntry → M Unit} {d : BitVec 5} {e : VqEntry} {mode : Fin 3} {cb : Word}
    {cs fc ncon f n desc : Nat} {src : TableSrc} {s s1 s2 : State} (hx : exec i s = vqOp i g true false work s)
    (hwork : work e = lkIssue e d mode.val cb cs fc ncon) (h : AtHead e s) (hv : s.strand.vstart = 0)
    (htsh : s.strand.tsh.getLsbD 35 = true) (ht : s.strand.tsrc = some src) (hn : mode = 2 → f + n ≤ crewSize s)
    (ha : mode ≠ 2 → e.b.toNat % 16 = 0 ∧ e.c.toNat % 16 = 0) (hl : loadVa (me s) (vecWho s) e.a 32 s = .ok desc s1)
    (hs1 : s1.strand = s.strand) (h4 : notComplete (jobsOf s1 s.strand.crew s.strand.idx.toNat) < 4)
    (h32 : notComplete (clusterAt s1 (myCluster s)).lk < 32) (hr : releaseFor (me s) .cl s1 = .ok () s2)
    (hs2 : s2.strand = s.strand) (hwr : mode ≠ 2 → cb = e.b ∧ cs = e.c.toNat) (hdr : mode = 2 → fc = f ∧ ncon = n) :
    ∃ t j, exec i s = .next t ∧ (clusterAt t (myCluster s)).lk = (clusterAt s2 (myCluster s)).lk ++ [j] ∧
      j.id = s.strand.lkNext ∧ j.by_ = issuerNow s ∧ j.desc = BitVec.ofNat 256 desc ∧ j.tsh = s.strand.tsh ∧
      j.book = (clusterAt s2 (myCluster s)).book ∧ j.src = src ∧ j.mode = mode.val ∧ j.state = .queued ∧ j.seq.disp = false ∧
      (mode ≠ 2 → j.cb = e.b ∧ j.cs = e.c.toNat) ∧ (mode = 2 → j.fc = f ∧ j.ncon = n) ∧
      t = { commits (fun u => setS { u with lkNext := u.lkNext + 1 } d (u.lkNext.setWidth 64)) s2 with clusters := t.clusters } := by
  have hm : mode = 2 ↔ mode.val = 2 := Fin.ext_iff
  have hcl : myCluster s2 = myCluster s := congrArg (fun t : Strand => clusterOf t.id) hs2
  obtain ⟨q, hdisp, hq, hlk, hw⟩ := lkIssue_joins (d := d) (cb := cb) (cs := cs) (fc := fc) (ncon := ncon) htsh ht
    (fun h2 => by obtain ⟨rfl, rfl⟩ := hdr (hm.mpr h2); exact hn (hm.mpr h2))
    (fun h2 => by obtain ⟨rfl, rfl⟩ := hwr (mt hm.mp h2); exact ha (mt hm.mp h2)) hl hs1 h4 h32 hr hs2
  have hqs : myCluster q.2 = myCluster s := by rw [hq]; exact hcl
  refine ⟨_, issuedJob mode.val cb cs fc ncon desc src q.1 s2, commits_of_work hx h hv ((congrFun hwork s).trans hw), ?_,
    congrArg Strand.lkNext hs2, ?_, rfl, congrArg Strand.tsh hs2, ?_, rfl, rfl, rfl, hdisp, hwr, hdr, ?_⟩
  · rw [← hlk, ← hqs]
    exact (congrArg ClusterState.lk (clusterAt_putCluster q.2 (myCluster q.2) _) :)
  · simp only [issuedJob, issuerNow, hs2]
  · rw [← hcl]
    rfl
  · rw [hq]
    rfl

-- ## Draining (R221)

section
variable {g : Guard} {d c : BitVec 5} {e : VqEntry} {s : State}

theorem vdrn_empty (h : AtHead e s) (hv : s.strand.vstart = 0) (hg : Granted s [d] 32) (hl : s.strand.vl = 0) :
    exec (.vdrn g d c) s = .next (commits (fun t => setS t c 0) s) :=
  commits_of_work rfl h hv <| (bind_ok (vecCheck_granted hg)).trans <| (bind_ok (m := ask _) rfl).trans <| by rw [if_pos hl]; rfl

/-- The head of the strand's drain stream: its job and the row there. -/
def drainRow (s : State) : Option (LkJob × DrainRow) :=
  (drainJob s).bind fun j => (j.rows.find? fun r => r.cons == s.strand.idx.toNat).map fun r => (j, r)

theorem vdrn_waits (h : AtHead e s) (hv : s.strand.vstart = 0) (hg : Granted s [d] 32) (hl : s.strand.vl ≠ 0)
    (hd : drainRow s = none) : exec (.vdrn g d c) s = .next (waitVq .engine s) := by
  show execVdrn g d c s = _
  refine vqOp_waits (s1 := s) h (fun _ => hv) <| (bind_ok (vecCheck_granted hg)).trans <| (bind_ok (m := ask _) rfl).trans ?_
  rw [if_neg hl]
  refine (bind_ok (m := ask _) rfl).trans <| (bind_ok (m := ask _) rfl).trans <| (bind_ok (m := ask _) (x := none) ?_).trans rfl
  exact (congrArg (EStateM.Result.ok · s) hd :)

theorem forEach_wrV (d : BitVec 5) (w : Nat) (x : Nat → Nat) (l : List Nat) (s : State) : forEach l (fun k => wrV d w k (x k)) s =
    .ok () (mapStrand (fun t => l.foldl (fun t k => putElem t d w k (x k)) t) s) :=
  forEach_onStrand (F := fun k t => putElem t d w k (x k)) l (fun _ _ _ => rfl) s

/-- The values popped, as elements of a register. -/
def putVals (d : BitVec 5) (vs : List LkVal) (t : Strand) : Strand := vs.zipIdx.foldl (fun t x => putElem t d 32 x.2 x.1.val) t

theorem putVals_range (d : BitVec 5) (vs : List LkVal) (t : Strand) :
    (List.range vs.length).foldl (fun t k => putElem t d 32 k ((vs[k]?.map fun v => v.val).getD 0)) t = putVals d vs t := by
  have hm : (List.range vs.length).map (fun k => (k, (vs[k]?.map fun v => v.val).getD 0)) = vs.zipIdx.map fun x => (x.2, x.1.val) := by
    refine List.ext_getElem (by simp) fun k h1 h2 => ?_
    have hk : k < vs.length := by simpa using h1
    simp [hk]
  have hl := List.foldl_map (f := fun k => (k, (vs[k]?.map fun v => v.val).getD 0)) (g := fun t x => putElem t d 32 x.1 x.2)
    (l := List.range vs.length) (init := t)
  rw [hm, List.foldl_map] at hl
  exact hl.symm

/-- The flags of values. -/
def flagsOf (vs : List LkVal) : BitVec 6 := vs.foldl (fun f v => f ||| v.flags) 0

/-- A row that holds no poison is popped as far as VL reaches. -/
theorem vdrn_pops {j : LkJob} {r : DrainRow} {n : Nat} {vs : List LkVal} (h : AtHead e s) (hv : s.strand.vstart = 0)
    (hg : Granted s [d] 32) (hl : s.strand.vl ≠ 0) (hd : drainRow s = some (j, r)) (hn : Nat.min s.strand.vl r.vals.length = n)
    (hvs : r.vals.take n = vs) (hp : ∀ v ∈ vs, v.poison = false) :
    exec (.vdrn g d c) s = .next (commitVq (mapStrand (fun t => setS t c (word (n + r.col * 2 ^ 16 + r.row * 2 ^ 32 +
        b2n (n == r.vals.length && !moreRows j s.strand.idx.toNat (r.row + 1)) * 2 ^ 63)))
      (putLk (myCluster s) { j with rows := popRow s.strand.idx.toNat n j.rows } (mapStrand (fun t =>
        { putVals d vs t with fflags := (putVals d vs t).fflags ||| flagsOf vs }) s)))) := by
  have hlen : vs.length = n := by rw [← hvs, List.length_take, ← hn]; exact Nat.min_eq_left (Nat.min_le_right ..)
  have hpop (s : State) : forEach (List.range n) (fun k => wrV d 32 k ((vs[k]?.map fun v => v.val).getD 0)) s =
      .ok () (mapStrand (putVals d vs) s) := by
    rw [forEach_wrV d 32 (fun k => (vs[k]?.map fun v => v.val).getD 0)]
    rw [← hlen, funext (putVals_range d vs)]
  have hbad : (vs.any fun v => v.poison) = false := by simpa using hp
  refine commits_of_work rfl h hv <| (bind_ok (vecCheck_granted hg)).trans <| (bind_ok (m := ask _) rfl).trans ?_
  rw [if_neg hl]
  refine (bind_ok (m := ask _) rfl).trans <| (bind_ok (m := ask _) rfl).trans <|
    (bind_ok (m := ask _) (x := some (j, r)) (s1 := s) ?_).trans ?_
  · exact (congrArg (EStateM.Result.ok · s) hd :)
  dsimp only
  rw [hn, hvs, hbad]
  refine (bind_ok (m := ask _) rfl).trans ?_
  exact (bind_ok (hpop s)).trans rfl

end

-- ## Waiting (R224)

section
variable {g : Guard} {d a : BitVec 5} {e : VqEntry} {s : State} {j : LkJob}

/-- An acquire at `cl` leaves the acting strand. -/
theorem acquireFor_cl_strand (a cl co : Nat) (s : State) : (acquireFor a cl co .cl s).strand = s.strand := by
  have hf (l : List CLine) (s : State) : (l.foldl (fun s c => forgetLoad a c.cl c.line s) s).strand = s.strand := by
    induction l generalizing s with
    | nil => rfl
    | cons c l ih =>
      rw [List.foldl_cons, ih, forgetLoad]
      split <;> rfl
  refine (hf _ (orderStores a (2 ^ 64) s)).trans ?_
  rw [orderStores_frame]

/-- The job is the strand's, and an `lkwait` of an entry covers it. -/
def covers (e : VqEntry) (t : Strand) (j : LkJob) : Bool :=
  j.by_.crew == t.crew && j.by_.idx == t.idx.toNat && atOrBefore j.id (e.a.setWidth 32)

/-- The jobs that an `lkwait` covers. -/
def covered (e : VqEntry) (s : State) : List LkJob := (clusterAt s (myCluster s)).lk.filter (covers e s.strand)

theorem covered_eq : (jobsOf s s.strand.crew s.strand.idx.toNat).filter (fun j => atOrBefore j.id (e.a.setWidth 32)) = covered e s := by
  rw [jobsOf, List.filter_filter]
  exact List.filter_congr fun j _ => Bool.and_comm _ _

/-- The job has an error that the strand with an index has not been told of. -/
def untold (i : Nat) (j : LkJob) : Bool := j.err != 0 && !reportedTo j i

theorem untold_eq_false (i : Nat) : untold i j = false ↔ j.err = 0 ∨ reportedTo j i = true := by
  rw [untold, Bool.and_eq_false_iff]
  simp

/-- What an `lkwait` makes of a job: of those that it covers, the ones with an error still to report stay, their flags
delivered. -/
def afterWait (e : VqEntry) (t : Strand) (j : LkJob) : Option LkJob :=
  if covers e t j then if untold t.idx.toNat j then some { j with flags := 0 } else none else some j

theorem waited_eq (t : Strand) (l : List LkJob) : waited t.crew t.idx.toNat (e.a.setWidth 32) l = l.filterMap (afterWait e t) := by
  rw [waited, ← List.filterMap_eq_filter, List.filterMap_map]
  refine List.filterMap_congr fun j _ => ?_
  have hk (k : LkJob) : (!(covers e t k && (k.err == 0 || reportedTo k t.idx.toNat))) = (!covers e t k || untold t.idx.toNat k) := by
    cases covers e t k <;> simp [untold, bne]
  change Option.guard (fun k => !(covers e t k && (k.err == 0 || reportedTo k t.idx.toNat)))
    (if covers e t j = true then { j with flags := 0 } else j) = _
  rw [funext hk, afterWait]
  by_cases hc : covers e t j = true
  · rw [if_pos hc, if_pos hc]
    have hg : (!covers e t { j with flags := 0 } || untold t.idx.toNat { j with flags := 0 }) = untold t.idx.toNat j :=
      congrArg (fun b => !b || untold t.idx.toNat j) hc
    rw [Option.guard, hg]
  · rw [if_neg hc, if_neg hc, Option.guard, if_pos (by simp [hc])]

theorem lkwait_waits (h : AtHead e s) (hv : s.strand.vstart = 0) (hj : ∃ j ∈ covered e s, j.state ≠ .complete) :
    exec (.lkwait g d a) s = .next (waitVq .engine s) := by
  have hw : ((covered e s).any fun j => j.state != .complete) = true := by simpa using hj
  show execLkwait g d a s = _
  refine vqOp_waits (s1 := s) h (fun _ => hv) <| (bind_ok (m := ask _) rfl).trans <| (bind_ok (m := ask _) rfl).trans <|
    (bind_ok (m := ask _) (x := covered e s) (s1 := s) (congrArg (EStateM.Result.ok · s) covered_eq)).trans <|
    bind_error (m := waitIf _ _) (if_pos hw)

/-- The end of an `lkwait` of jobs `js` in state `s` (R224): their flags are delivered, those with nothing left to report are
forgotten, and it acquires. -/
def endWait (d : BitVec 5) (e : VqEntry) (js : List LkJob) (s : State) : M Unit := do
  addFlags (js.foldl (fun f j => f ||| j.flags) flNone)
  change (mapCluster (myCluster s) fun c => { c with lk := waited s.strand.crew s.strand.idx.toNat (e.a.setWidth 32) c.lk })
  acquireAt .cl
  onStrand fun t => setS t d t.lkst

theorem endWait_ok {js : List LkJob} : endWait d e js s s = .ok () (mapStrand (fun t => setS t d s.strand.lkst)
    (acquireFor (me s) (myCluster s) (myCore s) .cl
      (mapCluster (myCluster s) (fun c => { c with lk := c.lk.filterMap (afterWait e s.strand) })
        (mapStrand (fun t => { t with fflags := t.fflags ||| js.foldl (fun f j => f ||| j.flags) 0 }) s)))) := by
  refine (bind_ok (m := addFlags _) rfl).trans <| (bind_ok (m := change _) rfl).trans <|
    (bind_ok (acquireAt_ok (s := s) ?_)).trans ?_
  · rfl
  simp only [waited_eq]
  refine congrArg (EStateM.Result.ok ()) ?_
  simp only [mapStrand, acquireFor_cl_strand]
  rfl

/-- An `lkwait` whose jobs are complete goes on where no error is to be reported, or none is to trap. -/
theorem lkwait_commits (h : AtHead e s) (hv : s.strand.vstart = 0) (hj : ∀ j ∈ covered e s, j.state = .complete)
    (ht : s.strand.lkst.getLsbD 27 = false ∨ ∀ j ∈ covered e s, untold s.strand.idx.toNat j = false) :
    exec (.lkwait g d a) s = .next (commitVq (mapStrand (fun t => setS t d s.strand.lkst)
      (acquireFor (me s) (myCluster s) (myCore s) .cl
        (mapCluster (myCluster s) (fun c => { c with lk := c.lk.filterMap (afterWait e s.strand) })
          (mapStrand (fun t => { t with fflags := t.fflags ||| (covered e s).foldl (fun f j => f ||| j.flags) 0 }) s))))) := by
  have hw : ¬ ((covered e s).any fun j => j.state != .complete) = true := by simpa using hj
  refine commits_of_work (g := g) (fence := false) rfl h hv <| (bind_ok (m := ask _) rfl).trans <| (bind_ok (m := ask _) rfl).trans <|
    (bind_ok (m := ask _) (x := covered e s) (s1 := s) (congrArg (EStateM.Result.ok · s) covered_eq)).trans <|
    (bind_ok (m := waitIf _ _) (if_neg hw)).trans ?_
  dsimp only
  change (match (covered e s).find? (untold s.strand.idx.toNat) with
    | some j => if s.strand.lkst.getLsbD 27 then _ else endWait d e (covered e s) s
    | none => endWait d e (covered e s) s) s = _
  cases hf : (covered e s).find? (untold s.strand.idx.toNat) with
  | none => exact endWait_ok
  | some j =>
    have htrap : s.strand.lkst.getLsbD 27 = false :=
      ht.resolve_right fun hn => by simpa [hn j (List.mem_of_find?_eq_some hf)] using List.find?_some hf
    dsimp only
    rw [htrap]
    exact endWait_ok

theorem withRecord_vstart (err : BitVec 27) (id : BitVec 32) (t : Strand) : (withRecord err id t).vstart = t.vstart := by
  unfold withRecord
  split <;> rfl

/-- With errors trapping, the oldest error to report is recorded, marked, and raised. -/
theorem lkwait_traps (h : AtHead e s) (hv : s.strand.vstart = 0) (hj : ∀ j ∈ covered e s, j.state = .complete)
    (ht : s.strand.lkst.getLsbD 27 = true) (hf : (covered e s).find? (untold s.strand.idx.toNat) = some j) :
    exec (.lkwait g d a) s = .next (raiseVq .lookupError (withRecord j.err j.id s.strand).lkst 0
      (putLk (myCluster s) (markReported j s.strand.idx.toNat) (mapStrand (withRecord j.err j.id) s))) := by
  have hw : ¬ ((covered e s).any fun j => j.state != .complete) = true := by simpa using hj
  have hx : (withRecord j.err j.id s.strand).vstart = 0 := by rw [withRecord_vstart, hv]
  rw [← hx]
  refine TileShapes.raises_of_work (g := g) (fence := false) rfl h hv <| (bind_ok (m := ask _) rfl).trans <|
    (bind_ok (m := ask _) rfl).trans <|
    (bind_ok (m := ask _) (x := covered e s) (s1 := s) (congrArg (EStateM.Result.ok · s) covered_eq)).trans <|
    (bind_ok (m := waitIf _ _) (if_neg hw)).trans ?_
  dsimp only
  rw [show (covered e s).find? (fun j => j.err != 0 && !reportedTo j s.strand.idx.toNat) = some j from hf]
  dsimp only
  rw [if_pos ht]
  rfl

end

/-- The first element of a list that satisfies a test is found. -/
theorem find?_first {α : Type} {l : List α} {p : α → Bool} {n : Nat} (h : n < l.length) (hp : p l[n] = true)
    (hf : ∀ x ∈ l.take n, p x = false) : l.find? p = some l[n] := by
  refine List.find?_eq_some_iff_getElem.mpr ⟨hp, n, h, rfl, fun j hj => ?_⟩
  rw [hf _ (List.mem_take_iff_getElem.mpr ⟨j, by omega, rfl⟩)]
  rfl

/-- Settles O25: the checks of an issue in order, the drain of a row, and the two ends of a wait. -/
theorem lookupInstructions : Obligations.LookupInstructions := by
  unfold Obligations.LookupInstructions
  refine ⟨?_, ?_, ?_⟩
  · intro g mode d a b c fc n1 e src desc s s1 s2 h hv htsh ht hn ha hl hs1 cl h4 h32 hr hs2 i
    have hmode : mode = 0 ∨ mode = 1 ∨ mode = 2 := by omega
    rcases hmode with rfl | rfl | rfl
    · exact lkacc_issues (i := .lkaccOw g d a b c) (work := fun e => lkIssue e d 0 e.b e.c.toNat 0 1) (f := fc.toNat)
        (n := n1.toNat + 1) rfl rfl h hv htsh ht hn ha hl hs1 h4 h32 hr hs2 (fun _ => ⟨rfl, rfl⟩) nofun
    · exact lkacc_issues (i := .lkaccAcc g d a b c) (work := fun e => lkIssue e d 1 e.b e.c.toNat 0 1) (f := fc.toNat)
        (n := n1.toNat + 1) rfl rfl h hv htsh ht hn ha hl hs1 h4 h32 hr hs2 (fun _ => ⟨rfl, rfl⟩) nofun
    · exact lkacc_issues (i := .lkaccDrn g d a fc n1) (work := fun e => lkIssue e d 2 0 0 fc.toNat (n1.toNat + 1)) (f := fc.toNat)
        (n := n1.toNat + 1) rfl rfl h hv htsh ht hn ha hl hs1 h4 h32 hr hs2 (fun h2 => absurd rfl h2) (fun _ => ⟨rfl, rfl⟩)
  · intro g d c e s h hv hg
    refine ⟨vdrn_empty h hv hg, fun hl hd => vdrn_waits h hv hg hl (by rw [drainRow, hd]; rfl), ?_⟩
    intro j r hl hd hr i n vs last hp
    have hrow : drainRow s = some (j, r) := by rw [drainRow, hd, Option.bind_some, hr]; rfl
    have hiff : (n == r.vals.length && !moreRows j s.strand.idx.toNat (r.row + 1)) = true ↔ last := by
      simp only [last, i, Bool.and_eq_true, beq_iff_eq, Bool.not_eq_true']
    have hlast : b2n (n == r.vals.length && !moreRows j s.strand.idx.toNat (r.row + 1)) * 2 ^ 63 = if last then 2 ^ 63 else 0 := by
      rw [b2n, ite_mul, Nat.one_mul, Nat.zero_mul]
      exact if_congr hiff rfl rfl
    rw [vdrn_pops h hv hg hl hrow rfl rfl hp, hlast]
    rfl
  · intro g d a e s h hv cl mine js
    refine ⟨lkwait_waits h hv, ?_⟩
    intro i told keeps
    have hkeeps : keeps = afterWait e s.strand := by
      funext j
      simp only [keeps, afterWait]
      refine if_congr Iff.rfl ?_ rfl
      by_cases ht : told j
      · rw [if_pos ht, if_neg (by simp [(untold_eq_false i).mpr ht, i])]
      · rw [if_neg ht, if_pos (by rw [← Bool.not_eq_false, untold_eq_false]; exact ht)]
    refine ⟨fun hj ht => ?_, fun n hn hj ht hnt hf => ?_⟩
    · rw [hkeeps]
      exact lkwait_commits h hv hj (ht.imp_right fun hn j hm => (untold_eq_false i).mpr (hn j hm))
    · refine lkwait_traps h hv hj ht (find?_first hn ?_ fun j hm => (untold_eq_false i).mpr (hf j hm))
      rw [← Bool.not_eq_false, untold_eq_false]
      exact hnt

end Sys2Proof.LookupIssue
end

section
/-! PROOFS. Module reset, patches, attestation, test mode and cluster reset (O52). -/

namespace Sys2Proof.TrustState

open Sys2Proof.Machine Sys2Proof.Laws

-- ## Module reset (R346, R347, R349)

theorem imageFault_le (floor kind : Nat) (x : SignedImage) : imageFault floor kind x ≤ 4 := by
  unfold imageFault
  split_ifs <;> omega

/-- The recovery status as the three fields of `BOOTST`: state 1, KIND and FWHY (R347). -/
theorem recoveryStatus_fields {kind why : Nat} (hk : kind < 8) (hw : why < 8) :
    let b := BitVec.ofNat 8 (1 + kind * 4 + why * 32)
    b.extractLsb' 0 2 = 1#2 ∧ (b.extractLsb' 2 3).toNat = kind ∧ (b.extractLsb' 5 3).toNat = why := by
  refine ⟨BitVec.eq_of_toNat_eq ?_, ?_, ?_⟩ <;>
    simp only [BitVec.extractLsb'_toNat, BitVec.toNat_ofNat, Nat.shiftRight_eq_div_pow] <;> omega

section Reset
variable {s : State} {m q sp : SignedImage}

/-- With no image that fails, every image is measured and the tables of the Spool image are in force. -/
theorem moduleReset_verified (hm : imageFault (svnFloor s 1) 1 m = 0) (hq : imageFault (svnFloor s 2) 2 q = 0)
    (hsp : imageFault (svnFloor s 3) 3 sp = 0) :
    ∃ t, execModuleReset m q sp s = .next t ∧ t.pk.bootst = 0 ∧ t.spid = (Config.tablesSpid sp.body).setWidth 64 ∧
      t.routes = Config.tablesRoutes sp.body ∧
      t.pk.meas = #v[Config.romMeasurement, imgDigest m, imgDigest q, imgDigest sp, 0] ∧ t.pk.alias_ = t.pk.meas ∧
      t.mem = s.mem ∧ t.strand = Strand.unbound ∧ t.others = [] := by
  have none_fails : bootFault s m q sp = none := by simp [bootFault, hm, hq, hsp]
  have all_measured : bootMeasure s m q sp = #v[Config.romMeasurement, imgDigest m, imgDigest q, imgDigest sp, 0] := by
    simp only [bootMeasure, hm, hq, hsp, and_self, if_true]
  simp only [execModuleReset, none_fails, all_measured]
  exact ⟨_, rfl, rfl, rfl, rfl, rfl, rfl, rfl, rfl, rfl⟩

/-- The image that fails first leaves its kind and its reason in `BOOTST`. -/
theorem moduleReset_fails {kind why : Nat} (hf : bootFault s m q sp = some (kind, why)) (hk : kind < 8) (hw : why < 8) :
    ∃ t, execModuleReset m q sp s = .next t ∧ t.pk.bootst.extractLsb' 0 2 = 1#2 ∧
      (t.pk.bootst.extractLsb' 2 3).toNat = kind ∧ (t.pk.bootst.extractLsb' 5 3).toNat = why ∧ t.mem = s.mem := by
  obtain ⟨state_eq, kind_eq, why_eq⟩ := recoveryStatus_fields hk hw
  simp only [execModuleReset, hf]
  exact ⟨_, rfl, state_eq, kind_eq, why_eq, rfl⟩

/-- The images are looked at in the order Mooring, sequencer, Spool. -/
theorem bootFault_first {kind : Nat}
    (h : kind = 1 ∧ imageFault (svnFloor s 1) 1 m ≠ 0 ∨
      kind = 2 ∧ imageFault (svnFloor s 1) 1 m = 0 ∧ imageFault (svnFloor s 2) 2 q ≠ 0 ∨
      kind = 3 ∧ imageFault (svnFloor s 1) 1 m = 0 ∧ imageFault (svnFloor s 2) 2 q = 0 ∧ imageFault (svnFloor s 3) 3 sp ≠ 0) :
    bootFault s m q sp =
      some (kind, imageFault (svnFloor s kind) kind (if kind = 1 then m else if kind = 2 then q else sp)) := by
  obtain ⟨rfl, hm⟩ | ⟨rfl, hm, hq⟩ | ⟨rfl, hm, hq, hsp⟩ := h
  · simp [bootFault, hm]
  · simp [bootFault, hm, hq]
  · simp [bootFault, hm, hq, hsp]

end Reset

-- ## Patches and minimum security versions (R228, R346)

section Patch
variable {s : State} {img : SignedImage}

theorem sequencerPatch_discarded (h : imageFault (svnFloor s 4) 4 img ≠ 0) : execSequencerPatch img s = .next s := if_pos h

theorem sequencerPatch_held (h : imageFault (svnFloor s 4) 4 img = 0) (runs : sequencerRuns s = true) :
    execSequencerPatch img s = .next { s with pk := { s.pk with patches := s.pk.patches ++ [imgDigest img] } } :=
  (if_neg (not_not.mpr h)).trans (congrArg Host.Outcome.next (if_pos runs))

theorem sequencerPatch_applied (h : imageFault (svnFloor s 4) 4 img = 0) (idle : sequencerRuns s = false) :
    execSequencerPatch img s =
      .next (applyHeld (mapPk (fun p => { p with patches := p.patches ++ [imgDigest img] }) s)) :=
  (if_neg (not_not.mpr h)).trans (congrArg Host.Outcome.next (if_neg (Bool.eq_false_iff.mp idle)))

end Patch

section Svn
variable {s : State} {kind svn : Nat} {sig : List Byte}

theorem raiseSvn_signed
    (h : Config.ecdsaVerifies Config.onacyKey sig (Config.sha512 (Config.svnCommand kind svn)) = true) :
    raiseSvn kind svn sig s =
      mapPk (fun p => { p with svn := p.svn.setIfInBounds kind (Nat.max ((p.svn[kind]?).getD 0) svn) }) s := if_pos h

theorem raiseSvn_unsigned
    (h : Config.ecdsaVerifies Config.onacyKey sig (Config.sha512 (Config.svnCommand kind svn)) = false) :
    raiseSvn kind svn sig s = s := if_neg (Bool.eq_false_iff.mp h)

theorem svnFloor_raiseSvn
    (h : Config.ecdsaVerifies Config.onacyKey sig (Config.sha512 (Config.svnCommand kind svn)) = true) (hk : kind < 5) :
    svnFloor (raiseSvn kind svn sig s) kind = max (svnFloor s kind) svn := by
  rw [raiseSvn_signed h]
  have new : (s.pk.svn.setIfInBounds kind (Nat.max ((s.pk.svn[kind]?).getD 0) svn))[kind]?.getD 0 =
      Nat.max ((s.pk.svn[kind]?).getD 0) svn := by simp [hk]
  exact (congrArg (Nat.max (Config.svnMin kind)) new).trans (Nat.max_assoc _ _ _).symm

theorem svnFloor_raiseSvn_ne
    (h : Config.ecdsaVerifies Config.onacyKey sig (Config.sha512 (Config.svnCommand kind svn)) = true) {k : Nat} (hk : k ≠ kind) :
    svnFloor (raiseSvn kind svn sig s) k = svnFloor s k := by
  rw [raiseSvn_signed h]
  simp [svnFloor, mapPk, Vector.getElem?_setIfInBounds_ne hk.symm]

end Svn

-- ## Attestation (R348, R349)

section Spdm
variable {s : State}

/-- A request that is in order and finds the algorithms agreed gets its reply. -/
theorem whenAgreed_agreed (h : s.pk.spdm = 3) {ok : Bool} (hok : ok = true) (r : SpdmReply) :
    whenAgreed ok r s = .next (answer 3 r s) := by
  simp [whenAgreed, h, hok]

/-- Before the algorithms are agreed every such request is an error, and the dialogue stays where it was. -/
theorem whenAgreed_early (h : s.pk.spdm ≠ 3) (ok : Bool) (r : SpdmReply) :
    whenAgreed ok r s = .next (answer s.pk.spdm .error s) := by
  simp [whenAgreed, h]

/-- The measurements with their indices, as the Responder lists them. -/
def blocksOf (v : Vector (BitVec 512) 5) : List (Nat × BitVec 512) := v.toList.zipIdx.map fun x => (x.2 + 1, x.1)

theorem blocksOf_eq (v : Vector (BitVec 512) 5) : blocksOf v = [(1, v[0]), (2, v[1]), (3, v[2]), (4, v[3]), (5, v[4])] := by
  apply List.ext_getElem
  · simp [blocksOf]
  · intro i h _
    have : i < 5 := by simpa [blocksOf] using h
    interval_cases i <;> simp [blocksOf]

theorem blocksOf_zero (v : Vector (BitVec 512) 5) : (blocksOf v).filter (fun x => x.1 == 0) = [] := by
  simp [blocksOf_eq]

theorem blocksOf_index (v : Vector (BitVec 512) 5) {index : Nat} (h1 : 1 ≤ index) (h5 : index ≤ 5) :
    (blocksOf v).filter (fun x => x.1 == index) = [(index, v[index - 1]!)] := by
  rw [blocksOf_eq]
  interval_cases index <;> simp

/-- Index 0 asks for the number of measurements alone. -/
theorem getMeasurements_number (h : s.pk.spdm = 3) :
    execSpdmGetMeasurements ⟨0, none⟩ s = .next (answer 3 (.measurements 5 [] []) s) := by
  show whenAgreed (((0 : Nat) == 0 || !((blocksOf s.pk.meas).filter fun x => x.1 == 0).isEmpty) && true)
    (.measurements 5 ((blocksOf s.pk.meas).filter fun x => x.1 == 0) []) s = _
  rw [blocksOf_zero]
  exact whenAgreed_agreed h rfl _

section Index
variable {index : Nat} (h : s.pk.spdm = 3) (h1 : 1 ≤ index) (h5 : index ≤ 5)
include h h1 h5

theorem getMeasurements_one :
    execSpdmGetMeasurements ⟨index, none⟩ s = .next (answer 3 (.measurements 5 [(index, s.pk.meas[index - 1]!)] []) s) := by
  have single : (blocksOf s.pk.meas).filter (fun x => x.1 == index) = [(index, s.pk.meas[index - 1]!)] := blocksOf_index _ h1 h5
  have notAll : index ≠ 255 := by omega
  unfold blocksOf at single
  simp only [execSpdmGetMeasurements, if_neg notAll, single]
  exact whenAgreed_agreed h (by simp) _

theorem getMeasurements_signed {slot : Nat} (hs : slot < 2) (nonce : BitVec 256) :
    execSpdmGetMeasurements ⟨index, some (slot, nonce)⟩ s =
      .next (answer 3 (.measurements 5 [(index, s.pk.meas[index - 1]!)]
        (signWith s slot (leBytes 32 nonce.toNat ++ (BitVec.ofNat 8 index :: leBytes 64 s.pk.meas[index - 1]!.toNat)))) s) := by
  have single : (blocksOf s.pk.meas).filter (fun x => x.1 == index) = [(index, s.pk.meas[index - 1]!)] := blocksOf_index _ h1 h5
  have notAll : index ≠ 255 := by omega
  have bytes : blockBytes [(index, s.pk.meas[index - 1]!)] = BitVec.ofNat 8 index :: leBytes 64 s.pk.meas[index - 1]!.toNat :=
    List.append_nil _
  unfold blocksOf at single
  simp only [execSpdmGetMeasurements, if_neg notAll, single, Option.map_some, Option.getD_some, bytes]
  exact whenAgreed_agreed h (by simp [hs]) _

end Index
end Spdm

-- ## Test mode and cluster reset (R350, R132, R233)

section Test
variable {s : State}

theorem testModeEntry_enters (idle : ∀ x ∈ s.queues.toList, x.ctl.getLsbD 0 = false)
    (start : s.pk.bootst.extractLsb' 0 2 = 1#2 ∨ s.nextFlight = 0) :
    execTestModeEntry s = .next (mapPk (fun p => { p with bootst := (p.bootst.extractLsb' 2 6).append 2#2 }) s) := by
  have none_enabled : (s.queues.toList.all fun x => !x.ctl.getLsbD 0) = true := by
    simpa only [List.all_eq_true, Bool.not_eq_true'] using idle
  have may_start : (s.pk.bootst.extractLsb' 0 2 == 1#2 || s.nextFlight == 0) = true := by simpa using start
  exact if_pos (by rw [none_enabled, may_start]; rfl)

theorem testModeEntry_refused (busy : ∃ x ∈ s.queues.toList, x.ctl.getLsbD 0 = true) : execTestModeEntry s = .next s := by
  have enabled : (s.queues.toList.all fun x => !x.ctl.getLsbD 0) = false := by
    simpa only [List.all_eq_false, Bool.not_eq_true', Bool.not_eq_false] using busy
  exact if_neg (by rw [enabled]; simp)

/-- The status of test mode: its state is 2, and KIND and FWHY stay. -/
theorem testStatus_fields (b : BitVec 8) :
    ((b.extractLsb' 2 6).append 2#2).extractLsb' 0 2 = 2#2 ∧
      ((b.extractLsb' 2 6).append 2#2).extractLsb' 2 6 = b.extractLsb' 2 6 := by
  constructor
  · ext i hi
    simp only [BitVec.append_eq, BitVec.getElem_extractLsb', BitVec.getLsbD_append, Nat.zero_add, hi, if_true,
      BitVec.getLsbD_eq_getElem]
  · ext i hi
    have high : ¬ 2 + i < 2 := by omega
    have low : 2 + i - 2 = i := by omega
    simp only [BitVec.append_eq, BitVec.getElem_extractLsb', BitVec.getLsbD_append, if_neg high, low,
      BitVec.getLsbD_eq_getElem hi]

end Test

theorem channelAt_clusterReset (s : State) (cl : Nat) {ch : Nat} (h : ch < 4) :
    (channelAt (mapCluster cl (fun c => { c with
      book := resetBook
      reel := c.reel.map fun x => { x with next := 1 } }) s) cl ch).next = 1 := by
  simp [channelAt, mapCluster, h]

/-- Settles O52, event by event. -/
theorem trustEvents : Obligations.TrustEvents := by
  intro m q sp img ba bh nonce cl slot off len index kind svn sig s bad answers basis chain signed
  refine ⟨fun hm hq hsp => moduleReset_verified hm hq hsp, fun k hk => ?_, sequencerPatch_discarded, sequencerPatch_held,
    fun h idle => ⟨_, sequencerPatch_applied h idle, rfl, rfl, rfl⟩,
    fun h hk => ⟨svnFloor_raiseSvn h hk, fun _ => svnFloor_raiseSvn_ne h⟩, raiseSvn_unsigned, rfl, fun h => if_pos h,
    fun h hba hbh => if_pos ⟨h, hba, hbh⟩, fun h => ⟨?_, ?_, ?_, getMeasurements_number h, fun h1 h5 =>
      ⟨getMeasurements_one h h1 h5, fun hs => getMeasurements_signed h h1 h5 hs nonce⟩⟩,
    fun h => ⟨whenAgreed_early h _ _, whenAgreed_early h _ _, whenAgreed_early h _ _, whenAgreed_early h _ _⟩,
    fun idle start => ⟨_, testModeEntry_enters idle start, ?_, ?_, rfl⟩, testModeEntry_refused, ?_⟩
  · exact moduleReset_fails (bootFault_first hk) (by omega) (Nat.lt_of_le_of_lt (imageFault_le _ _ _) (by decide))
  · exact whenAgreed_agreed h rfl _
  · exact fun hs ho => whenAgreed_agreed h (by simp [hs]; exact ho) _
  · exact fun hs => whenAgreed_agreed h (by simp [hs]) _
  · exact beq_iff_eq.mpr (testStatus_fields s.pk.bootst).1
  · exact (testStatus_fields s.pk.bootst).2
  · exact ⟨_, rfl, by simp [mapCluster], fun ch hch => channelAt_clusterReset s cl hch, rfl⟩

end Sys2Proof.TrustState
end

section
/-! PROOFS. Transfers as instructions: launch and wait (O26). -/

namespace Sys2Proof.ReelLaunch

open Sys2Proof.Machine Sys2Proof.Laws Sys2Proof.ScalarFlow Sys2Proof.Accumulators Sys2Proof.VectorConfig Sys2Proof.ReelEvents

/-- A whole instruction at the head of the VQ whose work waits stays there. -/
theorem waits_of_work {i : Instr} {g : Guard} {fence : Bool} {work : VqEntry → M Unit} {e : VqEntry} {s s1 : State} {k : WaitKind}
    (hx : exec i s = vqOp i g true fence work s) (h : AtHead e s) (hv : s.strand.vstart = 0) (hw : work e s = .error (.wait k) s1) :
    exec i s = .next (waitVq k s1) :=
  hx.trans (vqOp_waits h (fun _ => hv) hw)

theorem trapIf_false {c : Cause} {v : Word} {b : Bool} {s : State} (h : b = false) : trapIf b c v s = .ok () s :=
  if_neg (by simp [h])

theorem waitIf_false {k : WaitKind} {b : Bool} {s : State} (h : b = false) : waitIf b k s = .ok () s :=
  if_neg (by simp [h])

-- ## Appending a transfer (R233)

section
variable {cl ch l0 : Nat} {q : CopySet} {reads writes : List Foot} {pair : Option Nat} {s : State}

/-- The transfer that the acting strand appends to a channel: its next ID, a place in the sequencer, and nothing done yet. -/
def appended (cl ch : Nat) (q : CopySet) (l0 : Nat) (reads writes : List Foot) (pair : Option Nat) (s : State) : ReelJob :=
  { id := (channelAt s cl ch).next, set := q, l0 := l0, by_ := issuerNow s
    seq := (receive cl (asidOf (queueAt s s.strand.queue)) reads writes s).1
    step := 0, ecause := 0, eaddr := 0, wait := none, cancel := false, stop := false, lines := [], pair := pair }

@[simp] theorem channelAt_receive (asid : Nat) : channelAt (receive cl asid reads writes s).2 cl ch = channelAt s cl ch := by
  simp [channelAt, receive]

theorem appendTransfer_eq : appendTransfer cl ch q l0 reads writes pair s = ((appended cl ch q l0 reads writes pair s).id,
    putChannel cl ch
      { next := (channelAt s cl ch).next + 1, jobs := (channelAt s cl ch).jobs ++ [appended cl ch q l0 reads writes pair s] }
      (receive cl (asidOf (queueAt s s.strand.queue)) reads writes s).2) := by
  simp only [appendTransfer, channelAt_receive]
  rfl

/-- A transfer goes to the end of its channel, and the next ID goes up by one. -/
theorem channelAt_appendTransfer (hch : ch < 4) : channelAt (appendTransfer cl ch q l0 reads writes pair s).2 cl ch =
    { next := (channelAt s cl ch).next + 1, jobs := (channelAt s cl ch).jobs ++ [appended cl ch q l0 reads writes pair s] } := by
  rw [appendTransfer_eq, channelAt_putChannel hch]

end

-- ## Launch (R233)

/-- A copy set that may be launched: its scope is one of a transfer, and its addresses and strides are multiples of the element
size. -/
structure Launchable (q : CopySet) : Prop where
  scopeLow : 2 ≤ q.cscp
  scopeHigh : q.cscp ≤ 9
  aligned : ∀ v ∈ alignedValues q, v.toNat % 2 ^ q.esz = 0

/-- The transfer that the acting strand makes of a copy set. -/
def launchedJob (ch : Nat) (q : CopySet) (s : State) : ReelJob :=
  appended (myCluster s) ch q s.strand.vl [copyFoot q.src q.sstr q s.strand.vl] [copyFoot q.dst q.dstr q s.strand.vl] none s

/-- The state in which it has joined its channel. -/
def launched (ch : Nat) (q : CopySet) (s : State) : State :=
  (appendTransfer (myCluster s) ch q s.strand.vl [copyFoot q.src q.sstr q s.strand.vl] [copyFoot q.dst q.dstr q s.strand.vl] none s).2

section
variable {ch : Nat} {q : CopySet} {d : BitVec 5} {s s1 : State}

/-- With an empty VQ and room in the channel a transfer that may be launched follows the release. -/
theorem launchTransfer_launches {head : Word} (hq : s.strand.vq = []) (hset : (s.strand.cps[ch]?).getD CopySet.bind = q)
    (hl : Launchable q) (hroom : (channelAt s (myCluster s) ch).jobs.length < 16) (hr : releaseFor (me s) .cl s = .ok () s1)
    (hs : s1.strand = s.strand) : launchTransfer head ch d s =
      .ok () (mapStrand (fun t => setS t d ((launchedJob ch q s1).id.setWidth 64)) (launched ch q s1)) := by
  have hcl : myCluster s1 = myCluster s := congrArg (fun t : Strand => clusterOf t.id) hs
  have hscope : (decide (q.cscp < 2) || decide (9 < q.cscp)) = false := by
    simp [Nat.lt_of_succ_le hl.scopeLow, hl.scopeHigh]
  have hfind : (alignedValues q).find? (fun v => v.toNat % 2 ^ q.esz != 0) = none :=
    List.find?_eq_none.mpr fun v hv => by simp [hl.aligned v hv]
  unfold launchTransfer
  refine (bind_ok (m := ask _) rfl).trans <| (bind_ok (waitIf_false (by simp [hq]))).trans ?_
  simp only [hset, hfind]
  refine (bind_ok (trapIf_false hscope)).trans <| (bind_ok (m := ask _) rfl).trans <| (bind_ok (m := ask _) rfl).trans <|
    (bind_ok (waitIf_false (decide_eq_false (Nat.not_le.mpr hroom)))).trans <| (bind_ok (m := releaseAt .cl) hr).trans ?_
  rw [← hcl, ← hs]
  simp only [appendTransfer_eq, launched]
  rfl

end

/-- The two forms of a launch, ready to execute: a read of `CPGOn`, and the launch by itself (R233). -/
theorem launch_works {g : Guard} {d : BitVec 5} {ch : BitVec 2} {s s1 : State} {i : Instr} (h : Ready g [] [d] [] s)
    (hi : i = .csrrd g d (0x310 + ch.setWidth 12) ∨ (g = ⟨0, false, false⟩ ∧ i = .reelLaunch d ch))
    (hw : ∀ head, launchTransfer head ch.toNat d s = .ok () s1) : exec i s = .next (advance s1) := by
  rcases hi with rfl | ⟨rfl, rfl⟩
  · have hn : (0x310 + ch.setWidth 12 : BitVec 12).toNat = 0x310 + ch.toNat := by
      simp only [BitVec.toNat_add, BitVec.toNat_setWidth, BitVec.reduceToNat]
      omega
    have hch : ch.toNat < 4 := ch.isLt
    have hc : csrAssigned (0x310 + ch.toNat) = true := by simp [csrAssigned]; omega
    have hlaunch : csrLaunches (0x310 + ch.toNat) = true := by simp [csrLaunches]; omega
    show scalarOp g [] [d] [] (csrCheck _ _) (thenNext (csrReadWork _ _ d)) s = _
    rw [hn, scalarOp_checked (csrCheck_passes _ hc fun hp => absurd hp.2 (by omega))]
    refine plainOp_ready h ?_
    rw [csrReadWork, if_neg (by omega), if_pos hlaunch, Nat.add_sub_cancel_left]
    exact hw _
  · exact plainOp_ready h (hw _)

-- ## Waiting (R237, R238)

section
variable {g : Guard} {sc : Scope} {d a : BitVec 5} {ch : BitVec 2} {e : VqEntry} {s : State}

/-- The transfer that a `cpwait` names is pending in its channel. -/
def namedPending (ch : BitVec 2) (e : VqEntry) (s : State) : Bool :=
  isPending (cpLow (channelAt s (myCluster s) ch.toNat)) (channelAt s (myCluster s) ch.toNat).next (e.a.setWidth 32)

theorem cpwait_waits (h : AtHead e s) (hv : s.strand.vstart = 0) (hp : namedPending ch e s = true) :
    exec (.cpwait g sc d a ch) s = .next (waitVq .engine s) :=
  waits_of_work rfl h hv <| (bind_ok (m := ask _) rfl).trans <| (bind_ok (m := ask _) rfl).trans <|
    bind_error (m := waitIf _ _) (if_pos hp)

theorem cpwait_commits (h : AtHead e s) (hv : s.strand.vstart = 0) (hp : namedPending ch e s = false) :
    exec (.cpwait g sc d a ch) s = .next (commitVq (mapStrand (fun t => setS t d t.cperr)
      (acquireFor (me s) (myCluster s) (myCore s) sc s))) :=
  commits_of_work rfl h hv <| (bind_ok (m := ask _) rfl).trans <| (bind_ok (m := ask _) rfl).trans <|
    (bind_ok (waitIf_false hp)).trans <| (bind_ok (m := acquireAt sc) rfl).trans rfl

end

/-- Settles O26: the launch by the transfer that `launchTransfer` appends, the wait by the two answers of the pending test. -/
theorem reelInstructions : Obligations.ReelInstructions := by
  unfold Obligations.ReelInstructions
  constructor
  · intro g d ch s s1 h hq q cl hlow hhigh hal hroom hr hs i hi
    have hcl : myCluster s1 = cl := congrArg (fun t : Strand => clusterOf t.id) hs
    have hw (head : Word) := launchTransfer_launches (head := head) (d := d) (q := q) hq rfl ⟨hlow, hhigh, hal⟩ hroom hr hs
    have hch : channelAt (launched ch.toNat q s1) (myCluster s1) ch.toNat = _ := channelAt_appendTransfer ch.isLt
    rw [← hcl]
    refine ⟨_, launchedJob ch.toNat q s1, launch_works h hi hw, (channelAt_congr rfl _ _).trans hch, rfl, rfl, congrArg Strand.vl hs, ?_,
      rfl, rfl, rfl, rfl⟩
    simp only [launchedJob, appended, issuerNow, hs]
  · intro g sc d a ch e s h hv cl c low pending
    have hlow : cpLow c = low := by
      simp only [cpLow, low]
      cases c.jobs <;> rfl
    have hp : namedPending ch e s = true ↔ pending := by
      show isPending (cpLow c) c.next _ = true ↔ _
      rw [hlow, isPending, BitVec.ult, decide_eq_true_iff]
    exact ⟨fun hw => cpwait_waits h hv (hp.mpr hw), fun hw => cpwait_commits h hv (Bool.eq_false_iff.mpr (mt hp.mp hw))⟩

end Sys2Proof.ReelLaunch
end

section
/-! PROOFS. Slabs as instructions: `slabgrow`, its retirement and `slabst` (O27). -/

namespace Sys2Proof.Slabs

open Sys2Proof.Machine Sys2Proof.Laws Sys2Proof.ScalarFlow Sys2Proof.Accumulators Sys2Proof.ReelEvents Sys2Proof.ReelLaunch

-- ## Growing a slab (R248)

/-- The first pair of the acting strand's cluster that is free, 16 where there is none. -/
def firstFree (s : State) : Nat := (clusterAt s (myCluster s)).pairs.toList.findIdx fun q => q.state == .free

/-- The size and the addresses of a `slabgrow` that does not trap. -/
structure SlabAligned (e : VqEntry) (z : BitVec 6) : Prop where
  atLeast : 16 ≤ z.toNat
  atMost : z.toNat ≤ 40
  old : e.a.toNat % 2 ^ z.toNat = 0
  new : e.b.toNat % 2 ^ (z.toNat + 1) = 0

/-- The copy set of a slab move. -/
def slabSet (e : VqEntry) : CopySet := { CopySet.bind with src := e.a, dst := e.b, cscp := 6 }

/-- The transfer that moves a slab under pair `k`. -/
def slabJob (ch : Nat) (e : VqEntry) (n k : Nat) (s : State) : ReelJob :=
  appended (myCluster s) ch (slabSet e) 0 [flatFoot e.a (2 ^ n)] [flatFoot e.b (2 ^ n)] (some k) s

/-- The state in which that transfer has joined its channel. -/
def slabAppended (ch : Nat) (e : VqEntry) (n k : Nat) (s : State) : State :=
  (appendTransfer (myCluster s) ch (slabSet e) 0 [flatFoot e.a (2 ^ n)] [flatFoot e.b (2 ^ n)] (some k) s).2

/-- The pair of a move that begins. -/
def movingPair (ch : Nat) (e : VqEntry) (n k : Nat) (s : State) : Pair :=
  { old := e.a, new := e.b, z := n, ch := ch, id := (slabJob ch e n k s).id, wm := 0, state := .moving, flight := s.strand.flight }

/-- The state in which a slab's move has begun: the transfer has joined its channel, and the pair is in use. -/
def slabMoving (ch : Nat) (e : VqEntry) (n k : Nat) (s : State) : State :=
  mapPair (myCluster s) k (fun _ => movingPair ch e n k s) (slabAppended ch e n k s)

theorem channelAt_slabMoving {ch : Nat} (hch : ch < 4) (e : VqEntry) (n k : Nat) (s : State) :
    (channelAt (slabMoving ch e n k s) (myCluster s) ch).jobs = (channelAt s (myCluster s) ch).jobs ++ [slabJob ch e n k s] :=
  congrArg Channel.jobs ((channelAt_mapPair _).trans (channelAt_appendTransfer hch))

theorem pairAt_slabMoving {k : Nat} (hk : k < 16) (ch : Nat) (e : VqEntry) (n : Nat) (s : State) :
    pairAt (slabMoving ch e n k s) (myCluster s) k = movingPair ch e n k s :=
  pairAt_mapPair hk _

/-- A `slabgrow` whose operands are in order passes its checks. -/
theorem SlabAligned.passes {e : VqEntry} {z : BitVec 6} (h : SlabAligned e z) (m : M Unit) (s : State) :
    (do badEntry (decide (z.toNat < 16) || decide (40 < z.toNat)) e
        trapIf (e.a.toNat % 2 ^ z.toNat != 0) .misaligned e.a
        trapIf (e.b.toNat % 2 ^ (z.toNat + 1) != 0) .misaligned e.b
        m) s = m s :=
  (bind_ok (badEntry_false (by simp [h.atLeast, h.atMost]))).trans <| (bind_ok (trapIf_false (by simp [h.old]))).trans <|
    bind_ok (trapIf_false (by simp [h.new]))

section
variable {g : Guard} {d a b : BitVec 5} {z : BitVec 6} {ch : BitVec 2} {e : VqEntry} {s s1 : State}

/-- A `slabgrow` that clashes, or finds no free pair, answers bit 63. -/
theorem slabgrow_refused (h : AtHead e s) (hv : s.strand.vstart = 0) (ha : SlabAligned e z)
    (hc : slabClash (clusterAt s (myCluster s)) e.a.toNat e.b.toNat z.toNat = true ∨ 16 ≤ firstFree s) :
    exec (.slabgrow g d a b z ch) s = .next (commits (fun t => setS t d 0x8000000000000000) s) := by
  refine commits_of_work rfl h hv <| (ha.passes _ s).trans <| (bind_ok (m := ask _) rfl).trans <|
    (bind_ok (m := ask _) rfl).trans ?_
  rw [if_pos (by simpa [firstFree] using hc)]
  rfl

/-- Another, with room in its channel, begins the move behind its release and answers the transfer's ID and the pair. -/
theorem slabgrow_moves (h : AtHead e s) (hv : s.strand.vstart = 0) (ha : SlabAligned e z)
    (hc : slabClash (clusterAt s (myCluster s)) e.a.toNat e.b.toNat z.toNat = false) {k : Nat} (hk : firstFree s = k) (hk16 : k < 16)
    (hroom : (channelAt s (myCluster s) ch.toNat).jobs.length < 16) (hr : releaseFor (me s) .cl s = .ok () s1)
    (hs : s1.strand = s.strand) : exec (.slabgrow g d a b z ch) s =
      .next (commits (fun t => setS t d (word ((slabJob ch.toNat e z.toNat k s1).id.toNat + k * 2 ^ 32)))
        (slabMoving ch.toNat e z.toNat k s1)) := by
  have hcl : myCluster s1 = myCluster s := congrArg (fun t : Strand => clusterOf t.id) hs
  refine commits_of_work rfl h hv <| (ha.passes _ s).trans <| (bind_ok (m := ask _) rfl).trans <|
    (bind_ok (m := ask _) rfl).trans ?_
  rw [show (clusterAt s (myCluster s)).pairs.toList.findIdx (fun q => q.state == .free) = k from hk,
    if_neg (by simp [hc, hk16])]
  refine (bind_ok (m := ask _) rfl).trans <| (bind_ok (waitIf_false (decide_eq_false (Nat.not_le.mpr hroom)))).trans <|
    (bind_ok (m := releaseAt .cl) hr).trans ?_
  rw [← hcl]
  simp only [slabMoving, slabAppended, appendTransfer_eq]
  rfl

end

-- ## Retiring and reading a pair (R250, R251)

section
variable {g : Guard} {d a : BitVec 5} {e : VqEntry} {s s1 : State}

/-- What `slabgrow.retire` does with a pair by its state. -/
def retirePair (d : BitVec 5) (cl k : Nat) (st : PairState) : M Unit :=
  match st with
  | .free => onStrand fun t => setS t d 2
  | .moving => onStrand fun t => setS t d 1
  | _ => do
    change (mapPair cl k fun _ => Pair.free)
    onStrand fun t => setS t d 0

theorem slabgrowRetire_commits (h : AtHead e s) (hv : s.strand.vstart = 0) (hk : e.a.toNat < 16) {st : PairState}
    (hq : (pairAt s (myCluster s) e.a.toNat).state = st) (hw : retirePair d (myCluster s) e.a.toNat st s = .ok () s1) :
    exec (.slabgrowRetire g d a) s = .next (commitVq s1) := by
  refine commits_of_work rfl h hv <| (bind_ok (badEntry_false (by simp; omega))).trans <|
    (bind_ok (m := ask _) rfl).trans <| (bind_ok (m := ask _) rfl).trans ?_
  rw [Nat.mod_eq_of_lt hk, hq]
  exact hw

theorem slabst_commits (h : AtHead e s) (hv : s.strand.vstart = 0) (hk : e.a.toNat < 16) {q : Pair}
    (hq : pairAt s (myCluster s) e.a.toNat = q) : exec (.slabst g d a) s =
      .next (commits (fun t => setS t d (word (pairCode q.state + q.z * 4 + q.ch * 256 + q.wm * 2 ^ 32))) s) := by
  subst hq
  refine commits_of_work rfl h hv <| (bind_ok (badEntry_false (by simp; omega))).trans <|
    (bind_ok (m := ask _) rfl).trans <| (bind_ok (m := ask _) rfl).trans ?_
  rw [Nat.mod_eq_of_lt hk]
  rfl

end

/-- Settles O27: `slabgrow` by its two answers, its retirement and `slabst` by the state of the pair. -/
theorem slabResults : Obligations.SlabResults := by
  unfold Obligations.SlabResults
  intro g d a b z ch e s s1 h hv cl n out k
  have hfree : firstFree s = k := rfl
  clear_value k
  refine ⟨fun hlow hhigh hold hnew => ⟨fun hc => ?_, fun hc hk hroom hr hs => ?_⟩, fun hk => ⟨?_, ?_⟩⟩
  · exact slabgrow_refused h hv ⟨hlow, hhigh, hold, hnew⟩ (hfree ▸ hc)
  · have hcl : myCluster s1 = cl := congrArg (fun t : Strand => clusterOf t.id) hs
    refine ⟨_, slabJob ch.toNat e n k s1, slabgrow_moves h hv ⟨hlow, hhigh, hold, hnew⟩ hc hfree hk hroom hr hs, ?_, rfl, ?_, ?_,
      rfl⟩
    · rw [← hcl]
      exact (congrArg Channel.jobs (channelAt_congr rfl _ _)).trans (channelAt_slabMoving ch.isLt e n k s1)
    · simp only [slabJob, appended, issuerNow, hs]
    · rw [← hcl, ← hs]
      exact (pairAt_congr rfl _ _).trans (pairAt_slabMoving hk ch.toNat e n s1)
  · cases hq : (pairAt s cl e.a.toNat).state <;> exact slabgrowRetire_commits h hv hk hq rfl
  · refine (slabst_commits h hv hk rfl).trans ?_
    cases (pairAt s cl e.a.toNat).state <;> rfl

end Sys2Proof.Slabs
end

section
/-! PROOFS. Claims, tether words and the crew barrier (O28, O29). -/

namespace Sys2Proof.ClaimsAndBarriers

open Sys2Proof.Machine Sys2Proof.Laws Sys2Proof.ScalarFlow Sys2Proof.Accumulators Sys2Proof.ReelLaunch
open Sys2Proof.WaitAndFence

-- ## Claims (R242)

/-- What a claim takes of a pair of words: no more than its count, than VLMAX, and than what is left from next to limit. -/
def claimed (count vlmax x : Nat) : Nat := Nat.min (Nat.min count vlmax) (x / 2 ^ 64 - x % 2 ^ 64)

/-- A pair with nothing left needs no case of its own. -/
theorem claimed_eq (count vlmax x : Nat) : (if x % 2 ^ 64 < x / 2 ^ 64 then Nat.min (Nat.min count vlmax) (x / 2 ^ 64 - x % 2 ^ 64)
    else 0) = claimed count vlmax x := by
  unfold claimed
  split
  · rfl
  next h => rw [Nat.sub_eq_zero_of_le (Nat.le_of_not_lt h)]; exact (Nat.min_zero _).symm

/-- The pair after a claim, none where it takes nothing. -/
def afterClaim (count vlmax x : Nat) : Option Nat :=
  if claimed count vlmax x = 0 then none else some (setField x 0 64 (x % 2 ^ 64 + claimed count vlmax x))

section
variable {g : Guard} {d a b : BitVec 5} {e : VqEntry} {p q : Place} {x : Nat} {s s1 s2 s3 s4 : State}

theorem claim_commits (h : AtHead e s) (hv : s.strand.vstart = 0) (ha : e.a.toNat % 16 = 0)
    (hp : checkAccess (vecWho s) e.a 16 .store s = .ok p s1) (hq : checkAccess (vecWho s) e.a 16 .load s1 = .ok q s2)
    (hh : p.space ≠ .host true) (hf : checkPhaseFree (me s) (vecWho s) p e.a s2 = .ok () s3)
    (hm : s3.strand.vlmax = s.strand.vlmax)
    (hx : atomicAt (me s) (vecWho s) p 16 e.a (afterClaim e.b.toNat s.strand.vlmax) s3 = .ok x s4) :
    exec (.claim g d a b) s = .next (commitVq (mapStrand (fun t =>
      setS { t with vl := claimed e.b.toNat s.strand.vlmax x } d (word (x % 2 ^ 64))) s4)) := by
  refine commits_of_work rfl h hv <| (bind_ok (trapIf_false (by simp [ha]))).trans <| (bind_ok (m := ask _) rfl).trans <|
    (bind_ok (m := ask _) rfl).trans <| (bind_ok hp).trans <| (bind_ok hq).trans <|
    (bind_ok (trapIf_false (beq_false_of_ne hh))).trans <| (bind_ok hf).trans <| (bind_ok (m := ask _) rfl).trans ?_
  simp only [claimed_eq, hm]
  exact bind_ok hx

-- ## Tether words (R243)

theorem pubh_commits (h : AtHead e s) (hv : s.strand.vstart = 0) (ha : e.a.toNat % 8 = 0)
    (hp : checkAccess (vecWho s) e.a 8 .store s = .ok p s1) (hf : checkPhaseFree (me s) (vecWho s) p e.a s1 = .ok () s2)
    (hr : releaseFor (me s2) .cl s2 = .ok () s3)
    (hx : phaseFreeAt false (me s) (vecWho s) p 8 e.a (fun _ => some e.b.toNat) s3 = .ok x s4) :
    exec (.pubh g a b) s = .next (commitVq s4) :=
  commits_of_work rfl h hv <| (bind_ok (trapIf_false (by simp [ha]))).trans <| (bind_ok (m := ask _) rfl).trans <|
    (bind_ok (m := ask _) rfl).trans <| (bind_ok hp).trans <| (bind_ok hf).trans <| (bind_ok (m := releaseAt .cl) hr).trans <|
    (bind_ok hx).trans rfl

end

/-- Settles O28, each by its checks in order. -/
theorem claimAndPubResults : Obligations.ClaimAndPubResults := by
  unfold Obligations.ClaimAndPubResults
  intro g d a b e p q x s s1 s2 s3 s4 h hv w left take
  exact ⟨fun ha hp hq hh hf hm hx => claim_commits h hv ha hp hq hh hf hm hx, fun ha hp hf hr hx => pubh_commits h hv ha hp hf hr hx⟩

-- ## The crew barrier (R245, R246)

/-- The crew with a strand's arrival noted. -/
def joined (k : Nat) (c : Crew) : Crew := { c with here := insertN c.here k }

theorem insertN_isEmpty (l : List Nat) (k : Nat) : (insertN l k).isEmpty = false := by
  unfold insertN
  split
  · rfl
  · split_ifs <;> rfl

theorem barrierStep_id (c : Crew) : (barrierStep c).id = c.id := by
  unfold barrierStep
  split <;> rfl

/-- An arrival ends the generation exactly when no other is missing. -/
theorem barrierStep_joined_gen (k : Nat) (c : Crew) :
    (barrierStep (joined k c)).gen = if allArrived (joined k c) then c.gen + 1 else c.gen := by
  have he : (joined k c).here.isEmpty = false := insertN_isEmpty ..
  rw [barrierStep, he]
  cases allArrived (joined k c) <;> rfl

/-- When a generation ends: a strand has arrived, and every strand has arrived or ended. -/
theorem barrierStep_ends (c : Crew) : (!c.here.isEmpty && allArrived c) = true ↔
    c.here ≠ [] ∧ ∀ k < c.size, k ∈ c.here ∨ k ∈ c.ended := by
  simp [allArrived]

/-- A crew after a change of it that keeps its number. -/
theorem crewAt_mapCrew {id : Nat} {f : Crew → Crew} {s : State} (hf : ∀ c, (f c).id = c.id) :
    crewAt (mapCrew id f s) id = (crewAt s id).map f := by
  unfold crewAt mapCrew
  rw [List.find?_map]
  have hp : ((fun c : Crew => c.id == id) ∘ fun c => if c.id = id then f c else c) = fun c => c.id == id := by
    funext c
    simp only [Function.comp]
    split_ifs <;> simp [hf]
  rw [hp]
  cases hc : s.crews.find? (fun c => c.id == id) with
  | none => rfl
  | some c =>
    have hi : c.id = id := by simpa using List.find?_some hc
    simp [hi]

/-- The strand whose head entry has noted the generation that it has arrived in. -/
def arriving (gen : Nat) (t : Strand) : Strand :=
  { t with vq := match t.vq with
    | e :: r => { e with arrived := some gen } :: r
    | [] => [] }

theorem noteArrival_ok (gen : Nat) (s : State) : noteArrival gen s = .ok () (mapStrand (arriving gen) s) := by
  cases hq : s.strand.vq with
  | nil =>
    simp only [noteArrival, onStrand, change, mapStrand, arriving, hq]
    rw [← hq]
  | cons e r => simp only [noteArrival, onStrand, change, mapStrand, arriving, hq]

/-- The state that an arrival leaves: the head entry has noted the generation, and the crew the arrival. -/
def arrivedAt (id gen : Nat) (s : State) : State :=
  mapCrew id (fun c => barrierStep (joined s.strand.idx.toNat c)) (mapStrand (arriving gen) s)

/-- The crew of an arriving strand, with what the arrival makes of it. -/
theorem crewAt_arrivedAt {id gen : Nat} {c : Crew} {s : State} (hc : crewAt s id = some c) :
    crewAt (arrivedAt id gen s) id = some (barrierStep (joined s.strand.idx.toNat c)) := by
  refine (crewAt_mapCrew (f := fun c => barrierStep (joined s.strand.idx.toNat c)) fun c => barrierStep_id _).trans ?_
  exact congrArg (Option.map _) hc

section
variable {g : Guard} {e : VqEntry} {c : Crew} {s s1 : State}

/-- Waiting for generation `gen` of a crew to end. -/
def awaits (id gen : Nat) : M Unit := do
  let open_ ← ask fun s => ((crewAt s id).map fun c => c.gen == gen).getD false
  waitIf open_ .barrier
  acquireAt .cl

theorem awaits_waits {id gen : Nat} (hc : crewAt s id = some c) (hg : c.gen = gen) : awaits id gen s = .error (.wait .barrier) s :=
  (bind_ok (m := ask _) rfl).trans <| bind_error (m := waitIf _ _) (if_pos (by simp [hc, hg]))

theorem awaits_acquires {id gen : Nat} (hc : crewAt s1 id = some c) (hg : c.gen ≠ gen) (hid : s1.strand.id = s.strand.id) :
    awaits id gen s1 = .ok () (acquireFor (me s) (myCluster s) (myCore s) .cl s1) :=
  (bind_ok (m := ask _) rfl).trans <| (bind_ok (waitIf_false (by simp [hc, hg]))).trans (acquireAt_ok hid)

theorem barCl_guardOff (h : AtHead e s) (hv : s.strand.vstart = 0) (hg : e.guardOff = true) :
    exec (.barCl g) s = .next (commitVq (orderStores (me s) e.age s)) :=
  commits_of_work (s1 := orderStores (me s) e.age s) rfl h hv (by simp only [hg, if_true]; rfl)

/-- Of its work an entry at the head needs only the answer at the state where it executes. -/
theorem exec_of_answer {i : Instr} {whole fence : Bool} {work : VqEntry → M Unit} {work' : M Unit}
    (hx : exec i s = vqOp i g whole fence work s) (h : AtHead e s) (hw : work e s = work' s) :
    exec i s = vqOp i g whole fence (fun _ => work') s := by
  rw [hx, vqOp_head h, vqOp_head h, vqRun, vqRun, hw]

/-- An entry that has not arrived yet releases, arrives, and comes to the wait for the generation that it found. -/
theorem barCl_arrives (h : AtHead e s) (hg : e.guardOff = false) (ha : e.arrived = none) (hr : releaseFor (me s) .cl s = .ok () s1)
    (hc : crewAt s s.strand.crew = some c) : exec (.barCl g) s = vqOp (.barCl g) g true true (fun _ _ =>
      awaits s.strand.crew c.gen (arrivedAt s.strand.crew c.gen s1)) s := by
  refine exec_of_answer rfl h ?_
  rw [if_neg (by simp [hg])]
  refine (bind_ok (m := ask _) rfl).trans <| (bind_ok (m := ask _) rfl).trans ?_
  simp only [hc, ha]
  exact (bind_ok (m := releaseAt .cl) hr).trans <| (bind_ok (noteArrival_ok c.gen s1)).trans rfl

/-- One that has arrived comes to the wait for its generation. -/
theorem barCl_resumes {n : Nat} (h : AtHead e s) (hg : e.guardOff = false) (ha : e.arrived = some n)
    (hc : crewAt s s.strand.crew = some c) : exec (.barCl g) s = vqOp (.barCl g) g true true (fun _ => awaits s.strand.crew n) s := by
  refine exec_of_answer rfl h ?_
  rw [if_neg (by simp [hg])]
  refine (bind_ok (m := ask _) rfl).trans <| (bind_ok (m := ask _) rfl).trans ?_
  simp only [hc, ha]
  rfl

/-- With an arrival still missing the entry waits, its own arrival noted. -/
theorem barCl_waits (h : AtHead e s) (hv : s.strand.vstart = 0) (hg : e.guardOff = false) (ha : e.arrived = none)
    (hr : releaseFor (me s) .cl s = .ok () s1) (hc : crewAt s s.strand.crew = some c) (hc1 : crewAt s1 s.strand.crew = some c)
    (hall : allArrived (joined s1.strand.idx.toNat c) = false) :
    exec (.barCl g) s = .next (waitVq .barrier (arrivedAt s.strand.crew c.gen s1)) :=
  waits_of_work (barCl_arrives h hg ha hr hc) h hv <| awaits_waits (crewAt_arrivedAt hc1) <| by
    rw [barrierStep_joined_gen, hall]
    rfl

/-- The last arrival ends the generation, and the entry acquires. -/
theorem barCl_last (h : AtHead e s) (hv : s.strand.vstart = 0) (hg : e.guardOff = false) (ha : e.arrived = none)
    (hr : releaseFor (me s) .cl s = .ok () s1) (hs : s1.strand.id = s.strand.id) (hc : crewAt s s.strand.crew = some c)
    (hc1 : crewAt s1 s.strand.crew = some c) (hall : allArrived (joined s1.strand.idx.toNat c) = true) :
    exec (.barCl g) s =
      .next (commitVq (acquireFor (me s) (myCluster s) (myCore s) .cl (arrivedAt s.strand.crew c.gen s1))) := by
  refine commits_of_work (barCl_arrives h hg ha hr hc) h hv (awaits_acquires (crewAt_arrivedAt hc1) ?_ hs)
  rw [barrierStep_joined_gen, hall]
  exact Nat.succ_ne_self c.gen

end

/-- Settles O29: the arrival and the wait of `bar.cl` by the generation that the arrival leaves, the event by `barrierStep`. -/
theorem barrierResults : Obligations.BarrierResults := by
  unfold Obligations.BarrierResults
  constructor
  · intro g e c s s1 h hv id join note
    refine ⟨barCl_guardOff h hv, fun hg ha hr hs hc hc1 => ?_, fun hg n ha hc => ⟨fun hn => ?_, fun hn => ?_⟩⟩
    · have hleft : arrivedAt id c.gen s1 = mapCrew id (fun c => barrierStep (join c)) (note s1) := by
        rw [arrivedAt, hs]
        rfl
      have hjoin : joined s1.strand.idx.toNat c = join c := by rw [hs]; rfl
      have hid := congrArg (fun t : Strand => t.id) hs
      exact hleft ▸ hjoin ▸ ⟨barCl_waits h hv hg ha hr hc hc1, barCl_last h hv hg ha hr hid hc hc1⟩
    · exact waits_of_work (barCl_resumes h hg ha hc) h hv (awaits_waits hc hn)
    · exact commits_of_work (barCl_resumes h hg ha hc) h hv (awaits_acquires hc hn rfl)
  · intro id s
    refine ⟨_, rfl, rfl, List.map_congr_left fun c _ => ?_⟩
    rw [ite_and]
    refine if_congr Iff.rfl ?_ rfl
    rw [barrierStep]
    exact if_congr (barrierStep_ends c) rfl rfl

end Sys2Proof.ClaimsAndBarriers
end

section
/-! PROOFS. The lines of the coherence engine: what is read back where a cluster's line or a home's line has been put, what the work of
a cluster can change, and what the upkeep of errors in memory can change. -/

namespace Sys2Proof.CoherenceLines

open Sys2Proof.Machine Sys2Proof.Laws

-- ## A line is read back as it was put (R260, R271)

section
variable {s t : State} {c : CLine} {h : HLine} {cl line : Nat}

theorem clineAt_key (s : State) (cl line : Nat) : (clineAt s cl line).cl = cl ∧ (clineAt s cl line).line = line := by
  unfold clineAt
  cases hf : s.clines.find? fun c => c.cl == cl && c.line == line with
  | none => exact ⟨rfl, rfl⟩
  | some c => simpa using List.find?_some hf

@[simp] theorem clineAt_cl (s : State) (cl line : Nat) : (clineAt s cl line).cl = cl := (clineAt_key s cl line).1

@[simp] theorem clineAt_line (s : State) (cl line : Nat) : (clineAt s cl line).line = line := (clineAt_key s cl line).2

theorem clineAt_congr (h : t.clines = s.clines) (cl line : Nat) : clineAt t cl line = clineAt s cl line := by
  unfold clineAt
  rw [h]

theorem clineAt_putCline (hcl : c.cl = cl) (hl : c.line = line) : clineAt (putCline s c) cl line = c := by
  subst hcl hl
  unfold putCline clineAt
  by_cases hc : c = CLine.fresh c.cl c.line
  · have hn : (s.clines.filter fun x => !(x.cl == c.cl && x.line == c.line)).find? (fun x => x.cl == c.cl && x.line == c.line) =
        none := by
      refine List.find?_eq_none.mpr fun x hx => ?_
      simpa [imp_iff_not_or] using (List.mem_filter.mp hx).2
    simp only [if_pos hc, hn]
    exact hc.symm
  · simp [hc]

theorem mem_putCline {x : CLine} (hx : x ∈ (putCline s c).clines) : x = c ∨ x ∈ s.clines := by
  unfold putCline at hx
  dsimp only at hx
  split at hx
  · exact .inr (List.mem_of_mem_filter hx)
  · exact (List.mem_cons.mp hx).imp_right List.mem_of_mem_filter

theorem clineAt_putCline_other (hne : ¬ (c.cl = cl ∧ c.line = line)) : clineAt (putCline s c) cl line = clineAt s cl line := by
  have hf : (s.clines.filter fun x => !(x.cl == c.cl && x.line == c.line)).find? (fun x => x.cl == cl && x.line == line) =
      s.clines.find? fun x => x.cl == cl && x.line == line := by
    rw [List.find?_filter]
    refine congrFun (congrArg _ (funext fun x => ?_)) _
    by_cases hx : x.cl = cl ∧ x.line = line
    · obtain ⟨rfl, rfl⟩ := hx
      have hx : (x.cl == c.cl && x.line == c.line) = false := by
        refine Bool.eq_false_iff.mpr fun h => hne ?_
        obtain ⟨h1, h2⟩ : x.cl = c.cl ∧ x.line = c.line := by simpa using h
        exact ⟨h1.symm, h2.symm⟩
      simp [hx]
    · have hx : (x.cl == cl && x.line == line) = false := by
        rw [Bool.eq_false_iff]
        simpa using hx
      simp [hx]
  unfold putCline clineAt
  split
  · rw [hf]
  · rw [List.find?_cons_of_neg (by simpa using hne), hf]

@[simp] theorem hlineAt_line (s : State) (line : Nat) : (hlineAt s line).line = line := by
  unfold hlineAt
  cases hf : s.hlines.find? fun h => h.line == line with
  | none => rfl
  | some h => simpa using List.find?_some hf

theorem hlineAt_congr (h : t.hlines = s.hlines) (line : Nat) : hlineAt t line = hlineAt s line := by
  unfold hlineAt
  rw [h]

theorem hlineAt_putHline (hl : h.line = line) : hlineAt (putHline s h) line = h := by
  subst hl
  unfold putHline hlineAt
  by_cases hc : h = HLine.fresh h.line
  · have hn : (s.hlines.filter fun x => x.line != h.line).find? (fun x => x.line == h.line) = none := by
      simp [List.find?_eq_none]
    simp only [if_pos hc, hn]
    exact hc.symm
  · simp [hc]

theorem mem_putHline {x : HLine} (hx : x ∈ (putHline s h).hlines) : x = h ∨ x ∈ s.hlines := by
  unfold putHline at hx
  dsimp only at hx
  split at hx
  · exact .inr (List.mem_of_mem_filter hx)
  · exact (List.mem_cons.mp hx).imp_right List.mem_of_mem_filter

/-- What holds of every listed line and of one that no agent has touched holds of the line read. -/
theorem hlineAt_induction {P : HLine → Prop} (hf : P (HLine.fresh line)) (hs : ∀ h ∈ s.hlines, P h) : P (hlineAt s line) := by
  unfold hlineAt
  cases hx : s.hlines.find? fun h => h.line == line with
  | none => exact hf
  | some h => exact hs h (List.mem_of_find?_eq_some hx)

end

-- ## What the work of a cluster can change (R262 to R264)

/-- The work of a cluster changes its lines, sends messages, logs errors, and makes stored bytes go; nothing else. -/
def ClusterWork (t s : State) : Prop :=
  ∃ cs ms ps es, List.Sublist ps s.stores ∧
    t = { s with clines := cs, net := s.net ++ ms, stores := ps, errlog := s.errlog ++ es }

theorem ClusterWork.refl (s : State) : ClusterWork s s := ⟨s.clines, [], s.stores, [], .refl _, by simp⟩

theorem ClusterWork.trans {u t s : State} (h : ClusterWork u t) (k : ClusterWork t s) : ClusterWork u s := by
  obtain ⟨cs, ms, ps, es, hp, rfl⟩ := k
  obtain ⟨cs', ms', ps', es', hp', rfl⟩ := h
  exact ⟨cs', ms ++ ms', ps', es ++ es', hp'.trans hp, by simp⟩

theorem foldl_clusterWork {α : Type} {f : State → α → State} (hf : ∀ s x, ClusterWork (f s x) s) (l : List α) (s : State) :
    ClusterWork (l.foldl f s) s := by
  induction l generalizing s with
  | nil => exact .refl s
  | cons x l ih => exact (ih (f s x)).trans (hf s x)

theorem putCline_clusterWork (s : State) (c : CLine) : ClusterWork (putCline s c) s :=
  ⟨(putCline s c).clines, [], s.stores, [], .refl _, by simp [putCline]⟩

theorem machineError_clusterWork (cl line : Nat) (s : State) : ClusterWork (machineError cl line s) s :=
  ⟨s.clines, [], s.stores, [(1, cl, word line)], .refl _, by simp [machineError, logError]⟩

/-- Sending messages one after the other adds them in order. -/
theorem postAll_eq (ms : List Msg) (s : State) : ms.foldl (fun s m => post m s) s = { s with net := s.net ++ ms } := by
  induction ms generalizing s with
  | nil => simp
  | cons m ms ih =>
    rw [List.foldl_cons, ih]
    simp [post]

section
variable {slot cl line : Nat} {h : HeldEv} {w : ActionWord} {s : State}

/-- An event whose word is UNX is a machine error (R263, R264). -/
theorem raiseOnce_unexpected (hw : wordOf (protoAt s slot).clus (clineAt s cl line).state h.ev = none) :
    raiseOnce slot cl line h s = machineError cl line s := by
  simp only [raiseOnce, hw]

/-- An event whose word is neither UNX nor DEFER has the effect of the word, and stored bytes may go with it (R263, R264, R276). -/
theorem raiseOnce_applies (hw : wordOf (protoAt s slot).clus (clineAt s cl line).state h.ev = some w) (hd : w.defer = false) :
    ∃ ps, List.Sublist ps s.stores ∧ raiseOnce slot cl line h s =
      putCline { s with net := s.net ++ (clusterApply w h.ev h.bytes h.flt h.writer (clineAt s cl line)).2, stores := ps }
        (filtered (protoAt s slot) (clusterApply w h.ev h.bytes h.flt h.writer (clineAt s cl line)).1) := by
  simp only [raiseOnce, hw, hd, postAll_eq, Bool.false_eq_true, if_false]
  refine ⟨_, ?_, rfl⟩
  split
  · exact List.filter_sublist
  · exact .refl _

end

section
variable (slot cl line : Nat)

theorem raiseOnce_clusterWork (h : HeldEv) (s : State) : ClusterWork (raiseOnce slot cl line h s) s := by
  cases hw : wordOf (protoAt s slot).clus (clineAt s cl line).state h.ev with
  | none => exact raiseOnce_unexpected hw ▸ machineError_clusterWork ..
  | some w =>
    cases hd : w.defer
    · obtain ⟨ps, hps, he⟩ := raiseOnce_applies hw hd
      rw [he]
      exact (putCline_clusterWork ..).trans ⟨s.clines, _, ps, [], hps, by simp; rfl⟩
    · simp only [raiseOnce, hw, hd, if_true]
      split
      · exact .refl s
      · exact putCline_clusterWork ..

theorem reraise_clusterWork (n : Nat) (s : State) : ClusterWork (reraise slot cl line n s) s := by
  induction n generalizing s with
  | zero => exact .refl s
  | succ n ih =>
    unfold reraise
    extract_lets c
    split
    · exact .refl s
    · exact (ih _).trans ((raiseOnce_clusterWork ..).trans (putCline_clusterWork ..))

theorem afterChange_clusterWork (st : Nat) (s : State) : ClusterWork (afterChange slot cl line st s) s := by
  unfold afterChange
  split
  · exact .refl s
  · exact reraise_clusterWork ..

theorem dropCopy_clusterWork (s : State) : ClusterWork (dropCopy slot cl line s) s := by
  unfold dropCopy
  extract_lets c
  split
  · exact (afterChange_clusterWork ..).trans (putCline_clusterWork ..)
  · exact .refl s

theorem dropCopies_clusterWork (s : State) : ClusterWork (dropCopies line s) s :=
  foldl_clusterWork (fun _ _ => dropCopy_clusterWork ..) _ s

theorem dropFar_clusterWork (keep : Option Nat) (s : State) : ClusterWork (dropFar line keep s) s :=
  foldl_clusterWork (fun _ _ => dropCopy_clusterWork ..) _ s

theorem dropNeighbours_clusterWork (s : State) : ClusterWork (dropNeighbours cl line s) s :=
  foldl_clusterWork (fun _ _ => dropCopy_clusterWork ..) _ s

theorem dropLeft_clusterWork (gone : BitVec 16) (s : State) : ClusterWork (dropLeft line gone s) s :=
  foldl_clusterWork (fun _ _ => dropNeighbours_clusterWork ..) _ s

end

-- ## With no event held, copies go without a message (R263)

/-- No event is held at any line of a cluster. -/
def Unheld (s : State) : Prop := ∀ c ∈ s.clines, c.held = []

theorem Unheld.clineAt {s : State} (h : Unheld s) (cl line : Nat) : (clineAt s cl line).held = [] := by
  unfold Machine.clineAt
  cases hx : s.clines.find? fun c => c.cl == cl && c.line == line with
  | none => rfl
  | some c => exact h c (List.mem_of_find?_eq_some hx)

theorem Unheld.putCline {s : State} {c : CLine} (h : Unheld s) (hc : c.held = []) : Unheld (putCline s c) := by
  intro x hx
  obtain rfl | hx := mem_putCline hx
  · exact hc
  · exact h x hx

/-- Nothing that is not held is raised again. -/
theorem reraise_unheld {slot cl line : Nat} {s : State} (h : (clineAt s cl line).held = []) (n : Nat) :
    reraise slot cl line n s = s := by
  cases n with
  | zero => rfl
  | succ n => simp only [reraise, h, List.find?_nil]

theorem afterChange_unheld {slot cl line st : Nat} {s : State} (h : (clineAt s cl line).held = []) :
    afterChange slot cl line st s = s := by
  unfold afterChange
  split
  · rfl
  · exact reraise_unheld h 64

@[simp] theorem filtered_held (p : Proto) (c : CLine) : (filtered p c).held = c.held := by
  unfold filtered
  split <;> rfl

@[simp] theorem filtered_cl (p : Proto) (c : CLine) : (filtered p c).cl = c.cl := by
  unfold filtered
  split <;> rfl

@[simp] theorem filtered_line (p : Proto) (c : CLine) : (filtered p c).line = c.line := by
  unfold filtered
  split <;> rfl

@[simp] theorem filtered_state (p : Proto) (c : CLine) : (filtered p c).state = c.state := by
  unfold filtered
  split <;> rfl

@[simp] theorem filtered_data (p : Proto) (c : CLine) : (filtered p c).data = c.data := by
  unfold filtered
  split <;> rfl

/-- Work that sends nothing where no event is held, and holds none. -/
structure Silent (t s : State) : Prop where
  unheld : Unheld s → Unheld t
  net : Unheld s → t.net = s.net

theorem foldl_silent {α : Type} {f : State → α → State} (hf : ∀ s x, Silent (f s x) s) (l : List α) (s : State) :
    Silent (l.foldl f s) s := by
  induction l generalizing s with
  | nil => exact ⟨id, fun _ => rfl⟩
  | cons x l ih =>
    exact ⟨fun h => (ih _).unheld ((hf s x).unheld h), fun h => ((ih _).net ((hf s x).unheld h)).trans ((hf s x).net h)⟩

theorem dropCopy_silent (slot cl line : Nat) (s : State) : Silent (dropCopy slot cl line s) s := by
  suffices hs : Unheld s → Unheld (dropCopy slot cl line s) ∧ (dropCopy slot cl line s).net = s.net from
    ⟨fun h => (hs h).1, fun h => (hs h).2⟩
  intro h
  unfold dropCopy
  extract_lets c
  split
  next w _ =>
    have hc : (filtered (protoAt s slot) (clusterApply w 5 [] 0 0 c).1).held = [] := by
      simpa [clusterApply] using h.clineAt cl line
    have hp := h.putCline hc
    rw [afterChange_unheld (hp.clineAt cl line)]
    exact ⟨hp, rfl⟩
  · exact ⟨h, rfl⟩

theorem dropLeft_silent (line : Nat) (gone : BitVec 16) (s : State) : Silent (dropLeft line gone s) s :=
  foldl_silent (fun _ _ => foldl_silent (fun _ _ => dropCopy_silent ..) _ _) _ s

-- ## Upkeep of errors in memory (R312, R313, R355)

/-- Upkeep changes what is known of errors in memory, and of bytes that may still be read as they were; nothing else. -/
def Upkeep (t s : State) : Prop :=
  ∃ po so co st es, t = { s with poison := po, softErr := so, corrected := co, stale := st, errlog := es }

theorem Upkeep.refl (s : State) : Upkeep s s := ⟨s.poison, s.softErr, s.corrected, s.stale, s.errlog, rfl⟩

theorem Upkeep.trans {u t s : State} (h : Upkeep u t) (k : Upkeep t s) : Upkeep u s := by
  obtain ⟨po, so, co, st, es, rfl⟩ := k
  obtain ⟨po', so', co', st', es', rfl⟩ := h
  exact ⟨po', so', co', st', es', rfl⟩

theorem foldl_upkeep {α : Type} {f : State → α → State} (hf : ∀ s x, Upkeep (f s x) s) (l : List α) (s : State) :
    Upkeep (l.foldl f s) s := by
  induction l generalizing s with
  | nil => exact .refl s
  | cons x l ih => exact (ih (f s x)).trans (hf s x)

theorem correctUnit_upkeep (u : Nat) (s : State) : Upkeep (correctUnit u s) s := ⟨s.poison, _, _, s.stale, s.errlog, rfl⟩

theorem readUnits_upkeep (key n : Nat) (s : State) : Upkeep (readUnits key n s) s := by
  unfold readUnits
  split
  · exact .refl s
  · refine foldl_upkeep (fun s u => ?_) _ s
    split
    · exact correctUnit_upkeep u s
    · exact .refl s

theorem unstale_upkeep (keys : List Nat) (s : State) : Upkeep (unstale keys s) s := by
  unfold unstale
  split
  · exact .refl s
  · exact ⟨s.poison, s.softErr, s.corrected, _, s.errlog, rfl⟩

theorem healPoison_upkeep (keys : List Nat) (s : State) : Upkeep (healPoison keys s) s := by
  refine Upkeep.trans ?_ (unstale_upkeep keys s)
  unfold healPoison
  extract_lets u whole bulk full us
  split
  · exact .refl u
  · refine (foldl_upkeep (fun t x => ?_) us _).trans ⟨_, u.softErr, u.corrected, u.stale, u.errlog, rfl⟩
    split
    · exact ⟨_, _, t.corrected, t.stale, t.errlog, rfl⟩
    · split
      · exact ⟨t.poison, t.softErr, t.corrected, t.stale, _, rfl⟩
      · split
        · exact correctUnit_upkeep x t
        · exact .refl t

end Sys2Proof.CoherenceLines
end

section
/-! PROOFS. Messages at a cluster follow its protocol table (O43). -/

namespace Sys2Proof.ClusterDelivery

open Sys2Proof.Machine Sys2Proof.Laws Sys2Proof.CoherenceLines

-- ## An event at a line where none is held (R262, R263)

section
variable {slot cl line ev flt writer : Nat} {bs : List (Nat × Byte)} {w : ActionWord} {c : CLine} {s : State}

@[simp] theorem clusterApply_cl : (clusterApply w ev bs flt writer c).1.cl = c.cl := rfl

@[simp] theorem clusterApply_line : (clusterApply w ev bs flt writer c).1.line = c.line := rfl

@[simp] theorem clusterApply_held : (clusterApply w ev bs flt writer c).1.held = c.held := rfl

@[simp] theorem clusterApply_state : (clusterApply w ev bs flt writer c).1.state = w.next.getD c.state := rfl

/-- A word replaces bytes of the line when it writes, and when it serves data that come without a fault. -/
theorem clusterApply_data : (clusterApply w ev bs flt writer c).1.data =
    if w.write || (w.perf && w.flt == 0 && ev == 7) then patchLine c.data bs else c.data := by
  by_cases h7 : ev = 7
  · subst h7
    by_cases hf : w.flt = 0 <;> simp [clusterApply, hf]
  · simp [clusterApply, h7]

theorem clusterApply_msgs : (clusterApply w ev bs flt writer c).2.length = (if w.msg = .none then 0 else 1) ∧
    ∀ o ∈ (clusterApply w ev bs flt writer c).2, o.kind = w.msg ∧ o.line = c.line ∧ o.req = c.cl ∧ o.dst = atHome := by
  simp only [clusterApply]
  split
  · simp
  · simp

theorem clusterRaise_unexpected (hw : wordOf (protoAt s slot).clus (clineAt s cl line).state ev = none) :
    clusterRaise slot cl line ev bs flt writer s = machineError cl line s := by
  unfold clusterRaise
  rw [raiseOnce_unexpected (h := { ev := ev, bytes := bs, flt := flt, writer := writer }) hw]
  exact if_pos (congrArg CLine.state (clineAt_congr rfl cl line))

theorem clusterRaise_applies (hw : wordOf (protoAt s slot).clus (clineAt s cl line).state ev = some w) (hd : w.defer = false)
    (hh : (clineAt s cl line).held = []) :
    ∃ ps, clusterRaise slot cl line ev bs flt writer s =
      putCline { s with net := s.net ++ (clusterApply w ev bs flt writer (clineAt s cl line)).2, stores := ps }
        (filtered (protoAt s slot) (clusterApply w ev bs flt writer (clineAt s cl line)).1) := by
  obtain ⟨ps, -, he⟩ := raiseOnce_applies (h := { ev := ev, bytes := bs, flt := flt, writer := writer }) hw hd
  refine ⟨ps, ?_⟩
  unfold clusterRaise
  rw [he, afterChange_unheld]
  rw [clineAt_putCline (by simp) (by simp)]
  simpa using hh

end

-- ## What a delivery does besides (R275)

/-- Two states agree on the memory, the messages, the error log and a cluster's lines, but for how often a request of one line has been
refused. -/
structure SameButRetries (cl line : Nat) (t u : State) : Prop where
  mem : t.mem = u.mem
  net : t.net = u.net
  errlog : t.errlog = u.errlog
  state : (clineAt t cl line).state = (clineAt u cl line).state
  data : (clineAt t cl line).data = (clineAt u cl line).data
  others : ∀ l, l ≠ line → clineAt t cl l = clineAt u cl l

section
variable {cl line : Nat}

theorem SameButRetries.refl (u : State) : SameButRetries cl line u u := ⟨rfl, rfl, rfl, rfl, rfl, fun _ _ => rfl⟩

theorem putRetries_same (b k : Nat) (u : State) :
    SameButRetries cl line (putCline u { clineAt u cl line with backoff := b, tries := k }) u where
  mem := rfl
  net := rfl
  errlog := rfl
  state := by rw [clineAt_putCline (by simp) (by simp)]
  data := by rw [clineAt_putCline (by simp) (by simp)]
  others l hl := clineAt_putCline_other (by simp [hl.symm])

end

/-- The messages that reach a cluster's line: what brings each, its kind and the code of its event (R262). -/
def clusterEvents (m : Msg) : List (Instr × MsgKind × Nat) :=
  [(Instr.clusterInv m, MsgKind.inv, 5), (.clusterUpd m, .upd, 6), (.clusterData m, .data, 7), (.clusterAck m, .ack, 8),
    (.clusterNack m, .nack, 9)]

/-- The slot under which a message's line stands at the cluster (R254). -/
def clusterSlot (s : State) (m : Msg) (k : MsgKind) : Nat :=
  if k = .inv ∨ k = .upd then slotOfLine s m.dst m.line 0 else msgSlot s m

/-- The bytes that a message brings to a cluster's line. -/
def broughtBytes (m : Msg) (k : MsgKind) : List (Nat × Byte) := if k = .upd ∨ k = .data then m.bytes else []

/-- A message is taken from the net and raises its event at the line. -/
theorem exec_clusterEvent {m : Msg} {s : State} (hd : m.dst < 16) {x : Instr × MsgKind × Nat} (hx : x ∈ clusterEvents m) :
    ∃ t flt, exec x.1 s = .next t ∧ SameButRetries m.dst m.line t
      (clusterRaise (clusterSlot s m x.2.1) m.dst m.line x.2.2 (broughtBytes m x.2.1) flt m.writer
        (takeMsg { m with kind := x.2.1 } s)) := by
  have h16 : m.dst ≠ 16 := by omega
  have hhome : m.dst ≠ atHome := by
    unfold atHome
    omega
  simp only [clusterEvents, List.mem_cons, List.not_mem_nil, or_false] at hx
  rcases hx with rfl | rfl | rfl | rfl | rfl
  · exact ⟨_, 0, congrArg Host.Outcome.next (if_neg h16), .refl _⟩
  · exact ⟨_, 0, congrArg Host.Outcome.next (if_neg h16), .refl _⟩
  · exact ⟨_, 0, congrArg Host.Outcome.next (if_pos hd), putRetries_same ..⟩
  · exact ⟨_, m.flt, congrArg Host.Outcome.next ((if_neg hhome).trans (if_pos hd)), putRetries_same ..⟩
  · exact ⟨_, m.flt, congrArg Host.Outcome.next (if_pos hd), putRetries_same ..⟩

theorem event_seven {m : Msg} {x : Instr × MsgKind × Nat} (hx : x ∈ clusterEvents m) : (x.2.2 == 7) = (x.2.1 == .data) := by
  simp only [clusterEvents, List.mem_cons, List.not_mem_nil, or_false] at hx
  rcases hx with rfl | rfl | rfl | rfl | rfl <;> rfl

/-- Settles O43: the event of the message is raised at the line, with the effect of its word or a machine error. -/
theorem clusterMessages : Obligations.ClusterMessages := by
  unfold Obligations.ClusterMessages
  intro m s hdst x hx k net slot table c
  obtain ⟨t, flt, ht, same⟩ := exec_clusterEvent (s := s) hdst hx
  generalize hu : clusterRaise _ _ _ _ _ _ _ _ = u at same
  have hc : clineAt (takeMsg k s) m.dst m.line = c := clineAt_congr rfl ..
  have hp : protoAt (takeMsg k s) slot = protoAt s slot := rfl
  refine ⟨fun hw => ?_, fun w hw hd hh => ?_⟩
  · have he : u = machineError m.dst m.line (takeMsg k s) := hu.symm.trans (clusterRaise_unexpected (by rw [hc]; exact hw))
    subst he
    exact ⟨t, ht, same.mem, same.net, same.state.trans (congrArg CLine.state hc), same.errlog⟩
  · obtain ⟨ps, he⟩ := clusterRaise_applies (bs := broughtBytes m x.2.1) (flt := flt) (writer := m.writer)
      (s := takeMsg k s) (slot := slot) (by rw [hc]; exact hw) hd (by rw [hc]; exact hh)
    rw [hc] at he
    have he := hu.symm.trans he
    obtain ⟨hlen, hmsg⟩ := clusterApply_msgs (w := w) (ev := x.2.2) (bs := broughtBytes m x.2.1) (flt := flt) (writer := m.writer) (c := c)
    have hnet : t.net = net ++ (clusterApply w x.2.2 (broughtBytes m x.2.1) flt m.writer c).2 := by
      rw [same.net, he]
      rfl
    have hline : clineAt u m.dst m.line = filtered (protoAt s slot) (clusterApply w x.2.2 (broughtBytes m x.2.1) flt m.writer c).1 := by
      rw [he]
      exact clineAt_putCline (by simp [c]) (by simp [c])
    refine ⟨t, ht, ?_, ?_, ?_, ?_, ?_, ?_, fun l hl => ?_⟩
    · rw [same.mem, he]
      rfl
    · rw [same.state, hline, filtered_state, clusterApply_state]
    · rw [same.data, hline, filtered_data, clusterApply_data, event_seven hx]
      rfl
    · rw [hnet, List.length_append, hlen]
    · exact ⟨_, hnet.symm⟩
    · rw [hnet, List.drop_left]
      simpa [c] using hmsg
    · rw [same.others l hl, he, clineAt_putCline_other (by simp [c, hl.symm])]
      exact clineAt_congr rfl ..

end Sys2Proof.ClusterDelivery
end

section
/-! What a word of the home table does to its line, to memory, to the stored bytes and to the directory (R263, R264), and when the home
has nothing to dispatch (R275). -/

namespace Sys2Proof.HomeWords

open Sys2Proof.Machine Sys2Proof.Laws Sys2Proof.CoherenceLines

-- ## Writes at a home (R192, R276)

theorem dropOlder_sublist (arrived : PStore → Bool) (seen l : List PStore) : (dropOlder arrived seen l).Sublist l := by
  induction l generalizing seen with
  | nil => exact .refl _
  | cons p r ih =>
    unfold dropOlder
    split
    · exact (ih _).cons_cons p
    · split
      · exact (ih _).cons p
      · exact (ih _).cons_cons p

/-- What a home changes of other things than its line and the directory: neither of them, nor which module it is of; memory only when it
writes, and no stored byte comes. -/
structure BesideLine (write : Bool) (t s : State) : Prop where
  hlines : t.hlines = s.hlines
  regions : t.regions = s.regions
  spid : t.spid = s.spid
  mem : write = false → t.mem = s.mem
  stores : t.stores.Sublist s.stores

section
variable {write : Bool} {s t u : State}

theorem BesideLine.refl (s : State) : BesideLine write s s := ⟨rfl, rfl, rfl, fun _ => rfl, .refl _⟩

theorem BesideLine.trans (h : BesideLine write u t) (k : BesideLine write t s) : BesideLine write u s :=
  ⟨h.hlines.trans k.hlines, h.regions.trans k.regions, h.spid.trans k.spid, fun hw => (h.mem hw).trans (k.mem hw),
    h.stores.trans k.stores⟩

theorem clusterWork_beside (h : ClusterWork t s) : BesideLine write t s := by
  obtain ⟨cs, ms, ps, es, hp, rfl⟩ := h
  exact ⟨rfl, rfl, rfl, fun _ => rfl, hp⟩

theorem upkeep_beside (h : Upkeep t s) : BesideLine write t s := by
  obtain ⟨po, so, co, st, es, rfl⟩ := h
  exact ⟨rfl, rfl, rfl, fun _ => rfl, .refl _⟩

theorem homeWrite_beside (s : State) (cl line : Nat) (bs : List (Nat × Byte)) : BesideLine true (homeWrite s cl line bs) s :=
  (upkeep_beside (healPoison_upkeep ..)).trans ⟨rfl, rfl, rfl, nofun, dropOlder_sublist ..⟩

theorem postAll_beside (ms : List Msg) (s : State) : BesideLine write (ms.foldl (fun s m => post m s) s) s := by
  rw [postAll_eq]
  exact ⟨rfl, rfl, rfl, fun _ => rfl, .refl _⟩

end

-- ## The effect of a word (R263, R264)

/-- The sharers of a line's region; a line of another module has no entry in the directory (R273). -/
def homeRegion (s : State) (line : Nat) : Region :=
  if remoteLine s line then { region := line / 8, vec := 0, host := false } else regionAt s line

/-- A phase-free access that writes meets the fault of its word (R263, R270). -/
def faultMarked (w : ActionWord) (m : Msg) : Bool := m.kind == .unc && w.flt != 0 && m.flt != 0 && !m.checked

/-- A line at its home with a request in service, none where the line is free. -/
def inService (h : HLine) : HLine := if blocked h then h else { h with cur := none }

/-- A line at its home after a word (R263, R264). -/
def servedLine (w : ActionWord) (m : Msg) (s : State) : HLine :=
  let h := hlineAt s m.line
  inService { h with
    state := w.next.getD h.state
    busy := (h.busy || w.setb) && !w.clrb
    acks := if w.cnt then (homeTargets w m.req (homeRegion s m.line)).length else h.acks
    cur := some { m with flt := if faultMarked w m then w.flt + 8 else m.flt }
    perf := h.perf || (m.kind == .unc && m.writer != noWriter && (w.perf || faultMarked w m)) }

section
variable {h : HLine} {w : ActionWord} {m : Msg} {s t : State}

@[simp] theorem inService_line : (inService h).line = h.line := by unfold inService; split <;> rfl

@[simp] theorem inService_state : (inService h).state = h.state := by unfold inService; split <;> rfl

@[simp] theorem inService_queue : (inService h).queue = h.queue := by unfold inService; split <;> rfl

@[simp] theorem servedLine_line : (servedLine w m s).line = m.line := by simp [servedLine]

@[simp] theorem servedLine_state : (servedLine w m s).state = w.next.getD (hlineAt s m.line).state := by simp [servedLine]

@[simp] theorem servedLine_queue : (servedLine w m s).queue = (hlineAt s m.line).queue := by simp [servedLine]

/-- What a word of a home table does: the line as it says, memory only when it writes, at most one more region in the directory, and no
stored byte comes. -/
structure HomeEffect (w : ActionWord) (m : Msg) (t s : State) : Prop where
  hlines : t.hlines = (putHline s (servedLine w m s)).hlines
  mem : w.write = false → t.mem = s.mem
  regions : t.regions.length ≤ s.regions.length + 1
  stores : t.stores.Sublist s.stores

theorem HomeEffect.hlineAt (h : HomeEffect w m t s) : hlineAt t m.line = servedLine w m s :=
  (hlineAt_congr h.hlines m.line).trans (hlineAt_putHline servedLine_line)

theorem putRegion_length (s : State) (r : Region) : (putRegion s r).regions.length ≤ s.regions.length + 1 := by
  have hf := List.length_filter_le (fun x : Region => x.region != r.region) s.regions
  unfold putRegion
  split
  · exact hf.trans (Nat.le_succ _)
  · exact Nat.succ_le_succ hf

/-- The directory takes a line's sharers as the word leaves them, and the copies of those that have left it go (R271, R272). -/
theorem putSharers_keeps (line : Nat) (gone : BitVec 16) (r : Region) (s : State) :
    (dropLeft line gone (putRegion s r)).hlines = s.hlines ∧ (dropLeft line gone (putRegion s r)).mem = s.mem ∧
      (dropLeft line gone (putRegion s r)).regions.length ≤ s.regions.length + 1 ∧
      (dropLeft line gone (putRegion s r)).stores.Sublist s.stores := by
  have k := clusterWork_beside (write := false) (dropLeft_clusterWork line gone (putRegion s r))
  exact ⟨k.hlines, k.mem rfl, k.regions ▸ putRegion_length s r, k.stores⟩

theorem homeApply_effect (w : ActionWord) (m : Msg) (s : State) : HomeEffect w m (homeApply w m s).1 s := by
  unfold homeApply
  extract_lets line isUnc far s0 s1 h r ts faulted out sends s2 vec s3 h1 s4 s5
  have k0 : BesideLine w.write s0 s := by
    cases hw : w.write <;> simp only [s0, hw]
    · exact .refl s
    · exact homeWrite_beside ..
  have k1 : BesideLine w.write s1 s := by
    refine BesideLine.trans ?_ k0
    simp only [s1]
    split
    · exact clusterWork_beside (dropFar_clusterWork ..)
    · split
      · exact clusterWork_beside (dropFar_clusterWork ..)
      · exact .refl s0
  have k2 : BesideLine w.write s2 s := (postAll_beside sends s1).trans k1
  have k3 : s3.hlines = s.hlines ∧ (w.write = false → s3.mem = s.mem) ∧ s3.regions.length ≤ s.regions.length + 1 ∧
      s3.stores.Sublist s.stores := by
    simp only [s3]
    split
    · exact ⟨k2.hlines, k2.mem, k2.regions ▸ Nat.le_succ _, k2.stores⟩
    · obtain ⟨hh, hm, hr, hs⟩ := putSharers_keeps line (r.vec &&& ~~~vec)
        { r with vec := vec, host := if (w.shv = 4 || (w.shv = 3 && m.req ≠ 16)) then false else (r.host || (w.shv = 1 && m.req = 16)) } s2
      exact ⟨hh.trans k2.hlines, fun hw => hm.trans (k2.mem hw), k2.regions ▸ hr, hs.trans k2.stores⟩
  obtain ⟨hh, hm, hr, hs⟩ := k3
  have k5 : BesideLine w.write s5 s4 := by
    simp only [s5]
    split
    · exact BesideLine.trans (t := readUnits (64 * line) 64 s4) ⟨rfl, rfl, rfl, fun _ => rfl, .refl _⟩
        (upkeep_beside (readUnits_upkeep ..))
    · exact .refl s4
  have hl : h = hlineAt s m.line := hlineAt_congr k1.hlines line
  have hrg : r = homeRegion s m.line := by
    simp only [r, far, homeRegion, regionAt, k1.regions]
    rfl
  have h4 : s4.hlines = (putHline s (servedLine w m s)).hlines := by
    simp only [s4, h1, ts, hl, hrg, putHline, hh]
    rfl
  exact ⟨k5.hlines.trans h4, fun hw => (k5.mem hw).trans (hm hw), k5.regions ▸ hr, k5.stores.trans hs⟩

/-- A word that counts nothing is followed by no LAST_ACK. -/
theorem homeWord_uncounted (hc : w.cnt = false) (slot n : Nat) (m : Msg) (s : State) : homeWord slot n w m s = (homeApply w m s).1 := by
  have hlast : (homeApply w m s).2 = false := by
    show (w.cnt && _) = false
    rw [hc, Bool.false_and]
  cases n with
  | zero => rfl
  | succ n => simp only [homeWord, hlast, Bool.false_eq_true, if_false]

end

-- ## What a home sends (R263)

/-- The message that a word sends to one of its targets. -/
def homeMsg (w : ActionWord) (m : Msg) (s : State) (t : Nat) : Msg :=
  { kind := w.msg, line := m.line, req := m.req, dst := t, bytes := if w.carry then lineCells (lineData s m.line) else [], flt := w.flt,
    writer := m.writer }

/-- For a request that is not phase-free, where no event is held, a word that neither writes nor reads memory sends its message to its
targets and nothing else. -/
theorem homeApply_net {w : ActionWord} {m : Msg} {s : State} (hu : Unheld s) (hk : m.kind ≠ .unc) (hw : w.write = false)
    (hr : w.rdm = false) (hm : w.msg ≠ .none) :
    (homeApply w m s).1.net = s.net ++ (homeTargets w m.req (homeRegion s m.line)).map (homeMsg w m s) := by
  unfold homeApply
  extract_lets line isUnc far s0 s1 h r ts faulted out sends s2 vec s3 h1 s4 s5
  have hunc : isUnc = false := by simpa [isUnc] using hk
  have e1 : s1 = s := by simp [s1, s0, hw, hunc]
  have hts : ts = homeTargets w m.req (homeRegion s m.line) := by
    simp only [ts, r, e1]
    rfl
  have hout : out = homeMsg w m s := by
    funext t
    simp only [out, hunc, e1]
    rfl
  have e2 : s2 = { s with net := s.net ++ ts.map out } := by
    simp [s2, sends, hm, hunc, e1, postAll_eq]
  have hu2 : Unheld s2 := by
    rw [e2]
    exact hu
  have n3 : s3.net = s2.net := by
    simp only [s3]
    split
    · rfl
    · exact (dropLeft_silent ..).net hu2
  have e5 : s5 = s4 := if_neg (by simp [hr])
  rw [e5, ← hts, ← hout]
  exact n3.trans (by rw [e2])

-- ## A home with nothing to dispatch (R272, R275)

/-- The directory with other entries. -/
def setRegions (rs : List Region) (s : State) : State := { s with regions := rs }

section
variable {line : Nat} {s : State} {rs : List Region}

@[simp] theorem setRegions_mem : (setRegions rs s).mem = s.mem := rfl
@[simp] theorem setRegions_net : (setRegions rs s).net = s.net := rfl
@[simp] theorem setRegions_hlines : (setRegions rs s).hlines = s.hlines := rfl
@[simp] theorem setRegions_chains : (setRegions rs s).chains = s.chains := rfl
@[simp] theorem setRegions_stores : (setRegions rs s).stores = s.stores := rfl
@[simp] theorem setRegions_aflags : (setRegions rs s).aflags = s.aflags := rfl
@[simp] theorem setRegions_spid : (setRegions rs s).spid = s.spid := rfl
@[simp] theorem hlineAt_setRegions : hlineAt (setRegions rs s) line = hlineAt s line := rfl

theorem homeRun_idle (h : blocked (hlineAt s line) = true ∨ (hlineAt s line).queue = []) (n : Nat) : homeRun n line s = s := by
  cases n with
  | zero => rfl
  | succ n =>
    unfold homeRun
    dsimp only
    split
    · rfl
    next hb =>
      obtain hb' | hq := h
      · simp [hb'] at hb
      · simp only [hq]

/-- A displaced entry may be freed; nothing else. -/
theorem freeEntry_eq (region : Nat) (s : State) : ∃ rs, freeEntry region s = setRegions rs s := by
  unfold freeEntry
  split
  next r _ =>
    split
    · exact ⟨(putRegion s { r with going := false }).regions, rfl⟩
    · exact ⟨s.regions, rfl⟩
  · exact ⟨s.regions, rfl⟩

theorem homeNext_idle (h : blocked (hlineAt s line) = true ∨ (hlineAt s line).queue = []) :
    ∃ rs, homeNext line s = setRegions rs s := by
  unfold homeNext
  rw [homeRun_idle h]
  exact freeEntry_eq ..

theorem makeRoom_small (h : s.regions.length ≤ 12) (region : Nat) : makeRoom region s = s := if_pos h

end

end Sys2Proof.HomeWords
end

section
/-! PROOFS. Acknowledgements, memory answers, retries and scatter-add chains at the home (O45). -/

namespace Sys2Proof.HomeAnswers

open Sys2Proof.Machine Sys2Proof.Laws Sys2Proof.CoherenceLines Sys2Proof.HomeWords

theorem blocked_of_busy {h : HLine} (hb : h.busy = true) : blocked h = true := by simp [blocked, hb]

-- ## Acknowledgements (R264)

section
variable {slot line : Nat} {w : ActionWord} {m cur : Msg} {s : State}

/-- A line whose count has gone down. -/
def oneLess (h : HLine) : HLine := { h with acks := h.acks - 1 }

/-- A line with a request in service. -/
def serving (m : Msg) (h : HLine) : HLine := { h with cur := some m }

/-- The line of a request in service after the word that does nothing. -/
theorem servedLine_nil (hb : (hlineAt s m.line).busy = true) : servedLine ActionWord.nil m s = serving m (hlineAt s m.line) := by
  have hf : faultMarked ActionWord.nil m = false := by
    simp [faultMarked, show ActionWord.nil.flt = 0 from rfl]
  unfold servedLine
  rw [hf]
  simp [inService, blocked, hb, ActionWord.nil, serving]

/-- INV_ACK with the count gone down, carrying none of the bytes of the request in service. -/
def counting (slot : Nat) (cur : Msg) (s : State) : State :=
  homeWord slot 4 ActionWord.nil { cur with bytes := [] } (putHline s (oneLess (hlineAt s cur.line)))

/-- A request in service has its bytes. -/
def withBytes (bs : List (Nat × Byte)) (h : HLine) : HLine := { h with cur := h.cur.map fun x => { x with bytes := bs } }

/-- The state after INV_ACK: the request in service has its bytes again. -/
def counted (slot : Nat) (cur : Msg) (s : State) : State :=
  putHline (counting slot cur s) (withBytes cur.bytes (hlineAt (counting slot cur s) cur.line))

theorem counting_line (hb : (hlineAt s cur.line).busy = true) :
    hlineAt (counting slot cur s) cur.line = serving { cur with bytes := [] } (oneLess (hlineAt s cur.line)) := by
  have hp : hlineAt (putHline s (oneLess (hlineAt s cur.line))) cur.line = oneLess (hlineAt s cur.line) :=
    hlineAt_putHline (hlineAt_line s cur.line)
  rw [counting, homeWord_uncounted rfl]
  refine (homeApply_effect ..).hlineAt.trans ((servedLine_nil ?_).trans (congrArg _ hp))
  exact (congrArg HLine.busy hp).trans hb

theorem counted_line (hc : (hlineAt s cur.line).cur = some cur) (hb : (hlineAt s cur.line).busy = true) :
    hlineAt (counted slot cur s) cur.line = oneLess (hlineAt s cur.line) := by
  rw [counted, counting_line hb, hlineAt_putHline (by simp [withBytes, serving, oneLess])]
  simp [withBytes, serving, oneLess, hc]

theorem counted_mem : (counted slot cur s).mem = s.mem := by
  show (counting slot cur s).mem = s.mem
  rw [counting, homeWord_uncounted rfl]
  exact (homeApply_effect ..).mem rfl

/-- INV_ACK with a word that does nothing: LAST_ACK follows where the count has come to 0 (R264). -/
theorem homeAck_eq (hc : (hlineAt s m.line).cur = some cur) (hl : cur.line = m.line) (hb : (hlineAt s m.line).busy = true)
    (hw : wordOf (protoAt s slot).home (homeState slot (hlineAt s m.line)) 6 = some ActionWord.nil)
    (hw' : (hlineAt s m.line).acks = 1 → wordOf (protoAt s slot).home (homeState slot (hlineAt s m.line)) 7 = some w) :
    homeAck slot m s = homeNext m.line
      (if (hlineAt s m.line).acks = 1 then homeWord slot 4 w cur (counted slot cur s) else counted slot cur s) := by
  rw [← hl] at hc hb hw hw' ⊢
  unfold homeAck
  rw [← hl]
  extract_lets h
  split
  next e => cases hc.symm.trans e
  next c e =>
    obtain rfl : cur = c := Option.some.inj (hc.symm.trans e)
    split
    next e => cases hw.symm.trans e
    next w0 e =>
      obtain rfl : ActionWord.nil = w0 := Option.some.inj (hw.symm.trans e)
      extract_lets s1 h1 s2
      have e2 : s2 = counted slot cur s := rfl
      have e1 : h1 = serving { cur with bytes := [] } (oneLess h) := counting_line hb
      have hs : homeState slot h1 = homeState slot h := by
        rw [e1]
        rfl
      by_cases ha : h.acks = 1
      · rw [if_pos ha, if_pos (by simp [ha, e1, serving, oneLess]), hs, hw' ha, e1]
        rfl
      · rw [if_neg ha, if_neg (by simp [ha]), e2]

/-- A line with nothing queued after a word that counts nothing: the directory apart, the state is as the word leaves it. -/
theorem homeNext_word (hn : w.cnt = false) (hq : (hlineAt s m.line).queue = []) :
    ∃ rs, homeNext m.line (homeWord slot 4 w m s) = setRegions rs (homeApply w m s).1 := by
  rw [homeWord_uncounted hn]
  refine homeNext_idle (.inr ?_)
  rw [(homeApply_effect w m s).hlineAt, servedLine_queue, hq]

theorem homeApply_state : (hlineAt (homeApply w m s).1 m.line).state = w.next.getD (hlineAt s m.line).state := by
  rw [(homeApply_effect w m s).hlineAt, servedLine_state]

/-- The acknowledgement of a cluster is taken from the net and counted. -/
theorem exec_homeInvAck (m : Msg) (s : State) : exec (.homeInvAck m) s =
    .next (homeAck (msgSlot s m) { m with dst := atHome, kind := .ack } (takeMsg { m with dst := atHome, kind := .ack } s)) := rfl

-- ## Memory answers (R262)

theorem homeMemReturn_word (hc : (hlineAt s line).cur = some cur) (hl : cur.line = line) (hq : (hlineAt s line).queue = [])
    (hr : s.regions.length < 12) (hn : w.cnt = false)
    (hw : wordOf (protoAt s slot).home (homeState slot (hlineAt s line)) 8 = some w) :
    ∃ rs, homeMemReturn slot line s = setRegions rs (homeApply w cur s).1 := by
  subst hl
  have hm : makeRoom (cur.line / 8) (homeWord slot 4 w cur s) = homeWord slot 4 w cur s := by
    rw [homeWord_uncounted hn]
    exact makeRoom_small ((homeApply_effect w cur s).regions.trans hr) _
  obtain ⟨rs, h⟩ := homeNext_word (slot := slot) hn hq
  refine ⟨rs, ?_⟩
  simp only [homeMemReturn, hc, hw, hm, h]

theorem exec_homeMem (hnet : s.net = []) : exec (.homeMem line) s = .next (homeMemReturn (slotOfLine s 0 line 0) line s) := by
  show execHomeMem line s = _
  simp only [execHomeMem, hnet, List.find?_nil]

end

-- ## Retries (R275)

/-- The local event that sent a refused request is raised again. -/
theorem exec_nackBackoffRetry {s : State} (he : s.eager = false) (cl line : Nat) (ev : LocalEv) : exec (.nackBackoffRetry cl line ev) s =
    .next (clusterRaise (slotOfLine s cl line 0) cl line (localCode ev) (if ev = .pub then sentBytes s cl line else []) 0
      (if ev = .pub then 0 else (clineAt s cl line).asker) s) := by
  have settled : ∀ slot ev bs w, settle (clusterRaise slot cl line ev bs 0 w s) = clusterRaise slot cl line ev bs 0 w s := by
    intro slot ev bs w
    have hw : ClusterWork (clusterRaise slot cl line ev bs 0 w s) s := (afterChange_clusterWork ..).trans (raiseOnce_clusterWork ..)
    obtain ⟨cs, ms, ps, es, -, h⟩ := hw
    refine if_neg ?_
    rw [h]
    simp [he]
  cases ev <;> exact congrArg Host.Outcome.next (settled ..)

-- ## The addition of an agent outside the clusters (R277)

section
variable {addr : Nat} {ty : Ty} {v : Word} {s s1 : State}

/-- The addition as it reaches its slice. -/
def outsideAdd (addr : Nat) (ty : Ty) (v : Word) : Msg := addMsg 17 outsideWriter addr 0 ty v false

theorem bytes_pos (ty : Ty) : 0 < ty.bytes := by cases ty <;> decide

theorem addKey_outsideAdd : addKey (outsideAdd addr ty v) = addr := by
  obtain ⟨n, hn⟩ := Nat.exists_eq_succ_of_ne_zero (bytes_pos ty).ne'
  simp only [addKey, outsideAdd, addMsg, hn, leBytes, List.zipIdx_cons, List.map_cons, List.head?_cons, Option.map_some, Option.getD_some,
    Nat.add_zero]
  exact Nat.div_add_mod addr 64

theorem addVal_outsideAdd : addVal (outsideAdd addr ty v) = (ty, word (v.toNat % 2 ^ (8 * ty.bytes))) := by
  have hb : (outsideAdd addr ty v).bytes.map (fun x => x.2) = leBytes ty.bytes v.toNat := by
    simp [outsideAdd, addMsg, Function.comp_def]
  simp only [addVal, hb, leNat_leBytes, pow_mul]
  rfl

/-- Nothing of the writer has to go before its addition. -/
theorem ownByte_outside (h : ∀ p ∈ s.stores, p.owner ≠ outsideWriter) (key n : Nat) :
    ∀ p ∈ s.stores, ownByte (agentOf outsideWriter) key n p = false := by
  intro p hp
  have ha : agentOf outsideWriter = outsideWriter := rfl
  simp [ownByte, ha, h p hp]

/-- An addition may join where a chain of its address has room and none to the address is queued before it. -/
theorem canJoin_outsideAdd (h : ∀ p ∈ s.stores, p.owner ≠ outsideWriter) :
    canJoin (outsideAdd addr ty v) s = true ↔ (∃ c ∈ s.chains, c.addr = addr ∧ c.vals.length < 64) ∧
      ∀ x ∈ (hlineAt s (addr / 64)).queue, x.kind = .add → addKey x ≠ addr := by
  have hs : s.stores.any (ownByte (agentOf (outsideAdd addr ty v).writer) addr (addVal (outsideAdd addr ty v)).1.bytes) = false :=
    List.any_eq_false.mpr fun p hp => Bool.eq_false_iff.mp (ownByte_outside h _ _ p hp)
  have hl : (outsideAdd addr ty v).line = addr / 64 := rfl
  simp only [canJoin, addKey_outsideAdd, hs, hl]
  simp

/-- The addition waits: its line is taken, others are queued, or its slice has no chain left. -/
def AddWaits (addr : Nat) (s : State) : Prop :=
  let h := hlineAt s (addr / 64)
  h.busy = true ∨ h.perf = true ∨ h.queue ≠ [] ∨ 256 ≤ s.chains.countP fun c => sliceIndex c.addr == sliceIndex addr

theorem addWaits_iff : (blocked (hlineAt s (addr / 64)) || !(hlineAt s (addr / 64)).queue.isEmpty ||
    (decide ((outsideAdd addr ty v).kind = .add) && !chainFree s (addKey (outsideAdd addr ty v)))) = true ↔ AddWaits addr s := by
  have hk : (outsideAdd addr ty v).kind = .add := rfl
  simp [AddWaits, blocked, chainFree, addKey_outsideAdd, hk, List.countP_eq_length_filter, or_assoc]

/-- Where an addition goes (R275, R277). -/
theorem homeRequest_outsideAdd (hp : linePending s (addr / 64) = false) :
    (canJoin (outsideAdd addr ty v) s = true → homeRequest (outsideAdd addr ty v) s =
      admitted (outsideAdd addr ty v) (joinAdd (addSlot s (outsideAdd addr ty v)) (outsideAdd addr ty v) s)) ∧
    (canJoin (outsideAdd addr ty v) s = false → AddWaits addr s → nodeFree s (outsideAdd addr ty v) = true →
      homeRequest (outsideAdd addr ty v) s = enqueue (outsideAdd addr ty v) s) ∧
    (canJoin (outsideAdd addr ty v) s = false → ¬ AddWaits addr s → homeRequest (outsideAdd addr ty v) s =
      admitted (outsideAdd addr ty v) (homeNext (addr / 64) (openChain (addSlot s (outsideAdd addr ty v)) (outsideAdd addr ty v) s))) := by
  have hk : (outsideAdd addr ty v).kind = .add := rfl
  have h0 : ¬ linePending s (outsideAdd addr ty v).line = true := Bool.eq_false_iff.mp hp
  refine ⟨fun hj => ?_, fun hj hw hn => ?_, fun hj hw => ?_⟩
  · exact (if_neg h0).trans (if_pos (by rw [hj]; rfl))
  · exact (if_neg h0).trans <| (if_neg (by rw [hj]; simp)).trans <| (if_pos (addWaits_iff.mpr hw)).trans (if_pos hn)
  · exact (if_neg h0).trans <| (if_neg (by rw [hj]; simp)).trans <| (if_neg (mt addWaits_iff.mp hw)).trans (if_pos hk)

theorem enqueue_line (m : Msg) (s : State) :
    hlineAt (enqueue m s) m.line = { hlineAt s m.line with queue := (hlineAt s m.line).queue ++ [m] } := by
  unfold enqueue
  exact (hlineAt_congr (s := putHline s _) rfl _).trans (hlineAt_putHline (hlineAt_line s m.line))

/-- The mark of a write changes lines at their home only. -/
theorem claimMark_ok {slot line : Nat} (h : claimMark slot line s = .ok s1) : ∃ hs, s1 = { s with hlines := hs } := by
  unfold claimMark at h
  extract_lets k at h
  split at h
  · cases h
  · split at h
    · cases h
      exact ⟨s.hlines, rfl⟩
    next w _ =>
      split at h
      · cases h
      · cases h
        exact ⟨(putHline s { k with state := w.next.getD k.state }).hlines, rfl⟩

/-- Nobody waits for the answer. -/
theorem addAnswer_outside (f : Nat) : addAnswer (outsideAdd addr ty v) f s = s :=
  if_neg (show ¬ outsideWriter < 2 ^ 19 by decide)

theorem joinAdd_outside {slot : Nat} (h : claimMark slot (addr / 64) s = .ok s1) : joinAdd slot (outsideAdd addr ty v) s =
    { s1 with chains := s1.chains.map fun c =>
        if c.addr = addr then { c with vals := c.vals ++ [(ty, word (v.toNat % 2 ^ (8 * ty.bytes)))] } else c } := by
  have hc : addCheck slot (outsideAdd addr ty v) s = .ok s1 := h
  simp only [joinAdd, hc, addAnswer_outside, addKey_outsideAdd, addVal_outsideAdd]

/-- With nothing of the agent stored there, only the stored bytes that it had taken in go. -/
theorem flushOwn_nothing {a key n : Nat} (h : ∀ p ∈ s.stores, ownByte a key n p = false) :
    ∃ ps, Upkeep (flushOwn a key n s) { s with stores := ps } := by
  have hf : s.stores.filter (ownByte a key n) = [] := List.filter_eq_nil_iff.mpr fun p hp => Bool.eq_false_iff.mp (h p hp)
  unfold flushOwn
  rw [hf]
  exact ⟨(dropOlder (ownByte a key n) [] s.stores).filter fun p => !ownByte a key n p,
    (unstale_upkeep ..).trans ⟨s.poison.filter fun u => !(decide (2 ^ 52 ≤ u) && false), s.softErr, s.corrected, s.stale, s.errlog, rfl⟩⟩

theorem openChain_outside {slot : Nat} (hs : ∀ p ∈ s.stores, p.owner ≠ outsideWriter) (h : claimMark slot (addr / 64) s = .ok s1) :
    (openChain slot (outsideAdd addr ty v) s).mem = s.mem ∧
      (hlineAt (openChain slot (outsideAdd addr ty v) s) (addr / 64)).busy = true ∧
      (openChain slot (outsideAdd addr ty v) s).chains =
        s.chains ++ [{ addr := addr, vals := [(ty, word (v.toNat % 2 ^ (8 * ty.bytes)))] }] := by
  have hc : addCheck slot (outsideAdd addr ty v) s = .ok s1 := h
  obtain ⟨hs1, rfl⟩ := claimMark_ok h
  simp only [openChain, hc, addAnswer_outside, addKey_outsideAdd, addVal_outsideAdd]
  obtain ⟨ps, po, so, co, st, es, hf⟩ := flushOwn_nothing (s := { s with hlines := hs1 }) (ownByte_outside hs addr ty.bytes)
  obtain ⟨cs, ms, ps', es', -, hd⟩ := dropCopies_clusterWork (addr / 64)
    (flushOwn (agentOf outsideWriter) addr ty.bytes { s with hlines := hs1 })
  have hm : (dropCopies (addr / 64) (flushOwn (agentOf outsideWriter) addr ty.bytes { s with hlines := hs1 })).mem = s.mem := by
    rw [hd, hf]
  have hch : (dropCopies (addr / 64) (flushOwn (agentOf outsideWriter) addr ty.bytes { s with hlines := hs1 })).chains = s.chains := by
    rw [hd, hf]
  refine ⟨hm, ?_, congrArg (· ++ _) hch⟩
  refine (congrArg HLine.busy ((hlineAt_congr (s := putHline _ _) rfl _).trans (hlineAt_putHline ?_))).trans rfl
  exact hlineAt_line _ _

end

-- ## A chain closes (R277)

/-- No line has a request queued. -/
def NoQueue (s : State) : Prop := ∀ h ∈ s.hlines, h.queue = []

theorem NoQueue.congr {s t : State} (h : NoQueue s) (ht : t.hlines = s.hlines) : NoQueue t := fun x hx => h x (ht ▸ hx)

theorem NoQueue.hlineAt {s : State} (h : NoQueue s) (line : Nat) : (hlineAt s line).queue = [] :=
  hlineAt_induction (P := fun h => h.queue = []) rfl h

theorem NoQueue.putHline {s : State} {h : HLine} (hs : NoQueue s) (hq : h.queue = []) : NoQueue (putHline s h) := by
  intro x hx
  obtain rfl | hx := mem_putHline hx
  · exact hq
  · exact hs x hx

/-- With nothing queued no addition waits for a chain. -/
theorem chainsFreed_noQueue {s : State} (h : NoQueue s) (key : Nat) : chainsFreed key s = s := by
  have hf : (s.hlines.filter fun h => sliceIndex (64 * h.line) == sliceIndex key &&
      (h.queue.head?.map fun m => m.kind == .add).getD false) = [] :=
    List.filter_eq_nil_iff.mpr fun x hx => by simp [h x hx]
  unfold chainsFreed
  rw [hf]
  rfl

/-- The sticky flags of a slice are all that a chain's flags change. -/
theorem addSliceFlags_keeps (key : Nat) (f : BitVec 6) (s : State) : (addSliceFlags key f s).mem = s.mem ∧
    (addSliceFlags key f s).chains = s.chains ∧ (addSliceFlags key f s).hlines = s.hlines ∧ (addSliceFlags key f s).net = s.net := by
  unfold addSliceFlags
  split <;> exact ⟨rfl, rfl, rfl, rfl⟩

theorem addSliceFlags_aflags_congr {s t : State} (key : Nat) (f : BitVec 6) (hs : t.spid = s.spid) (ha : t.aflags = s.aflags) :
    (addSliceFlags key f t).aflags = (addSliceFlags key f s).aflags := by
  have hm : myModule t = myModule s := congrArg (fun x : Word => bits x.toNat 8 0) hs
  simp only [addSliceFlags, hm, ha]
  split_ifs
  · exact ha
  · rfl

/-- A line that an open chain keeps no more. -/
def unbusy (h : HLine) : HLine := { h with busy := false }

/-- The value is written once, the additions made in order, with the flags to the slice, and the line is free. -/
theorem closeChain_noQueue {s : State} (c : Chain) (hn : s.net = []) (hq : NoQueue s) :
    let r := chainSum c (memBytes s.mem c.addr (chainBytes c))
    (closeChain c s).mem = memWrite s.mem c.addr r.1 ∧ (closeChain c s).chains = s.chains.erase c ∧
      (hlineAt (closeChain c s) (c.addr / 64)).busy = false ∧
      (closeChain c s).aflags = (addSliceFlags c.addr r.2 s).aflags := by
  intro r
  unfold closeChain
  extract_lets n t r' s1 x s2 s3
  obtain ⟨po, so, co, st, es, ht⟩ : Upkeep t s := readUnits_upkeep ..
  have hr : r' = r := by simp only [r', r, n, ht]
  have k1 : s1.mem = memWrite s.mem c.addr r.1 ∧ s1.chains = s.chains.erase c ∧ s1.hlines = s.hlines ∧ s1.net = [] ∧
      s1.spid = s.spid ∧ s1.aflags = s.aflags := by
    obtain ⟨po', so', co', st', es', h1⟩ : Upkeep s1 { t with mem := memWrite t.mem c.addr r'.1, chains := t.chains.erase c } :=
      healPoison_upkeep ..
    rw [h1, ht, hr]
    exact ⟨rfl, rfl, rfl, hn, rfl, rfl⟩
  obtain ⟨hm, hc, hh, hn1, hsp, haf⟩ := k1
  have q1 : NoQueue s1 := hq.congr hh
  have q2 : NoQueue (putHline s1 (unbusy x)) := q1.putHline (q1.hlineAt _)
  obtain ⟨rs, h2⟩ : ∃ rs, s2 = setRegions rs (putHline s1 (unbusy x)) := homeNext_idle (.inr (q2.hlineAt _))
  obtain ⟨fm, fc, fh, fn⟩ := addSliceFlags_keeps c.addr r.2 (setRegions rs (putHline s1 (unbusy x)))
  have h3 : s3 = addSliceFlags c.addr r.2 (setRegions rs (putHline s1 (unbusy x))) := by
    simp only [s3, h2, hr]
    exact chainsFreed_noQueue (q2.congr fh) _
  have n3 : s3.net = [] := by
    rw [h3, fn]
    exact hn1
  rw [if_pos (by rw [n3]; rfl), h3]
  have hx : hlineAt (putHline s1 (unbusy x)) (c.addr / 64) = unbusy x := hlineAt_putHline (hlineAt_line s1 _)
  refine ⟨?_, ?_, ?_, ?_⟩
  · rw [fm]
    exact hm
  · rw [fc]
    exact hc
  · rw [hlineAt_congr fh, hlineAt_setRegions, hx]
    rfl
  · exact addSliceFlags_aflags_congr _ _ hsp haf

/-- An addition that waits leaves memory and chains, and is queued at its line. -/
theorem enqueue_waits (addr : Nat) (ty : Ty) (v : Word) (s : State) :
    (enqueue (outsideAdd addr ty v) s).mem = s.mem ∧ (enqueue (outsideAdd addr ty v) s).chains = s.chains ∧
      hlineAt (enqueue (outsideAdd addr ty v) s) (addr / 64) =
        { hlineAt s (addr / 64) with queue := (hlineAt s (addr / 64)).queue ++ [outsideAdd addr ty v] } :=
  ⟨rfl, rfl, enqueue_line (outsideAdd addr ty v) s⟩

/-- An acknowledgement that is not the last (R264). -/
theorem homeInvAck_more {m cur : Msg} {s : State} (hc : (hlineAt s m.line).cur = some cur) (hl : cur.line = m.line)
    (hb : (hlineAt s m.line).busy = true)
    (hw : wordOf (protoAt s (msgSlot s m)).home (homeState (msgSlot s m) (hlineAt s m.line)) 6 = some ActionWord.nil)
    (ha : 1 < (hlineAt s m.line).acks) :
    ∃ t, exec (.homeInvAck m) s = .next t ∧ t.mem = s.mem ∧ hlineAt t m.line = oneLess (hlineAt s m.line) := by
  let k : Msg := { m with dst := atHome, kind := .ack }
  have e := (homeAck_eq (m := k) (s := takeMsg k s) (slot := msgSlot s m) (w := ActionWord.nil) hc hl hb hw
    fun h => absurd h ha.ne').trans (congrArg _ (if_neg ha.ne'))
  have hk : hlineAt (counted (msgSlot s m) cur (takeMsg k s)) m.line = oneLess (hlineAt s m.line) := by
    rw [← hl] at hc hb ⊢
    exact counted_line (s := takeMsg k s) hc hb
  obtain ⟨rs, hn⟩ := homeNext_idle (.inl (blocked_of_busy (by rw [hk]; exact hb)))
  refine ⟨_, (exec_homeInvAck m s).trans (congrArg Host.Outcome.next (e.trans hn)), ?_, ?_⟩
  · exact counted_mem (slot := msgSlot s m)
  · exact hk

/-- The last acknowledgement is followed by LAST_ACK (R264). -/
theorem homeInvAck_last {m cur : Msg} {s : State} {w : ActionWord} (hc : (hlineAt s m.line).cur = some cur) (hl : cur.line = m.line)
    (hb : (hlineAt s m.line).busy = true)
    (hw : wordOf (protoAt s (msgSlot s m)).home (homeState (msgSlot s m) (hlineAt s m.line)) 6 = some ActionWord.nil)
    (ha : (hlineAt s m.line).acks = 1) (hq : (hlineAt s m.line).queue = [])
    (hw' : wordOf (protoAt s (msgSlot s m)).home (homeState (msgSlot s m) (hlineAt s m.line)) 7 = some w) (hwr : w.write = false)
    (hcn : w.cnt = false) : ∃ t, exec (.homeInvAck m) s = .next t ∧ t.mem = s.mem ∧
      (hlineAt t m.line).state = w.next.getD (hlineAt s m.line).state := by
  let k : Msg := { m with dst := atHome, kind := .ack }
  have e := (homeAck_eq (m := k) (s := takeMsg k s) (slot := msgSlot s m) (w := w) hc hl hb hw fun _ => hw').trans
    (congrArg _ (if_pos ha))
  rw [← hl] at hc hb hq ⊢
  have hk : hlineAt (counted (msgSlot s m) cur (takeMsg k s)) cur.line = oneLess (hlineAt s cur.line) :=
    counted_line (s := takeMsg k s) hc hb
  obtain ⟨rs, hn⟩ := homeNext_word (slot := msgSlot s m) (m := cur) (s := counted (msgSlot s m) cur (takeMsg k s)) hcn
    (by rw [hk]; exact hq)
  rw [hl] at hn
  refine ⟨_, (exec_homeInvAck m s).trans (congrArg Host.Outcome.next (e.trans hn)), ?_, ?_⟩
  · exact ((homeApply_effect ..).mem hwr).trans counted_mem
  · rw [hlineAt_setRegions, homeApply_state, hk]
    rfl

/-- Settles O45: a count that goes down keeps the request in service; every other event is its word at a line with nothing queued, the
way of an addition, or the close of a chain. -/
theorem homeEvents : Obligations.HomeEvents := by
  unfold Obligations.HomeEvents
  intro m cl line addr ev ty v c s
  refine ⟨?_, ?_, fun he => exec_nackBackoffRetry he cl line ev, ?_, ?_⟩
  · intro h table cur hc hl hb hw
    refine ⟨fun ha => ?_, fun w' ha hq hw' hwr hcn => homeInvAck_last hc hl hb hw ha hq hw' hwr hcn⟩
    obtain ⟨t, ht, hm, hk⟩ := homeInvAck_more hc hl hb hw ha
    exact ⟨t, ht, hm, (congrArg HLine.acks hk :), (congrArg HLine.state hk :), (congrArg HLine.cur hk :).trans hc⟩
  · intro h slot cur w hnet hr hc hl hq hw hwr hcn
    obtain ⟨rs, hm⟩ := homeMemReturn_word hc hl hq hr hcn hw
    subst hl
    refine ⟨_, (exec_homeMem hnet).trans (congrArg Host.Outcome.next hm), (homeApply_effect ..).mem hwr, homeApply_state, ?_⟩
    intro hu hd h1 hk hcar hrd
    refine (homeApply_net hu hk hwr hrd (by simp [hd])).trans ?_
    simp [hnet, homeTargets, homeMsg, h1, hd, hcar]
  · intro line h slot msg val join waits queued
    have wait : homeRequest msg s = enqueue msg s → queued := fun he =>
      ⟨_, congrArg Host.Outcome.next he, enqueue_waits addr ty v s⟩
    refine ⟨fun hp => wait (if_pos hp), fun hp hs => ?_⟩
    obtain ⟨joins, waiting, opens⟩ := homeRequest_outsideAdd (ty := ty) (v := v) hp
    have hj := canJoin_outsideAdd (addr := addr) (ty := ty) (v := v) hs
    refine ⟨fun hc hq s1 h1 => ?_, fun hn hw hf => wait (waiting ?_ hw hf), fun hn hw s1 h1 => ?_⟩
    · refine ⟨_, congrArg Host.Outcome.next ((joins (hj.mpr ⟨hc, hq⟩)).trans (congrArg _ (joinAdd_outside h1))), ?_⟩
      obtain ⟨hs1, rfl⟩ := claimMark_ok h1
      exact ⟨rfl, rfl, rfl⟩
    · refine Bool.eq_false_iff.mpr fun hjn => ?_
      obtain ⟨⟨c', hc', hr⟩, hq⟩ := hj.mp hjn
      obtain hn | ⟨x, hx, hk, hk'⟩ := hn
      · exact hn c' hc' hr
      · exact hq x hx hk hk'
    · have hjn : canJoin msg s = false := Bool.eq_false_iff.mpr fun hjn => by
        obtain ⟨⟨c', hc', hr⟩, -⟩ := hj.mp hjn
        exact hn c' hc' hr
      obtain ⟨hm, hb, hch⟩ := openChain_outside (ty := ty) (v := v) hs h1
      obtain ⟨rs, hnx⟩ := homeNext_idle (line := addr / 64) (.inl (blocked_of_busy hb))
      exact ⟨_, congrArg Host.Outcome.next ((opens hjn hw).trans (congrArg _ hnx)), hm, hb, hch⟩
  · intro hc hn hq
    obtain rfl : c.addr = addr := by simpa using List.find?_some hc
    obtain ⟨hm, hch, hb, ha⟩ := closeChain_noQueue c hn hq
    refine ⟨closeChain c s, ?_, hm, hch, hb, ha⟩
    show execScatterAddChainClose c.addr s = _
    simp only [execScatterAddChainClose, hc]

end Sys2Proof.HomeAnswers
end

section
/-! PROOFS. An entry of the directory that is displaced can take stored bytes with it (O44): a copy of its region goes, an ACK that the
line held ends the line's part of a release, and the bytes that its cluster had sent are forgotten. -/

namespace Sys2Proof.DisplacedRegions

open Sys2Proof.Machine Sys2Proof.Laws Sys2Proof.CoherenceLines Sys2Proof.HomeWords

-- ## Making room adds no stored byte (R271, R272)

section
variable (slot region n : Nat)

theorem homeWord_stores (w : ActionWord) (m : Msg) (s : State) : (homeWord slot n w m s).stores.Sublist s.stores := by
  induction n generalizing w s with
  | zero => exact (homeApply_effect w m s).stores
  | succ n ih =>
    unfold homeWord
    have h1 := (homeApply_effect w m s).stores
    dsimp only
    split
    · split
      · exact h1
      · exact (ih _ _).trans h1
    · exact h1

theorem freeEntry_stores (s : State) : (freeEntry region s).stores = s.stores := by
  obtain ⟨rs, h⟩ := freeEntry_eq region s
  rw [h, setRegions_stores]

/-- EVICT_DIR at one line of a region whose entry was `r` (R272). -/
def evictDir (slot : Nat) (r : Region) (s : State) (line : Nat) : State :=
  match wordOf (protoAt s slot).home (homeState slot (hlineAt s line)) 10 with
  | some w => homeWord slot 4 w (ownMsg line) (putRegion s { r with going := true })
  | none => s

theorem displaceRegion_eq (s : State) : displaceRegion slot region s = freeEntry region
    (((List.range 8).map fun k => 8 * region + k).foldl (evictDir slot (regionAt s (8 * region))) s) := rfl

theorem evictDirs_stores (r : Region) (ls : List Nat) (s : State) : (ls.foldl (evictDir slot r) s).stores.Sublist s.stores := by
  induction ls generalizing s with
  | nil => exact .refl _
  | cons l ls ih =>
    refine (ih _).trans ?_
    unfold evictDir
    split
    · exact homeWord_stores ..
    · exact .refl _

/-- What is left after the first line of a region is not more after the others. -/
theorem displaceRegion_stores (s : State) :
    (displaceRegion slot region s).stores.Sublist (evictDir slot (regionAt s (8 * region)) s (8 * region)).stores := by
  have hl : (List.range 8).map (fun k => 8 * region + k) = 8 * region :: [1, 2, 3, 4, 5, 6, 7].map fun k => 8 * region + k := rfl
  rw [displaceRegion_eq, freeEntry_stores, hl, List.foldl_cons]
  exact evictDirs_stores ..

theorem displaceRegion_sublist (s : State) : (displaceRegion slot region s).stores.Sublist s.stores := by
  rw [displaceRegion_eq, freeEntry_stores]
  exact evictDirs_stores ..

theorem makeRoomN_stores (s : State) : (makeRoomN region n s).stores.Sublist s.stores := by
  induction n generalizing s with
  | zero => exact .refl _
  | succ n ih =>
    unfold makeRoomN
    extract_lets l
    split
    · exact .refl _
    · split
      · exact (ih _).trans (displaceRegion_sublist ..)
      · exact .refl _

end

-- ## Two regions of a module have their ways in one set (R271)

theorem bits_five_lt (x l : Nat) : bits x (l + 4) l < 2 ^ 5 := by
  unfold bits
  have : l + 4 - l + 1 = 5 := by omega
  rw [this]
  exact Nat.mod_lt _ (by decide)

theorem homeSlice_lt (key : Nat) : homeSlice key < 2 ^ 5 := by
  unfold homeSlice
  extract_lets a
  have h39 : bits a 42 39 < 2 ^ 5 := (Nat.mod_lt _ (by decide)).trans (by decide)
  exact Nat.xor_lt_two_pow (Nat.xor_lt_two_pow (Nat.xor_lt_two_pow (Nat.xor_lt_two_pow (Nat.xor_lt_two_pow (Nat.xor_lt_two_pow
    (bits_five_lt a 9) (bits_five_lt a 14)) (bits_five_lt a 19)) (bits_five_lt a 24)) (bits_five_lt a 29)) (bits_five_lt a 34)) h39

theorem homeDie_lt (key : Nat) : homeDie key < 2 := by
  unfold homeDie
  extract_lets a
  split
  · split <;> decide
  · exact Nat.mod_lt _ (by decide)

theorem sliceIndex_lt (key : Nat) : sliceIndex key < 64 := by
  have hd := homeDie_lt key
  have hs := homeSlice_lt key
  unfold sliceIndex
  omega

/-- The set of a region: its slice, and its set there. -/
def setOf (k : Fin 131073) : Fin 64 × Fin 2048 :=
  (⟨sliceIndex (512 * k), sliceIndex_lt _⟩, ⟨Config.dirSet k % 2048, Nat.mod_lt _ (by decide)⟩)

/-- A module has more regions than sets, so two of them share one, whatever places regions in sets. -/
theorem exists_same_set : ∃ a b, a ≠ b ∧ a < 2 ^ 34 ∧ sliceIndex (512 * a) = sliceIndex (512 * b) ∧
    Config.dirSet a % 2048 = Config.dirSet b % 2048 := by
  obtain ⟨a, b, hne, h⟩ := Fintype.exists_ne_map_eq_of_card_lt setOf (by simp)
  refine ⟨a, b, fun hv => hne (Fin.ext hv), by omega, ?_, ?_⟩
  · exact congrArg (fun x => x.1.val) h
  · exact congrArg (fun x => x.2.val) h

-- ## The state that refutes

/-- A table: EVICT_DIR at the home clears the sharers; of a cluster's states, 1 and 2 await an ACK, 1 defers it and goes to 2 under INV,
and 2 goes to 0 with it. -/
def ackTable : Proto :=
  { loaded := true, id := 1, nsh := 2, nsc := 3, hstab := 1, cstab := 1, cattr := [0, 2, 2], home := [(10, 0x2000)],
    clus := [(17, 0x12), (20, 0x800000), (32, 0x10)] }

/-- The ACK that a line holds. -/
def heldAck : HeldEv := { ev := 8, bytes := [], flt := 0, writer := 0 }

/-- A line of cluster 0 that awaits an ACK and holds it. -/
def holdingLine (line : Nat) : CLine := { CLine.fresh 0 line with state := 1, held := [heldAck] }

/-- A byte of a line that cluster 0 has sent to its home. -/
def sentByte (line : Nat) : PStore := { key := 64 * line, byte := 0, owner := 0, core := 0, cl := 0, lvl := 3, takers := [] }

/-- The entry of a region that cluster 0 shares. -/
def sharedBy0 (a : Nat) : Region := { region := a, vec := 1, host := false }

/-- Thirteen entries of region `a`, whose second line awaits and holds an ACK. -/
def crowdedSet (a : Nat) : State :=
  { State.reset with
    clines := [holdingLine (8 * a + 1)]
    regions := List.replicate 13 (sharedBy0 a)
    slots := [ackTable]
    stores := [sentByte (8 * a + 1)] }

theorem sharedBy0_region (a : Nat) : (sharedBy0 a).region = a := rfl

theorem evictDir_word : wordOf ackTable.home 0 10 = some { ActionWord.nil with shv := 4 } := by decide

theorem inv_word : wordOf ackTable.clus 1 5 = some (wGo 2) := by decide

theorem ack_word : wordOf ackTable.clus 2 8 = some (wGo 0) := by decide

section
variable {line a b : Nat} {s : State}

/-- The first lines are those of module 0. -/
theorem remoteLine_zero (hs : s.spid = 0) (hl : line < 2 ^ 37) : remoteLine s line = false := by
  simp only [remoteLine, myModule, hs, Nat.div_eq_of_lt hl]
  decide

/-- Without a range entry a line of module 0 stands under slot 0. -/
theorem slotOfLine_zero (hr : s.ranges = State.reset.ranges) (hs : s.spid = 0) (hl : line < 2 ^ 37) (cl : Nat) :
    slotOfLine s cl line 0 = 0 := by
  have hm : remoteLine s line = false := remoteLine_zero hs hl
  have hf : s.ranges.toList.find? (fun r => r.v && decide (r.base ≤ moduleOffset (64 * line))
      && decide (moduleOffset (64 * line) < r.limit)) = none := by
    rw [hr]
    refine List.find?_eq_none.mpr fun r h => ?_
    simp only [State.reset, Vector.toList_replicate, List.mem_replicate] at h
    simp [h.2]
  simp only [slotOfLine, hm, hf, if_false, Bool.false_eq_true, Nat.zero_ne_one]

/-- The line after INV: it still holds the ACK. -/
def invalidated (line : Nat) : CLine := { CLine.fresh 0 line with state := 2, held := [heldAck] }

/-- The line when the ACK is raised. -/
def raising (line : Nat) : CLine := { CLine.fresh 0 line with state := 2 }

theorem protoAt_ackTable (hs : s.slots = [ackTable]) : protoAt s 0 = ackTable := by
  simp [protoAt, nthD, hs]

/-- The copy goes under INV; the line's state has changed. -/
theorem dropCopy_holding (hs : s.slots = [ackTable]) (hc : clineAt s 0 line = holdingLine line) :
    dropCopy 0 0 line s = reraise 0 0 line 64 (putCline s (invalidated line)) := by
  have hl : clineAt (putCline s (invalidated line)) 0 line = invalidated line := clineAt_putCline rfl rfl
  have hst : (holdingLine line).state = 1 := rfl
  have hap : filtered ackTable (clusterApply (wGo 2) 5 [] 0 0 (holdingLine line)).1 = invalidated line := by
    refine (ite_self _).trans ?_
    simp [clusterApply, wGo, ActionWord.nil, holdingLine, invalidated, CLine.fresh]
  simp only [dropCopy, hc, protoAt_ackTable hs, hst, inv_word, hap, afterChange, hl]
  exact if_neg (by decide : (2 : Nat) ≠ 1)

/-- The held ACK is raised in the new state. -/
theorem reraise_invalidated (hs : s.slots = [ackTable]) (hc : clineAt s 0 line = invalidated line) (n : Nat) :
    reraise 0 0 line (n + 1) s = reraise 0 0 line n (raiseOnce 0 0 line heldAck (putCline s (raising line))) := by
  have hw : wordOf ackTable.clus (invalidated line).state heldAck.ev = some (wGo 0) := ack_word
  have hh : (invalidated line).held = [heldAck] := rfl
  simp only [reraise, hc, protoAt_ackTable hs, hh, List.find?_cons, hw]
  rfl

/-- The line leaves its wait through the ACK, and its part of the release has ended (R265, R276). -/
theorem raiseOnce_raising (hs : s.slots = [ackTable]) (hc : clineAt s 0 line = raising line) :
    (raiseOnce 0 0 line heldAck s).stores = dropSent 0 line s.stores := by
  have hw : wordOf ackTable.clus (raising line).state heldAck.ev = some (wGo 0) := ack_word
  have hd : (wGo 0).defer = false := rfl
  have hst : (clusterApply (wGo 0) heldAck.ev heldAck.bytes heldAck.flt heldAck.writer (raising line)).1.state = 0 := rfl
  have hended : (heldAck.ev == 8 && waitState ackTable (raising line).state && !waitState ackTable 0) = true :=
    show (heldAck.ev == 8 && waitState ackTable 2 && !waitState ackTable 0) = true by decide
  simp only [raiseOnce, hc, protoAt_ackTable hs, hw, hd, hst, hended, if_true, postAll_eq, Bool.false_eq_true, if_false]
  rfl

/-- The copy goes under INV, the held ACK is raised, and what its cluster had sent is dropped (R263, R276). -/
theorem dropCopy_drops_sent (hs : s.slots = [ackTable]) (hc : clineAt s 0 line = holdingLine line) :
    (dropCopy 0 0 line s).stores.Sublist (dropSent 0 line s.stores) := by
  rw [dropCopy_holding hs hc, reraise_invalidated (s := putCline s (invalidated line)) hs (clineAt_putCline rfl rfl)]
  obtain ⟨cs, ms, ps, es, hps, he⟩ := reraise_clusterWork 0 0 line 63
    (raiseOnce 0 0 line heldAck (putCline (putCline s (invalidated line)) (raising line)))
  rw [he]
  rwa [raiseOnce_raising (by exact hs) (clineAt_putCline rfl rfl)] at hps

/-- Cluster 0 leaves the vector of a line's region, and holds a copy of the region's second line. -/
theorem dropLeft_drops_sent (hr : s.ranges = State.reset.ranges) (hsp : s.spid = 0) (hs : s.slots = [ackTable]) (ha : a < 2 ^ 34)
    (hc : s.clines = [holdingLine (8 * a + 1)]) :
    (dropLeft (8 * a) 1 s).stores.Sublist (dropSent 0 (8 * a + 1) s.stores) := by
  have hgone : (List.range 16).filter (fun k => (1 : BitVec 16).getLsbD k) = [0] := by decide
  have hin : s.clines.filter (fun c => c.cl == 0 && c.line / 8 == 8 * a / 8 && c.line != 8 * a) = [holdingLine (8 * a + 1)] := by
    have h1 : (8 * a + 1) / 8 = 8 * a / 8 := by omega
    simp [hc, holdingLine, CLine.fresh, h1]
  have hline : clineAt s 0 (8 * a + 1) = holdingLine (8 * a + 1) := by
    simp [clineAt, hc, holdingLine, CLine.fresh]
  have hz : slotOfLine s 0 (8 * a + 1) 0 = 0 := slotOfLine_zero hr hsp (by omega) 0
  have hd : dropLeft (8 * a) 1 s = dropCopy (slotOfLine s 0 (8 * a + 1) 0) 0 (8 * a + 1) s := by
    simp only [dropLeft, hgone, dropNeighbours, List.foldl_cons, List.foldl_nil, hin]
    rfl
  rw [hd, hz]
  exact dropCopy_drops_sent hs hline

/-- A word that neither writes nor sends takes of the stored bytes only what goes with the copies of those that leave the vector. -/
theorem homeApply_left {w : ActionWord} {m : Msg} (hw : w.write = false) (hm : w.msg = .none) (hr : w.rdm = false)
    (hf : remoteLine s m.line = false) : ∃ r, (homeApply w m s).1.stores =
      (dropLeft m.line ((regionAt s m.line).vec &&& ~~~shvApply w.shv (regionAt s m.line).vec (reqBit m.req)) (putRegion s r)).stores := by
  unfold homeApply
  simp only [hw, hm, hr, hf, Bool.false_and, Bool.false_eq_true, if_false, decide_true, Bool.true_or, if_true, List.foldl_nil]
  exact ⟨_, rfl⟩

/-- EVICT_DIR at the first line of the region drops what the cluster had sent of the second. -/
theorem evictDir_crowdedSet (ha : a < 2 ^ 34) : (evictDir 0 (sharedBy0 a) (crowdedSet a) (8 * a)).stores = [] := by
  have hst : homeState 0 (hlineAt (crowdedSet a) (8 * a)) = 0 := rfl
  let s0 := putRegion (crowdedSet a) { sharedBy0 a with going := true }
  have hword : evictDir 0 (sharedBy0 a) (crowdedSet a) (8 * a) =
      (homeApply { ActionWord.nil with shv := 4 } (ownMsg (8 * a)) s0).1 := by
    simp only [evictDir, protoAt_ackTable (s := crowdedSet a) rfl, hst, evictDir_word]
    exact homeWord_uncounted rfl ..
  have hnear : remoteLine s0 (8 * a) = false := remoteLine_zero rfl (by omega)
  have hvec : (regionAt s0 (8 * a)).vec = 1 := by
    simp [s0, regionAt, putRegion, sharedBy0]
  obtain ⟨r, hr⟩ := homeApply_left (m := ownMsg (8 * a)) (w := { ActionWord.nil with shv := 4 }) rfl rfl rfl hnear
  have hleft := dropLeft_drops_sent (s := putRegion s0 r) rfl rfl rfl ha rfl
  have hnone : dropSent 0 (8 * a + 1) (putRegion s0 r).stores = [] := by
    show dropSent 0 (8 * a + 1) [sentByte (8 * a + 1)] = []
    simp [dropSent, sentByte]
  rw [hword, hr]
  have hone : (regionAt s0 (8 * a)).vec &&& ~~~shvApply 4 (regionAt s0 (8 * a)).vec (reqBit 18) = 1 := by
    rw [hvec]
    decide
  rw [hnone] at hleft
  exact hone.symm ▸ List.sublist_nil.mp hleft

theorem displaceRegion_crowdedSet (ha : a < 2 ^ 34) : (displaceRegion 0 a (crowdedSet a)).stores = [] := by
  have hr : regionAt (crowdedSet a) (8 * a) = sharedBy0 a := by
    simp [regionAt, crowdedSet, List.replicate, sharedBy0]
  have h := displaceRegion_stores 0 a (crowdedSet a)
  rw [hr, evictDir_crowdedSet ha] at h
  exact List.sublist_nil.mp h

/-- A region of the same set needs a way: the other one is displaced. -/
theorem makeRoom_crowdedSet (ha : a < 2 ^ 34) (hne : a ≠ b) (hsl : sliceIndex (512 * a) = sliceIndex (512 * b))
    (hset : Config.dirSet a % 2048 = Config.dirSet b % 2048) :
    makeRoom b (crowdedSet a) = makeRoomN b 12 (displaceRegion 0 a (crowdedSet a)) := by
  have hw : waysOf (crowdedSet a) b = List.replicate 13 (sharedBy0 a) := by
    refine List.filter_eq_self.mpr fun r hr => ?_
    obtain rfl := List.eq_of_mem_replicate hr
    simp [sharedBy0, hsl, hset]
  have hd : displaceable (crowdedSet a) b = List.replicate 13 (sharedBy0 a) := by
    unfold displaceable
    rw [hw]
    refine List.filter_eq_self.mpr fun r hr => ?_
    obtain rfl := List.eq_of_mem_replicate hr
    simp [sharedBy0, hne, regionBusy, crowdedSet, State.reset]
  have hp (k : Nat) : (List.replicate 13 (sharedBy0 a))[k % 13]? = some (sharedBy0 a) :=
    List.getElem?_replicate_of_lt (Nat.mod_lt _ (by decide))
  have hz : slotOfLine (crowdedSet a) 0 (8 * a) 0 = 0 := slotOfLine_zero rfl rfl (by omega) 0
  have hn : (crowdedSet a).regions.length = 13 := List.length_replicate
  rw [makeRoom, hn, if_neg (by decide), makeRoomN, hw, if_neg (by simp), hd]
  simp only [List.length_replicate, hp, sharedBy0_region, hz]

end

/-- Refutes O44: its last clause says that making room in the directory leaves the stored bytes. Whatever places regions in sets, two
regions of a module share one; where it is full of entries of the first, room for the second displaces it, the copy of its second line
goes, the ACK that the line holds ends its part of a release, and the byte that its cluster had sent goes with it. -/
theorem not_homeMessages : ¬ Obligations.HomeMessages := by
  unfold Obligations.HomeMessages
  rintro ⟨-, -, hroom⟩
  obtain ⟨a, b, hne, ha, hsl, hset⟩ := exists_same_set
  obtain ⟨-, -, -, -, -, hst⟩ := hroom b (crowdedSet a)
  have hsub := makeRoomN_stores b 12 (displaceRegion 0 a (crowdedSet a))
  rw [← makeRoom_crowdedSet ha hne hsl hset, displaceRegion_crowdedSet ha, hst] at hsub
  exact absurd (List.sublist_nil.mp hsub) (by simp [crowdedSet])

end Sys2Proof.DisplacedRegions
end

section
/-! PROOFS. The range table, changed and read, and a protocol image loaded (O34). -/

namespace Sys2Proof.RangeTable

open Sys2Proof.Machine Sys2Proof.Laws Sys2Proof.ScalarFlow Sys2Proof.CoherenceLines Sys2Proof.ReelLaunch

-- ## Supervisor-only instructions in supervisor mode (R42)

section
variable {i : Instr} {g : Guard} {rs ws : List (BitVec 5)} {work : M Unit} {s s1 : State}

/-- In supervisor mode the check of the mode passes. -/
theorem privOp_supervisor (hp : priv s.strand = true) : privOp i g rs ws work s = plainOp g rs ws [] work s :=
  scalarOp_checked (by simp [supervisorOnly, hp])

theorem privOp_done (h : Ready g rs ws [] s) (hp : priv s.strand = true) (hw : work s = .ok () s1) :
    privOp i g rs ws work s = .next (advance s1) :=
  (privOp_supervisor hp).trans (plainOp_ready h hw)

end

-- ## The configuration lock (R257)

/-- The lock is the strand's for the taking, or it holds it. -/
def LockFree (s : State) : Prop := s.lock = none ∧ s.lockq = [] ∨ s.lock = some (me s)

/-- The strand holds the lock. -/
def locked (s : State) : State := { s with lock := some (me s) }

/-- Nobody holds the lock. -/
def unlocked (s : State) : State := { s with lock := none }

section
variable {α : Type} {work : M α} {s s1 : State}

theorem takeLock_free (h : LockFree s) : takeLock s = .ok () (locked s) := by
  obtain ⟨hl, hq⟩ | hl := h
  · simp [takeLock, locked, hl, hq]
  · have hs : locked s = s := congrArg (fun l => { s with lock := l }) hl.symm
    rw [hs]
    exact if_pos hl

theorem underLock_ok {x : α} (h : LockFree s) (hw : work (locked s) = .ok x s1) : underLock work s = .ok x (unlocked s1) := by
  simp only [underLock, takeLock_free h, hw]
  rfl

theorem underLock_traps {c : Cause} {v : Word} (h : LockFree s) (hw : work (locked s) = .error (.trap c v) s1) :
    underLock work s = .error (.trap c v) (unlocked s1) := by
  simp only [underLock, takeLock_free h, hw]
  rfl

end

-- ## The refusals of a change (R256, R257)

/-- The extent of the entry a `rangeset` writes meets that of another valid entry. -/
theorem overlaps_iff {s : State} {k lo hi slot : Nat} {v hc : Bool} : overlaps s k (newRange lo hi slot v hc) = true ↔
    v = true ∧ ∃ j, ∃ h : j < 64, j ≠ k ∧ s.ranges[j].v = true ∧ s.ranges[j].base < hi ∧ lo < s.ranges[j].limit := by
  cases v
  · simp [overlaps, newRange]
  · have hget (j : Nat) (e : RangeEntry) : (e, j) ∈ s.ranges.toList.zipIdx ↔ ∃ h : j < 64, s.ranges[j] = e := by
      rw [List.mem_zipIdx_iff_getElem?]
      simp [Vector.getElem?_eq_some_iff]
    simp only [overlaps, newRange, if_true, Bool.true_and, List.any_eq_true, Prod.exists, true_and, Bool.and_eq_true, bne_iff_ne,
      decide_eq_true_eq, hget]
    constructor
    · rintro ⟨e, j, ⟨hj, he⟩, ⟨⟨hk, hv⟩, hb⟩, hl⟩
      exact ⟨j, hj, hk, he ▸ hv, he ▸ hb, he ▸ hl⟩
    · rintro ⟨j, hj, hk, hv, hb, hl⟩
      exact ⟨_, j, ⟨hj, rfl⟩, ⟨⟨hk, hv⟩, hb⟩, hl⟩

/-- The slot of a new entry holds no protocol. -/
def SlotEmpty (s : State) (slot : Nat) (v : Bool) : Prop := v = true ∧ 6 ≤ slot ∧ (protoAt s slot).loaded = false

theorem slotEmpty_iff {s : State} {lo hi slot : Nat} {v hc : Bool} :
    ((newRange lo hi slot v hc).v && 6 ≤ (newRange lo hi slot v hc).slot &&
      !(protoAt s (newRange lo hi slot v hc).slot).loaded) = true ↔ SlotEmpty s slot v := by
  cases v <;> simp [newRange, SlotEmpty]

/-- The operands of a legal change (R256). -/
structure LegalRange (k lo hi : Nat) (v : Bool) : Prop where
  index : k < 64
  extent : v = true → lo < 2 ^ 43 ∧ hi ≤ 2 ^ 43 ∧ lo < hi ∧ lo % 65536 = 0 ∧ hi % 65536 = 0

theorem LegalRange.extent_passes {k lo hi : Nat} {v : Bool} (h : LegalRange k lo hi v) :
    (v && (lo / 2 ^ 43 != 0 || hi / 2 ^ 44 != 0 || decide (hi ≤ lo) || decide (2 ^ 43 < hi))) = false ∧
      (v && lo % 65536 != 0) = false ∧ (v && hi % 65536 != 0) = false := by
  cases hv : v
  · exact ⟨rfl, rfl, rfl⟩
  · obtain ⟨hlo, hhi, hlt, hl0, hh0⟩ := h.extent hv
    have h44 : hi / 2 ^ 44 = 0 := Nat.div_eq_of_lt (by omega)
    rw [Nat.div_eq_of_lt hlo, h44, hl0, hh0, decide_eq_false (Nat.not_le.mpr hlt), decide_eq_false (Nat.not_lt.mpr hhi)]
    exact ⟨rfl, rfl, rfl⟩

theorem rangesetCheck_passes {i : Instr} {k lo hi : Nat} {v : Bool} {s : State} (h : LegalRange k lo hi v) :
    rangesetCheck i k lo hi v s = .ok () s := by
  have hk : (k / 2 ^ 6 != 0) = false := by
    rw [Nat.div_eq_of_lt (b := 2 ^ 6) h.index]
    rfl
  obtain ⟨h1, h2, h3⟩ := h.extent_passes
  refine (bind_ok (m := illegalIf _ _) (trapIf_false hk)).trans <| (bind_ok (m := illegalIf _ _) (trapIf_false h1)).trans <|
    (bind_ok (m := trapIf _ _ _) (trapIf_false h2)).trans (trapIf_false h3)

-- ## A change with nothing held (R257, R258)

section
variable {xs : List (Nat × Nat)} {s : State}

/-- Messages of other lines stand as they are. -/
theorem recastAll_others {here : Nat → Bool} {l : List Msg} (h : ∀ m ∈ l, here m.line = false) (s : State) :
    recastAll here l s = (l, s) := by
  induction l with
  | nil => rfl
  | cons m l ih =>
    have hm := h m (List.mem_cons_self ..)
    simp only [recastAll, hm, Bool.false_and, Bool.false_eq_true, if_false, ih fun x hx => h x (List.mem_cons_of_mem _ hx)]

/-- A line's start anew: no request is queued at it (R258). -/
def startAnew (here : Nat → Bool) (s : State) (l : Nat) : State :=
  let x := recastAll here (hlineAt s l).queue s
  putHline x.2 { hlineAt x.2 l with state := 0, queue := x.1 }

/-- No line of the extents has a request queued. -/
def NoneQueued (here : Nat → Bool) (s : State) : Prop := ∀ h ∈ s.hlines, here h.line = true → h.queue = []

/-- Only lines at their home change, and none gets a request. -/
theorem startAnew_noneQueued {here : Nat → Bool} {l : Nat} (hl : here l = true) (h : NoneQueued here s) :
    NoneQueued here (startAnew here s l) ∧ ∃ hs, startAnew here s l = { s with hlines := hs } := by
  have hq : (hlineAt s l).queue = [] := by
    refine hlineAt_induction (P := fun k => here k.line = true → k.queue = []) (fun _ => rfl) h ?_
    rwa [hlineAt_line]
  unfold startAnew
  rw [hq]
  refine ⟨fun x hx hh => ?_, _, rfl⟩
  obtain rfl | hx := mem_putHline hx
  · rfl
  · exact h x hx hh

theorem startAnew_all {here : Nat → Bool} {ls : List Nat} (hl : ∀ l ∈ ls, here l = true) (h : NoneQueued here s) :
    ∃ hs, ls.foldl (startAnew here) s = { s with hlines := hs } := by
  induction ls generalizing s with
  | nil => exact ⟨s.hlines, rfl⟩
  | cons l ls ih =>
    obtain ⟨h1, hs, he⟩ := startAnew_noneQueued (hl l (List.mem_cons_self ..)) h
    obtain ⟨hs', he'⟩ := ih (fun x hx => hl x (List.mem_cons_of_mem _ hx)) h1
    exact ⟨hs', by rw [List.foldl_cons, he', he]⟩

theorem freshLines_eq (xs : List (Nat × Nat)) (s : State) : freshLines xs s =
    let s1 := ((s.hlines.map fun h => h.line).filter (lineIn s xs)).foldl (startAnew (lineIn s xs)) s
    let y := recastAll (lineIn s xs) s1.net { s1 with net := [] }
    { y.2 with net := y.1 ++ y.2.net } := rfl

/-- Where no line of the extents is queued at and no message is of one, only lines at their home start anew. -/
theorem freshLines_quiet (hq : NoneQueued (lineIn s xs) s) (hn : ∀ m ∈ s.net, lineIn s xs m.line = false) :
    ∃ hs, freshLines xs s = { s with hlines := hs } := by
  obtain ⟨hs, h⟩ := startAnew_all (ls := (s.hlines.map fun h => h.line).filter (lineIn s xs))
    (fun l hl => (List.mem_filter.mp hl).2) hq
  refine ⟨hs, ?_⟩
  rw [freshLines_eq, h]
  dsimp only
  rw [recastAll_others hn]
  simp

/-- No line of the extents is held: none has a request queued, and no message is of one (R257). -/
theorem quiet_of_notHeld (h : linesHeld s xs = false) :
    NoneQueued (lineIn s xs) s ∧ ∀ m ∈ s.net, lineIn s xs m.line = false := by
  simp only [linesHeld, Bool.or_eq_false_iff] at h
  obtain ⟨⟨⟨-, hh⟩, -⟩, hn⟩ := h
  refine ⟨fun x hx hl => ?_, fun m hm => Bool.eq_false_iff.mpr (List.any_eq_false.mp hn m hm)⟩
  have := List.any_eq_false.mp hh x hx
  simp only [hl, Bool.and_true, Bool.or_eq_true, not_or] at this
  simpa using this.2

/-- With no message under way the engine has nothing to deliver. -/
theorem settle_noMsg (h : s.net = []) : settle s = s := by
  unfold settle
  split
  · simp only [settleFuel, settleN, h]
  · rfl

/-- With no line at its home and no message nothing starts anew. -/
theorem freshLines_nothing (hh : s.hlines = []) (hn : s.net = []) (xs : List (Nat × Nat)) : freshLines xs s = s := by
  rw [freshLines_eq, hh]
  simp only [List.map_nil, List.filter_nil, List.foldl_nil, hn, recastAll, List.append_nil]
  exact congrArg (fun l => { s with net := l }) hn.symm

end

-- ## The plain change and the change of a live range (R257, R258)

section
variable {k : Nat} {r : RangeEntry} {s : State}

/-- A plain change is refused while a line is held. -/
theorem rangePlain_held (h : linesHeld s [extentOf (rangeAt s k), extentOf r] = true) : rangePlain k r s = .ok 3 s := if_pos h

/-- With none held the entry is written, and only lines at their home start anew. -/
theorem rangePlain_done (h : linesHeld s [extentOf (rangeAt s k), extentOf r] = false) :
    ∃ hs, rangePlain k r s = .ok 0 { putRange k r s with hlines := hs } := by
  obtain ⟨hq, hn⟩ := quiet_of_notHeld h
  obtain ⟨hs, hf⟩ := freshLines_quiet (s := putRange k r s) hq hn
  exact ⟨hs, (if_neg (Bool.eq_false_iff.mp h)).trans (congrArg _ hf)⟩

/-- No protocol activity: no change under way, no message, no line held, queued at or shared. -/
structure NoActivity (s : State) : Prop where
  gate : s.gate = []
  net : s.net = []
  clines : s.clines = []
  hlines : s.hlines = []
  regions : s.regions = []

/-- A change under way with no protocol activity: the gate is set and the old entry pending. -/
def underChange (k : Nat) (xs : List (Nat × Nat)) (s : State) : State :=
  { putRange k { rangeAt s k with pend := true } s with gate := xs }

/-- No change is under way. -/
def opened (s : State) : State := { s with gate := [] }

theorem ungate_nothing (hh : s.hlines = []) (hn : s.net = []) (xs : List (Nat × Nat)) : ungate xs s = opened s := by
  unfold ungate
  extract_lets s1
  have h1 : s1.hlines = [] := hh
  rw [h1]
  exact settle_noMsg hn

/-- The last step of a change: the entry is written and the gate opened. -/
theorem opened_underChange (h : s.gate = []) (xs : List (Nat × Nat)) : opened (putRange k r (underChange k xs s)) = putRange k r s := by
  calc opened (putRange k r (underChange k xs s)) = { putRange k r s with gate := [] } := by
        simp [opened, putRange, underChange]
    _ = putRange k r s := congrArg (fun l => { putRange k r s with gate := l }) h.symm

/-- The change of a live range with no protocol activity goes through at once. -/
theorem rangeLive_idle (h : NoActivity s) : rangeLive k r s = .ok 0 (putRange k r s) := by
  unfold rangeLive
  extract_lets old xs t0 t t1 t2 t3
  have ht : t = underChange k xs s := if_pos (by rw [h.gate]; rfl)
  have hset : settle (underChange k xs s) = underChange k xs s := settle_noMsg (s := underChange k xs s) h.net
  have htr : trackedLines (underChange k xs s) xs = [] := by
    simp [trackedLines, underChange, putRange, h.regions]
  have hro : roLines (underChange k xs s) xs = [] := by
    simp [roLines, underChange, putRange, h.clines]
  have ht1 : t1 = underChange k xs s := (congrArg settle ht).trans hset
  have ht2 : t2 = underChange k xs s := by
    simp only [t2, ht1, htr, List.foldl_nil]
  have ht3 : t3 = underChange k xs s := by
    simp only [t3, ht2, hro, List.foldl_nil, hset]
  have hbusy : linesBusy (underChange k xs s) xs = false := by
    simp [linesBusy, underChange, putRange, h.hlines, h.net]
  have hdone : ungate xs (freshLines xs (putRange k r (underChange k xs s))) = putRange k r s := by
    rw [freshLines_nothing (s := putRange k r (underChange k xs s)) h.hlines h.net,
      ungate_nothing (s := putRange k r (underChange k xs s)) h.hlines h.net, opened_underChange h.gate]
  rw [ht1, ht3, hbusy, htr, hro, hdone]
  rfl

end

-- ## The instructions

section
variable {i : Instr} {g : Guard} {d a b c : BitVec 5} {slot : BitVec 3} {v hc : Bool} {change_ : Nat → RangeEntry → M Nat} {s s1 : State}

/-- What a change of the range table does under the lock. -/
def changeWork (k : Nat) (r : RangeEntry) (change_ : Nat → RangeEntry → M Nat) : M Nat := do
  let no ← ask fun s => rangeRefusal s k r
  if no ≠ 0 then pure no else change_ k r

/-- A legal change in supervisor mode with an empty VQ and a free lock ends with the answer of its work. -/
theorem rangesetOp_answers {n : Nat} (h : Ready g [a, b, c] [d] [] s) (hp : priv s.strand = true) (hq : s.strand.vq = [])
    (hl : LockFree s) (hv : LegalRange (getS s.strand a).toNat (getS s.strand b).toNat (getS s.strand c).toNat v)
    (hw : changeWork (getS s.strand a).toNat (newRange (getS s.strand b).toNat (getS s.strand c).toNat slot.toNat v hc) change_
      (locked s) = .ok n s1) :
    rangesetOp i g d a b c slot v hc change_ s = .next (advance (mapStrand (fun t => setS t d (word n)) (unlocked s1))) := by
  refine privOp_done h hp ?_
  refine (bind_ok (m := ask _) rfl).trans ?_
  refine (bind_ok (m := rangesetCheck _ _ _ _ _) (rangesetCheck_passes hv)).trans ?_
  refine (bind_ok (m := waitIf _ _) (waitIf_false (by rw [hq]; rfl))).trans ?_
  exact (bind_ok (m := underLock _) (underLock_ok hl hw)).trans rfl

/-- A refusal answers its status and changes nothing (R257). -/
theorem changeWork_refuses {k n : Nat} {r : RangeEntry} (h : rangeRefusal s k r = n) (hn : n ≠ 0) : changeWork k r change_ s = .ok n s := by
  subst h
  refine (bind_ok (m := ask _) rfl).trans ?_
  rw [if_pos hn]
  rfl

theorem changeWork_goes {k : Nat} {r : RangeEntry} (h : rangeRefusal s k r = 0) : changeWork k r change_ s = change_ k r s := by
  refine (bind_ok (m := ask _) rfl).trans ?_
  rw [if_neg (not_not.mpr h)]

theorem successor_setS (t : Strand) (d : BitVec 5) (v : Word) : successor (setS t d v) = successor t := by
  unfold setS
  split <;> rfl

/-- What is left of a change that answers 0 in `u`: the entry in the table, the lock given back, the status in sd. -/
theorem answered_done {k : Nat} {r : RangeEntry} {hs : List HLine} :
    let t := advance (mapStrand (fun t => setS t d 0) (unlocked { putRange k r (locked s) with hlines := hs }))
    t.ranges = s.ranges.setIfInBounds k r ∧ t.lock = none ∧ t.strand = goTo (successor s.strand) (setS s.strand d 0) ∧ t.mem = s.mem ∧
      t.clines = s.clines ∧ t.stores = s.stores :=
  ⟨rfl, rfl, congrArg (fun p => goTo p (setS s.strand d 0)) (successor_setS s.strand d 0), rfl, rfl, rfl⟩

end

-- ## Entries and slots read (R259)

section
variable {g : Guard} {d a : BitVec 5} {s : State}

/-- A legal index names an entry, or with bit 8 a slot. -/
theorem rangerd_reads {n : Nat} (h : Ready g [a] [d] [] s) (hp : priv s.strand = true)
    (hl : (if bit (getS s.strand a).toNat 8 then decide ((getS s.strand a).toNat % 256 ≥ 8) || (getS s.strand a).toNat / 512 != 0
      else (getS s.strand a).toNat / 64 != 0) = false)
    (hn : (if bit (getS s.strand a).toNat 8 then slotValue s ((getS s.strand a).toNat % 8)
      else rangeValue (rangeAt s ((getS s.strand a).toNat % 64))) = n) :
    exec (.rangerd g d a) s = .next (doneWith (fun t => setS t d (word n)) s) := by
  subst hn
  refine privOp_done h hp ?_
  refine (bind_ok (m := ask _) rfl).trans ?_
  exact (bind_ok (m := illegalIf _ _) (trapIf_false hl)).trans rfl

theorem rangerd_entry (h : Ready g [a] [d] [] s) (hp : priv s.strand = true) (hk : (getS s.strand a).toNat < 64) :
    exec (.rangerd g d a) s = .next (doneWith (fun t => setS t d (word (rangeValue (rangeAt s (getS s.strand a).toNat)))) s) := by
  have h8 : bit (getS s.strand a).toNat 8 = false := by
    simp only [bit]
    rw [Nat.div_eq_of_lt (b := 2 ^ 8) (by omega)]
    rfl
  refine rangerd_reads h hp ?_ ?_
  · rw [h8, Nat.div_eq_of_lt hk]
    rfl
  · rw [h8, Nat.mod_eq_of_lt hk]
    rfl

theorem rangerd_slot (h : Ready g [a] [d] [] s) (hp : priv s.strand = true) (hk : 256 ≤ (getS s.strand a).toNat)
    (hk' : (getS s.strand a).toNat < 264) :
    exec (.rangerd g d a) s = .next (doneWith (fun t => setS t d (word (slotValue s ((getS s.strand a).toNat - 256)))) s) := by
  have h8 : bit (getS s.strand a).toNat 8 = true := by
    have h1 : (getS s.strand a).toNat / 2 ^ 8 = 1 := by omega
    rw [bit, h1]
    rfl
  have hm : (getS s.strand a).toNat % 8 = (getS s.strand a).toNat - 256 := by omega
  refine rangerd_reads h hp ?_ ?_
  · have h256 : ¬ (getS s.strand a).toNat % 256 ≥ 8 := by omega
    rw [h8, Nat.div_eq_of_lt (b := 512) (by omega), if_pos rfl, decide_eq_false h256]
    rfl
  · rw [h8, hm]
    rfl

/-- The entries that name a slot, counted. -/
theorem slotValue_eq (s : State) (slot : Nat) : slotValue s slot = b2n (protoAt s slot).loaded +
    (s.ranges.toList.countP fun r => (r.v || r.pend) && r.slot == slot) * 2 + (protoAt s slot).id * 2 ^ 16 := by
  rw [List.countP_eq_length_filter]
  rfl

end

-- ## A protocol image is loaded (R265, R266)

section
variable {g : Guard} {d a b : BitVec 5} {s s1 : State} {x : Word} {slot id : Nat} {ws : List Nat} {w : Who}

/-- The number that an image's words make. -/
def imageOf (ws : List Nat) : Nat := ws.foldr (fun v n => v + 2 ^ 64 * n) 0

/-- What `prtload` does under the lock (R266). -/
def loadWork (id : Nat) (w : Who) (x : Word) (slot : Nat) : M Nat := do
  trapIf (decide (slot < 6)) .protocolCheck 9
  let used ← ask fun s => usersOf s slot
  trapIf (decide (0 < used)) .protocolInUse (word slot)
  let ws ← eachOnce id 392 fun k => loadVa id w (x + word (8 * k)) 8
  let img := ws.foldr (fun v acc => v + 2 ^ 64 * acc) 0
  trapIf (checkImage img).isSome .protocolCheck (word ((checkImage img).getD 0))
  change fun s => { s with slots := setNth s.slots slot (protoOfImage img) }
  pure (protoOfImage img).id

/-- A slot below 6 is not for loading. -/
theorem loadWork_low (h : slot < 6) : loadWork id w x slot s = .error (.trap .protocolCheck 9) s :=
  bind_error (m := trapIf _ _ _) (if_pos (decide_eq_true h))

theorem loadWork_used (h : 6 ≤ slot) (hu : usersOf s slot ≠ 0) :
    loadWork id w x slot s = .error (.trap .protocolInUse (word slot)) s := by
  refine (bind_ok (m := trapIf _ _ _) (trapIf_false (decide_eq_false (Nat.not_lt.mpr h)))).trans ?_
  refine (bind_ok (m := ask _) rfl).trans ?_
  exact bind_error (m := trapIf _ _ _) (if_pos (decide_eq_true (Nat.pos_of_ne_zero hu)))

/-- From a slot that no entry uses on, the checks of the image that has been read decide. -/
theorem loadWork_read (h : 6 ≤ slot) (hu : usersOf s slot = 0)
    (hr : eachOnce id 392 (fun k => loadVa id w (x + word (8 * k)) 8) s = .ok ws s1) :
    (∀ v, checkImage (imageOf ws) = some v → loadWork id w x slot s = .error (.trap .protocolCheck (word v)) s1) ∧
      (checkImage (imageOf ws) = none → loadWork id w x slot s =
        .ok (imgField (imageOf ws) 8 4) { s1 with slots := s1.slots.set slot (protoOfImage (imageOf ws)) }) := by
  have hread : loadWork id w x slot s = (do
      trapIf (checkImage (imageOf ws)).isSome .protocolCheck (word ((checkImage (imageOf ws)).getD 0))
      change fun s => { s with slots := setNth s.slots slot (protoOfImage (imageOf ws)) }
      pure (protoOfImage (imageOf ws)).id : M Nat) s1 := by
    refine (bind_ok (m := trapIf _ _ _) (trapIf_false (decide_eq_false (Nat.not_lt.mpr h)))).trans ?_
    refine (bind_ok (m := ask _) rfl).trans ?_
    refine (bind_ok (m := trapIf _ _ _) (trapIf_false (by rw [hu]; rfl))).trans ?_
    exact bind_ok (m := eachOnce _ _ _) hr
  refine ⟨fun v hv => hread.trans ?_, fun hv => hread.trans ?_⟩
  · rw [hv]
    exact bind_error (m := trapIf _ _ _) (if_pos rfl)
  · rw [hv]
    exact (bind_ok (m := trapIf _ _ _) (if_neg Bool.false_ne_true)).trans rfl

/-- A `prtload` of an aligned image and a slot that exists does this work under the lock. -/
theorem prtload_works (hp : priv s.strand = true) (hf : NoFence s) (hx : (getS s.strand a).toNat % 64 = 0)
    (hs : (getS s.strand b).toNat < 8) : exec (.prtload g d a b) s = plainOp g [a, b] [d] []
      (underLock (loadWork (me s) (whoAmI s) (getS s.strand a) (getS s.strand b).toNat) >>= fun id => wrS d (word id)) s := by
  refine (privOp_supervisor hp).trans (Bankrole.plainOp_congr ?_)
  refine (bind_ok (m := fenceWait) (fenceWait_passes hf)).trans ?_
  refine (bind_ok (m := ask _) rfl).trans <| (bind_ok (m := ask _) rfl).trans ?_
  refine (bind_ok (m := illegalIf _ _) (trapIf_false (by rw [Nat.div_eq_of_lt hs]; rfl))).trans ?_
  refine (bind_ok (m := trapIf _ _ _) (trapIf_false (by rw [hx]; rfl))).trans ?_
  exact (bind_ok (m := ask _) rfl).trans (bind_ok (m := ask _) rfl)

/-- The lock is given back where the work traps. -/
theorem prtload_traps {c : Cause} {v : Word} (h : Ready g [a, b] [d] [] s) (hp : priv s.strand = true) (hf : NoFence s)
    (hl : LockFree s) (hx : (getS s.strand a).toNat % 64 = 0) (hs : (getS s.strand b).toNat < 8) (hst : s1.strand = s.strand)
    (hw : loadWork (me s) (whoAmI s) (getS s.strand a) (getS s.strand b).toNat (locked s) = .error (.trap c v) s1) :
    exec (.prtload g d a b) s = .next (raiseScalar c v s.strand.pc (unlocked s1)) := by
  have hst : (unlocked s1).strand = s.strand := hst
  rw [prtload_works hp hf hx hs, Privilege.plainOp_traps h (bind_error (underLock_traps hl hw)), raiseScalar, hst]

/-- The slot's protocol is the image's, and sd its ID. -/
theorem prtload_loads (h : Ready g [a, b] [d] [] s) (hp : priv s.strand = true) (hf : NoFence s) (hl : LockFree s)
    (hx : (getS s.strand a).toNat % 64 = 0) (hs : (getS s.strand b).toNat < 8)
    (hw : loadWork (me s) (whoAmI s) (getS s.strand a) (getS s.strand b).toNat (locked s) = .ok id s1) :
    exec (.prtload g d a b) s = .next (advance (mapStrand (fun t => setS t d (word id)) (unlocked s1))) := by
  rw [prtload_works hp hf hx hs]
  exact plainOp_ready h ((bind_ok (underLock_ok hl hw)).trans rfl)

end

/-- Settles O34: a change by its refusals, then by what is held or under way; a read by its index; a load by its slot, then by the
checks of the image that it reads. -/
theorem rangeAndProtocolResults : Obligations.RangeAndProtocolResults := by
  unfold Obligations.RangeAndProtocolResults
  constructor
  · intro g d a b c slot v hc s hp k lo hi r clash empty answer done
    refine ⟨fun h hq hl hk hv i hi' => ?_, fun h => ⟨fun hk => rangerd_entry h hp hk, fun hk hk' => ?_⟩⟩
    · have hlegal : LegalRange k lo hi v := ⟨hk, hv⟩
      have hclash : overlaps s k r = true ↔ clash := overlaps_iff
      have hempty : (r.v && 6 ≤ r.slot && !(protoAt s r.slot).loaded) = true ↔ empty := slotEmpty_iff
      have refused {n : Nat} (hn : rangeRefusal s k r = n) (h0 : n ≠ 0) : answer i n := by
        obtain rfl | rfl := hi'
        · exact rangesetOp_answers (s1 := locked s) h hp hq hl hlegal (changeWork_refuses (s := locked s) hn h0)
        · exact rangesetOp_answers (s1 := locked s) h hp hq hl hlegal (changeWork_refuses (s := locked s) hn h0)
      have passed (h1 : ¬ clash) (h2 : ¬ empty) : rangeRefusal s k r = 0 :=
        (if_neg (mt hclash.mp h1)).trans (if_neg (mt hempty.mp h2))
      refine ⟨fun h1 => refused (if_pos (hclash.mpr h1)) one_ne_zero,
        fun h1 h2 => refused ((if_neg (mt hclash.mp h1)).trans (if_pos (hempty.mpr h2))) two_ne_zero, ?_, ?_⟩
      · rintro h1 h2 rfl
        have goes := changeWork_goes (s := locked s) (change_ := rangePlain) (passed h1 h2)
        refine ⟨fun hh => rangesetOp_answers (s1 := locked s) h hp hq hl hlegal (goes.trans (rangePlain_held hh)),
          fun hh => ?_⟩
        obtain ⟨hs, he⟩ := rangePlain_done (s := locked s) (r := r) hh
        exact ⟨_, rangesetOp_answers h hp hq hl hlegal (goes.trans he), answered_done⟩
      · rintro h1 h2 rfl hg hn hcl hhl hrg
        have goes := changeWork_goes (s := locked s) (change_ := rangeLive) (passed h1 h2)
        have he := rangeLive_idle (s := locked s) (k := k) (r := r) ⟨hg, hn, hcl, hhl, hrg⟩
        exact ⟨_, rangesetOp_answers h hp hq hl hlegal (goes.trans he), answered_done (hs := s.hlines)⟩
    · rw [rangerd_slot h hp hk hk', slotValue_eq]
  · intro g d a b ws s s1 h hp hf hl x slot lock free out hx hs
    refine ⟨fun h6 => prtload_traps (s1 := locked s) h hp hf hl hx hs rfl (loadWork_low h6),
      fun h6 hu => prtload_traps (s1 := locked s) h hp hf hl hx hs rfl (loadWork_used h6 hu), fun h6 hu hr hst => ?_⟩
    intro img
    obtain ⟨hbad, hgood⟩ := loadWork_read (s := locked s) h6 hu hr
    exact ⟨fun v hv => prtload_traps h hp hf hl hx hs hst (hbad v hv), fun hv => prtload_loads h hp hf hl hx hs (hgood hv)⟩

end Sys2Proof.RangeTable
end
